-- ==== Sys2Proof/Word.lean ====
section
/-! DEFINITION. The word types, the block's index types, and the requester paths of a register access. -/

namespace Sys2Proof

abbrev Byte := BitVec 8
abbrev Word := BitVec 32
abbrev DWord := BitVec 64

/-- Core number n, 0 to 255; its region is n div 16 (R5). -/
abbrev CoreId := Fin 256
abbrev RegionId := Fin 16
/-- Partition, which is also the host tag of its transactions (R448). -/
abbrev PartId := Fin 8
/-- DMA channel of a region (R248). -/
abbrev ChanId := Fin 32
/-- Peer port (R270). -/
abbrev PortId := Fin 4
/-- Regulator: core regulators 0 to 255, the service regulator of region r at 256 + r. -/
abbrev VrId := Fin 272
/-- Thermal sensor number of R391. -/
abbrev SensorId := Fin 1060

/-- The nine requester paths of a register access (R15): the eight host tags and the side-band. -/
inductive Path where
  | host (tag : PartId)
  | side
  deriving DecidableEq, Repr

end Sys2Proof
end

