-- ==== Sys2Proof/Syntax.lean ====
section
/-! DEFINITION. The commands of the QS2 stack engine: one constructor per row of the operation table.

A command is one step of the block, "each whole and indivisible" (95_what_each_step_holds.md). Some come from outside
(a host transaction, a side-band message, a pin, a measurement that the physics of the stack supplies); the others name
an event of one of the block's own engines and carry only what identifies it, because everything else is in the state.
A command whose event cannot happen in a state changes nothing there (log entry 1). -/

namespace Sys2Proof

/-- Header flit of an inbound host transaction (Table — Host port header). The reserved bits of TAG and TID are kept. -/
structure HostHeader where
  opc  : BitVec 8
  tag  : BitVec 8
  tid  : BitVec 16
  len  : BitVec 32
  addr : BitVec 48
  deriving DecidableEq, Repr

/-- What a phase shows of a PWM period (R316, R323 to R325): its sensed inductor current in µA as its pulse starts, the rise of
that current in µA/ns, its cycle-mean current in mA, whether LXS follows LX through, and whether its sense reads full scale. -/
structure PhaseIn where
  startUA : Int
  riseUA  : Int
  meanMA  : Int
  follows : Bool
  full    : Bool
  deriving DecidableEq, Repr

/-- What a regulator samples at a PWM period boundary (R293 to R296, R316 to R325, R335): its on-die sensors, the remote sense
point and VPIL in µV, each phase over the period that ends, and its four stage temperatures in °C. -/
structure PwmInput where
  sensors  : List Nat
  remoteUV : Nat
  vpilUV   : Nat
  phases   : List PhaseIn
  stages   : List (BitVec 8)
  deriving DecidableEq, Repr

/-- An undershoot and what it meets (R330): the regulator, the on-die sensors in µV, the current of each phase at the trip and its
rise, and the picoseconds after the trip at which the sensed voltage rises above the target less half the threshold, where it
does. -/
structure Trip where
  vr       : VrId
  sensors  : List Nat
  phases   : List PhaseIn
  recovers : Option Nat
  deriving DecidableEq, Repr

/-- A burst on the pins of a column (R158): 1,024 data bytes and their 128 check bytes. -/
structure Burst where
  data   : List Byte
  checks : List Byte
  deriving DecidableEq, Repr

/-- VREF_EXT of a region as measured against the internal reference, in µV; 0 where it is absent (R380). -/
structure VrefReading where
  region : RegionId
  uv     : Nat
  deriving DecidableEq, Repr

/-- Result of TRAIN for one column or core: training step and position at which the column failed (R189), or a failed
built-in check of the core (R468 step 9). -/
inductive TrainFail where
  | column (core : CoreId) (step : Fin 6) (pos : Fin 20)
  | core   (core : CoreId)
  deriving DecidableEq, Repr

/-- Whose reading wires are meant (R408): a thermal sensor's or a telemetry channel's. -/
inductive ReadingWire where
  | sensor (sensor : SensorId)
  | channel (region : RegionId) (chan : Fin 40)
  deriving DecidableEq, Repr

/-- Status input whose minimum interval ends (R467). -/
inductive StatusPin where
  | pillarOk | pwrGood | rstN
  deriving DecidableEq, Repr

inductive Instr where
  -- M slot (R99, R106 to R111). A slot command issues that slot of the bundle at the core's CORE_NEXT.
  | mnop (core : CoreId)
  | mma (core : CoreId)
  | mout (core : CoreId)
  | mclr (core : CoreId)
  -- staged results of a core
  | mmaLanding (core : CoreId)
  | fixedResultVisible (core : CoreId)
  -- V slot (R112)
  | vnop (core : CoreId)
  | vadd (core : CoreId)
  | vsub (core : CoreId)
  | vmul (core : CoreId)
  | vfma (core : CoreId)
  | vmax (core : CoreId)
  | vmin (core : CoreId)
  | vcmp (core : CoreId)
  | vsel (core : CoreId)
  | vand (core : CoreId)
  | vor (core : CoreId)
  | vxor (core : CoreId)
  | vmov (core : CoreId)
  | vbcst (core : CoreId)
  | vget (core : CoreId)
  | vrot (core : CoreId)
  | vexp2 (core : CoreId)
  | vrcp (core : CoreId)
  | vrsq (core : CoreId)
  | vcvt (core : CoreId)
  | vrmax (core : CoreId)
  | vxadd (core : CoreId)
  | vxrd (core : CoreId)
  | vnscl (core : CoreId)
  -- L slot (R113)
  | lnop (core : CoreId)
  | ldv (core : CoreId)
  | stv (core : CoreId)
  | lds (core : CoreId)
  | sts (core : CoreId)
  | ldt (core : CoreId)
  | vld (core : CoreId)
  | vst (core : CoreId)
  | vldv (core : CoreId)
  | gst (core : CoreId)
  /-- `core` is the member that receives the group store. -/
  | groupStoreLanding (core : CoreId)
  | fence (core : CoreId)
  | pin (core : CoreId)
  | unpin (core : CoreId)
  | share (core : CoreId)
  | writeIntent (core : CoreId)
  | free (core : CoreId)
  | dbell (core : CoreId)
  -- C slot (R117)
  | cnop (core : CoreId)
  | wait (core : CoreId)
  | waitResume (core : CoreId)
  | watch (core : CoreId)
  | signal (core : CoreId)
  | signalF (core : CoreId)
  | br (core : CoreId)
  | brz (core : CoreId)
  | brnz (core : CoreId)
  | brdec (core : CoreId)
  /-- END of the C slot (R120). -/
  | endSched (core : CoreId)
  | phase (core : CoreId)
  | hint (core : CoreId)
  | sadd (core : CoreId)
  | ssub (core : CoreId)
  | smul (core : CoreId)
  | sand (core : CoreId)
  | sor (core : CoreId)
  | sxor (core : CoreId)
  | sshl (core : CoreId)
  | sshr (core : CoreId)
  | ssra (core : CoreId)
  | slt (core : CoreId)
  | sltu (core : CoreId)
  | smovhi (core : CoreId)
  -- completions of variable-latency operations: `op` is the operation's number in the core's list of those outstanding
  | loadComplete (core : CoreId) (op : Nat)
  | storeComplete (core : CoreId) (op : Nat)
  | fenceComplete (core : CoreId) (op : Nat)
  /-- `call` is the number the keeper gave the call when it took it. -/
  | pgkCallComplete (call : Nat)
  | pageCopyComplete (call : Nat)
  | sluiceHold (core : CoreId)
  | outboxRelease (core : CoreId)
  -- sync network
  | signalArrival (counter : Fin 65536)
  | watchRegistrationArrival (counter : Fin 65536)
  | watchCancelArrival (counter : Fin 65536)
  | notificationArrival (core : CoreId) (slot : Fin 64)
  | synCntWrite (path : Path) (counter : Fin 65536) (value : BitVec 32)
  | synAddWrite (path : Path) (counter : Fin 65536) (amount : BitVec 32)
  | hostWatchArm (path : Path) (region : RegionId) (counter : BitVec 12)
  | hostWatchCancel (path : Path) (region : RegionId) (counter : BitVec 12)
  | deadlock (part : PartId) (job : Fin 16)
  -- DMA
  | dmaDbell (path : Path) (region : RegionId) (chan : ChanId)
  | descriptorFetch (region : RegionId) (chan : ChanId)
  | dmaReadReturn (region : RegionId) (chan : ChanId)
  | dmaWriteResponse (region : RegionId) (chan : ChanId)
  | descriptorComplete (region : RegionId) (chan : ChanId)
  | descriptorError (region : RegionId) (chan : ChanId)
  | dmaAbort (path : Path) (region : RegionId) (chan : ChanId)
  | dmaDrainEnd (region : RegionId) (chan : ChanId)
  | dmaAllocWrite (path : Path) (region : RegionId) (chan : ChanId) (alloc : BitVec 7)
  -- page keeper and scout
  | pgkCallPin (path : Path) (part : PartId) (n : BitVec 16)
  | pgkCallUnpin (path : Path) (part : PartId) (n : BitVec 16)
  | pgkCallShare (path : Path) (part : PartId) (n : BitVec 16)
  | pgkCallWriteIntent (path : Path) (part : PartId)
  | pgkCallFree (path : Path) (part : PartId)
  | query (path : Path) (part : PartId)
  | pgkEnable (path : Path) (part : PartId) (keep : Bool) (psize : BitVec 2)
  | pgkScanDone (part : PartId)
  | pgkDisable (path : Path) (part : PartId)
  | pgkDisableDone (part : PartId)
  | scoutRequest (region : RegionId)
  | scoutDone (region : RegionId)
  | scoutEnable (path : Path) (region : RegionId) (size : BitVec 13) (ctr : BitVec 16)
  -- near-bank sequences: `col` is the core whose column it is
  | nbRecordWrite (path : Path) (col : CoreId) (data : List Byte)
  | nbSequenceStart (col : CoreId)
  | nbSliceEnd (col : CoreId)
  | nbOverrun (col : CoreId)
  | nbSequenceDone (col : CoreId)
  -- tier commands: `pos` is bits [94:90] of the packet
  | act (col : CoreId) (pos : BitVec 5) (bank : BitVec 5) (row : BitVec 11)
  | rd (col : CoreId) (pos : BitVec 5) (bank : BitVec 5) (burst : BitVec 3) (auto : Bool)
  | wr (col : CoreId) (pos : BitVec 5) (bank : BitVec 5) (burst : BitVec 3) (auto : Bool) (sent : Burst)
  | pre (col : CoreId) (pos : BitVec 5) (bank : BitVec 5) (all : Bool)
  | ref (col : CoreId) (pos : BitVec 5)
  | sre (col : CoreId) (pos : BitVec 5)
  | srx (col : CoreId) (pos : BitVec 5)
  | mrr (col : CoreId) (pos : BitVec 5) (reg : BitVec 4)
  | mrw (col : CoreId) (pos : BitVec 5) (reg : BitVec 4) (value : BitVec 32)
  | nbl (col : CoreId) (pos : BitVec 5) (k : BitVec 2) (value : BitVec 64)
  | nbgo (col : CoreId) (pos : BitVec 5) (units : BitVec 17)
  | nbs (col : CoreId) (pos : BitVec 5)
  | nba (col : CoreId) (pos : BitVec 5)
  | tierCommandReject (col : CoreId) (packet : BitVec 96)
  /-- `onCommand`: the alert answers the controller's command (R176), not a thermal event. -/
  | vcAlert (col : CoreId) (onCommand : Bool)
  | refreshDue (col : CoreId) (tier : Fin 20)
  | tierTempFrame (col : CoreId) (temp : BitVec 8)
  | columnCool (col : CoreId)
  | tierTempLost (col : CoreId)
  -- host port
  | hostRd (hdr : HostHeader)
  | hostWr (hdr : HostHeader) (data : List Byte)
  | cpl (tid : BitVec 10) (data : List Byte)
  | wrsp (tid : BitVec 10)
  | err (tid : BitVec 10) (cause : BitVec 8)
  | hostTimeout (tid : BitVec 10)
  -- peer ports
  | peerWr (port : PortId) (tid : BitVec 10) (len : BitVec 32) (addr : BitVec 48) (data : List Byte)
  | peerRd (port : PortId) (tid : BitVec 10) (len : BitVec 32) (addr : BitVec 48)
  | peerSig (port : PortId) (tid : BitVec 10) (amount : BitVec 32) (counter : BitVec 16)
  | ack (port : PortId) (tid : BitVec 10)
  | nack (port : PortId) (tid : BitVec 10) (cause : BitVec 8)
  | rdata (port : PortId) (tid : BitVec 10) (len : BitVec 32) (data : List Byte)
  | crd (port : PortId) (req : BitVec 16) (data : BitVec 16)
  | pace (port : PortId) (f : BitVec 16) (reason : BitVec 8) (period : BitVec 8) (seq : BitVec 32)
  | init (port : PortId) (blockId : BitVec 32) (req : BitVec 16) (data : BitVec 16)
  /-- `tid` is the header's TID where its TYPE has one. -/
  | peerMessageMalformed (port : PortId) (tid : Option (BitVec 10))
  | peerLinkUp (port : PortId)
  | peerLinkDown (port : PortId)
  | peerInitTimeout (port : PortId)
  | peerAccessTimeout (port : PortId) (tid : BitVec 10)
  | creditReturnDue (port : PortId)
  | pacePeriodEnd (port : PortId)
  | paceExpire (port : PortId)
  | peerEnable (path : Path) (port : PortId)
  | peerDisable (path : Path) (port : PortId)
  -- loop engines and power manager
  | loopSample
  | loopApply
  | loopOpen (path : Path) (region : RegionId) (value : BitVec 32)
  | loopClose (path : Path) (region : RegionId) (value : BitVec 32)
  | loopOpenExpired (region : RegionId)
  | capWrite (path : Path) (window : Fin 3) (value : BitVec 32)
  | floorWrite (path : Path) (part : PartId) (value : BitVec 32)
  | hintPrepStart (core : CoreId) (phase : BitVec 8)
  | hintPrepEnd (core : CoreId) (phase : BitVec 8)
  /-- Canary results at VF and at VF − 2.5 mV, and the ring oscillator count in percent of the fuse reference. -/
  | marginTrim (core : CoreId) (passAt passBelow : Bool) (roscPct : BitVec 8)
  -- regulators: 0 to 255 core regulators, 256 + r service regulators
  | pwmPeriod (vr : VrId) (inp : PwmInput)
  /-- `mA`: cycle-mean current of each phase. -/
  | phaseBalance (vr : VrId) (mA : List Int)
  | phaseSuspect (vr : VrId) (ph : Fin 8)
  | phaseDisable (vr : VrId) (ph : Fin 8)
  /-- `meanMA`: mean output current over the last 10 µs. -/
  | shedStep (vr : VrId) (meanMA : Nat)
  | addBack (vr : VrId)
  | undershootTrip (trip : Trip)
  | shedSuspendEnd (vr : VrId)
  | hiccup (vr : VrId)
  | hiccupEnd (vr : VrId)
  | stageWarning (vr : VrId) (stage : Fin 4) (temp : BitVec 8)
  | stageShutdown (vr : VrId) (stage : Fin 4) (temp : BitVec 8)
  | senseExclude (core : CoreId) (sensor : Fin 8)
  | senseRemoteFallback (core : CoreId)
  | brownOut (core : CoreId)
  | tieClose (core : CoreId)
  | corePowerRequest (path : Path) (region : RegionId) (value : BitVec 32)
  | retainComplete (core : CoreId)
  | powerUpGrant (region : RegionId)
  | inrushForce (region : RegionId)
  | rampEnd (region : RegionId)
  | rampTimeout (vr : VrId)
  | retentionFault (region : RegionId)
  -- telemetry
  | adcConversion (region : RegionId) (conv : Fin 8) (code : BitVec 12) (ovr : Bool)
  | tlmSpot (path : Path) (region : RegionId) (input : BitVec 6) (conv : Fin 8)
  | tlmSnap (path : Path) (region : RegionId) (rstMm : Bool)
  | refSettle (vref : VrefReading)
  | tlmRefTimeout (region : RegionId)
  | tlmStale (region : RegionId) (chan : Fin 40)
  | telemetryWindowEnd
  | jobEnergyClear (path : Path) (slot : Fin 32)
  -- thermal and coolant
  | sensorConversion (sensor : SensorId) (reading : BitVec 16)
  | sensorSuspectClear (path : Path) (sensor : SensorId)
  | coolantOkFall
  | coolantLoss
  | coolantOkRise
  | coolantRecoverOk
  | resume (path : Path)
  -- fault collector
  /-- `loc` is the location source; `job` the job and `tag` the host tag the event is attributed to. -/
  | faultEvent (src : Fin 512) (loc : Option (Fin 272)) (job : Option (PartId × Fin 16)) (tag : Option PartId)
  /-- `reading`: the pair carries that thermal sensor's readings. -/
  | brokenWire (src : Fin 512) (loc : Option (Fin 272)) (reading : Option ReadingWire)
  | collectorMismatch
  | faultWindowClose (src : Fin 512)
  | faultClear (path : Path) (k : Fin 16) (value : BitVec 32)
  | faultInjectArm (path : Path) (value : BitVec 32)
  | errPulseEnd
  | errHeldClear (path : Path)
  -- event queues
  | eventArrival (part : PartId) (src : Fin 512) (cls : BitVec 3)
  | eventWithdraw (path : Path) (part : PartId) (k : Fin 16) (value : BitVec 32)
  | recordSelect (part : PartId)
  | recordWrite (part : PartId)
  /-- `ok`: the record write completed without an error response. -/
  | recordComplete (part : PartId) (ok : Bool)
  | messageSend (part : PartId)
  | evqTailWrite (path : Path) (part : PartId) (value : BitVec 32)
  | evqEnable (path : Path) (part : PartId) (value : BitVec 32)
  | evqDisable (path : Path) (part : PartId) (value : BitVec 32)
  | idleEnter (path : Path)
  | idleReached
  | idleWake (path : Path)
  -- jobs and partitions
  | launch (path : Path) (part : PartId)
  | jobStart (part : PartId) (job : Fin 16)
  | partStop (path : Path) (part : PartId) (mask : BitVec 16)
  | partitionCommit (path : Path) (scrub : Bool)
  | commitApply
  -- side-band
  | entdaa (addr : BitVec 7)
  | setdasa (addr : BitVec 7)
  | rstdaa
  | enec
  | disec
  | getpid
  | getbcr
  | getdcr
  | getstatus
  | getmrl
  | setmrl (len : BitVec 16)
  | getmwl
  | setmwl (len : BitVec 16)
  | cccUnsupported (code : BitVec 8)
  | ibi
  | setEndpointId (eid : BitVec 8)
  | getEndpointId
  | getMctpVersionSupport
  | getMessageTypeSupport
  | getTid
  | getPldmVersion (type : BitVec 8)
  | getPldmTypes
  | getPldmCommands (type : BitVec 8)
  | getPdrRepositoryInfo
  | getPdr (handle : BitVec 32)
  | getSensorReading (id : BitVec 16)
  | getStateSensorReadings (id : BitVec 16)
  | pldmUnsupported (type : BitVec 6) (cmd : BitVec 8)
  /-- `pen` is the message's enterprise number (R462). -/
  | read32 (pen : BitVec 32) (offset : BitVec 32)
  | write32 (pen : BitVec 32) (offset : BitVec 32) (value : BitVec 32)
  | read64 (pen : BitVec 32) (offset : BitVec 32)
  | readLo (pen : BitVec 32) (offset : BitVec 32)
  -- supply, reset, clock
  | stbyOkAssert
  | pillarOkAssert
  | pwrGoodAssert
  | rstNRelease
  | rstNAssert
  /-- Which of PILLAR_OK and PWR_GOOD deassert in this beat. -/
  | supplyLoss (pillar pwrGood : Bool)
  | powerCycle
  | vstbyLow
  | pillarVoltageFault (region : RegionId)
  | refclkLost
  | epochEdge
  | epochEarly
  | epochLost
  | epochArm (path : Path)
  -- boot
  /-- `image`: the bytes the read of step 5 delivers, signature block included. -/
  | imageReadComplete (image : List Byte)
  | imageVerifyComplete
  | trainingComplete (fails : List TrainFail)
  | hold (path : Path)
  | reboot (path : Path)
  | dpd (path : Path)
  | dpdReturn
  | start (path : Path) (len : BitVec 19)
  | updateData (path : Path) (data : BitVec 32)
  | finish (path : Path)
  | abort (path : Path)
  /-- `ok`: a page read-back found no mismatch. -/
  | flashOperationDone (ok : Bool)
  | flashTimeout
  | fuseProgram (path : Path) (word : BitVec 4)
  /-- `ok`: the read-back of the programmed word agrees. -/
  | fuseProgramDone (ok : Bool)
  | tstUnlock (path : Path) (key : BitVec 32)
  | tstLock (path : Path)
  | registerWrite (path : Path) (offset : BitVec 32) (value : BitVec 32)
  | blockBeat
  | referenceClockReturn
  | referenceLock
  | minimumIntervalEnd (input : StatusPin)
  | sfdpReadComplete (signature has144 : Bool)
  | coreStoreReady (core : CoreId)
  | otWarnClear (vr : VrId)
  deriving DecidableEq, Repr

end Sys2Proof
end

