-- ==== Sys2Proof/Decode.lean ====
section
/-! DEFINITION. Words of commands. The opcode table gives its rows no bits: the block's commands are messages, pins and events, and the
slot words of a bundle are read from the core store by the machine itself (Machine/Operands.lean). So no word spells a command
(log entry 33). -/

namespace Sys2Proof

/-- The command that a word spells by the table's bits: none, since no row has any. -/
def decodeTableWord (nbits w : Nat) : Option Instr :=
  let _ := nbits
  let _ := w
  none

end Sys2Proof
end

