-- ==== Sys2Proof/Machine/Tab.lean ====
section
/-! DEFINITION. Sparse tables: the one container of the state.

A table is a list of (index, value) pairs with indexes strictly rising and no entry equal to what an unlisted index
holds, so that equal tables are equal lists. What an unlisted index holds is given at each use (`d`). Byte memory is the
table whose values are bytes and whose unlisted bytes read zero (log entry 3). -/

namespace Sys2Proof.Machine

abbrev Tab (α : Type) := List (Nat × α)

/-- The value at index `k`. -/
def tabGet {α : Type} (d : Nat → α) : Tab α → Nat → α
  | [], k => d k
  | (i, v) :: t, k => if i = k then v else if k < i then d k else tabGet d t k

/-- The table with `v` at index `k`, whatever stood there: an entry equal to the default is dropped. -/
def tabSet {α : Type} [DecidableEq α] (d : Nat → α) : Tab α → Nat → α → Tab α
  | [], k, v => if v = d k then [] else [(k, v)]
  | (i, w) :: t, k, v =>
    if i = k then (if v = d k then t else (k, v) :: t)
    else if k < i then (if v = d k then (i, w) :: t else (k, v) :: (i, w) :: t)
    else (i, w) :: tabSet d t k v

/-- The table with `f` applied to every listed entry; what `f` makes of an unlisted one is not entered. -/
def tabMap {α : Type} [DecidableEq α] (d : Nat → α) (f : Nat → α → α) (t : Tab α) : Tab α :=
  t.filterMap fun e => let x := f e.1 e.2; if x = d e.1 then none else some (e.1, x)

/-- Every index of the table is above `b`. -/
def tabAbove {α : Type} (b : Nat) : Tab α → Bool
  | [] => true
  | (i, _) :: _ => decide (b < i)

/-- The canonical form: indexes strictly rising, no entry equal to the default. -/
def tabWf {α : Type} [DecidableEq α] (d : Nat → α) : Tab α → Bool
  | [] => true
  | (i, v) :: t => tabAbove i t && decide (v ≠ d i) && tabWf d t

/-- Byte memory, in the host's cells. -/
abbrev Memory := List Host.Cell

/-- What a byte that nothing has written reads as (log entry 3). -/
def memDefault (_ : Nat) : Byte := 0

def memByte (m : Memory) (a : Nat) : Byte := tabGet memDefault m a

def memSetByte (m : Memory) (a : Nat) (b : Byte) : Memory := tabSet memDefault m a b

/-- Writes consecutive bytes from address `a`. -/
def memWrite (m : Memory) (a : Nat) : List Byte → Memory
  | [] => m
  | b :: bs => memWrite (memSetByte m a b) (a + 1) bs

/-- Reads `n` consecutive bytes from address `a`. -/
def memRead (m : Memory) (a : Nat) : Nat → List Byte
  | 0 => []
  | n + 1 => memByte m a :: memRead m (a + 1) n

/-- Empties every cell of the half-open range `[lo, hi)`, which then reads as unwritten. -/
def memErase (m : Memory) (lo hi : Nat) : Memory :=
  m.filter fun c => decide (c.1 < lo) || decide (hi ≤ c.1)

/-- The canonical form of memory. -/
def Memory.wf (m : Memory) : Bool := tabWf memDefault m

/-- Little-endian value of a list of bytes (R8). -/
def bytesLe : List Byte → Nat
  | [] => 0
  | b :: bs => b.toNat + 256 * bytesLe bs

/-- The `n` little-endian bytes of a number (R8). -/
def leBytes : Nat → Nat → List Byte
  | 0, _ => []
  | n + 1, v => BitVec.ofNat 8 (v % 256) :: leBytes n (v / 256)

end Sys2Proof.Machine
end

