-- ==== Sys2Proof/Machine/Crypto.lean ====
section
/-! DEFINITION. The two functions that R476 takes from FIPS 180-4 and FIPS 186-5: SHA-384, and the verification of an ECDSA signature on
curve P-384. Their constants and steps are those of the two standards (log entry 7).

Marks: PRESUMED (log entry 7). -/

namespace Sys2Proof.Machine

/-! ## SHA-384 -/

/-- The sixty-four-bit constants of FIPS 180-4 section 4.2.3. -/
def shaK : List (BitVec 64) :=
  [0x428A2F98D728AE22, 0x7137449123EF65CD, 0xB5C0FBCFEC4D3B2F, 0xE9B5DBA58189DBBC, 0x3956C25BF348B538,
   0x59F111F1B605D019, 0x923F82A4AF194F9B, 0xAB1C5ED5DA6D8118, 0xD807AA98A3030242, 0x12835B0145706FBE,
   0x243185BE4EE4B28C, 0x550C7DC3D5FFB4E2, 0x72BE5D74F27B896F, 0x80DEB1FE3B1696B1, 0x9BDC06A725C71235,
   0xC19BF174CF692694, 0xE49B69C19EF14AD2, 0xEFBE4786384F25E3, 0x0FC19DC68B8CD5B5, 0x240CA1CC77AC9C65,
   0x2DE92C6F592B0275, 0x4A7484AA6EA6E483, 0x5CB0A9DCBD41FBD4, 0x76F988DA831153B5, 0x983E5152EE66DFAB,
   0xA831C66D2DB43210, 0xB00327C898FB213F, 0xBF597FC7BEEF0EE4, 0xC6E00BF33DA88FC2, 0xD5A79147930AA725,
   0x06CA6351E003826F, 0x142929670A0E6E70, 0x27B70A8546D22FFC, 0x2E1B21385C26C926, 0x4D2C6DFC5AC42AED,
   0x53380D139D95B3DF, 0x650A73548BAF63DE, 0x766A0ABB3C77B2A8, 0x81C2C92E47EDAEE6, 0x92722C851482353B] ++
  [0xA2BFE8A14CF10364, 0xA81A664BBC423001, 0xC24B8B70D0F89791, 0xC76C51A30654BE30, 0xD192E819D6EF5218,
   0xD69906245565A910, 0xF40E35855771202A, 0x106AA07032BBD1B8, 0x19A4C116B8D2D0C8, 0x1E376C085141AB53,
   0x2748774CDF8EEB99, 0x34B0BCB5E19B48A8, 0x391C0CB3C5C95A63, 0x4ED8AA4AE3418ACB, 0x5B9CCA4F7763E373,
   0x682E6FF3D6B2B8A3, 0x748F82EE5DEFB2FC, 0x78A5636F43172F60, 0x84C87814A1F0AB72, 0x8CC702081A6439EC,
   0x90BEFFFA23631E28, 0xA4506CEBDE82BDE9, 0xBEF9A3F7B2C67915, 0xC67178F2E372532B, 0xCA273ECEEA26619C,
   0xD186B8C721C0C207, 0xEADA7DD6CDE0EB1E, 0xF57D4F7FEE6ED178, 0x06F067AA72176FBA, 0x0A637DC5A2C898A6,
   0x113F9804BEF90DAE, 0x1B710B35131C471B, 0x28DB77F523047D84, 0x32CAAB7B40C72493, 0x3C9EBE0A15C9BEBC,
   0x431D67C49C100D4C, 0x4CC5D4BECB3E42B6, 0x597F299CFC657E2A, 0x5FCB6FAB3AD6FAEC, 0x6C44198C4A475817]

/-- The initial hash value of SHA-384. -/
def shaInit : List (BitVec 64) :=
  [0xCBBB9D5DC1059ED8, 0x629A292A367CD507, 0x9159015A3070DD17, 0x152FECD8F70E5939, 0x67332667FFC00B31,
   0x8EB44A8768581511, 0xDB0C2E0D64F98FA7, 0x47B5481DBEFA4FA4]

def shaCh (x y z : BitVec 64) : BitVec 64 := (x &&& y) ^^^ (~~~x &&& z)
def shaMaj (x y z : BitVec 64) : BitVec 64 := (x &&& y) ^^^ (x &&& z) ^^^ (y &&& z)
def shaSum0 (x : BitVec 64) : BitVec 64 := x.rotateRight 28 ^^^ x.rotateRight 34 ^^^ x.rotateRight 39
def shaSum1 (x : BitVec 64) : BitVec 64 := x.rotateRight 14 ^^^ x.rotateRight 18 ^^^ x.rotateRight 41
def shaLow0 (x : BitVec 64) : BitVec 64 := x.rotateRight 1 ^^^ x.rotateRight 8 ^^^ x >>> 7
def shaLow1 (x : BitVec 64) : BitVec 64 := x.rotateRight 19 ^^^ x.rotateRight 61 ^^^ x >>> 6

/-- One round: the working variables a to h, the round's constant and its word. -/
def shaRound (v : List (BitVec 64)) (k w : BitVec 64) : List (BitVec 64) :=
  match v with
  | [a, b, c, d, e, f, g, h] =>
    let t := h + shaSum1 e + shaCh e f g + k + w
    [t + shaSum0 a + shaMaj a b c, a, b, c, d + t, e, f, g]
  | _ => v

/-- The rounds that are left: their constants, the next sixteen words of the message schedule, the working variables. -/
def shaRounds : List (BitVec 64) → List (BitVec 64) → List (BitVec 64) → List (BitVec 64)
  | [], _, v => v
  | k :: ks, w, v =>
    let w0 := w.headD 0
    let next := shaLow1 (w.getD 14 0) + w.getD 9 0 + shaLow0 (w.getD 1 0) + w0
    shaRounds ks (w.drop 1 ++ [next]) (shaRound v k w0)

/-- Words of a string, each of eight bytes, most significant first. -/
def shaWords : Nat → List Byte → List (BitVec 64)
  | 0, _ => []
  | n + 1, bs => BitVec.ofNat 64 (bytesLe (bs.take 8).reverse) :: shaWords n (bs.drop 8)

/-- The hash value after the blocks of 128 bytes of a padded message. -/
def shaBlocks : Nat → List Byte → List (BitVec 64) → List (BitVec 64)
  | 0, _, h => h
  | n + 1, bs, h => shaBlocks n (bs.drop 128) ((shaRounds shaK (shaWords 16 bs) h).zipWith (· + ·) h)

/-- The message, a one bit, zeros, and its length in bits as a 128-bit number. -/
def shaPad (bs : List Byte) : List Byte :=
  bs ++ [0x80] ++ List.replicate ((239 - bs.length % 128) % 128) 0 ++ (leBytes 16 (8 * bs.length)).reverse

/-- SHA-384 (FIPS 180-4): the first six words of the final hash value. -/
def sha384 (bs : List Byte) : BitVec 384 :=
  let m := shaPad bs
  BitVec.ofNat 384 (((shaBlocks (m.length / 128) m shaInit).take 6).foldl (fun n w => n * 2 ^ 64 + w.toNat) 0)

/-! ## Curve P-384 (FIPS 186-5) -/

def curveP : Nat :=
  0xFFFFFFFFFFFFFFFFFFFFFFFFFFFFFFFFFFFFFFFFFFFFFFFFFFFFFFFFFFFFFFFEFFFFFFFF0000000000000000FFFFFFFF

/-- Order of the base point. -/
def curveOrder : Nat :=
  0xFFFFFFFFFFFFFFFFFFFFFFFFFFFFFFFFFFFFFFFFFFFFFFFFC7634D81F4372DDF581A0DB248B0A77AECEC196ACCC52973

def curveB : Nat :=
  0xB3312FA7E23EE7E4988E056BE3F82D19181D9C6EFE8141120314088F5013875AC656398D8A2ED19D2A85C8EDD3EC2AEF

/-- A point by its projective coordinates: X / Z², Y / Z³; the point at infinity where Z is 0. -/
structure CurvePoint where
  x : Nat
  y : Nat
  z : Nat
  deriving DecidableEq, Repr

def curveBase : CurvePoint :=
  { x := 0xAA87CA22BE8B05378EB1C71EF320AD746E1D3B628BA79B9859F741E082542A385502F25DBF55296C3A545E3872760AB7
    y := 0x3617DE4A96262C6F5D9E98BF9292DC29F8F41DBD289A147CE9DA3113B5F0B8C00A60B1CE1D7E819D7A431D7C90EA0E5F
    z := 1 }

def curveZero : CurvePoint := ⟨1, 1, 0⟩

def subP (a b : Nat) : Nat := (a + (curveP - b % curveP)) % curveP

/-- Twice a point; the curve's coefficient is −3. -/
def CurvePoint.double (q : CurvePoint) : CurvePoint :=
  if q.z = 0 ∨ q.y = 0 then curveZero
  else
    let zz := q.z * q.z % curveP
    let m := 3 * subP q.x zz * ((q.x + zz) % curveP) % curveP
    let yy := q.y * q.y % curveP
    let s := 4 * q.x * yy % curveP
    let x := subP (m * m % curveP) (2 * s)
    ⟨x, subP (m * subP s x % curveP) (8 * yy * yy), 2 * q.y * q.z % curveP⟩

/-- The sum of two points. -/
def CurvePoint.add (p q : CurvePoint) : CurvePoint :=
  if p.z = 0 then q
  else if q.z = 0 then p
  else
    let pz := p.z * p.z % curveP
    let qz := q.z * q.z % curveP
    let u := p.x * qz % curveP
    let t := p.y * qz * q.z % curveP
    let h := subP (q.x * pz % curveP) u
    let r := subP (q.y * pz * p.z % curveP) t
    if h = 0 then (if r = 0 then p.double else curveZero)
    else
      let hh := h * h % curveP
      let v := u * hh % curveP
      let x := subP (r * r % curveP) (hh * h + 2 * v)
      ⟨x, subP (r * subP v x % curveP) (t * (hh * h % curveP)), h * p.z * q.z % curveP⟩

/-- `m` times a point plus `n` times another, by their `k` low bits. -/
def curveSum (p q : CurvePoint) : Nat → Nat → Nat → CurvePoint
  | 0, _, _ => curveZero
  | k + 1, m, n =>
    let d := (curveSum p q k (m / 2) (n / 2)).double
    let e := if m % 2 = 1 then d.add p else d
    if n % 2 = 1 then e.add q else e

/-- `a` to the power `e` modulo `m`, by the `k` low bits of `e`. -/
def powMod (m a : Nat) : Nat → Nat → Nat
  | 0, _ => 1 % m
  | k + 1, e =>
    let r := powMod m a k (e / 2)
    if e % 2 = 1 then r * r % m * a % m else r * r % m

/-- The inverse modulo a prime below 2^384. -/
def invMod (m a : Nat) : Nat := powMod m a 384 (m - 2)

/-- Both coordinates are reduced and satisfy y² = x³ − 3x + b. -/
def onCurve (x y : Nat) : Bool :=
  decide (x < curveP) && decide (y < curveP) && (y * y % curveP = subP (x * x * x + curveB) (3 * x))

/-- ECDSA P-384 verification: public key X‖Y and signature r‖s, each number 48 bytes, most significant first, over a digest. -/
def ecdsaOk (key sig : List Byte) (digest : BitVec 384) : Bool :=
  let x := bytesLe (key.take 48).reverse
  let y := bytesLe (key.drop 48).reverse
  let r := bytesLe (sig.take 48).reverse
  let w := invMod curveOrder (bytesLe (sig.drop 48).reverse)
  let q := curveSum curveBase ⟨x, y, 1⟩ 384 (digest.toNat * w % curveOrder) (r * w % curveOrder)
  let z := invMod curveP q.z
  onCurve x y && decide (q.z ≠ 0) && decide (q.x * (z * z % curveP) % curveP % curveOrder = r)

end Sys2Proof.Machine
end

