-- ==== Sys2Proof/Config.lean ====
section
/-! DEFINITION. The free values of the model: what the spec leaves open. Each is a constant without a body, so that nothing
can be proved of its value (log entry 2). A value of a family is taken at the state's own counter of draws where it may
differ from time to time. -/

namespace Sys2Proof

/-- Which of the two values of R78 a bundle reads from a destination that a variable-latency operation has in flight:
`false` the value before, `true` the value it delivers. -/
opaque Config.raceRead : Nat → Nat → Bool

/-- A byte of a core store whose contents have been lost (R42, R45, R153, R296, R302), by draw and address. -/
opaque Config.lostByte : Nat → Nat → Byte

/-- A free number, by draw. -/
opaque Config.freeNat : Nat → Nat

/-- A free byte, by draw and position. -/
opaque Config.freeByte : Nat → Nat → Byte

/-- Mode register of a tier, by core of its column, tier and register: what the tier declares of itself (R175). -/
opaque Config.tierMode : Nat → Nat → Nat → Word

/-- One step of the one-pole filter of R317, whose discrete form the spec does not give: pole in 2 MHz units, last output,
input. -/
opaque Config.onePole : Nat → Int → Int → Int

/-- OC_N, which no register holds: 4 to 64, 16 by default (R333). -/
opaque Config.ocN : Nat

end Sys2Proof
end

