-- ==== Sys2Proof/Machine/RegReset.lean ====
section
/-! DEFINITION. Reset values of the registers that the register file holds (chapter Register summary, R492 to R495).

Offsets are window offsets. A register of the summary that is not listed here resets to zero, or is a view of an engine's
own state (Machine/Regs.lean).

Marks: DESIGN CHOICE (log entry 9), DESIGN CHOICE (log entry 20). -/

namespace Sys2Proof.Machine

/-- TLM_ registers, by offset in the group (Table — TLM_ registers). -/
def tlmReset (o : Nat) : Word :=
  if 0x40 ≤ o ∧ o < 0xC0 then
    let k := (o - 0x40) / 16
    match o % 16 with
    | 0 => if k < 4 then 0xA0040004#32 else if k < 6 then 0xA0040008#32 else 0x80000004#32
    | 4 =>
      match k with
      | 0 => 0x03020100#32 | 1 => 0x07060504#32 | 2 => 0x0B0A0908#32 | 3 => 0x0F0E0D0C#32
      | 4 => 0x13121110#32 | 5 => 0x1B1A1918#32 | 6 => 0x23222120#32 | _ => 0x3F262524#32
    | 8 => if k = 4 then 0x17161514#32 else if k = 5 then 0x1F1E1D1C#32 else 0x3F3F3F3F#32
    | _ => 0
  else if 0x100 ≤ o ∧ o < 0x1A0 ∧ o % 4 = 0 then 0x00008000#32
  else if 0x400 ≤ o ∧ o < 0xC00 ∧ o % 0x400 < 0x280 ∧ o % 16 = 12 then 0x0000FFFF#32
  else 0

/-- Registers of a region, by offset in its block (Tables — Region block, Regulator registers, LPE_ THM_ TIER_). -/
def regionReset (o : Nat) : Word :=
  if o < 0x1000 then
    if o % 0x100 = 0 then 0x08040A0E#32 else if o % 0x100 = 4 then 0x00000E08#32 else 0
  else if o = 0x1000 then 0x00281464#32
  else if o = 0x20000 then 0x08040A0E#32
  else if o = 0x20004 then 0x00000E08#32
  else if o = 0x20010 then 0x00000028#32
  else if o = 0x20020 then 0x00281464#32
  else if o = 0x40000 then 0x20000004#32
  else if o = 0x40004 then 0x00100410#32
  else if o = 0x40008 then 0x00000064#32
  else if o = 0x4000C then 0x001006B8#32
  else if o = 0x40010 then 0x78420300#32
  else if o = 0x40014 then 0x00080004#32
  else if 0x60000 ≤ o ∧ o < 0x61000 then tlmReset (o - 0x60000)
  else if o = 0xC8000 then 0x00000FFF#32
  else if o = 0xE0000 then 0x00000004#32
  else 0

/-- Value of a register of the register file right after power-up. -/
def regReset (o : Nat) : Word :=
  if o = 0x102000 then 0x000003E8#32
  else if o = 0x200000 then 0x00000001#32
  else if 0x201000 ≤ o ∧ o < 0x201800 ∧ o % 0x100 = 8 then 0x000A0100#32
  else if o = 0x200008 then 0x000003FF#32
  else if o = 0x400F08 then 0x002191C0#32
  else if 0x401000 ≤ o ∧ o < 0x401040 ∧ o % 4 = 0 then 0xAAAAAAAA#32
  else if o = 0x4010C0 then 0x03005A0F#32
  else if o = 0x4010D0 then 0x3C140003#32
  else if o = 0x401180 then 0x0000000A#32
  else if o = 0x402010 ∨ o = 0x402014 ∨ o = 0x402018 then 0x00000640#32
  else if o = 0x402000 ∨ o = 0x402004 ∨ o = 0x402008 then 0x00000640#32
  else if 0x402040 ≤ o ∧ o < 0x402060 ∧ o % 4 = 0 then 0x00000400#32
  else if o = 0x404000 then 0x00000006#32
  else if 0x800000 ≤ o ∧ o < 0x1800000 then regionReset ((o - 0x800000) % 0x100000)
  else if 0x1C00000 ≤ o ∧ o < 0x1C00400 then
    match o % 0x100 with
    | 0x10 => 0x0000FFFF#32
    | 0x14 => 0x000003E8#32
    | 0x18 => 0x0A000008#32
    | _ => 0
  else if 0x1800000 ≤ o ∧ o < 0x1800400 ∧ o % 0x80 = 0x24 then 0xFFFFFFFF#32
  else if o = 0x1E00000 then 0x00FF0000#32
  else if o = 0x1F00008 then 0x00000001#32
  else 0

end Sys2Proof.Machine
end

