-- ==== Sys2Proof/Machine/State.lean ====
section
/-! DEFINITION. The state of the block: every register, store, buffer, counter, mode and pin the spec gives it, as plain data.

A register that software sees and that no engine keeps in another form is held in the register file (`regs`, by window
offset); what an engine keeps is held in that engine's structure, and its read-only registers are views of it
(Machine/Regs.lean). Indexed parts are sparse tables (Machine/Tab.lean) over the part's reset value.

Marks: DESIGN CHOICE (log entry 2), DEDUCED (log entry 8), DESIGN CHOICE (log entry 9), DESIGN CHOICE (log entry 20). -/

namespace Sys2Proof.Machine

/-! ## Cores -/

/-- Core power states, coded as Table — Core power states (R297). -/
inductive PowerState where
  | off | retain | ramping | on | tied | carrier | dark | transit
  deriving DecidableEq, Repr

/-- State of a watch slot (R118). An armed slot keeps its watch. -/
inductive WatchSlot where
  | idle
  | armed (counter : Nat) (v : BitVec 32) (take : Bool)
  | fired
  deriving DecidableEq, Repr

/-- The four slots of a bundle, in the order of R77. -/
inductive SlotName where
  | m | v | l | c
  deriving DecidableEq, Repr

/-- What a WAIT names (R86, R118). -/
structure WaitFor where
  watch : Bool
  half  : Bool
  mask  : BitVec 32
  deriving DecidableEq, Repr

/-- One exact product or special product of a landing (R128, R129), scaled by 2^320 when finite. -/
inductive Product where
  | nan
  | inf (neg : Bool)
  | fin (num : Int)
  deriving DecidableEq, Repr

/-- An MMA in flight to its accumulator set (R109): its products, row by row. -/
structure Landing where
  acc    : Nat
  clr    : Bool
  window : Bool
  group  : Nat
  rows   : Nat
  prods  : List (List Product)
  deriving DecidableEq, Repr

/-- A fixed-latency result on its way to its destination (R76). -/
inductive Result where
  /-- bytes of vector register `reg` from byte `off` -/
  | vec (reg off : Nat) (bytes : List Byte)
  | scalar (reg : Nat) (value : BitVec 64)
  /-- bytes of the core's own store from offset `off` -/
  | store (off : Nat) (bytes : List Byte)
  | tile (reg off : Nat) (bytes : List Byte)
  | land (x : Landing)
  | accClear (acc : Nat)
  /-- the sum of the finite lanes in units of 2^-149, and the special lanes met -/
  | xAdd (x : Nat) (sum : Int) (nan pinf ninf : Bool)
  | xClear (x : Nat)
  /-- a group store from member `src`; it is kept over the core's own write (R77) -/
  | group (src off : Nat) (bytes : List Byte)
  /-- the operation changes nothing but CORE_ARITH -/
  | none
  deriving DecidableEq, Repr

/-- A staged result: the core beat at which it becomes visible, its order of issue within that beat (R77), and the
CORE_ARITH bits it sets then (R510). -/
structure Staged where
  due   : Nat
  order : Nat
  res   : Result
  arith : BitVec 5
  deriving DecidableEq, Repr

/-- Page-keeper operations (Table — Page operations); `query` is the host's OP 7. -/
inductive PgkOp where
  | pin | unpin | share | writeIntent | free | query
  deriving DecidableEq, Repr

/-- A variable-latency operation outstanding on a landing flag (R82). -/
inductive OpKind where
  /-- copy from address `src` to own core-store offset `dst` -/
  | load (src dst len : Nat)
  /-- load of vector register `reg` -/
  | loadV (src reg : Nat)
  /-- store of the bytes read at issue -/
  | store (dst : Nat) (bytes : List Byte)
  /-- port write number `num` of the tier command port of `col` -/
  | port (col num : Nat)
  /-- waits for the listed operations of the core, for its group stores due by core beat `gst`, and for the writes to its own
  store due by core beat `own` -/
  | fence (ops : List Nat) (gst own : Nat)
  | pgk (call dest : Nat)
  deriving DecidableEq, Repr

structure Op where
  id     : Nat
  flag   : Nat
  /-- core beat of its issue; the op still counts on its flag (a launch in between ends that, R71) -/
  issued : Nat
  live   : Bool
  kind   : OpKind
  /-- refused at issue: it completes in error (R115) -/
  refused : Bool
  /-- the job that issued it -/
  job    : Option (PartId × Fin 16)
  /-- stretches of its destination that a fixed-latency result has reached since its issue (R78) -/
  dirty  : List (Nat × Nat)
  /-- block beat of its issue -/
  beatAt : Nat
  /-- words of its destination that it has delivered before its completion, by number, with what it delivered (R78) -/
  early  : List (Nat × List Byte)
  /-- block beat at whose end the condition of a FENCE was first found to hold (R240) -/
  metAt  : Option Nat
  deriving DecidableEq, Repr

/-- A fenced signal in the outbox (R241): the writes it waits for. -/
structure Fenced where
  dest    : Nat
  counter : Nat
  amount  : BitVec 32
  job     : Option (PartId × Fin 16)
  ops     : List Nat
  gst     : Nat
  own     : Nat
  deriving DecidableEq, Repr

/-- Row of an accumulator set (Table — Accumulator set state). -/
structure AccRow where
  sum   : BitVec 192
  nan   : Bool
  pinf  : Bool
  ninf  : Bool
  range : Bool
  deriving DecidableEq, Repr

def AccRow.zero : AccRow := ⟨0, false, false, false, false⟩

inductive AccKind where
  | empty | deep | window
  deriving DecidableEq, Repr

/-- Open group of a window set: its number and the finite products of each row (R133). -/
structure OpenGroup where
  group : Nat
  prods : List (Nat × List Int)
  deriving DecidableEq, Repr

structure AccSet where
  rows     : Tab AccRow
  kind     : AccKind
  landings : Nat
  openG    : Option OpenGroup
  deriving DecidableEq, Repr

def AccSet.cleared : AccSet := ⟨[], .empty, 0, none⟩

/-- Exact sum register (R140, R141). -/
structure XReg where
  sum    : BitVec 320
  nan    : Bool
  pinf   : Bool
  ninf   : Bool
  xrange : Bool
  count  : Nat
  deriving DecidableEq, Repr

def XReg.zero : XReg := ⟨0, false, false, false, false, 0⟩

/-- A pending hint of a core (R367): phase, block beat of issue, lead in µs, and whether its preparation runs and until
when. -/
structure Hint where
  phase  : Nat
  issued : Nat
  lead   : Nat
  prep   : Bool
  endAt  : Option Nat
  deriving DecidableEq, Repr

/-- The registers a core's bundles name (Table — Core state). -/
structure CoreRegs where
  /-- bytes of V0 to V63, register r at 1,024 r -/
  v   : Memory
  s   : Tab (BitVec 64)
  /-- bytes of T0 to T3, tile t at 8,704 t, scales from byte 8,192 -/
  t   : Memory
  acc : Tab AccSet
  x   : Tab XReg
  deriving DecidableEq, Repr

def CoreRegs.zero : CoreRegs := ⟨[], [], [], [], []⟩

/-- The bundle sequencer of a core. -/
structure Sequencer where
  bound    : Bool
  job      : Option (PartId × Fin 16)
  group    : Nat
  members  : BitVec 16
  beat     : BitVec 64
  base     : Nat
  len      : Nat
  next     : Nat
  /-- target of a taken branch whose delay bundles are still to issue -/
  target   : Option Nat
  /-- delay bundles left of the last branch -/
  delay    : Nat
  /-- slots of the bundle at `next` already issued: bit 0 M, 1 V, 2 L, 3 C -/
  slots    : BitVec 4
  /-- a bundle issued in this block beat -/
  issued   : Bool
  /-- this block beat is held by the core's own sluice or by a forced hold -/
  held     : Bool
  /-- the beat's hold, its own or its group's, is still to be counted (R22, R88); its reason and allowance -/
  owed     : Bool
  why      : Nat × Nat
  /-- a WAIT completed in this block beat -/
  resumed  : Bool
  waiting  : Option WaitFor
  /-- core beat at which the last group store it issued is complete (R240) -/
  gst      : Nat
  ended    : Bool
  stopped  : Bool
  cause    : Nat
  /-- phase number in force (R363) -/
  phase    : Nat
  /-- a PHASE bundle issued in this loop interval -/
  phased   : Bool
  /-- held beats counted in this loop interval -/
  heldNow  : Nat
  /-- beats issued in this loop interval (R386) -/
  issuedNow : Nat
  /-- energy slot of the last job (R388) -/
  slot     : Option Nat
  deriving DecidableEq, Repr

def Sequencer.idle : Sequencer :=
  { bound := false, job := none, group := 0, members := 0, beat := 0, base := 0, len := 0, next := 0, target := none,
    delay := 0, slots := 0, issued := false, held := false, owed := false, why := (0, 0), resumed := false, waiting := none, gst := 0, ended := false, stopped := false,
    cause := 0, phase := 0, phased := false, heldNow := 0, issuedNow := 0, slot := none }

/-- Loop outputs of one core (R350): the three cap windows, current limit of its own and of the service regulator, thermal, pillar
droop. -/
structure LoopOut where
  cap0 : Nat
  cap1 : Nat
  cap2 : Nat
  cur  : Nat
  svc  : Nat
  thm  : Nat
  pil  : Nat
  deriving DecidableEq, Repr

def LoopOut.full : LoopOut := ⟨1024, 1024, 1024, 1024, 1024, 1024, 1024⟩

/-- Power side of a core: sluice, ceilings, margin, sense, tie. -/
structure CorePower where
  state    : PowerState
  /-- state that TRANSIT leads to -/
  goal     : PowerState
  storeLost : Bool
  /-- the zero-write of R153 is in progress -/
  zeroing  : Bool
  avail    : Bool
  /-- mapped out or gone dark since the last power cycle (R25) -/
  out      : Bool
  acc      : Nat
  /-- outputs in force, and those of the last sample that take effect at its application beat -/
  loops    : LoopOut
  next     : LoopOut
  /-- what the sluice register has gained in this beat, and whether a hold of it has been taken -/
  adv      : Nat
  taken    : Bool
  /-- this beat lies in the period after a limited one (R326) -/
  clampNow : Bool
  /-- beat from which the hint-miss ceiling is to be lifted, while it applies (R368): application beats left -/
  missLeft : Nat
  /-- beat of the last hint miss -/
  missAt   : Nat
  /-- forced hold of this beat: clamp hold beats left (R326), brown-out (R296) -/
  clampLeft : Nat
  brownOut : Bool
  vf       : Nat
  passRun  : Nat
  rosc     : Nat
  aged     : Bool
  boost    : Nat
  paceCut  : Nat
  partner  : Option CoreId
  tieDir   : Nat
  /-- a tie search found this carrier and the tie is closing (R304) -/
  tying    : Option CoreId
  /-- its rail had fallen when its regulator failed (R305) -/
  fell     : Bool
  /-- REMOTE is in use; the selection that the next loop sample brings (R294, R295) -/
  sense    : Bool
  senseNext : Option Bool
  excluded : BitVec 8
  /-- 1 µs held peaks of the last 1,000 intervals, newest first (R303) -/
  peaks    : List Nat
  deriving DecidableEq, Repr

def CorePower.initial : CorePower :=
  { state := .off, goal := .off, storeLost := true, zeroing := false, avail := false, out := false, acc := 0,
    loops := .full, next := .full, adv := 0, taken := false, clampNow := false, missLeft := 0, missAt := 0,
    clampLeft := 0, brownOut := false, vf := 0, passRun := 0, rosc := 0, aged := false, boost := 0, paceCut := 0,
    partner := none, tieDir := 0, tying := none, fell := false, sense := false,
    senseNext := none, excluded := 0, peaks := [] }

structure Core where
  seq    : Sequencer
  regs   : CoreRegs
  flags  : Tab Nat
  slots  : Tab WatchSlot
  staged : List Staged
  ops    : List Op
  nextOp : Nat
  outbox : List Fenced
  arith  : BitVec 5
  hints  : List Hint
  /-- held-beat counters by reason 1 to 12 (R387) -/
  holds  : Tab (BitVec 64)
  power  : CorePower
  deriving DecidableEq, Repr

def Core.initial : Core :=
  { seq := .idle, regs := .zero, flags := [], slots := [], staged := [], ops := [], nextOp := 0, outbox := [],
    arith := 0, hints := [], holds := [], power := .initial }

/-! ## Supply, reset and boot -/

/-- Input and output pins of the always-on domain, and the per-port link inputs. -/
structure Pins where
  stbyOk    : Bool
  pillarOk  : Bool
  pwrGood   : Bool
  /-- level of RST_N: low is asserted -/
  rstN      : Bool
  coolantOk : Bool
  /-- REFCLK is in range -/
  refclk    : Bool
  /-- the level is taken as asserted only when its minimum interval has ended (R467) -/
  pillarSeen : Bool
  pwrSeen   : Bool
  rstSeen   : Bool
  /-- THERM_TRIP_N is driven low -/
  tripLow   : Bool
  /-- alarm pins are at high impedance (R506) -/
  alarmZ    : Bool
  linkUp    : BitVec 4
  /-- VREF_EXT as last measured against the internal reference in µV, 0 while it reads as absent, and the beat, plus one, since which
  it has lain within 1.150 V to 1.250 V (R67, R380) -/
  vrefUV    : Nat
  vrefSince : Nat
  /-- beats at which PILLAR_OK and PWR_GOOD were taken as asserted -/
  pillarAt  : Nat
  pwrAt     : Nat
  deriving DecidableEq, Repr

/-- The part of STATE below SAFE, HOLD and COOLANT in the order of R24. -/
inductive BaseState where
  | reset | config | train | ready | idle
  deriving DecidableEq, Repr

/-- Step of the reset sequence that is in progress; `done` outside it. -/
inductive BootStep where
  | unpowered | refLock | waitPillar | waitRelease | sfdp | imageRead | verify | powerUp | train | done
  deriving DecidableEq, Repr

/-- Flash engine of an image update (R480). -/
inductive FlashJob where
  | idle | erasing | programming | verifying
  deriving DecidableEq, Repr

structure Boot where
  base     : BaseState
  step     : BootStep
  grave    : Bool
  safe     : Bool
  hold     : Bool
  /-- the coolant condition (R513) -/
  coolant  : Bool
  /-- a RESUME has been accepted and its power-ups run (R401) -/
  resuming : Bool
  /-- R42 or R48 acted and SAFE is to be left by the sequence (R419) -/
  rerun    : Bool
  bootFail : Bool
  dpd      : Bool
  /-- a status input has been low since deep power-down was entered (R484) -/
  dpdLow   : Bool
  /-- beats for which PILLAR_OK and PWR_GOOD have both been asserted, and for which the reference has been in range, at most
  2,000,000 (R44, R48) -/
  okBeats  : Nat
  refBeats : Nat
  /-- beat of a REBOOT, until the release that follows it (R479) -/
  rebootAt : Option Nat
  /-- STATE has been CONFIG since STBY_OK (R41) -/
  configured : Bool
  waking   : Bool
  entering : Bool
  /-- a wake cause met the entry to IDLE (R446): cause and source -/
  wakeMet  : Option (Nat × Nat)
  /-- beat in which the last wake began -/
  wakeBeat : Nat
  trip     : Bool
  epochLock : Bool
  /-- beat, plus one, of the last accepted epoch edge -/
  epochAt : Nat
  /-- the synchroniser of EPOCH_IN (R49): the beat in which the edge it carries is marked, and the beat, plus one, in which the pin was
  last sampled high at a rise -/
  epochMark : Option Nat
  epochSeen : Nat
  sinceCoolant : Nat
  /-- the present low of COOLANT_OK has been confirmed as a loss (R51) -/
  lossSeen : Bool
  recoverOk : Bool
  losses   : Nat
  tiers    : Nat
  wtiers   : Nat
  image    : List Byte
  sdaUsed  : Bool
  serviceUp : BitVec 16
  retFault : BitVec 16
  deriving DecidableEq, Repr

def Boot.initial : Boot :=
  { base := .reset, step := .unpowered, grave := false, safe := false, hold := false, coolant := false,
    resuming := false, rerun := false, bootFail := false, dpd := false, dpdLow := false, okBeats := 0, refBeats := 0, rebootAt := none, configured := false,
    waking := false, entering := false, wakeMet := none, wakeBeat := 0, trip := false, epochLock := false, epochAt := 0, epochMark := none, epochSeen := 0,
    sinceCoolant := 0, lossSeen := false, recoverOk := false, losses := 0, tiers := 0, wtiers := 0, image := [], sdaUsed := false,
    serviceUp := 0, retFault := 0 }

/-- Flash, fuses and the update engine. -/
structure Nvm where
  flash    : Memory
  updStatus : Nat
  updCheck : Nat
  updCount : Nat
  updLen   : Nat
  /-- bytes taken and not yet programmed -/
  buffer   : List Byte
  programmed : Nat
  job      : FlashJob
  /-- FINISH has been accepted -/
  finishing : Bool
  /-- sectors erased -/
  erased   : Nat
  /-- beat at which the flash command in progress began -/
  jobAt    : Nat
  keyHash  : BitVec 384
  /-- the key hash in force: as sensed, or as it stood at the last pass of step 6 (R482) -/
  keyUsed  : BitVec 384
  /-- length of the flash's first part that the block has erased or written itself; the rest is the integrator's -/
  known    : Nat
  pid      : BitVec 48
  coreOut  : BitVec 256
  lock     : Bool
  fuseStatus : Nat
  fuseWord : Nat
  fuseData : BitVec 32
  deriving DecidableEq, Repr

def Nvm.initial : Nvm :=
  { flash := [], updStatus := 0, updCheck := 0, updCount := 0, updLen := 0, buffer := [], programmed := 0,
    job := .idle, finishing := false, erased := 0, jobAt := 0, keyHash := 0, keyUsed := 0, known := 0, pid := 0, coreOut := 0, lock := false, fuseStatus := 0, fuseWord := 0,
    fuseData := 0 }

/-! ## Fault collector and event queues -/

/-- One source of the collector (R406, R412) with its class-table entry. -/
structure Source where
  sticky   : Bool
  count    : Nat
  /-- block beat at which the open window closes -/
  closes   : Option Nat
  promoted : Bool
  base     : Nat
  n        : Nat
  w        : Nat
  /-- beat of its last event, so that a beat counts one event at most (R407, R14) -/
  last     : Option Nat
  /-- beat of its last clear, so that an event of that beat acts at the base class (R413) -/
  cleared  : Option Nat
  deriving DecidableEq, Repr

/-- One copy of the collector's state (R414). -/
structure FaultCopy where
  sources  : Tab Source
  evqTags  : BitVec 8
  clrTags  : BitVec 8
  hold     : Bool
  route    : BitVec 5
  width    : Nat
  held     : Bool
  deriving DecidableEq, Repr

/-- An injection armed by FLT_INJ (R416). -/
structure Inject where
  arm  : Bool
  mode : Nat
  loc  : Nat
  src  : Nat
  /-- beat in which it was armed -/
  when : Nat
  deriving DecidableEq, Repr

structure Faults where
  one      : FaultCopy
  two      : FaultCopy
  selfFail : Bool
  /-- a pulse of ERR_OUT_N runs, and the beat at which it ends -/
  pulse    : Bool
  pulseEnd : Nat
  inj      : Inject
  /-- sources whose condition persists (R407), with their location -/
  persist  : List (Nat × Option Nat)
  /-- event wires whose pair is broken, until a power cycle (R408) -/
  broken   : List (Nat × Option Nat)
  deriving DecidableEq, Repr

/-- Pending state of a source for a partition (R426). -/
structure Pending where
  pend  : Bool
  count : Nat
  cls   : Nat
  stamp : BitVec 48
  /-- beat and class of the last arrival (R14, R426) -/
  last  : Option (Nat × Nat)
  /-- beat, plus one, of the last change, and PEND, COUNT, CLASS and STAMP before that beat (R429, R430) -/
  seen  : Nat
  was   : Bool × Nat × Nat × BitVec 48
  deriving DecidableEq, Repr

def Pending.clear : Pending := ⟨false, 0, 0, 0, none, 0, (false, 0, 0, 0)⟩

/-- A record between its selection and its completion (R429 to R434). -/
structure EventRec where
  src      : Nat
  index    : BitVec 32
  selected : Nat
  /-- beat of a withdrawal since the selection -/
  withdrawn : Option (BitVec 48)
  written  : Bool
  complete : Bool
  /-- address and bytes of its write, and the number of its outbound transaction where it goes to the host window -/
  addr     : Nat
  bytes    : List Byte
  tid      : Option Nat
  /-- what its write took: source, COUNT, CLASS, STAMP -/
  took     : Nat × Nat × Nat × BitVec 48
  deriving DecidableEq, Repr

structure EventPart where
  pending  : Tab Pending
  recs     : List EventRec
  en       : Bool
  head     : BitVec 32
  tail     : BitVec 32
  nextIdx  : BitVec 32
  armed    : Bool
  halt     : Bool
  cfgErr   : Bool
  werr     : Bool
  msgErr   : Bool
  /-- source 330 has been set for the present lack of room (R433) -/
  fullSent : Bool
  lastSel  : Option Nat
  ageStart : Nat
  /-- beat, plus one, in which EN was last written 0: it holds for selections from the next beat (R435) -/
  offAt    : Nat
  deriving DecidableEq, Repr

def EventPart.initial : EventPart :=
  { pending := [], recs := [], en := false, head := 0, tail := 0, nextIdx := 0, armed := true, halt := false,
    cfgErr := false, werr := false, msgErr := false, fullSent := false, lastSel := none, ageStart := 0, offAt := 0 }

/-! ## Sync unit -/

/-- Origin of an addition (R227). -/
inductive Origin where
  | core (job : Option (PartId × Fin 16))
  | dma (job : Option (PartId × Fin 16))
  | scout (job : Option (PartId × Fin 16))
  /-- `tid`: the transaction that is answered when the addition is made -/
  | host (path : Path) (tid : Option Nat)
  | peer (port : PortId) (tid : Nat)
  deriving DecidableEq, Repr

/-- Who holds a watch; the order of evaluation of R233. -/
inductive Watcher where
  | core (core : CoreId) (slot : Nat)
  | scout (region : RegionId)
  | host (region : RegionId)
  deriving DecidableEq, Repr

/-- A packet of the sync network and the beat of its arrival (R237, R238). -/
inductive Packet where
  | add (arrive counter : Nat) (amount : BitVec 32) (origin : Origin)
  | register (arrive counter : Nat) (v : BitVec 32) (take : Bool) (who : Watcher)
  | cancel (arrive counter : Nat) (who : Watcher)
  | notify (arrive : Nat) (counter : Nat) (who : Watcher)
  deriving DecidableEq, Repr

/-- An entry of a watch table (R229). -/
structure WatchEntry where
  counter : Nat
  v       : BitVec 32
  take    : Bool
  who     : Watcher
  deriving DecidableEq, Repr

structure Sync where
  counters : Tab (BitVec 32)
  watches  : List WatchEntry
  packets  : List Packet
  /-- beat, plus one, in which a region's host watch last fired -/
  hostFired : Tab Nat
  /-- beat, plus one, of a region's last deadlock declaration, and the job's lowest core there -/
  declared : Tab (Nat × Nat)
  /-- of each counter, the additions that make up its value, oldest first: job and amount (R224) -/
  shares   : Tab (List (Option (PartId × Fin 16) × Nat))
  /-- beat, plus one, in which a counter has last been through the steps of R233 -/
  taken    : Tab Nat
  deriving DecidableEq, Repr

/-! ## DMA -/

inductive ChanState where
  | off | idle | running | parked | halted | draining
  deriving DecidableEq, Repr

/-- Requester of a doorbell (R258). -/
inductive Ringer where
  | job (core : CoreId) (job : PartId × Fin 16)
  | host (tag : PartId)
  | side
  /-- the page keeper, for a call of this caller's job, if any (R205, R269) -/
  | keeper (call : Nat)
  deriving DecidableEq, Repr

/-- A stretch of bytes: source address, destination address, length. -/
structure Segment where
  src : Nat
  dst : Nat
  len : Nat
  deriving DecidableEq, Repr

/-- The descriptor being executed (R252), its stretches left to read, and its running check value. -/
structure Running where
  word0   : BitVec 64
  next    : Nat
  dst     : Nat
  src     : Nat
  segs    : List Segment
  /-- bytes read so far -/
  moved   : Nat
  /-- the page as it stood when a keeper's copy of it started (R205); empty for another descriptor -/
  snap    : List Byte
  crc     : BitVec 32
  sum     : BitVec 64
  /-- bytes of an incomplete 64-bit word of SUM64 -/
  tail    : List Byte
  lastEnd : Nat
  /-- the check value has been issued -/
  checked : Bool
  /-- filled slots of the basin: stretches for their destinations -/
  basin   : List (List (Nat × List Byte))
  /-- a read of the next slot is issued: its access number -/
  reading : Option Nat
  deriving DecidableEq, Repr

/-- A descriptor that has issued its writes while some of them await responses; the channel has gone on to the next (R260). -/
structure Finishing where
  word0 : BitVec 64
  cur   : Nat
  attr  : Option Ringer
  /-- its accesses have smaller numbers -/
  upTo  : Nat
  deriving DecidableEq, Repr

structure Channel where
  state   : ChanState
  alloc   : Nat
  recheck : Bool
  cause   : Nat
  cur     : Nat
  owner   : Option Ringer
  /-- requester the descriptor being executed is attributed to -/
  attr    : Option Ringer
  done    : BitVec 32
  /-- the descriptor's read is in progress: `some true` for a reread of words 0 and 1 -/
  fetching : Option Bool
  running : Option Running
  /-- earlier descriptors of the chain that await write responses, oldest first -/
  finishing : List Finishing
  /-- writes awaiting a response, oldest first: access number and stretches -/
  writes  : List (Nat × List (Nat × List Byte))
  nextAcc : Nat
  /-- writes whose response test perturbation delays, by access number, and the earliest beat of each (R489) -/
  delayed : List (Nat × Nat)
  /-- error found in the descriptor in progress, by cause -/
  failed  : Option Nat
  deriving DecidableEq, Repr

def Channel.initial : Channel :=
  { state := .off, alloc := 0, recheck := false, cause := 0, cur := 0, owner := none, attr := none,
    done := 0, fetching := none, running := none, finishing := [], writes := [], nextAcc := 0, delayed := [], failed := none }

/-! ## Tier columns -/

/-- One tier of a column: open row by bank, self-refresh, mode registers, near-bank unit (R175). -/
structure Tier where
  rows      : Tab (Option Nat)
  selfRef   : Bool
  /-- mode registers written by MRW -/
  mode      : Tab (Option (BitVec 32))
  record    : Tab (BitVec 64)
  running   : Bool
  sliceDone : Bool
  seqDone   : Bool
  badWord   : Bool
  units     : Nat
  /-- units of the slice that NBGO started last, and the beat of its start (R182, R183) -/
  slice     : Nat
  sliceAt   : Nat
  owed      : Nat
  /-- due time of the last REF that fell due (R171) -/
  refLast   : Nat
  /-- beat up to which a REF holds the tier (R171) -/
  refUntil  : Nat
  /-- bursts written into the training rows, by 8 × bank + burst: 1,024 data bytes and 128 check bytes (R190); what no command has
  written since the last training is open -/
  train     : Tab (Option (List Byte × List Byte))
  deriving DecidableEq, Repr

def Tier.initial : Tier :=
  { rows := [], selfRef := false, mode := [], record := [], running := false, sliceDone := false, seqDone := false,
    badWord := false, units := 0, slice := 0, sliceAt := 0, owed := 0, refLast := 0, refUntil := 0, train := [] }

/-- A near-bank command record accepted by a tier command port (R178), and the write that brought it. -/
structure NbRecord where
  words : List (BitVec 64)
  /-- number of the port write, so that its completion is seen -/
  port  : Nat
  /-- job that wrote it -/
  job   : Option (PartId × Fin 16)
  deriving DecidableEq, Repr

/-- A column and its tier controller; `retries` counts the alerts on the present command (R176). -/
structure Column where
  tiers     : Tab Tier
  hot       : Bool
  tempLost  : Bool
  temp      : BitVec 8
  /-- beat of the first report at or below 85 °C since the last one above -/
  coolSince : Option Nat
  lastFrame : Nat
  retries   : Nat
  active    : Option NbRecord
  unitsDone : Nat
  /-- the job of the running sequence has been stopped (R185) -/
  abandon   : Bool
  /-- records queued, at most 16 (R180) -/
  queue     : List NbRecord
  /-- records of port writes that wait for a place in the queue -/
  waiting   : List NbRecord
  /-- port writes that have met an error -/
  portErrs  : List Nat
  nextPort  : Nat
  /-- VCc_ALERT_N is low -/
  alert     : Bool
  /-- near-bank rows: RA of the working tier in bits below 2^15, tier above (R188) -/
  nearBank  : Tab Bool
  failStep  : Nat
  failPos   : Nat
  passed    : Bool
  /-- the packet last driven on VCc_CA (R175) -/
  packet    : BitVec 96
  /-- the burst last driven on VCc_DQ, and its check bytes on VCc_CB, in the order of R158 -/
  lastRead  : List Byte
  lastCheck : List Byte
  /-- beat at which refresh of the column began (R171, R189) -/
  refBase   : Nat
  deriving DecidableEq, Repr

def Column.initial : Column :=
  { tiers := [], hot := false, tempLost := false, temp := 0, coolSince := none, lastFrame := 0, retries := 0,
    active := none, unitsDone := 0, abandon := false, queue := [], waiting := [], portErrs := [], nextPort := 0, alert := false, nearBank := [], failStep := 0,
    failPos := 0, passed := false, packet := 0, lastRead := [], lastCheck := [], refBase := 0 }

/-! ## Page keeper and scout -/

/-- Who made a keeper call. -/
inductive Caller where
  | core (core : CoreId) (flag dest : Nat) (job : PartId × Fin 16)
  | host (path : Path)
  deriving DecidableEq, Repr

/-- A call the keeper has taken and not completed (R201). -/
structure PgkCall where
  id     : Nat
  part   : PartId
  op     : PgkOp
  pn     : BitVec 32
  n      : Nat
  caller : Caller
  /-- beat in which it reached the keeper (R201) -/
  beat   : Nat
  /-- new page of a copy in progress (R198) -/
  copyTo : Option Nat
  /-- the copy has finished -/
  copied : Bool
  /-- the table was down when the call reached the keeper -/
  down   : Bool
  deriving DecidableEq, Repr

/-- A page table as its registers describe it: arrays, entries, page size, copy channel (R191, R192, R205). -/
structure PgkTable where
  base   : Nat
  sums   : Nat
  count  : Nat
  size   : Nat
  region : Nat
  chan   : Nat
  deriving DecidableEq, Repr

def PgkTable.initial : PgkTable := ⟨0, 0, 0, 0x4000, 0, 0⟩

structure PgkPart where
  /-- the table that calls are served on: taken from the registers by the scan -/
  table    : PgkTable
  ready    : Bool
  scanning : Bool
  broken   : Bool
  cfgErr   : Bool
  closing  : Bool
  callBusy : Bool
  freeHead : BitVec 32
  freeCount : Nat
  deriving DecidableEq, Repr

def PgkPart.initial : PgkPart := ⟨PgkTable.initial, false, false, false, false, false, false, 0xFFFFFFFF#32, 0⟩

structure Pgk where
  parts  : Tab PgkPart
  calls  : List PgkCall
  nextId : Nat
  deriving DecidableEq, Repr

/-- A scout request being served (Table — Scout request record). -/
structure ScoutReq where
  words  : List (BitVec 64)
  status : Nat
  job    : Option (PartId × Fin 16)
  deriving DecidableEq, Repr

structure Scout where
  /-- firings of the request watch not yet served, oldest first: the job of the addition that each took (R224) -/
  fired   : List (Option (PartId × Fin 16))
  serving : Option ScoutReq
  deriving DecidableEq, Repr

/-! ## Host port, peer ports, outputs -/

/-- What an outbound transaction serves. -/
inductive Issuer where
  | op (core : CoreId) (op : Nat)
  /-- access `n` of the channel -/
  | dma (region : RegionId) (chan : ChanId) (n : Nat)
  | event (part : PartId) (index : BitVec 32)
  | message (part : PartId)
  | host (tag : PartId) (tid : Nat)
  | signal (core : CoreId) (job : Option (PartId × Fin 16))
  deriving DecidableEq, Repr

/-- What the block has sent, oldest first. -/
inductive OutMsg where
  | cpl (tag tid : Nat) (data : List Byte)
  | wrsp (tag tid : Nat)
  | err (tag tid cause : Nat)
  | hostRd (tag tid addr len : Nat)
  | hostWr (tag tid addr : Nat) (data : List Byte)
  /-- side-band answer: completion code, cause, data -/
  | side (code cause : Nat) (data : List Byte)
  /-- answer to a common command, MCTP control or PLDM message -/
  | bus (code : Nat) (data : List Byte)
  | nak
  | ibi
  /-- the side-band target sends `m` at the bus address it answers at; `smbus`: as an I²C target, under DSP0237 (R65) -/
  | target (address : BitVec 7) (smbus : Bool) (m : OutMsg)
  | peerWr (port tid addr : Nat) (data : List Byte)
  | peerRd (port tid addr len : Nat)
  | peerSig (port tid counter : Nat) (amount : BitVec 32)
  | peerAck (port tid : Nat)
  | peerNack (port tid cause : Nat)
  | peerRdata (port tid : Nat) (data : List Byte)
  | peerCrd (port req data : Nat)
  | peerPace (port f reason period seq : Nat)
  | peerInit (port : Nat) (blockId : Nat) (req data : Nat)
  deriving DecidableEq, Repr

/-- An outbound host-window transaction: waiting to be sent, awaiting its response, or answered (R452, R455). -/
structure Outbound where
  /-- the model's own number of it -/
  id     : Nat
  /-- its TID, once it is sent -/
  tid    : Nat
  tag    : PartId
  read   : Bool
  addr   : Nat
  len    : Nat
  /-- data of a write -/
  data   : List Byte
  issuer : Issuer
  /-- beat of its sending (R455) -/
  sentAt : Option Nat
  /-- its answer: an error, or the data -/
  reply  : Option (Option (List Byte))
  deriving DecidableEq, Repr

/-- Who made a register or memory access, and the transaction that is answered, where there is one. -/
structure Request where
  path : Path
  tid  : Option Nat
  deriving DecidableEq, Repr

/-- Why an inbound access waits. -/
inductive HeldWhy where
  /-- for a wake (R57), for an earlier write (R454) or for a near-bank sequence (R181) -/
  | wait
  /-- for the sequences of a port write: column and number of the write (R180) -/
  | port (col num : Nat)
  /-- for the start or the refusal of the partition's launch (R457) -/
  | launch (part : Nat)
  deriving DecidableEq, Repr

/-- An inbound access that waits. -/
structure HeldTx where
  req  : Request
  read : Bool
  addr : Nat
  len  : Nat
  data : List Byte
  why  : HeldWhy
  deriving DecidableEq, Repr

structure HostPort where
  outbound : List Outbound
  nextId   : Nat
  nextTid  : Nat
  held     : List HeldTx
  out      : List OutMsg
  deriving DecidableEq, Repr

inductive LinkState where
  | down | init | up | failed
  deriving DecidableEq, Repr

/-- A pace notice (R281, R282). -/
structure Pace where
  f      : Nat
  period : Nat
  reason : Nat
  seq    : Nat
  deriving DecidableEq, Repr

/-- An access on a peer port that awaits its ACK, NACK or RDATA (R274). -/
structure PeerAccess where
  tid    : Nat
  issuer : Issuer
  isSig  : Bool
  read   : Bool
  msg    : OutMsg
  /-- data flits, which need data credits (R273, R274) -/
  flits  : Nat
  /-- beat of its sending, once credits allowed it -/
  sentAt : Option Nat
  reply  : Option (Option (List Byte))
  deriving DecidableEq, Repr

structure Peer where
  link      : LinkState
  major     : Nat
  reqCred   : Nat
  dataCred  : Nat
  owedReq   : Nat
  owedData  : Nat
  nextTid   : Nat
  accesses  : List PeerAccess
  late      : List Nat
  rx        : Pace
  inForce   : Bool
  rxBeat    : Nat
  tx        : Pace
  /-- inbound messages that wait: for a wake (R443) or a near-bank sequence (R181) -/
  buffered  : List Instr
  /-- inbound writes to a tier command port that wait for their sequences: TID, column, number of the write (R180) -/
  ports     : List (Nat × Nat × Nat)
  /-- beat of entry to the present link state -/
  since     : Nat
  /-- beat at which the pace period began, and the held-beat counters then, by 16 × core + reason (R281) -/
  paceAt    : Nat
  paceBase  : Tab Nat
  deriving DecidableEq, Repr

def Peer.initial : Peer :=
  { link := .down, major := 0, reqCred := 0, dataCred := 0, owedReq := 0, owedData := 0, nextTid := 0, accesses := [],
    late := [], rx := ⟨0, 0, 0, 0⟩, inForce := false, rxBeat := 0, tx := ⟨0, 0, 0, 0⟩, buffered := [], ports := [],
    since := 0, paceAt := 0, paceBase := [] }

/-! ## Regulators, loops, telemetry, thermal -/

inductive VrState where
  | off | softStart | run | hiccup | failed
  deriving DecidableEq, Repr

/-- One regulator (chapter 12). Currents are in µA, voltages in µV, unless a field says otherwise. -/
structure Vr where
  state     : VrState
  enabled   : BitVec 8
  suspect   : BitVec 8
  /-- phases that switch while none is disabled: 8, 4, 2 or 1 (R327) -/
  level     : Nat
  /-- phases that switch, those included that leave in the shed step in progress, and the beat at which it ends (R328) -/
  leaving   : Nat
  busyTo    : Nat
  /-- beat at which the suspension of shedding ends (R331) -/
  suspended : Option Nat
  clamp     : Bool
  ocRun     : Nat
  /-- beats of the hiccups of the last 10 ms -/
  hiccups   : List Nat
  hiccupTot : Nat
  hiccupAt  : Nat
  undershoots : Nat
  /-- an undershoot response is in progress; half of its phases ended at the clamp; how long each phase fired, in ps (R330, R332) -/
  tripped   : Bool
  tripLim   : Bool
  fired     : Tab Nat
  otWarn    : Bool
  stage     : Tab (BitVec 8)
  trim      : Tab Int
  /-- soft start: beat it began, rail voltage then once sensed, rise in 50 µs (R339, R340) -/
  startAt   : Nat
  startRef  : Option Nat
  slope     : Nat
  /-- set-point of a service regulator as its soft start began, 0 for a core regulator (R339) -/
  goalUV    : Nat
  /-- rise of a soft start that waits for the region's service rail (R339) -/
  waitsFor  : Option Nat
  /-- failed, and steering its rail toward its carrier's until the tie closes (R304) -/
  steer     : Bool
  refUV     : Nat
  target    : Int
  lastErr   : Int
  /-- of each phase, in µA: the sum of the control law, the control current, and with trim and feed-forward (R317, R321, R323) -/
  ic        : Tab Int
  control   : Tab Int
  drive     : Tab Int
  /-- slope ramp of the present period in µA/ns, with feed-forward (R318, R321), and its clamp (R319) -/
  ramp      : Int
  peakUA    : Int
  /-- phases that switch in the present period, and when in the last one each turned its high side on and off, in ps (R316) -/
  pulsed    : List Nat
  highSide  : Tab (Nat × Nat)
  /-- consecutive periods of each phase without follow-through, with a failed sense, and 40 % off its siblings (R324, R325) -/
  lxsRun    : Tab Nat
  senseRun  : Tab Nat
  devRun    : Tab Nat
  /-- PWM periods of the soft start, and the phases that have followed through in it (R37) -/
  starts    : Nat
  followed  : BitVec 8
  /-- phases that the next period boundary disables -/
  lost      : BitVec 8
  /-- beat, plus one, of the last period boundary -/
  periodAt  : Nat
  lastStep  : Nat
  /-- beat, plus one, since which its rail has been within 10 mV of the set-point (R380) -/
  nearSince : Nat
  lastBal   : Nat
  /-- settings taken at the last soft start (R317, R318, R293, R339) -/
  comp      : BitVec 32
  ctrl      : BitVec 32
  /-- output current of the last 16 periods in mA, newest first (R320) -/
  outs      : List Nat
  sensed    : Nat
  /-- on-die sensors as last read, in µV; beats, plus one, since which each departs from the median, the remote point does, and the
  least in use lies 100 mV low; 0 while it does not (R294 to R296) -/
  sensors   : List Nat
  farSince  : Tab Nat
  remoteSince : Nat
  lowSince  : Nat
  /-- the service rail has been within 10 mV at a loop sample since its soft start (R391) -/
  live      : Bool
  deriving DecidableEq, Repr

def Vr.initial : Vr :=
  { state := .off, enabled := 0xFF, suspect := 0, level := 8, leaving := 8, busyTo := 0, suspended := none, clamp := false,
    ocRun := 0, hiccups := [], hiccupTot := 0, hiccupAt := 0, undershoots := 0, tripped := false, tripLim := false, fired := [], otWarn := false,
    stage := [], trim := [], startAt := 0, startRef := none, slope := 0, goalUV := 0, waitsFor := none, steer := false,
    refUV := 0, target := 0, lastErr := 0, ic := [], control := [], drive := [], ramp := 0, peakUA := 0, pulsed := [],
    highSide := [], lxsRun := [], senseRun := [], devRun := [], starts := 0, followed := 0, lost := 0, periodAt := 0,
    sensors := [], farSince := [], remoteSince := 0, lowSince := 0, live := false, lastStep := 0, nearSince := 0, lastBal := 0, comp := 0, ctrl := 0, outs := [], sensed := 0 }

/-- A learned entry (R363), in units of 0.01 A. -/
structure Learned where
  mean : Nat
  peak : Nat
  deriving DecidableEq, Repr

/-- Loop engine of a region and its power-up in the inrush arbiter. -/
structure RegionLoop where
  openSince : Option Nat
  /-- learned table: 256 × local core + phase -/
  learned   : Tab (Option Learned)
  /-- pending power-up: beat of its write, and its cores (R311) -/
  pendingUp : Option (Nat × BitVec 16)
  ramping   : Option (Nat × BitVec 16)
  /-- regions that the last forced ramp caps, and the beat at which that ramp ended (R312, R313) -/
  capped    : List Nat
  capEnd    : Option Nat
  /-- beat, plus one, in which the last ramp ended (R311) -/
  rampEnd   : Nat
  derated   : Bool
  /-- consecutive loop intervals with the mean of VPIL outside 1.60 V to 2.00 V (R499), and whether the last mean lay outside
  1.70 V to 1.95 V -/
  vpilBad   : Nat
  vpilOff   : Bool
  deriving DecidableEq, Repr

def RegionLoop.initial : RegionLoop :=
  { openSince := none, learned := [], pendingUp := none, ramping := none,
    capped := [], capEnd := none, rampEnd := 0, derated := false, vpilBad := 0, vpilOff := false }

/-- A telemetry channel (R382, R383): free-running accumulator, the two banks' trackers, the interval and the window. -/
structure TlmChan where
  sum    : BitVec 48
  count  : BitVec 32
  min0   : Nat
  max0   : Nat
  min1   : Nat
  max1   : Nat
  iSum   : Nat
  iCount : Nat
  iMax   : Nat
  /-- interval mean in force, as a sum and a count; no conversion yet while the count is 0 -/
  mSum   : Nat
  mCount : Nat
  /-- 1 µs held peak in force; 65,536 stands for the full scale (R383) -/
  peak   : Nat
  /-- intervals without a conversion, at most 16; 17 once declared stale -/
  stale  : Nat
  wSum   : Nat
  wCount : Nat
  wPeak  : Nat
  /-- least interval mean of the window, in 0.1 mV (channel 34) -/
  wMin   : Nat
  /-- the pair of its reading wires is broken, until a power cycle (R408) -/
  cut    : Bool
  deriving DecidableEq, Repr

def TlmChan.initial : TlmChan :=
  ⟨0, 0, 0xFFFF, 0, 0xFFFF, 0, 0, 0, 0, 0, 0, 0, 0, 0, 0, 0, 0xFFFF, false⟩

structure TlmRegion where
  chans   : Tab TlmChan
  /-- the reference has become usable since the last write of REF, and the beat, plus one, since which REF_SETTLED has been 0 (R380) -/
  settled : Bool
  refLow  : Nat
  /-- entry each converter runs next, and the beat in which its next slot may begin -/
  entry   : Tab Nat
  ended   : Tab Nat
  /-- slots in progress whose input is kept against writes of the sequence: beat of their start and their input (R376) -/
  slots   : Tab (Option (Nat × Nat))
  /-- beat, plus one, in which the last conversion of each converter ended (R379) -/
  convAt  : Tab Nat
  /-- beat, plus one, of the last snapshot of each bank, and whether it reset the bank's trackers (R382) -/
  snaps   : Tab (Nat × Bool)
  /-- spot conversions in progress: converter, input, beat of the write (R379) -/
  spots   : List (Nat × Nat × Nat)
  deriving DecidableEq, Repr

def TlmRegion.initial : TlmRegion := ⟨[], false, 0, [], [], [], [], [], []⟩

/-- Power manager (R355 to R361). Energies are in 2^-16 µJ, the resolution of R386. -/
structure PowerManager where
  /-- shared energy of the past intervals, newest first, at most 10,000 -/
  shared  : List Nat
  /-- block output energy of the past intervals, newest first, at most 10,000 -/
  output  : List Nat
  /-- intervals in which the block input current exceeded 1,050 A, newest first, at most 10,000 -/
  inCur   : List Bool
  /-- for each cap window: intervals since its restart, and the shared energy per interval assumed before it (R359) -/
  fills   : Tab (Nat × Nat)
  /-- η of the last 1 ms window, as a ratio (R356) -/
  eta     : Option (Nat × Nat)
  /-- output and input energy at the start of the present 1 ms window -/
  etaBase : Nat × Nat
  /-- output and input energy of the last 1 ms window -/
  winOut  : Nat
  winIn   : Nat
  /-- beats, plus one, of the last loop sample, application and 1 ms window end -/
  sampled : Nat
  applied : Nat
  windowed : Nat
  /-- energies (R386, R388): the block's, each region's, each job slot's -/
  eOut    : Nat
  eIn     : Nat
  regOut  : Tab Nat
  regIn   : Tab Nat
  slots   : Tab Nat
  /-- what the last sample added to each slot (R389) -/
  added   : Tab Nat
  /-- external hold in force for each partition, and the beat of its last write (R345, R346) -/
  xhold   : Tab (Nat × Nat)
  /-- beat at which the coolant condition ended, while its ceiling is still to be lifted (R346) -/
  cool    : Option Nat
  deriving DecidableEq, Repr

def PowerManager.initial : PowerManager :=
  { shared := [], output := [], inCur := [], fills := [], eta := none, etaBase := (0, 0), winOut := 0, winIn := 0, sampled := 0, applied := 0,
    windowed := 0, eOut := 0, eIn := 0, regOut := [], regIn := [], slots := [], added := [], xhold := [], cool := none }

/-- A thermal sensor (R391 to R394). -/
structure Sensor where
  suspect : Bool
  /-- it has produced a reading -/
  valid   : Bool
  /-- it has produced a reading since software last cleared SUSPECT (R394) -/
  fresh   : Bool
  temp    : BitVec 16
  /-- consecutive conversions beyond the deviation limit -/
  dev     : Nat
  /-- its reading wire is broken (R408) -/
  cut     : Bool
  /-- beat, plus one, of its last conversion -/
  convAt  : Nat
  deriving DecidableEq, Repr

def Sensor.initial : Sensor := ⟨false, false, false, 0, 0, false, 0⟩

structure Thermal where
  sensors : Tab Sensor
  /-- core temperature T, in 0.125 °C, once computed (R395) -/
  coreT   : Tab (Option Int)
  /-- greatest T of a core, or reading of a service sensor at its number, in the loop interval -/
  maxT    : Tab (Option Int)
  subst   : Tab Bool
  /-- THERM_WARN, and the cores at the hard hold, as last found (R396) -/
  warned  : Bool
  held    : List Nat
  deriving DecidableEq, Repr

/-! ## Jobs, side-band, perturbation -/

inductive JobState where
  | free | loading | running | ended | stopped | refused
  deriving DecidableEq, Repr

/-- One entry of a launch record (Table — Launch record). -/
structure LaunchEntry where
  core    : CoreId
  group   : Nat
  grouped : Bool
  base    : Nat
  len     : Nat
  deriving DecidableEq, Repr

structure Job where
  state   : JobState
  cause   : Nat
  cores   : List LaunchEntry
  slot    : Option Nat
  slotClr : Bool
  /-- quiet beats of the deadlock timer, and whether this beat is known not to be quiet (R244) -/
  quiet   : Nat
  loud    : Bool
  /-- cores that had not ended when the job was stopped -/
  left    : Nat
  deriving DecidableEq, Repr

def Job.initial : Job := ⟨.free, 0, [], none, false, 0, false, 0⟩

/-- A partition commit in progress (R465): the table it will bring into force and the partitions it changes. -/
structure Commit where
  busy   : Bool
  scrub  : Bool
  cause  : Nat
  part   : Nat
  wanted : Tab (BitVec 32)
  parts  : List Nat
  /-- earliest beat at which its zero writes can be complete (R465, R466) -/
  doneAt : Nat
  deriving DecidableEq, Repr

structure Sideband where
  i3c    : Bool
  da     : BitVec 7
  eid    : BitVec 8
  ibiOn  : Bool
  mrl    : BitVec 16
  mwl    : BitVec 16
  tid    : BitVec 8
  /-- MCTP responses that wait to be read -/
  waiting : Nat
  deriving DecidableEq, Repr

structure Perturb where
  unlocked : Bool
  first    : Option Nat
  lfsr     : Tab (BitVec 32)
  forced   : BitVec 32
  /-- conversions still to force in each region (R489) -/
  left     : Tab Nat
  /-- the unit locks with the next beat (R488) -/
  locking  : Bool
  deriving DecidableEq, Repr

/-! ## The state -/

structure State where
  /-- commands that wait, first in first out -/
  pending : List Instr
  /-- block beat counter (R79) -/
  beat    : BitVec 64
  /-- the model's own counter of free values drawn (log entry 2) -/
  draws   : Nat
  regs    : Tab (BitVec 32)
  /-- shadows of R15, by 2^26 × path + window offset of the low half -/
  shadows : Tab (BitVec 32)
  /-- core stores and tier columns, by physical block address -/
  mem     : Memory
  /-- check byte of each aligned 8-byte word, by address div 8 (R152, R155) -/
  check   : Tab (BitVec 8)
  cores   : Tab Core
  pins    : Pins
  boot    : Boot
  nvm     : Nvm
  faults  : Faults
  events  : Tab EventPart
  sync    : Sync
  dma     : Tab Channel
  columns : Tab Column
  pgk     : Pgk
  scouts  : Tab Scout
  host    : HostPort
  peers   : Tab Peer
  vrs     : Tab Vr
  loops   : Tab RegionLoop
  tlm     : Tab TlmRegion
  power   : PowerManager
  thermal : Thermal
  jobs    : Tab Job
  commit  : Commit
  side    : Sideband
  perturb : Perturb
  /-- W1C bits set in this beat, by window offset: a clear of the same beat leaves them (R14) -/
  marks   : Tab (BitVec 32)
  deriving DecidableEq, Repr

/-- Reasons the machine stops with a fault. There is none: the spec gives every command of the table an effect, an
error response, or a state in which its event does not occur. -/
inductive Fault where
  deriving DecidableEq, Repr

/-- Reasons a command has no meaning. -/
inductive Refusal where
  /-- Raised only by an arm of `exec` whose command the model does not give a meaning. Safe: nothing is claimed of it. -/
  | notModelled (mnemonic : String)
  deriving DecidableEq, Repr

def FaultCopy.initial : FaultCopy :=
  { sources := [], evqTags := 1, clrTags := 1, hold := false, route := 0x18, width := 1, held := false }

/-- Power-up before STBY_OK: every input low, everything unpowered (first row of Table — Supply status outcomes),
registers at the values of the register summary. -/
def State.reset : State :=
  { pending := [], beat := 0, draws := 0, regs := [], shadows := [], mem := [], check := [], cores := [],
    pins := { stbyOk := false, pillarOk := false, pwrGood := false, rstN := false, coolantOk := false, refclk := true,
              pillarSeen := false, pwrSeen := false, rstSeen := false, tripLow := false, alarmZ := true, linkUp := 0, vrefUV := 0, vrefSince := 0, pillarAt := 0, pwrAt := 0 },
    boot := .initial, nvm := .initial,
    faults := { one := .initial, two := .initial, selfFail := false, pulse := false, pulseEnd := 0,
                inj := ⟨false, 0, 0x1FF, 0, 0⟩, persist := [], broken := [] },
    events := [], sync := ⟨[], [], [], [], [], [], []⟩, dma := [], columns := [], pgk := ⟨[], [], 0⟩, scouts := [],
    host := ⟨[], 0, 0, [], []⟩, peers := [], vrs := [], loops := [], tlm := [],
    power := .initial, thermal := ⟨[], [], [], [], false, []⟩, jobs := [],
    commit := ⟨false, false, 0, 0, [], [], 0⟩,
    side := { i3c := false, da := 0, eid := 0, ibiOn := false, mrl := 68, mwl := 68, tid := 0, waiting := 0 },
    perturb := ⟨false, none, [], 0, [], false⟩, marks := [] }

end Sys2Proof.Machine
end

