-- ==== Sys2Proof/Machine/Ops.lean ====
section
/-! DEFINITION. The named operations over the state: one writer per field, the register file, the indexed parts, bit fields,
geometry, partition ownership and the block state. -/

namespace Sys2Proof.Machine

/-! ## One writer per field of the state -/

def State.setPending (s : State) (v : List Instr) : State := { s with pending := v }
def State.setBeat (s : State) (v : BitVec 64) : State := { s with beat := v }
def State.setDraws (s : State) (v : Nat) : State := { s with draws := v }
def State.setRegs (s : State) (v : Tab (BitVec 32)) : State := { s with regs := v }
def State.setShadows (s : State) (v : Tab (BitVec 32)) : State := { s with shadows := v }
def State.setMem (s : State) (v : Memory) : State := { s with mem := v }
def State.setCheck (s : State) (v : Tab (BitVec 8)) : State := { s with check := v }
def State.setCores (s : State) (v : Tab Core) : State := { s with cores := v }
def State.setPins (s : State) (v : Pins) : State := { s with pins := v }
def State.setBoot (s : State) (v : Boot) : State := { s with boot := v }
def State.setNvm (s : State) (v : Nvm) : State := { s with nvm := v }
def State.setFaults (s : State) (v : Faults) : State := { s with faults := v }
def State.setEvents (s : State) (v : Tab EventPart) : State := { s with events := v }
def State.setSync (s : State) (v : Sync) : State := { s with sync := v }
def State.setDma (s : State) (v : Tab Channel) : State := { s with dma := v }
def State.setColumns (s : State) (v : Tab Column) : State := { s with columns := v }
def State.setPgk (s : State) (v : Pgk) : State := { s with pgk := v }
def State.setScouts (s : State) (v : Tab Scout) : State := { s with scouts := v }
def State.setHost (s : State) (v : HostPort) : State := { s with host := v }
def State.setPeers (s : State) (v : Tab Peer) : State := { s with peers := v }
def State.setVrs (s : State) (v : Tab Vr) : State := { s with vrs := v }
def State.setLoops (s : State) (v : Tab RegionLoop) : State := { s with loops := v }
def State.setTlm (s : State) (v : Tab TlmRegion) : State := { s with tlm := v }
def State.setPower (s : State) (v : PowerManager) : State := { s with power := v }
def State.setThermal (s : State) (v : Thermal) : State := { s with thermal := v }
def State.setJobs (s : State) (v : Tab Job) : State := { s with jobs := v }
def State.setCommit (s : State) (v : Commit) : State := { s with commit := v }
def State.setSide (s : State) (v : Sideband) : State := { s with side := v }
def State.setPerturb (s : State) (v : Perturb) : State := { s with perturb := v }

def State.setMarks (s : State) (v : Tab (BitVec 32)) : State := { s with marks := v }

/-- Runs `f` for each item in turn. -/
def State.each {α : Type} (l : List α) (f : α → State → State) (s : State) : State :=
  l.foldl (fun t a => f a t) s

/-! ## Numbers and bit fields -/

/-- Bits [lo + len − 1 : lo] of a number. -/
def fld (v lo len : Nat) : Nat := v / 2 ^ lo % 2 ^ len

/-- Bit `i` of a number. -/
def bitOf (v i : Nat) : Bool := v / 2 ^ i % 2 = 1

/-- The number with bits [lo + len − 1 : lo] replaced by `x`. -/
def setFld (v lo len x : Nat) : Nat :=
  v - fld v lo len * 2 ^ lo + x % 2 ^ len * 2 ^ lo

def b2n (b : Bool) : Nat := if b then 1 else 0

/-- Field of a register value from its low bit, value truncated to its length. -/
def at' (lo len x : Nat) : Nat := x % 2 ^ len * 2 ^ lo

def w32 (n : Nat) : Word := BitVec.ofNat 32 n

/-- Saturating increment. -/
def satInc (v top : Nat) : Nat := if v < top then v + 1 else top

def clampTo (lo hi v : Nat) : Nat := if v < lo then lo else if hi < v then hi else v

/-- Signed value of the low `n` bits. -/
def signedOf (n v : Nat) : Int :=
  if v % 2 ^ n < 2 ^ (n - 1) then Int.ofNat (v % 2 ^ n) else Int.ofNat (v % 2 ^ n) - Int.ofNat (2 ^ n)

/-- Two's complement of a signed value in `n` bits. -/
def toTwos (n : Nat) (v : Int) : Nat := (v % (2 ^ n : Int)).toNat

def maskOf (l : List Nat) : Nat := l.foldl (fun m i => if bitOf m i then m else m + 2 ^ i) 0

/-- Number of set bits among the low `n`. -/
def popCount (n v : Nat) : Nat := ((List.range n).filter (bitOf v)).length

/-- Indexes of the set bits among the low `n`, ascending. -/
def bitsOf (n v : Nat) : List Nat := (List.range n).filter (bitOf v)

def maxOf (l : List Int) : Option Int :=
  l.foldl (fun m x => match m with | none => some x | some y => some (if y < x then x else y)) none

/-- A value put in its place in an ascending list. -/
def insertBy {α : Type} (key : α → Int) (x : α) : List α → List α
  | [] => [x]
  | y :: t => if key x < key y then x :: y :: t else y :: insertBy key x t

/-- Stable sort by an ascending key. -/
def sortBy {α : Type} (key : α → Int) (l : List α) : List α := l.foldl (fun t x => insertBy key x t) []

/-- Median of a list of readings: the middle one, or the mean of the two middle ones (R314, R393), truncated toward
negative infinity. -/
def median (l : List Int) : Int :=
  let t := sortBy id l
  let n := t.length
  if n = 0 then 0
  else if n % 2 = 1 then t.getD (n / 2) 0
  else (t.getD (n / 2 - 1) 0 + t.getD (n / 2) 0) / 2

/-! ## The block beat counter and free values -/

/-- The block beat as a number. -/
def State.now (s : State) : Nat := s.beat.toNat

/-- One more free value has been drawn. -/
def State.drawn (s : State) : State := s.setDraws (s.draws + 1)

/-! ## The register file -/

def State.reg (s : State) (o : Nat) : Word := tabGet regReset s.regs o
def State.regN (s : State) (o : Nat) : Nat := (s.reg o).toNat
def State.putReg (s : State) (o : Nat) (v : Nat) : State := s.setRegs (tabSet regReset s.regs o (w32 v))

/-! ## W1C bits (R12, R14) -/

/-- W1C bits of the register at `o` are set in this beat. -/
def State.mark (s : State) (o bits : Nat) : State :=
  if bits = 0 then s
  else s.setMarks (tabSet (fun _ => 0) s.marks o (tabGet (fun _ => 0) s.marks o ||| BitVec.ofNat 32 bits))

/-- Bits that a write of `v` to the W1C register at `o` clears: those not set in this same beat. -/
def State.clears (s : State) (o v : Nat) : Nat :=
  v &&& (4294967295 - (tabGet (fun _ => (0 : BitVec 32)) s.marks o).toNat)

/-! ## Indexed parts -/

def State.core (s : State) (c : Nat) : Core := tabGet (fun _ => Core.initial) s.cores c
def State.putCore (s : State) (c : Nat) (x : Core) : State := s.setCores (tabSet (fun _ => Core.initial) s.cores c x)
def State.modCore (s : State) (c : Nat) (f : Core → Core) : State := s.putCore c (f (s.core c))
def State.modSeq (s : State) (c : Nat) (f : Sequencer → Sequencer) : State :=
  s.modCore c fun x => { x with seq := f x.seq }
def State.modPower (s : State) (c : Nat) (f : CorePower → CorePower) : State :=
  s.modCore c fun x => { x with power := f x.power }

/-- Every core with an entry of its own is changed by `f`; `f` leaves a core at its reset value as it is. -/
def State.mapCores (s : State) (f : Core → Core) : State := s.setCores (tabMap (fun _ => Core.initial) (fun _ x => f x) s.cores)

/-- CORE_AVAIL of every core reads 0 (R25). -/
def State.clearAvail (s : State) : State := s.mapCores fun x => { x with power := { x.power with avail := false } }

def State.evq (s : State) (p : Nat) : EventPart := tabGet (fun _ => EventPart.initial) s.events p
def State.modEvq (s : State) (p : Nat) (f : EventPart → EventPart) : State :=
  s.setEvents (tabSet (fun _ => EventPart.initial) s.events p (f (s.evq p)))

/-- Channel `k` of region `r`. -/
def State.chan (s : State) (r k : Nat) : Channel := tabGet (fun _ => Channel.initial) s.dma (32 * r + k)
def State.modChan (s : State) (r k : Nat) (f : Channel → Channel) : State :=
  s.setDma (tabSet (fun _ => Channel.initial) s.dma (32 * r + k) (f (s.chan r k)))

def State.column (s : State) (c : Nat) : Column := tabGet (fun _ => Column.initial) s.columns c
def State.modColumn (s : State) (c : Nat) (f : Column → Column) : State :=
  s.setColumns (tabSet (fun _ => Column.initial) s.columns c (f (s.column c)))

def State.peer (s : State) (n : Nat) : Peer := tabGet (fun _ => Peer.initial) s.peers n
def State.modPeer (s : State) (n : Nat) (f : Peer → Peer) : State :=
  s.setPeers (tabSet (fun _ => Peer.initial) s.peers n (f (s.peer n)))

def State.vr (s : State) (v : Nat) : Vr := tabGet (fun _ => Vr.initial) s.vrs v
def State.modVr (s : State) (v : Nat) (f : Vr → Vr) : State :=
  s.setVrs (tabSet (fun _ => Vr.initial) s.vrs v (f (s.vr v)))

def State.loop (s : State) (r : Nat) : RegionLoop := tabGet (fun _ => RegionLoop.initial) s.loops r
def State.modLoop (s : State) (r : Nat) (f : RegionLoop → RegionLoop) : State :=
  s.setLoops (tabSet (fun _ => RegionLoop.initial) s.loops r (f (s.loop r)))

def State.tlmR (s : State) (r : Nat) : TlmRegion := tabGet (fun _ => TlmRegion.initial) s.tlm r
def State.modTlm (s : State) (r : Nat) (f : TlmRegion → TlmRegion) : State :=
  s.setTlm (tabSet (fun _ => TlmRegion.initial) s.tlm r (f (s.tlmR r)))

def State.job (s : State) (p j : Nat) : Job := tabGet (fun _ => Job.initial) s.jobs (16 * p + j)
def State.modJob (s : State) (p j : Nat) (f : Job → Job) : State :=
  s.setJobs (tabSet (fun _ => Job.initial) s.jobs (16 * p + j) (f (s.job p j)))

def State.keeper (s : State) (p : Nat) : PgkPart := tabGet (fun _ => PgkPart.initial) s.pgk.parts p
def State.modKeeper (s : State) (p : Nat) (f : PgkPart → PgkPart) : State :=
  s.setPgk { s.pgk with parts := tabSet (fun _ => PgkPart.initial) s.pgk.parts p (f (s.keeper p)) }

def scoutInitial (_ : Nat) : Scout := ⟨[], none⟩
def State.scout (s : State) (r : Nat) : Scout := tabGet scoutInitial s.scouts r
def State.modScout (s : State) (r : Nat) (f : Scout → Scout) : State :=
  s.setScouts (tabSet scoutInitial s.scouts r (f (s.scout r)))

def State.modBoot (s : State) (f : Boot → Boot) : State := s.setBoot (f s.boot)
def State.modNvm (s : State) (f : Nvm → Nvm) : State := s.setNvm (f s.nvm)
def State.modPins (s : State) (f : Pins → Pins) : State := s.setPins (f s.pins)

/-- Sends a message out of the block. -/
def State.send (s : State) (m : OutMsg) : State := s.setHost { s.host with out := s.host.out ++ [m] }

/-! ## Core registers that a bundle names -/

def sDefault (_ : Nat) : BitVec 64 := 0

/-- S0 reads zero (R97). -/
def Core.s (x : Core) (i : Nat) : BitVec 64 := if i = 0 then 0 else tabGet sDefault x.regs.s i
def Core.putS (x : Core) (i : Nat) (v : BitVec 64) : Core :=
  if i = 0 then x else { x with regs := { x.regs with s := tabSet sDefault x.regs.s i v } }

/-- Landing flag count (R82). -/
def Core.flag (x : Core) (i : Nat) : Nat := tabGet (fun _ => 0) x.flags i
def Core.putFlag (x : Core) (i n : Nat) : Core := { x with flags := tabSet (fun _ => 0) x.flags i n }

def Core.slot (x : Core) (i : Nat) : WatchSlot := tabGet (fun _ => WatchSlot.idle) x.slots i
def Core.putSlot (x : Core) (i : Nat) (v : WatchSlot) : Core :=
  { x with slots := tabSet (fun _ => WatchSlot.idle) x.slots i v }

def Core.accSet (x : Core) (a : Nat) : AccSet := tabGet (fun _ => AccSet.cleared) x.regs.acc a
def Core.putAcc (x : Core) (a : Nat) (v : AccSet) : Core :=
  { x with regs := { x.regs with acc := tabSet (fun _ => AccSet.cleared) x.regs.acc a v } }

def Core.xReg (x : Core) (i : Nat) : XReg := tabGet (fun _ => XReg.zero) x.regs.x i
def Core.putX (x : Core) (i : Nat) (v : XReg) : Core :=
  { x with regs := { x.regs with x := tabSet (fun _ => XReg.zero) x.regs.x i v } }

/-- 1,024 bytes of vector register `r`. -/
def Core.vBytes (x : Core) (r : Nat) : List Byte := memRead x.regs.v (1024 * r) 1024

/-! ## Geometry (R5, R16, R17, R236) -/

def regionOf (c : Nat) : Nat := c / 16
def meshX (c : Nat) : Nat := 4 * ((c / 16) % 4) + c % 4
def meshY (c : Nat) : Nat := 4 * (c / 64) + (c % 16) / 4

/-- The core at a mesh column and row. -/
def coreAt (x y : Nat) : Nat := 16 * (4 * (y / 4) + x / 4) + 4 * (y % 4) + x % 4

def natDist (a b : Nat) : Nat := if a ≤ b then b - a else a - b

/-- Region distance on the 4 × 4 grid (R236). -/
def regionDist (r t : Nat) : Nat := natDist (r % 4) (t % 4) + natDist (r / 4) (t / 4)

/-- Transit time of the sync network, ceil(d / 3) (R236). -/
def transit (r t : Nat) : Nat := (regionDist r t + 2) / 3

/-- Regions at distance 1. -/
def regionNeighbours (r : Nat) : List Nat := (List.range 16).filter fun t => regionDist r t = 1

/-- Tie neighbours of a core with their direction code: 0 east, 1 south, 2 west, 3 north (R17, PWR_TIE). -/
def tieNeighbours (c : Nat) : List (Nat × Nat) :=
  let x := meshX c
  let y := meshY c
  (if x < 15 then [(0, coreAt (x + 1) y)] else []) ++ (if y < 15 then [(1, coreAt x (y + 1))] else []) ++
  (if 0 < x then [(2, coreAt (x - 1) y)] else []) ++ (if 0 < y then [(3, coreAt x (y - 1))] else [])

def coresOf (r : Nat) : List Nat := (List.range 16).map fun j => 16 * r + j

/-! ## Partitions (R448, R449) -/

def partBase (p : Nat) : Nat := 0x100000 + p * 0x100

def State.partEn (s : State) (p : Nat) : Bool := bitOf (s.regN (partBase p)) 31

/-- Regions that partition `p` owns; none while its EN is 0 (R451). -/
def State.partRegions (s : State) (p : Nat) : Nat :=
  if s.partEn p then fld (s.regN (partBase p)) 0 16 else 0

def State.ownsRegion (s : State) (p r : Nat) : Bool := bitOf (s.partRegions p) r

/-- Partition that owns region `r`. -/
def State.regionOwner (s : State) (r : Nat) : Option Nat :=
  (List.range 8).find? fun p => s.ownsRegion p r

/-- Partition that owns energy slot `t` (R388). -/
def State.ownsSlot (s : State) (p t : Nat) : Bool := s.partEn p && bitOf (s.regN (partBase p + 4)) t

/-! ## Block state (R24) -/

def baseCode : BaseState → Nat
  | .reset => 0 | .config => 1 | .train => 3 | .ready => 4 | .idle => 8

/-- STATE: the first of GRAVE, SAFE, HOLD, COOLANT that stands, else the state of the sequence (R24). COOLANT shows once
the reset sequence would have entered READY (R52, R513), until the power-ups of a RESUME have ended (R401). -/
def State.blockState (s : State) : Nat :=
  if s.boot.grave then 6
  else if s.boot.safe then 5
  else if s.boot.hold then 2
  else if (s.boot.coolant || s.boot.resuming) && (s.boot.base = .ready || s.boot.base = .idle) then 7
  else baseCode s.boot.base

/-- The block is in SAFE, or in GRAVE, which takes every action of SAFE (R418, R420). -/
def State.shut (s : State) : Bool := s.boot.safe || s.boot.grave

/-- A reset sequence runs, before its step 10. -/
def State.sequenceRuns (s : State) : Bool :=
  !(s.boot.base = .ready || s.boot.base = .idle) && !s.boot.hold && !s.boot.safe && !s.boot.grave

/-- The Coolant ceiling of 0 applies (R345, R399, R513): from the loss until a RESUME, outside the reset sequence. -/
def State.coolantHeld (s : State) : Bool := s.boot.coolant && !s.sequenceRuns

/-- The service rail of region `r` is up. -/
def State.serviceOn (s : State) (r : Nat) : Bool := bitOf s.boot.serviceUp.toNat r

/-- Jobs in the table that are running. -/
def State.runningJobs (s : State) : List (Nat × Nat) :=
  (s.jobs.filter fun e => e.2.state = .running).map fun e => (e.1 / 16, e.1 % 16)

def jobOf (j : PartId × Fin 16) : Nat × Nat := (j.1.val, j.2.val)

end Sys2Proof.Machine
end

