-- ==== Sys2Proof/Machine/Flags.lean ====
section
/-! DEFINITION. Number formats, exact values, the one rounding, and the CORE_ARITH bits (chapter 05, R122 to R146, R510).

Marks: PRESUMED (log entry 4), DESIGN CHOICE (log entry 61). -/

namespace Sys2Proof.Machine

/-! ## CORE_ARITH bits -/

def arDeepRange : BitVec 5 := 1
def arMaskedRow : BitVec 5 := 2
def arOutSat : BitVec 5 := 4
def arXRange : BitVec 5 := 8
def arNanOut : BitVec 5 := 16

/-! ## Formats (Table — Element formats) -/

/-- A floating format: mantissa bits, exponent bits, bias, code of the largest finite value, code of +Inf where it has
one, canonical NaN. Codes are without the sign. -/
structure Fmt where
  man  : Nat
  exp  : Nat
  bias : Nat
  top  : Nat
  inf  : Option Nat
  nan  : Nat

def fmtFp32 : Fmt := ⟨23, 8, 127, 0x7F7FFFFF, some 0x7F800000, 0x7FC00000⟩
def fmtBf16 : Fmt := ⟨7, 8, 127, 0x7F7F, some 0x7F80, 0x7FC0⟩
def fmtFp16 : Fmt := ⟨10, 5, 15, 0x7BFF, some 0x7C00, 0x7E00⟩
def fmtE4M3 : Fmt := ⟨3, 4, 7, 0x7E, none, 0x7F⟩
def fmtE5M2 : Fmt := ⟨2, 5, 15, 0x7B, some 0x7C, 0x7E⟩
def fmtE2M1 : Fmt := ⟨1, 2, 1, 0x7, none, 0x7⟩
def fmtE2M3 : Fmt := ⟨3, 2, 1, 0x1F, none, 0x1F⟩
def fmtE3M2 : Fmt := ⟨2, 3, 3, 0x1F, none, 0x1F⟩

def Fmt.width (f : Fmt) : Nat := f.man + f.exp + 1

/-- An exact value: a NaN, an infinity by sign, or an integer multiple of 2^-149; a zero keeps its sign. -/
inductive Val where
  | nan
  | inf (neg : Bool)
  | fin (neg : Bool) (mag : Nat)
  deriving DecidableEq, Repr

def Val.isNan : Val → Bool
  | .nan => true
  | _ => false

/-- The signed integer multiple of 2^-149 of a finite value. -/
def Val.int : Val → Int
  | .fin neg m => if neg then - Int.ofNat m else Int.ofNat m
  | _ => 0

/-- Exact value of a code of a floating format (R122). Every format of the block is coarser than 2^-149. -/
def Fmt.value (f : Fmt) (code : Nat) : Val :=
  let neg := bitOf code (f.man + f.exp)
  let c := code % 2 ^ (f.man + f.exp)
  let e := c / 2 ^ f.man
  let m := c % 2 ^ f.man
  if c = (f.inf.getD (2 ^ 40)) then .inf neg
  else if f.top < c then .nan
  else
    -- value = mantissa × 2^(max e 1 − bias − man), in units of 2^-149
    let q := if e = 0 then m else 2 ^ f.man + m
    .fin neg (q * 2 ^ ((if e = 0 then 1 else e) + 149 - f.bias - f.man))

/-- One rounding to nearest, ties to even, of a positive value `m × 2^(−s)`, as a code without upper limit on its exponent
(R137). With `sticky`, the value lies strictly between m and m + 1 units. -/
def Fmt.round (f : Fmt) (m s : Nat) (sticky : Bool) : Nat :=
  -- the smallest step of the format is 2^(1 − bias − man); both scales are shifted by s + bias + man − 1
  let low := f.bias + f.man - 1
  let l := Nat.log2 m
  -- exponent of the unit in the last place, as a shift of m; at least the smallest step
  let shiftMin : Int := Int.ofNat s - Int.ofNat low
  let shiftN : Int := Int.ofNat l - Int.ofNat f.man
  let sh : Int := if shiftMin ≤ shiftN then shiftN else shiftMin
  let base := (sh - shiftMin).toNat
  if m = 0 then 0
  else if sh ≤ 0 then base * 2 ^ f.man + m * 2 ^ (-sh).toNat
  else
    let d := 2 ^ sh.toNat
    let q := m / d
    let r := m % d
    let up := decide (d < 2 * r) || (decide (2 * r = d) && (sticky || decide (q % 2 = 1)))
    base * 2 ^ f.man + (if up then q + 1 else q)

def signBit (f : Fmt) (neg : Bool) (code : Nat) : Nat := if neg then code + 2 ^ (f.man + f.exp) else code

/-- FP32 result of an exact value in units of 2^(−s): overflow gives ±Inf (R125). -/
def fp32Of (neg : Bool) (m s : Nat) (sticky : Bool) : Nat :=
  let c := fmtFp32.round m s sticky
  signBit fmtFp32 neg (if 0x7F800000 ≤ c then 0x7F800000 else c)

def fp32Nan : Nat := 0x7FC00000

/-- Rounded code with saturation (R137, R138), and whether it saturated. A nonzero negative value that rounds to zero gives the
zero of its sign; R137 states +0 for an exact zero alone (log entry 61). -/
def Fmt.saturate (f : Fmt) (neg : Bool) (m s : Nat) : Nat × Bool :=
  let c := f.round m s false
  if f.top < c then (signBit f neg f.top, true) else (signBit f neg c, false)

/-! ## FP32 lane arithmetic (R125, R126) -/

def fpVal (c : Nat) : Val := fmtFp32.value c

def fpAddVal (a b : Val) : Nat :=
  match a, b with
  | .nan, _ => fp32Nan
  | _, .nan => fp32Nan
  | .inf x, .inf y => if x = y then signBit fmtFp32 x 0x7F800000 else fp32Nan
  | .inf x, .fin _ _ => signBit fmtFp32 x 0x7F800000
  | .fin _ _, .inf y => signBit fmtFp32 y 0x7F800000
  | .fin x m, .fin y n =>
    let z := Val.int (.fin x m) + Val.int (.fin y n)
    if z = 0 then signBit fmtFp32 (decide (m = 0) && decide (n = 0) && x && y) 0
    else fp32Of (decide (z < 0)) z.natAbs 149 false

def Val.neg : Val → Val
  | .nan => .nan
  | .inf x => .inf (!x)
  | .fin x m => .fin (!x) m

def fpAdd (a b : Nat) : Nat := fpAddVal (fpVal a) (fpVal b)
def fpSub (a b : Nat) : Nat := fpAddVal (fpVal a) (fpVal b).neg

def fpMul (a b : Nat) : Nat :=
  match fpVal a, fpVal b with
  | .nan, _ => fp32Nan
  | _, .nan => fp32Nan
  | .inf x, .inf y => signBit fmtFp32 (x != y) 0x7F800000
  | .inf x, .fin y n => if n = 0 then fp32Nan else signBit fmtFp32 (x != y) 0x7F800000
  | .fin x m, .inf y => if m = 0 then fp32Nan else signBit fmtFp32 (x != y) 0x7F800000
  | .fin x m, .fin y n => fp32Of (x != y) (m * n) 298 false

/-- a × b + c with one rounding. -/
def fpFma (a b c : Nat) : Nat :=
  match fpVal a, fpVal b, fpVal c with
  | .nan, _, _ => fp32Nan
  | _, .nan, _ => fp32Nan
  | .fin x m, .fin y n, .fin z k =>
    let p : Int := if x != y then - Int.ofNat (m * n) else Int.ofNat (m * n)
    let q : Int := (if z then - Int.ofNat k else Int.ofNat k) * (2 ^ 149 : Nat)
    let t := p + q
    if t = 0 then signBit fmtFp32 (decide (m * n = 0) && decide (k = 0) && (x != y) && z) 0
    else fp32Of (decide (t < 0)) t.natAbs 298 false
  | .fin _ _, .fin _ _, .nan => fp32Nan
  | .fin _ _, .fin _ _, .inf z => signBit fmtFp32 z 0x7F800000
  | va, vb, vc =>
    -- the product is an infinity, or Inf × 0
    let zero := decide (va = .fin false 0) || decide (va = .fin true 0) || decide (vb = .fin false 0) ||
      decide (vb = .fin true 0)
    let neg := (match va with | .inf x => x | .fin x _ => x | .nan => false) !=
      (match vb with | .inf x => x | .fin x _ => x | .nan => false)
    if zero then fp32Nan
    else match vc with
      | .nan => fp32Nan
      | .inf z => if z = neg then signBit fmtFp32 neg 0x7F800000 else fp32Nan
      | .fin _ _ => signBit fmtFp32 neg 0x7F800000

/-- Rank of a value that orders −0 below +0 and the infinities at the ends (R126). -/
def fpRank (c : Nat) : Int :=
  if bitOf c 31 then - Int.ofNat (c % 2 ^ 31) - 1 else Int.ofNat c

def fpIsNan (c : Nat) : Bool := (fpVal c).isNan

def fpMax (a b : Nat) : Nat :=
  if fpIsNan a || fpIsNan b then fp32Nan else if fpRank a < fpRank b then b else a

def fpMin (a b : Nat) : Nat :=
  if fpIsNan a || fpIsNan b then fp32Nan else if fpRank b < fpRank a then b else a

def fpEq (a b : Nat) : Bool :=
  !(fpIsNan a || fpIsNan b) && (decide (a = b) || decide (a % 2 ^ 31 = 0 ∧ b % 2 ^ 31 = 0))

def fpLt (a b : Nat) : Bool := !(fpIsNan a || fpIsNan b) && !fpEq a b && decide (fpRank a < fpRank b)

/-- VCMP by FUNC (Table — V slot operations). -/
def fpCmp (func a b : Nat) : Bool :=
  match func with
  | 0 => fpEq a b
  | 1 => fpLt a b
  | 2 => fpLt a b || fpEq a b
  | _ => fpIsNan a || fpIsNan b

/-- Correctly rounded quotient of a lane by a nonzero exact divisor in units of 2^-149 (R143). -/
def fpDivBy (a : Nat) (neg : Bool) (den : Nat) : Nat :=
  match fpVal a with
  | .nan => fp32Nan
  | .inf x => signBit fmtFp32 (x != neg) 0x7F800000
  | .fin x m =>
    if m = 0 then signBit fmtFp32 (x != neg) 0
    else fp32Of (x != neg) (m * 2 ^ 640 / den) 640 (decide (m * 2 ^ 640 % den ≠ 0))

/-- Va / ±Inf by R125. -/
def fpDivInf (a : Nat) (neg : Bool) : Nat :=
  match fpVal a with
  | .nan => fp32Nan
  | .inf _ => fp32Nan
  | .fin x _ => signBit fmtFp32 (x != neg) 0

/-! ## Normaliser functions (R145, R146) -/

/-- Integer square root by bits: `fuel` bits of the root. -/
def isqrtGo (n : Nat) : Nat → Nat → Nat
  | 0, r => r
  | k + 1, r => isqrtGo n k (if (r + 2 ^ k) * (r + 2 ^ k) ≤ n then r + 2 ^ k else r)

def isqrt (n : Nat) : Nat := isqrtGo n (Nat.log2 n / 2 + 1) 0

/-- VRCP (R145). R145 says that an overflow gives +Inf, R125 that it gives an infinity of the result's sign; for a negative
input too small for its reciprocal the model gives the infinity of R125, -Inf (log entry 61). -/
def fpRcp (a : Nat) : Nat :=
  match fpVal a with
  | .nan => fp32Nan
  | .inf x => signBit fmtFp32 x 0
  | .fin x m =>
    if m = 0 then signBit fmtFp32 x 0x7F800000
    else fp32Of x (2 ^ 789 / m) 640 (decide (2 ^ 789 % m ≠ 0))

def fpRsq (a : Nat) : Nat :=
  match fpVal a with
  | .nan => fp32Nan
  | .inf x => if x then fp32Nan else 0
  | .fin x m =>
    if m = 0 then signBit fmtFp32 x 0x7F800000
    else if x then fp32Nan
    else
      let r := isqrt (2 ^ 749 / m)
      fp32Of false r 300 (decide (r * r * m ≠ 2 ^ 749))

/-- 2^f for a fraction f = t / 2^149, as a multiple of 2^-192, by square roots of two: `c` is 2^(2^-i) at bit i of t. -/
def exp2Go (t : Nat) : Nat → Nat → Nat → Nat
  | 0, _, acc => acc
  | k + 1, c, acc => exp2Go t k (isqrt (c * 2 ^ 192)) (if bitOf t k then acc * c / 2 ^ 192 else acc)

/-- 192 fraction bits lie far beyond the nearest approach of an irrational 2^x to a midpoint of two FP32 values, so the one
rounding of this value is the rounding of the exact one (log entry 4). -/
def exp2Frac (t : Nat) : Nat := exp2Go t 149 (isqrt (2 ^ 385)) (2 ^ 192)

def fpExp2 (a : Nat) : Nat :=
  match fpVal a with
  | .nan => fp32Nan
  | .inf x => if x then 0 else 0x7F800000
  | .fin x m =>
    let v : Int := if x then - Int.ofNat m else Int.ofNat m
    let n := v / (2 ^ 149 : Nat)
    let t := (v % (2 ^ 149 : Nat)).toNat
    if 128 ≤ n then 0x7F800000
    else if n < -160 then 0
    else fp32Of false (exp2Frac t * 2 ^ (n + 160).toNat) 352 (decide (t ≠ 0))

/-! ## Elements and scales (R122 to R124) -/

/-- Element value in units of 2^-149. Codes 0 to 7 of R106. -/
def elemValue (code raw : Nat) : Val :=
  match code with
  | 0 => fmtE2M1.value (raw % 16)
  | 1 => fmtE2M3.value (raw % 64)
  | 2 => fmtE3M2.value (raw % 64)
  | 3 => fmtE4M3.value (raw % 256)
  | 4 => fmtE5M2.value (raw % 256)
  | 5 =>
    let v := signedOf 8 raw
    .fin (decide (v < 0)) (v.natAbs * 2 ^ 143)
  | 6 => fmtBf16.value (raw % 65536)
  | _ => fmtFp16.value (raw % 65536)

/-- Exact product of two elements and two scale exponents, in units of 2^-320 (R128, R129); a scale of 0xFF is NaN. -/
def productOf (a b : Val) (sa sb : Nat) : Product :=
  if sa = 0xFF ∨ sb = 0xFF then .nan
  else match a, b with
    | .nan, _ => .nan
    | _, .nan => .nan
    | .inf x, .inf y => .inf (x != y)
    | .inf x, .fin y n => if n = 0 then .nan else .inf (x != y)
    | .fin x m, .inf y => if m = 0 then .nan else .inf (x != y)
    | .fin x m, .fin y n =>
      -- m n 2^-298 × 2^(sa + sb − 254) = m n 2^(sa + sb − 232) units of 2^-320
      let e := sa + sb
      let mag := if 232 ≤ e then m * n * 2 ^ (e - 232) else m * n / 2 ^ (232 - e)
      .fin (if x != y then - Int.ofNat mag else Int.ofNat mag)

/-! ## Write-out (R136, R137) -/

/-- Output formats of MOUT. -/
def outFmt (code : Nat) : Fmt :=
  match code with
  | 0 => fmtFp32 | 1 => fmtBf16 | 2 => fmtFp16 | 3 => fmtE4M3 | _ => fmtE5M2

/-- Table — Write-out outcome: the value written and the CORE_ARITH bits set. `sum` is in units of 2^(−s). -/
def writeOut (f : Fmt) (nan pinf ninf range : Bool) (sum : Int) (s : Nat) : Nat × BitVec 5 :=
  if nan || (pinf && ninf) then (f.nan, arNanOut)
  else if pinf || ninf then
    match f.inf with
    | some c => (signBit f ninf c, 0)
    | none => (f.nan, arNanOut)
  else if range then (signBit f (decide (sum < 0)) f.top, 0)
  else if sum = 0 then (0, 0)
  else
    let r := f.saturate (decide (sum < 0)) sum.natAbs s
    (r.1, if r.2 then arOutSat else 0)

/-! ## Conversions (R138, R139) -/

/-- VCVT from FP32 to a floating format: code and whether it saturated. -/
def narrow (f : Fmt) (c : Nat) : Nat × Bool :=
  match fpVal c with
  | .nan => (f.nan, false)
  | .inf x => match f.inf with
    | some i => (signBit f x i, false)
    | none => (f.nan, false)
  | .fin x m => f.saturate x m 149

/-- VCVT to FP32: exact; a NaN widens to the canonical NaN. -/
def widen (f : Fmt) (c : Nat) : Nat :=
  match f.value c with
  | .nan => fp32Nan
  | .inf x => signBit fmtFp32 x 0x7F800000
  | .fin x m => signBit fmtFp32 x (fmtFp32.round m 149 false)

def emaxOf (code : Nat) : Nat :=
  match code with
  | 0 => 2 | 1 => 2 | 2 => 4 | 3 => 8 | 4 => 15 | _ => 0

def mxFmt (code : Nat) : Fmt :=
  match code with
  | 0 => fmtE2M1 | 1 => fmtE2M3 | 2 => fmtE3M2 | 3 => fmtE4M3 | _ => fmtE5M2

/-- Quotient of a lane m × 2^-149 by 2^x, as an element code with its saturation. -/
def mxElem (code : Nat) (neg : Bool) (m : Nat) (x : Int) : Nat × Bool :=
  -- m 2^(-149 - x) = (m 2^(127 − x)) 2^-276
  let num := m * 2 ^ (127 - x).toNat
  if code = 5 then
    -- multiples of 2^-6, rounded to nearest even
    let d := 2 ^ 270
    let q := num / d
    let r := num % d
    let q' := if d < 2 * r ∨ (2 * r = d ∧ q % 2 = 1) then q + 1 else q
    let sat := decide (127 < q')
    let v := if sat then 127 else q'
    (if v = 0 then 0 else if neg then 256 - v else v, sat)
  else
    let f := mxFmt code
    let r := f.saturate neg num 276
    (if r.1 % 2 ^ (f.man + f.exp) = 0 then 0 else r.1, r.2)

/-- One block of 32 lanes to an MX format: scale byte, element codes, saturation (R139). -/
def mxBlock (code : Nat) (lanes : List Nat) : Nat × List Nat × Bool :=
  let vs := lanes.map fpVal
  if vs.any (fun v => match v with | .fin _ _ => false | _ => true) then (0xFF, lanes.map fun _ => 0, false)
  else
    let amax := vs.foldl (fun a v => match v with | .fin _ m => if a < m then m else a | _ => a) 0
    if amax = 0 then (0, lanes.map fun _ => 0, false)
    else
      let x0 : Int := Int.ofNat (Nat.log2 amax) - 149 - Int.ofNat (emaxOf code)
      let x : Int := if x0 < -127 then -127 else if 127 < x0 then 127 else x0
      let es := vs.map fun v => match v with | .fin n m => mxElem code n m x | _ => (0, false)
      ((x + 127).toNat, es.map (·.1), es.any (·.2))

end Sys2Proof.Machine
end

