-- ==== Sys2Proof/Machine/Operands.lean ====
section
/-! DEFINITION. Operand forms of the bundle slots: the fields of each slot word, the checks of R103 and R104 on them, and the
operands as the core holds them (chapter 04). A slot word is a number of 64 bits.

Marks: DEDUCED (log entry 13). -/

namespace Sys2Proof.Machine

def opcodeOf (w : Nat) : Nat := fld w 56 8

def slotIndex : SlotName → Nat
  | .m => 0 | .v => 1 | .l => 2 | .c => 3

/-! ## Reserved bits: every bit below the opcode that the slot format of the operation does not name -/

/-- A field a format names: low bit and length. -/
abbrev Field := Nat × Nat

/-- A bit outside the named fields is set. -/
def strayBits (w : Nat) (named : List Field) : Bool :=
  decide (named.foldl (fun v f => setFld v f.1 f.2 0) (w % 2 ^ 56) ≠ 0)

/-! ## M slot -/

structure MmaForm where
  ad   : Nat
  tt   : Nat
  va   : Nat
  vs   : Nat
  tf   : Nat
  af   : Nat
  tk   : Nat
  segi : Nat
  sj   : Nat
  rows : Nat
  clr  : Bool

def mmaForm (w : Nat) : MmaForm :=
  { ad := fld w 52 4, tt := fld w 50 2, va := fld w 44 6, vs := fld w 38 6, tf := fld w 35 3, af := fld w 32 3,
    tk := fld w 31 1, segi := fld w 21 10, sj := fld w 16 5, rows := if fld w 9 7 = 0 then 128 else fld w 9 7,
    clr := bitOf w 8 }

/-- Table — MMA format pairs: the dot-product length of a legal pair. -/
def mmaK (tf af : Nat) : Option Nat :=
  if tf = 0 ∧ af = 0 then some 128
  else if tf < 6 ∧ af < 6 then some 64
  else if 6 ≤ tf ∧ 6 ≤ af then some 16
  else none

/-- The pair selects a half of the tile row by TK. -/
def mmaUsesTk (tf af : Nat) : Bool := decide (tf = 0 ∧ 1 ≤ af ∧ af < 6) || decide (6 ≤ tf)

def mmaKind (tf : Nat) : AccKind := if tf < 6 then .deep else .window

structure MoutForm where
  ad  : Nat
  vd  : Nat
  fmt : Nat
  pos : Nat
  clr : Bool

def moutForm (w : Nat) : MoutForm :=
  { ad := fld w 52 4, vd := fld w 46 6, fmt := fld w 43 3, pos := fld w 40 3, clr := bitOf w 39 }

/-- Places that POS may name (R111). -/
def moutPlaces (fmt : Nat) : Nat := if fmt = 0 then 2 else if fmt < 3 then 4 else 8

/-- CAUSE of an M slot word, 0 for none. -/
def mCause (x : Core) (w : Nat) : Nat :=
  match opcodeOf w with
  | 0x00 => if strayBits w [] then 1 else 0
  | 0x01 =>
    let f := mmaForm w
    if strayBits w [(8, 48)] then 1
    else match mmaK f.tf f.af with
      | none => 2
      | some _ =>
        if f.tk = 1 && !mmaUsesTk f.tf f.af then 1
        else if !f.clr && decide ((x.accSet f.ad).kind ≠ .empty) && decide ((x.accSet f.ad).kind ≠ mmaKind f.tf) then 2
        else 0
  | 0x02 =>
    let f := moutForm w
    if strayBits w [(39, 17)] then 1
    else if 5 ≤ f.fmt then 2
    else if moutPlaces f.fmt ≤ f.pos then 2
    else 0
  | 0x03 => if strayBits w [(52, 4)] then 1 else 0
  | _ => 1

/-! ## V slot: one common layout (R112) -/

def vVd (w : Nat) : Nat := fld w 50 6
def vVa (w : Nat) : Nat := fld w 44 6
def vVb (w : Nat) : Nat := fld w 38 6
def vVc (w : Nat) : Nat := fld w 32 6
def vFunc (w : Nat) : Nat := fld w 28 4
def vImm (w : Nat) : Nat := fld w 20 8
def vSs (w : Nat) : Nat := fld w 15 5

def fVd : Field := (50, 6)
def fVa : Field := (44, 6)
def fVb : Field := (38, 6)
def fVc : Field := (32, 6)
def fFunc : Field := (28, 4)
def fImm : Field := (20, 8)

/-- The fields each V operation names, without the bits of them that must be zero (R104, R142, R511); none for an unassigned
opcode. -/
def vNamed (w : Nat) : Option (List Field) :=
  match opcodeOf w with
  | 0x00 => some []
  | 0x01 | 0x02 | 0x03 | 0x05 | 0x06 | 0x09 | 0x0A | 0x0B => some [fVd, fVa, fVb]
  | 0x04 | 0x08 => some [fVd, fVa, fVb, fVc]
  | 0x07 => some [fVd, fVa, fVb, fFunc]
  | 0x0C | 0x10 | 0x11 | 0x12 => some [fVd, fVa]
  | 0x0D => some [fVd, (15, 5)]
  | 0x0E => some [(50, 5), fVa, fImm]
  | 0x0F => some [fVd, fVa, fImm]
  | 0x13 => some ([fVd, fVa, fFunc, (20, 4)] ++ (if 8 ≤ vFunc w then [fVc] else []))
  | 0x14 => some [(50, 5), fVa]
  | 0x15 => some [fVa, (20, 2)]
  | 0x16 => some [(50, 5), (20, 2), (27, 1)]
  | 0x17 => some [fVd, fVa, (20, 2)]
  | _ => none

/-- Element width of the narrow side of a VCVT, in bits (R511). -/
def cvtWidth (func : Nat) : Nat :=
  match func with
  | 0 | 1 | 4 | 5 => 16
  | 8 => 4
  | _ => 8

def vCause (w : Nat) : Nat :=
  match vNamed w with
  | none => 1
  | some named =>
    if strayBits w named then 1
    else if opcodeOf w = 0x07 ∧ 4 ≤ vFunc w then 2
    else if opcodeOf w = 0x13 ∧ (14 ≤ vFunc w ∨ 32 / cvtWidth (vFunc w) ≤ fld w 20 4) then 2
    else 0

/-! ## L slot -/

/-- Own-core-store offset S[Sa] + IMM, modulo 4 MiB (R114). -/
def ownOffset (x : Core) (w : Nat) : Nat :=
  ((((x.s (fld w 45 5)).toNat : Int) + signedOf 22 (fld w 23 22)) % (0x400000 : Int)).toNat

def sOf (x : Core) (i : Nat) : Nat := (x.s i).toNat

/-- Bytes of own core store an L word writes at issue or names as the destination of its landing: offset and length. -/
def ownWrite (x : Core) (w : Nat) : Option (Nat × Nat) :=
  match opcodeOf w with
  | 0x02 => some (ownOffset x w, 1024)
  | 0x04 => some (ownOffset x w, 8)
  | 0x08 => some (sOf x (fld w 40 5) % 0x400000, 16 * fld w 24 16)
  | _ => none

/-- Core store whose block addresses `[a, a + n)` touches the schedule region of core `c`, at a block address (R98). -/
def ownRegionAt (q : Sequencer) (c a n : Nat) : Bool :=
  let lo := 0x040000000000 + c * 0x400000 + 32 * q.base
  decide (0 < n) && decide (a < lo + 32 * q.len) && decide (lo < a + n)

/-- A stretch of own core store, taken modulo 4 MiB, meets the schedule region. -/
def meetsSchedule (q : Sequencer) (off len : Nat) : Bool :=
  let lo := 32 * q.base
  let hi := 32 * (q.base + q.len)
  (decide (off < hi) && decide (lo < off + len)) ||
    (decide (0x400000 < off + len) && decide (lo < off + len - 0x400000))

/-- CAUSE 1 or 2 of an L slot word: reserved bits, illegal values, misalignment. -/
def lCause (x : Core) (w : Nat) : Nat :=
  match opcodeOf w with
  | 0x00 => if strayBits w [] then 1 else 0
  | 0x01 => if strayBits w [(23, 33)] then 1 else if ownOffset x w % 16 ≠ 0 then 2 else 0
  | 0x02 => if strayBits w [(23, 33)] then 1 else if ownOffset x w % 16 ≠ 0 then 2 else 0
  | 0x03 => if strayBits w [(23, 32)] then 1 else if ownOffset x w % 8 ≠ 0 then 2 else 0
  | 0x04 => if strayBits w [(23, 32)] then 1 else if ownOffset x w % 8 ≠ 0 then 2 else 0
  | 0x05 =>
    if strayBits w [(23, 33)] then 1
    else if 9 ≤ fld w 50 4 then 2
    else if ownOffset x w % 16 ≠ 0 then 2 else 0
  | 0x08 =>
    if strayBits w [(24, 32)] then 1
    else if fld w 24 16 = 0 then 2
    else if sOf x (fld w 45 5) % 16 ≠ 0 ∨ sOf x (fld w 40 5) % 16 ≠ 0 then 2
    else 0
  | 0x09 =>
    if strayBits w [(24, 32)] then 1
    else if fld w 24 16 = 0 then 2
    else if sOf x (fld w 45 5) % 16 ≠ 0 ∨ sOf x (fld w 40 5) % 16 ≠ 0 then 2
    else 0
  | 0x0A => if strayBits w [(39, 17)] then 1 else if sOf x (fld w 39 5) % 16 ≠ 0 then 2 else 0
  | 0x0C => if strayBits w [(41, 15)] then 1 else 0
  | 0x10 => if strayBits w [(50, 6)] then 1 else 0
  | 0x11 => if strayBits w [(32, 24)] then 1 else if 5 ≤ fld w 47 3 then 2 else 0
  | 0x12 => if strayBits w [(47, 9)] then 1 else 0
  | _ => 1

/-- Landing flag an L word names (R82). -/
def lFlag (w : Nat) : Option Nat :=
  if opcodeOf w = 0x08 ∨ opcodeOf w = 0x09 ∨ opcodeOf w = 0x0A ∨ opcodeOf w = 0x10 ∨ opcodeOf w = 0x11
  then some (fld w 50 6) else none

/-! ## C slot -/

def cSd (w : Nat) : Nat := fld w 51 5
def cSa (w : Nat) : Nat := fld w 46 5
def cSb (w : Nat) : Nat := fld w 41 5

/-- Second scalar operand: the sign-extended immediate or S[Sb] (R117). -/
def cOperand (x : Core) (w : Nat) : BitVec 64 :=
  if bitOf w 40 then BitVec.ofInt 64 (signedOf 32 w) else x.s (cSb w)

/-- Amount or value taken from the word or from S[Sb][31:0]. -/
def cValue (x : Core) (w vsrc sb lo len : Nat) : Nat :=
  if bitOf w vsrc then sOf x (fld w sb 5) % 2 ^ 32 else fld w lo len

/-- Target of a branch word: `some` for BR, BRZ, BRNZ and BRDEC. -/
def cTarget (w : Nat) : Option Nat :=
  if 0x08 ≤ opcodeOf w ∧ opcodeOf w ≤ 0x0B then some (fld w 34 17) else none

def branchCause (q : Sequencer) (w : Nat) : Nat :=
  match cTarget w with
  | some t => if q.delay ≠ 0 ∨ t < q.base ∨ q.base + q.len ≤ t then 4 else 0
  | none => 0

/-- CAUSE 1 or 2 of a C slot word. -/
def cCause (w : Nat) : Nat :=
  match opcodeOf w with
  | 0x00 => if strayBits w [] then 1 else 0
  | 0x01 => if strayBits w [(0, 32), (54, 2)] then 1 else 0
  | 0x02 => if strayBits w [(0, 24), (27, 29)] then 1 else 0
  | 0x03 | 0x04 =>
    if strayBits w [(0, 16), (31, 25)] then 1
    else if 1 ≤ fld w 53 3 ∧ fld w 53 3 ≤ 3 then 2 else 0
  | 0x08 => if strayBits w [(34, 17)] then 1 else 0
  | 0x09 | 0x0A | 0x0B => if strayBits w [(34, 22)] then 1 else 0
  | 0x0F => if strayBits w [] then 1 else 0
  | 0x10 => if strayBits w [(48, 8)] then 1 else 0
  | 0x11 => if strayBits w [(40, 16)] then 1 else 0
  | 0x20 | 0x21 | 0x22 | 0x23 | 0x24 | 0x25 | 0x26 | 0x27 | 0x28 | 0x29 | 0x2A =>
    if strayBits w [(0, 32), (40, 16)] then 1
    else if bitOf w 40 && decide (cSb w ≠ 0) then 1 else 0
  | 0x2B =>
    if strayBits w [(0, 32), (40, 16)] then 1
    else if cSb w ≠ 0 ∨ cSa w ≠ 0 then 1
    else if bitOf w 40 then 0 else 2
  | _ => 1

/-- The codes that are more specific than 1 and 2, of a slot word of core `c` (R104): a WATCH on a slot that is not idle, a
branch that may not stand there, a GST to a non-member, an own write into the schedule region. A write whose address is
misaligned reports 2 (log entry 13). -/
def specificCause (x : Core) (c : Nat) (i : SlotName) (w : Nat) : Nat :=
  let q := x.seq
  match i, opcodeOf w with
  | .l, 0x0C =>
    let m := fld w 52 4
    if !bitOf q.members.toNat m then 9
    else if m = c % 16 ∧ meetsSchedule q (sOf x (fld w 41 5) % 0x400000) 1024 then 6 else 0
  | .l, 0x09 =>
    if sOf x (fld w 45 5) % 16 = 0 ∧ ownRegionAt q c (sOf x (fld w 40 5)) (16 * fld w 24 16) then 6 else 0
  | .l, op =>
    match ownWrite x w with
    | some (o, n) => if o % (if op = 0x04 then 8 else 16) = 0 ∧ n ≠ 0 ∧ meetsSchedule q o n then 6 else 0
    | none => 0
  | .c, 0x02 => if x.slot (fld w 50 6) = .idle then 0 else 3
  | .c, _ => branchCause q w
  | _, _ => 0

/-- An operation of each slot exists: only opcodes of the slot tables are assigned. -/
def assigned (i : SlotName) (op : Nat) : Bool :=
  match i with
  | .m => decide (op ≤ 0x03)
  | .v => decide (op ≤ 0x17)
  | .l => decide (op ≤ 0x05) || decide (0x08 ≤ op ∧ op ≤ 0x0A) || decide (op = 0x0C) || decide (0x10 ≤ op ∧ op ≤ 0x12)
  | .c => decide (op ≤ 0x04) || decide (0x08 ≤ op ∧ op ≤ 0x0B) || decide (0x0F ≤ op ∧ op ≤ 0x11) ||
      decide (0x20 ≤ op ∧ op ≤ 0x2B)

end Sys2Proof.Machine
end

