-- ==== Sys2Proof/Machine/Store.lean ====
section
/-! DEFINITION. Core stores and tier columns as bytes with their check bits: the QS2 tier code, reads that decode it, writes
that generate it (chapter 06, R151 to R161, R187, R188, R515).

Marks: DESIGN CHOICE (log entry 3), DEDUCED (log entry 21). -/

namespace Sys2Proof.Machine

/-! ## The QS2 tier code (R155, R156) -/

/-- Columns of data bits 0 to 63. -/
def eccColumns : List Nat :=
  [0x07, 0x0B, 0x0D, 0x0E, 0x13, 0x15, 0x16, 0x19, 0x1A, 0x1C, 0x23, 0x25, 0x26, 0x29, 0x2A, 0x2C,
   0x31, 0x32, 0x34, 0x38, 0x43, 0x45, 0x46, 0x49, 0x4A, 0x4C, 0x51, 0x52, 0x54, 0x58, 0x61, 0x62,
   0x64, 0x68, 0x70, 0x83, 0x85, 0x86, 0x89, 0x8A, 0x8C, 0x91, 0x92, 0x94, 0x98, 0xA1, 0xA2, 0xA4,
   0xA8, 0xB0, 0xC1, 0xC2, 0xC4, 0xC8, 0xD0, 0xE0, 0x1F, 0x2F, 0x37, 0x3B, 0x3D, 0x3E, 0x4F, 0x57]

/-- Check byte of a 64-bit word: the XOR of the columns of its set bits. -/
def eccEncode (d : Nat) : Nat :=
  if d = 0 then 0
  else (List.zip (List.range 64) eccColumns).foldl (fun c p => if bitOf d p.1 then Nat.xor c p.2 else c) 0

/-- Outcome of decoding one word. -/
inductive Decoded where
  | clean (d : Nat)
  | corrected (d : Nat)
  | bad
  deriving DecidableEq, Repr

def eccDecode (d check : Nat) : Decoded :=
  let syn := Nat.xor (eccEncode d) check
  if syn = 0 then .clean d
  else if (List.range 8).any (fun j => syn = 2 ^ j) then .corrected d
  else match eccColumns.findIdx? (fun c => c = syn) with
    | some i => .corrected (Nat.xor d (2 ^ i))
    | none => .bad

/-! ## Places -/

def storeBase : Nat := 0x040000000000

/-- Block address of core-store offset `off` of core `c`, the offset taken modulo 4 MiB (R7, R114). -/
def storeAddr (c off : Nat) : Nat := storeBase + c * 0x400000 + off % 0x400000

/-- Block address of column offset `off` of core `c` (R159). -/
def colAddr (c off : Nat) : Nat := c * 0x200000000 + off

/-- Core whose store holds a block address, if it is one. -/
def storeCore (a : Nat) : Option Nat :=
  if storeBase ≤ a ∧ a < storeBase + 0x40000000 then some ((a - storeBase) / 0x400000) else none

/-- Core in whose column a byte of tier space lies. -/
def colCore (a : Nat) : Nat := a / 0x200000000
def colOff (a : Nat) : Nat := a % 0x200000000

/-- Populated capacity C of a column (R159). -/
def State.capacity (s : State) : Nat :=
  s.boot.wtiers * 0x10000000 + (s.boot.tiers - s.boot.wtiers) * 0x14000000

/-- Working tier and its 8 KiB row RA of a column offset, where it lies in a working tier (R159, R161). -/
def State.workingRow (s : State) (off : Nat) : Option (Nat × Nat) :=
  let t := off / 0x10000000
  if t < s.boot.wtiers then some (t, off % 0x10000000 / 0x2000) else none

/-- Key of a near-bank bit (R188). -/
def nbKey (t ra : Nat) : Nat := t * 0x8000 + ra

def nbDefault (_ : Nat) : Bool := false

def State.nearBankRow (s : State) (a : Nat) : Bool :=
  if a < storeBase then
    match s.workingRow (colOff a) with
    | some (t, ra) => tabGet nbDefault (s.column (colCore a)).nearBank (nbKey t ra)
    | none => false
  else false

/-! ## Writing -/

def checkDefault (_ : Nat) : BitVec 8 := 0

/-- Valid check bits for the `n` words from word index `i` (R152). -/
def genChecks (m : Memory) : Nat → Nat → Tab (BitVec 8) → Tab (BitVec 8)
  | 0, _, t => t
  | n + 1, i, t =>
    genChecks m n (i + 1) (tabSet checkDefault t i (BitVec.ofNat 8 (eccEncode (bytesLe (memRead m (8 * i) 8)))))

/-- Near-bank bits of the 8 KiB rows that `[a, a + n)` touches take the value `v` (R188). -/
def State.markRows (s : State) (a n : Nat) (v : Bool) : State :=
  if n = 0 ∨ storeBase ≤ a then s
  else
    State.each (List.range ((a + n - 1) / 0x2000 - a / 0x2000 + 1))
      (fun k t =>
        let b := (a / 0x2000 + k) * 0x2000
        match t.workingRow (colOff b) with
        | some (tier, ra) =>
          t.modColumn (colCore b) fun x => { x with nearBank := tabSet nbDefault x.nearBank (nbKey tier ra) v }
        | none => t) s

/-- Writes bytes at a block address of a core store or a column, with valid check bits. -/
def State.writeMem (s : State) (a : Nat) (bs : List Byte) : State :=
  if bs.isEmpty then s
  else
    let m := memWrite s.mem a bs
    ((s.setMem m).setCheck (genChecks m ((a + bs.length - 1) / 8 - a / 8 + 1) (a / 8) s.check)).markRows a bs.length
      false

/-- Writes bytes into the store of core `c` from an offset, wrapping at 4 MiB. -/
def State.writeStore (s : State) (c off : Nat) (bs : List Byte) : State :=
  let o := off % 0x400000
  let k := 0x400000 - o
  (s.writeMem (storeAddr c o) (bs.take k)).writeMem (storeAddr c 0) (bs.drop k)

/-- Every byte of `[lo, hi)` reads zero with valid check bits; both bounds lie on words (R153, R465). -/
def State.zeroMem (s : State) (lo hi : Nat) : State :=
  (s.setMem (memErase s.mem lo hi)).setCheck
    (s.check.filter fun e => decide (8 * e.1 < lo) || decide (hi ≤ 8 * e.1))

def State.zeroStore (s : State) (c : Nat) : State := s.zeroMem (storeAddr c 0) (storeAddr c 0 + 0x400000)

/-! ## Reading -/

/-- What a read of a stretch found: its bytes after correction, and how many words were corrected and uncorrectable, in
ordinary and in near-bank rows. -/
structure Fetched where
  bytes : List Byte
  ce    : Nat
  ue    : Nat
  nbCe  : Nat
  nbUe  : Nat
  deriving DecidableEq, Repr

/-- The check byte as the reader receives it: `flip` is XORed into the first word (R416). -/
def State.readWord (s : State) (i flip : Nat) : Decoded :=
  eccDecode (bytesLe (memRead s.mem (8 * i) 8)) (Nat.xor (tabGet checkDefault s.check i).toNat flip)

/-- Decodes `n` words from word index `i`. -/
def State.readWords (s : State) (flip : Nat) : Nat → Nat → Fetched
  | 0, _ => ⟨[], 0, 0, 0, 0⟩
  | n + 1, i =>
    let r := s.readWords 0 n (i + 1)
    let nb := s.nearBankRow (8 * i)
    match s.readWord i flip with
    | .clean d => { r with bytes := leBytes 8 d ++ r.bytes }
    | .corrected d =>
      { r with bytes := leBytes 8 d ++ r.bytes, ce := r.ce + b2n (!nb), nbCe := r.nbCe + b2n nb }
    | .bad => { r with bytes := leBytes 8 0 ++ r.bytes, ue := r.ue + b2n (!nb), nbUe := r.nbUe + b2n nb }

/-- Bytes of a lost core store: free values (log entry 2). -/
def State.lostBytes (s : State) (a n : Nat) : List Byte :=
  (List.range n).map fun k => Config.lostByte s.draws (a + k)

/-- The kind sources whose checker reads the code at a block address: core store, ordinary tier data, near-bank rows. -/
def State.codeSources (s : State) (a : Nat) : Nat × Nat :=
  if storeBase ≤ a then (282, 283) else if s.nearBankRow a then (286, 287) else (284, 285)

def codeCore (a : Nat) : Nat :=
  match storeCore a with
  | some c => c
  | none => colCore a

/-- Check bits that an armed injection inverts in a read at `a`; zero when none is armed for its checker (R416). -/
def State.injectFlip (s : State) (a : Nat) : Nat :=
  let j := s.faults.inj
  if j.arm && j.loc = codeCore a && (j.src = (s.codeSources a).1 || j.src = (s.codeSources a).2) then
    (if j.mode = 0 then 1 else if j.mode = 1 then 0xFF else 0)
  else 0

/-- Adds `n` to a saturating field of a register of the register file. -/
def State.addField (s : State) (o lo len n : Nat) : State :=
  let v := s.regN o
  let x := fld v lo len + n
  s.putReg o (setFld v lo len (if 2 ^ len ≤ x then 2 ^ len - 1 else x))

def coreRegBase (c : Nat) : Nat := 0x2000000 + c * 0x20000
def regionBase (r : Nat) : Nat := 0x800000 + r * 0x100000

/-- Counts of CORE_STORE_ECC or TIER_ERR advance by the words found (R515). -/
def State.countEcc (s : State) (a : Nat) (f : Fetched) : State :=
  if f.ce = 0 ∧ f.ue = 0 ∧ f.nbCe = 0 ∧ f.nbUe = 0 then s
  else match storeCore a with
    | some c => (s.addField (coreRegBase c + 0x34) 0 16 f.ce).addField (coreRegBase c + 0x34) 16 16 f.ue
    | none =>
      let c := colCore a
      let o := regionBase (c / 16) + 0xE0200 + 4 * (c % 16)
      ((s.addField o 0 12 f.ce).addField o 12 12 f.nbCe).addField o 24 8 (f.ue + f.nbUe)

/-- Reads `[a, a + n)`, which lies in one core store or one column: the bytes found, and the state with the counts
advanced and an injection spent. A lost store delivers free bytes. -/
def State.readMem (s : State) (a n : Nat) : Fetched × State :=
  if n = 0 then (⟨[], 0, 0, 0, 0⟩, s)
  else
    let lost := match storeCore a with
      | some c => (s.core c).power.storeLost
      | none => false
    if lost then (⟨s.lostBytes a n, 0, 0, 0, 0⟩, s.drawn)
    else
      let flip := s.injectFlip a
      let f := s.readWords flip ((a + n - 1) / 8 - a / 8 + 1) (a / 8)
      let t := if flip = 0 then s else s.setFaults { s.faults with inj := { s.faults.inj with arm := false } }
      ({ f with bytes := (f.bytes.drop (a % 8)).take n }, t.countEcc a f)

def Fetched.bad (f : Fetched) : Bool := decide (0 < f.ue) || decide (0 < f.nbUe)

/-- Sources a read sets, by its outcome (Table — Check outcomes). -/
def Fetched.sources (f : Fetched) (a : Nat) : List Nat :=
  (if 0 < f.ce then [if storeBase ≤ a then 282 else 284] else []) ++
  (if 0 < f.ue then [if storeBase ≤ a then 283 else 285] else []) ++
  (if 0 < f.nbCe then [286] else []) ++ (if 0 < f.nbUe then [287] else [])

/-! ## Landing of matrix products and exact sums (R109, R127 to R135, R140, R141) -/

def deepLimit : Nat := 2 ^ 351

def AccRow.addInt (r : AccRow) (n : Int) : AccRow := { r with sum := r.sum + BitVec.ofInt 192 n }

/-- One product of a row in deep kind: the row after it. -/
def landDeep (r : AccRow) (p : Product) : AccRow :=
  match p with
  | .nan => { r with nan := true }
  | .inf neg => if neg then { r with ninf := true } else { r with pinf := true }
  | .fin n =>
    if n % (2 ^ 192 : Nat) = 0 ∧ n.natAbs < deepLimit then r.addInt (n / (2 ^ 192 : Nat)) else { r with range := true }

/-- One product of a row in window kind: specials are recorded at once, a finite one waits in the open group. -/
def landWindow (r : AccRow) (p : Product) : AccRow :=
  match p with
  | .nan => { r with nan := true }
  | .inf neg => if neg then { r with ninf := true } else { r with pinf := true }
  | .fin n => if n.natAbs < deepLimit then r else { r with range := true }

def refusedDeep (p : Product) : Bool :=
  match p with
  | .fin n => !(decide (n % (2 ^ 192 : Nat) = 0) && decide (n.natAbs < deepLimit))
  | _ => false

def refusedWindow (p : Product) : Bool :=
  match p with
  | .fin n => decide (deepLimit ≤ n.natAbs)
  | _ => false

def finitePart (ps : List Product) : List Int :=
  ps.filterMap fun p => match p with | .fin n => some n | _ => none

/-- Sum of a closed group of one row, in units of 2^-128 (R134). -/
def groupSum (ns : List Int) : Int :=
  let e := ns.foldl (fun m n => if n = 0 then m else if m < Nat.log2 n.natAbs then Nat.log2 n.natAbs else m) 0
  -- E = e − 320; the unit is 2^max(E − 95, −128), scaled by 2^320
  let u := if e < 287 then 192 else e - 95
  ns.foldl (fun t n => if n.natAbs < deepLimit then t + Int.tdiv n (2 ^ u : Nat) * ((2 ^ (u - 192) : Nat) : Int) else t) 0

def accRowDefault (_ : Nat) : AccRow := AccRow.zero

def AccSet.row (a : AccSet) (i : Nat) : AccRow := tabGet accRowDefault a.rows i
def AccSet.putRow (a : AccSet) (i : Nat) (r : AccRow) : AccSet := { a with rows := tabSet accRowDefault a.rows i r }

/-- The set with its open group closed (R133, R134). -/
def AccSet.closed (a : AccSet) : AccSet :=
  match a.openG with
  | none => a
  | some g => g.prods.foldl (fun t p => t.putRow p.1 ((t.row p.1).addInt (groupSum p.2))) { a with openG := none }

def addProds (g : List (Nat × List Int)) (i : Nat) (ns : List Int) : List (Nat × List Int) :=
  match g with
  | [] => [(i, ns)]
  | (j, ms) :: t => if j = i then (j, ms ++ ns) :: t else (j, ms) :: addProds t i ns

/-- The kind a set lands in: that of the first MMA after it was cleared (R110). -/
def AccSet.landKind (a : AccSet) (window : Bool) : AccKind :=
  match a.kind with
  | .empty => if window then .window else .deep
  | k => k

/-- An MMA lands: the set after it and whether a product or the landing was refused for range (R129, R130, R133). -/
def AccSet.land (a0 : AccSet) (x : Landing) : AccSet × Bool :=
  let a := if x.clr then AccSet.cleared else a0
  if a.landings = 2 ^ 24 then
    ((List.range x.rows).foldl (fun t i => t.putRow i { t.row i with range := true }) a, true)
  else
    let rows := List.zip (List.range x.rows) x.prods
    if a.landKind x.window = .window then
      let b := match a.openG with
        | some g => if g.group = x.group then a else a.closed
        | none => a
      let g := match b.openG with | some g => g.prods | none => []
      let c := rows.foldl (fun t p => t.putRow p.1 (p.2.foldl landWindow (t.row p.1))) b
      ({ c with kind := .window, landings := a.landings + 1,
                openG := some ⟨x.group, rows.foldl (fun t p => addProds t p.1 (finitePart p.2)) g⟩ },
       rows.any fun p => p.2.any refusedWindow)
    else
      let c := rows.foldl (fun t p => t.putRow p.1 (p.2.foldl landDeep (t.row p.1))) a
      ({ c with kind := .deep, landings := a.landings + 1 }, rows.any fun p => p.2.any refusedDeep)

/-- A VXADD lands (R141): the register after it, and whether it was refused. -/
def XReg.land (x : XReg) (sum : Int) (nan pinf ninf : Bool) : XReg × Bool :=
  if x.count = 2 ^ 32 then ({ x with xrange := true }, true)
  else ({ x with sum := x.sum + BitVec.ofInt 320 sum, nan := x.nan || nan, pinf := x.pinf || pinf,
                 ninf := x.ninf || ninf, count := x.count + 1 }, false)

/-! ## Staged results become visible (R76, R77, R510) -/

/-- Order in which results of one core beat take effect: clears before landings, group stores last (R77, R109). -/
def Result.rank : Result → Nat
  | .accClear _ => 0
  | .group _ _ _ => 2
  | _ => 1

/-- A core with one result in effect, and whether the arithmetic-range source is set. Store results are left to the state. -/
def Core.apply (x : Core) (r : Result) : Core × Bool :=
  match r with
  | .vec reg off bs => ({ x with regs := { x.regs with v := memWrite x.regs.v (1024 * reg + off) bs } }, false)
  | .scalar reg v => (x.putS reg v, false)
  | .tile t off bs => ({ x with regs := { x.regs with t := memWrite x.regs.t (8704 * t + off) bs } }, false)
  | .land l =>
    let a := (x.accSet l.acc).land l
    ({ x.putAcc l.acc a.1 with arith := if a.2 then x.arith ||| arDeepRange else x.arith }, a.2)
  | .accClear a => (x.putAcc a AccSet.cleared, false)
  | .xAdd i sum nan pinf ninf =>
    let a := (x.xReg i).land sum nan pinf ninf
    ({ x.putX i a.1 with arith := if a.2 then x.arith ||| arXRange else x.arith }, a.2)
  | .xClear i => (x.putX i XReg.zero, false)
  | .store _ _ => (x, false)
  | .group _ _ _ => (x, false)
  | .none => (x, false)

/-- Two stretches of a core store, taken modulo 4 MiB, meet. -/
def wrapMeet (a n b m : Nat) : Bool :=
  decide ((b % 0x400000 + 0x400000 - a % 0x400000) % 0x400000 < n) ||
    decide ((a % 0x400000 + 0x400000 - b % 0x400000) % 0x400000 < m)

/-- Stretch of an outstanding operation's destination that a fixed-latency result reaches (R78), counted in bytes of its
vector register or of the core store. -/
def OpKind.reached (k : OpKind) (r : Result) : Option (Nat × Nat) :=
  match k, r with
  | .loadV _ reg, .vec g off bs => if reg = g then some (off, bs.length) else none
  | .load _ dst len, .store off bs => if wrapMeet dst len off bs.length then some (off, bs.length) else none
  | .load _ dst len, .group _ off bs => if wrapMeet dst len off bs.length then some (off, bs.length) else none
  | .pgk _ dest, .scalar reg _ => if dest = reg then some (0, 8) else none
  | _, _ => none

def Core.soil (x : Core) (r : Result) : Core :=
  if x.ops.isEmpty then x
  else { x with ops := x.ops.map fun o => { o with dirty := o.dirty ++ (o.kind.reached r).toList } }

/-- One staged result takes effect in the state. -/
def State.commitOne (s : State) (c : Nat) (g : Staged) : State × Bool :=
  let x := s.core c
  let r := { x.soil g.res with arith := 0 }.apply g.res
  let bits := r.1.arith ||| g.arith
  let t := (s.putCore c { r.1 with arith := x.arith ||| bits }).mark (coreRegBase c + 0x30) bits.toNat
  match g.res with
  | .store off bs => (t.writeStore c off bs, r.2)
  | .group _ off bs =>
    -- a group store into a schedule region changes nothing (R98)
    let q := (s.core c).seq
    (if q.bound && meetsSchedule q (off % 0x400000) bs.length then t else t.writeStore c off bs, r.2)
  | _ => (t, r.2)

/-- The results among `l` take effect in their order; the Bool says whether the arithmetic-range source is set. -/
def State.commitList (s : State) (c : Nat) (l : List Staged) : State × Bool :=
  (sortBy (fun g => Int.ofNat (4 * g.due + g.res.rank)) l).foldl
    (fun p g => let r := p.1.commitOne c g; (r.1, p.2 || r.2)) (s, false)

/-- Every staged result of core `c` that `due` selects takes effect. -/
def State.commitWhere (s : State) (c : Nat) (due : Staged → Bool) : State × Bool :=
  let l := (s.core c).staged
  (s.modCore c fun x => { x with staged := l.filter fun g => !due g }).commitList c (l.filter due)

end Sys2Proof.Machine
end

