-- ==== Sys2Proof/Machine/Power.lean ====
section
/-! DEFINITION. Core power states: what turning rails on and off does to a core, requests, retention (chapter 11, R297 to
R302, R309, R311). Nothing here raises a fault.

Marks: DEDUCED (log entry 46). -/

namespace Sys2Proof.Machine

/-- A core regulator or service regulator is turned off. -/
def State.vrOff (s : State) (v : Nat) : State :=
  s.modVr v fun x =>
    { x with state := if x.state = .failed then .failed else .off, refUV := 0, startRef := none, suspended := none, clamp := false
             ocRun := 0, steer := false, waitsFor := none, pulsed := [], live := false, nearSince := 0, sensed := 0, lost := 0 }

/-- Registers V, S, T, A and X are lost, and what was on its way to them (R297). -/
def State.loseRegs (s : State) (c : Nat) : State :=
  s.modCore c fun x => { x with regs := .zero, staged := [] }

/-- The store of core `c` is lost. -/
def State.loseStore (s : State) (c : Nat) : State :=
  s.modPower c fun p => { p with storeLost := true, zeroing := false }

/-- Core state of `c`. -/
def State.pstate (s : State) (c : Nat) : PowerState := (s.core c).power.state

def State.setPstate (s : State) (c : Nat) (v : PowerState) : State := s.modPower c fun p => { p with state := v }

/-- The rail carries the core: ON, TIED or CARRIER. -/
def State.railOn (s : State) (c : Nat) : Bool :=
  s.pstate c = .on || s.pstate c = .tied || s.pstate c = .carrier

/-- Request of core `c` in PWR_CORE_REQ: 0 OFF, 1 RETAIN, 2 ON (R298). -/
def State.request (s : State) (c : Nat) : Nat := fld (s.regN (0x401000 + 4 * (c / 16))) (2 * (c % 16)) 2

/-- The core starts the steps of R301 toward RETAIN or OFF. -/
def State.toTransit (s : State) (c : Nat) (goal : PowerState) : State :=
  (s.loseRegs c).modPower c fun p => { p with state := .transit, goal := goal, tying := none }

/-- The rail of core `c` is off at once, its store and registers lost. -/
def State.coreOff (s : State) (c : Nat) (v : PowerState) : State :=
  (((s.loseRegs c).loseStore c).vrOff c).modPower c fun p => { p with state := v, tying := none }

/-- Goal of a power-down, by request. -/
def goalOf (req : Nat) : PowerState := if req = 1 then .retain else .off

/-- A stored request acts on a core that is not running a schedule (Table — Requests against core states). A power-up is
not made here: the Bool says that the core wants one. -/
def State.applyRequest (s : State) (c : Nat) (allowUp : Bool) : State × Bool :=
  let req := s.request c
  let p := (s.core c).power
  if p.out then (s, false)
  else match p.state with
    | .off => (s, allowUp && decide (req = 2))
    | .retain =>
      if req = 2 then (s, allowUp)
      else if req = 0 then ((s.loseStore c).setPstate c .off, false)
      else (s, false)
    | .on => if req = 2 || (s.core c).seq.bound || p.tying.isSome then (s, false) else (s.toTransit c (goalOf req), false)
    | .tied | .carrier =>
      -- asked ON again, a store that an OFF of the core lost is written zero, its rail having stayed on
      if req = 2 then (if p.storeLost then s.modPower c fun q => { q with zeroing := true } else s, false)
      else if (s.core c).seq.bound then (s, false)
      else
        let t := if req = 0 then s.loseStore c else s
        match p.partner with
        | none => (t, false)
        | some d =>
          if s.request d = 2 || (s.core d).seq.bound then (t, false)
          else ((t.toTransit c (goalOf req)).toTransit d (goalOf (s.request d)), false)
    | .ramping | .transit | .dark => (s, false)

/-- The ramp of the region ends, and with it a forced ramp's cap comes to its end (R311, R313). -/
def RegionLoop.stopRamp (x : RegionLoop) (now : Nat) : RegionLoop :=
  { x with ramping := none, rampEnd := if x.ramping.isSome then now + 1 else x.rampEnd
           capEnd := if x.capped.isEmpty then none else some (x.capEnd.getD now) }

/-- Cores of a pending power-up whose request for ON has been taken back leave it. -/
def State.dropRequests (s : State) (r : Nat) : State :=
  s.modLoop r fun x =>
    { x with pendingUp := match x.pendingUp with
        | none => none
        | some (b, m) =>
          let l := (bitsOf 16 m.toNat).filter fun j => s.request (16 * r + j) = 2
          if l.isEmpty then none else some (b, BitVec.ofNat 16 (maskOf l)) }

/-- A power-up of the cores in `mask` waits in the inrush arbiter; a later one joins it (R311). -/
def State.pendUp (s : State) (r : Nat) (mask : List Nat) : State :=
  if mask.isEmpty then s
  else s.modLoop r fun x =>
    { x with pendingUp := match x.pendingUp with
        | none => some (s.now, BitVec.ofNat 16 (maskOf mask))
        | some (b, m) => some (b, m ||| BitVec.ofNat 16 (maskOf mask)) }

/-- PWR_CORE_REQ of region `r` acts on its cores. -/
def State.actOnRequest (s : State) (r : Nat) (allowUp : Bool) : State :=
  let go := (coresOf r).foldl (fun (a : State × List Nat) c =>
    let q := a.1.applyRequest c allowUp
    (q.1, if q.2 then a.2 ++ [c % 16] else a.2)) (s, [])
  (go.1.dropRequests r).pendUp r go.2

/-- Every stored request is acted on, as a write of each register's present value (R401, R419, R445). -/
def State.actOnRequests (s : State) : State := State.each (List.range 16) (fun r t => t.actOnRequest r true) s

/-- Every core on a rail starts toward RETAIN; requests stay (R399, R442). -/
def State.allToRetain (s : State) : State :=
  State.each (List.range 256) (fun c t =>
    if t.railOn c || t.pstate c = .ramping then t.toTransit c .retain else t)
    (State.each (List.range 16) (fun r t => t.modLoop r fun x => { x.stopRamp s.now with pendingUp := none }) s)

/-- Every core is in RETAIN, OFF or DARK. -/
def State.allDown (s : State) : Bool :=
  s.cores.all fun e => match e.2.power.state with
    | .off | .retain | .dark => true
    | _ => false

/-- Every core regulator, and with `service` every service regulator and retention LDO, is off. Core stores and registers
are lost, stores in RETAIN included (R42, R45, R397, R420). A mapped-out core stays DARK. -/
def State.railsOff (s : State) (service : Bool) : State :=
  let t := State.each (List.range 256) (fun c u =>
    if u.pstate c = .off then (u.vrOff c).modPower c fun p => { p with tying := none }
    else if (u.core c).power.out then u.coreOff c .dark else u.coreOff c .off) s
  let t := State.each (List.range 16) (fun r u => u.modLoop r fun x => { x.stopRamp s.now with pendingUp := none }) t
  if service then
    (State.each (List.range 16) (fun r u => u.vrOff (256 + r)) t).modBoot fun b => { b with serviceUp := 0 }
  else t

/-- Self-refresh entry to every tier of every column (R43, R420, R483). -/
def tierDefault (_ : Nat) : Tier := Tier.initial

def Column.selfRefresh (x : Column) (v : Bool) (n : Nat) : Column :=
  let step := fun (t : Tab Tier) (k : Nat) =>
    tabSet tierDefault t k { tabGet tierDefault t k with selfRef := v, rows := [] }
  { x with tiers := (List.range n).foldl step x.tiers }

def State.selfRefreshAll (s : State) : State :=
  State.each (List.range 256) (fun c t => t.modColumn c fun x => x.selfRefresh true 20) s

/-- The core's clock is stopped for good, and CORE_AVAIL clears (R25). -/
def State.markOut (s : State) (c : Nat) : State := s.modPower c fun p => { p with avail := false, out := true }

/-- A mapped-out core leaves service: its rail is off and it reads DARK, unless it belongs to a tied pair (R309, R423). The core of
the pair whose regulator has failed leaves its carrier ON, of which it is no longer the partner; the carrier goes on feeding it. -/
def State.retire (s : State) (c : Nat) : State :=
  let p := (s.core c).power
  let t := s.markOut c
  match p.partner with
  | some d =>
    let u := (t.loseRegs c).loseStore c
    if (s.vr c).state = .failed then
      let u := u.setPstate c .dark
      if (s.core d).power.out then u.coreOff d .dark
      else u.modPower d fun q => { q with partner := none, state := if q.state = .carrier then .on else q.state }
    else if (s.core d).power.out then u.coreOff c .dark
    else u
  | none => t.coreOff c .dark

end Sys2Proof.Machine
end

