-- ==== Sys2Proof/Machine/Faults.lean ====
section
/-! DEFINITION. The fault collector and what its classes do: sources, counting, promotion, the pin, arrivals at the event
queues, wake causes, job stops, SAFE, GRAVE, map-out (chapters 16 and 17, R404 to R426, R444 to R446, R458). -/

namespace Sys2Proof.Machine

/-! ## Sources (Table — Fault sources, R412) -/

/-- Shipped base class of a source. -/
def shippedBase (k : Nat) : Nat :=
  match k with
  | 272 | 274 => 4
  | 275 | 276 | 277 | 278 => 3
  | 280 | 283 | 285 | 287 | 288 | 293 | 294 | 296 | 298 | 303 | 306 | 307 => 2
  | 273 | 286 | 290 | 291 | 292 | 301 | 302 | 308 | 310 | 313 | 314 | 315 | 320 | 321 | 323 | 324 | 325 | 328 => 1
  | _ => 0

/-- Shipped counting rule: N and window code. -/
def shippedRule (k : Nat) : Nat × Nat :=
  match k with
  | 311 => (8, 2)
  | 282 => (64, 4)
  | 284 => (64, 4)
  | _ => (1, 0)

def sourceDefault (k : Nat) : Source :=
  { sticky := false, count := 0, closes := none, promoted := false, base := shippedBase k, n := (shippedRule k).1,
    w := (shippedRule k).2, last := none, cleared := none }

def reservedSource (k : Nat) : Bool := decide (332 ≤ k)

/-- The base of these sources is fixed (R411). -/
def fixedBase (k : Nat) : Bool := k = 272 || (decide (274 ≤ k) && decide (k ≤ 278))

def FaultCopy.src (f : FaultCopy) (k : Nat) : Source := tabGet sourceDefault f.sources k
def FaultCopy.put (f : FaultCopy) (k : Nat) (x : Source) : FaultCopy :=
  { f with sources := tabSet sourceDefault f.sources k x }

def State.modFaults (s : State) (f : Faults → Faults) : State := s.setFaults (f s.faults)

/-- Every event and write updates both copies (R414). -/
def State.modCopies (s : State) (f : FaultCopy → FaultCopy) : State :=
  s.modFaults fun x => { x with one := f x.one, two := f x.two }

/-- Reads return the first copy (R414). -/
def State.source (s : State) (k : Nat) : Source := s.faults.one.src k

def Source.eff (x : Source) : Nat := min 4 (x.base + b2n x.promoted)

/-- Window length in beats by its code (R412). -/
def windowBeats (w : Nat) : Nat := 2000000 * 10 ^ (w - 1)

/-- A source takes an event in beat `now`: at most one counts in a beat (R407, R412), and one that meets a clear does not promote (R413). -/
def Source.hit (x : Source) (now : Nat) : Source :=
  if x.last = some now then { x with sticky := true }
  else
    let y := { x with sticky := true, last := some now }
    if x.w = 0 then y
    else
      let opened := match x.closes with
        | some t => decide (now < t)
        | none => false
      let c := (if opened then x.count else 0) + 1
      { y with count := min c 255, closes := if opened then x.closes else some (now + windowBeats x.w),
               promoted := x.promoted || (decide (c = x.n) && decide (x.cleared ≠ some now)) }

/-- A source as the present beat finds it. While the beat clock stands still, the collector's own oscillator tells its beats apart
(R407), so no earlier event shares the present one. -/
def State.timed (s : State) (x : Source) : Source := if s.pins.refclk then x else { x with last := none, cleared := none }

/-- COUNT, which is 0 once the window has closed (R412). -/
def Source.countNow (x : Source) (now : Nat) : Nat :=
  match x.closes with
  | some b => if b ≤ now then 0 else x.count
  | none => x.count

/-- Sources whose sticky bit is set. -/
def State.setSources (s : State) : List Nat := (s.faults.one.sources.filter fun e => e.2.sticky).map (·.1)

/-- A source with effective class STOP_BLOCK is set (R418). -/
def State.blockHeld (s : State) : Bool := s.faults.one.sources.any fun e => e.2.sticky && decide (e.2.eff = 3)

/-! ## The pin (R417) -/

/-- An event of a routed class drives ERR_OUT_N low until WIDTH after the last one. -/
def State.drivePin (s : State) (cls : Nat) : State :=
  if bitOf s.faults.one.route.toNat cls then
    s.modFaults fun x => { x with pulse := true, pulseEnd := s.now + 2000 * x.one.width }
  else s

/-- ERR_OUT_N is driven low: a pulse, HELD, or GRAVE, while STBY_OK is asserted (R41, R415, R417). -/
def State.pinLow (s : State) : Bool :=
  s.pins.stbyOk && (s.boot.grave || s.faults.selfFail || s.faults.pulse || s.faults.one.held)

/-! ## Event queues: arrivals (R426) -/

def pendingDefault (_ : Nat) : Pending := Pending.clear

def EventPart.pendOf (x : EventPart) (k : Nat) : Pending := tabGet pendingDefault x.pending k
def EventPart.putPend (x : EventPart) (k : Nat) (v : Pending) : EventPart :=
  { x with pending := tabSet pendingDefault x.pending k v }

/-- PEND, COUNT, CLASS and STAMP as they stood before beat `now` (R429, R430). -/
def Pending.before (x : Pending) (now : Nat) : Bool × Nat × Nat × BitVec 48 :=
  if x.seen = now + 1 then x.was else (x.pend, x.count, x.cls, x.stamp)

/-- The pending state is about to change in beat `now`. -/
def Pending.touch (x : Pending) (now : Nat) : Pending := { x with seen := now + 1, was := x.before now }

/-- An arrival of class `cls` in beat `now`: it merges; a source counts once in a beat. -/
def Pending.arrive (x : Pending) (now cls : Nat) : Pending :=
  let twice := match x.last with
    | some (b, _) => decide (b = now)
    | none => false
  let y := x.touch now
  if x.pend then
    { y with count := if twice then x.count else satInc x.count 255, cls := max x.cls cls, last := some (now, cls) }
  else { y with pend := true, count := 1, cls := cls, stamp := BitVec.ofNat 48 now, last := some (now, cls) }

def State.arriveQuiet (s : State) (p k cls : Nat) : State :=
  s.modEvq p fun x => x.putPend k ((x.pendOf k).arrive s.now cls)

/-- An enabled watcher entry names source `k` (R444). -/
def State.owlNames (s : State) (k : Nat) : Bool :=
  (List.range 32).any fun i =>
    bitOf (s.regN (0x200100 + 4 * i)) 31 && decide (fld (s.regN (0x200100 + 4 * i)) 0 9 = k)

/-! ## Waking (R444 to R446) -/

/-- EVQ_IDLE_STAT takes the cause and source of a wake. -/
def State.recordWake (s : State) (cause k : Nat) : State :=
  let v := s.regN 0x200008
  s.putReg 0x200008 (setFld (setFld v 28 3 cause) 0 10 (if cause ≤ 2 then k else 1023))

/-- The first beat of a wake; power-ups wait where a class or the coolant condition stands in their way. -/
def State.beginWake (s : State) (cause k : Nat) (act : Bool) : State :=
  let t := (s.recordWake cause k).modBoot fun b => { b with waking := true, wakeBeat := s.now }
  let t := t.putReg 0x20000C (satInc (t.regN 0x20000C) 0xFFFFFFFF)
  let t := State.each (List.range 8) (fun p u => if (u.evq p).en then u.arriveQuiet p 352 0 else u) t
  if !act || t.boot.safe || t.boot.grave || t.boot.coolant then t else t.actOnRequests

/-- A wake cause of Table — Wake causes, for source `k` where it has one: it begins a wake in IDLE, is kept for the entry in
progress (R446), and the lowest of one beat is recorded. `act`: the power-ups may begin. -/
def State.wakeCause (s : State) (cause k : Nat) (act : Bool) : State :=
  let lower := fun (c0 k0 : Nat) => decide (cause < c0) || (decide (cause = c0) && decide (k < k0))
  if s.boot.dpd then s
  else if s.boot.base = .idle then
    if !s.boot.waking then s.beginWake cause k act
    else if s.boot.wakeBeat = s.now &&
        lower (fld (s.regN 0x200008) 28 3) (fld (s.regN 0x200008) 0 10) then s.recordWake cause k
    else s
  else if s.boot.entering then
    match s.boot.wakeMet with
    | none => s.modBoot fun b => { b with wakeMet := some (cause, k) }
    | some (c0, k0) => if lower c0 k0 then s.modBoot fun b => { b with wakeMet := some (cause, k) } else s
  else s

/-- The block is neither in IDLE nor entering it: no access is a wake cause (R444, R446). -/
def State.awake (s : State) : Bool := !(s.boot.base = .idle) && !s.boot.entering

/-- The state `t` that an access leaves from `s`, with the wake that the access causes where the block is in IDLE or entering it. -/
def State.wokenBy (s t : State) (cause : Nat) : State := if s.awake then t else t.wakeCause cause 0 true

/-- An arrival of source `k` for partition `p`, with its wake. -/
def State.arrive (s : State) (p k cls : Nat) : State :=
  let t := s.arriveQuiet p k cls
  if t.owlNames k then t.wakeCause 1 k (decide (cls < 3)) else t

/-! ## Stopping jobs (R410, R235, R267, R185) -/

/-- A packet enters the sync network. -/
def State.sendSync (s : State) (k : Packet) : State := s.setSync { s.sync with packets := s.sync.packets ++ [k] }

/-- Region of a sync counter (R225). -/
def counterRegion (c : Nat) : Nat := c / 4096

/-- Beat at which a packet sent now from region `r` reaches region `t` (R237). -/
def State.arriveBeat (s : State) (r t : Nat) : Nat := s.now + 2 + transit r t

/-- Armed and fired slots return to idle, and each armed watch is cancelled (R235). -/
def State.cancelWatches (s : State) (c : Nat) : State :=
  State.each (s.core c).slots (fun e t =>
    match e.2 with
    | .armed k _ _ =>
      if h : c < 256 then
        t.sendSync (.cancel (s.arriveBeat (c / 16) (counterRegion k)) k (.core ⟨c, h⟩ e.1))
      else t
    | _ => t) (s.modCore c fun x => { x with slots := [] })

/-- A group store that core `c` sent. -/
def Staged.groupFrom (g : Staged) (c : Nat) : Bool :=
  match g.res with
  | .group src _ _ => src = c
  | _ => false

/-- The group stores of core `c` to members that run no schedule any more take effect: no core beat of theirs is to come. -/
def State.landGroups (s : State) (c : Nat) : State :=
  State.each (coresOf (c / 16)) (fun d t =>
    if (t.core d).seq.bound || !((t.core d).staged.any fun g => g.groupFrom c) then t
    else (t.commitWhere d fun g => g.groupFrom c).1) s

/-- Core `c` stops its schedule: staged results take effect now (R510), its watches are cancelled. The Bool says that the
arithmetic-range source is set. -/
def State.haltCore (s : State) (c cause : Nat) (ended : Bool) : State × Bool :=
  let r := s.commitWhere c (fun _ => true)
  let r := (r.1.landGroups c, r.2)
  let t := r.1.modSeq c fun q =>
    { q with bound := false, waiting := none, ended := ended, stopped := !ended, slots := 0,
             cause := if ended then q.cause else if q.cause = 0 then cause else q.cause }
  -- a core that runs no schedule has no pending hint (R363)
  let t := t.modCore c fun x => { x with hints := [], power := { x.power with boost := 0 } }
  (t.cancelWatches c, r.2)

/-- Job that a call of the page keeper was made for. -/
def State.callJob (s : State) (id : Nat) : Option (PartId × Fin 16) :=
  match s.pgk.calls.find? (fun x => x.id = id) with
  | some x => match x.caller with | .core _ _ _ j => some j | .host _ => none
  | none => none

/-- Job a doorbell's requester stands for (R258, R205). -/
def State.ringerJob (s : State) (r : Option Ringer) : Option (PartId × Fin 16) :=
  match r with
  | some (.job _ j) => some j
  | some (.keeper id) => s.callJob id
  | _ => none

/-- Requesters of the descriptors a channel executes or holds: of one it is to read, the last doorbell's (R258). -/
def Channel.holders (x : Channel) : List (Option Ringer) :=
  (if x.fetching = some false then [x.owner]
   else if x.running.isSome || x.fetching.isSome || x.state = .parked then [x.attr] else []) ++ x.finishing.map (·.attr)

/-- Channels executing or holding a descriptor of the job halt with CAUSE 6; their writes still respond, and earlier descriptors of
other requesters still complete (R267). A descriptor that has failed keeps the outcome of its failure (R266). -/
def State.haltChannels (s : State) (j : PartId × Fin 16) : State :=
  State.each s.dma (fun e t =>
    let x := e.2
    if (x.state = .running || x.state = .parked) && x.failed.isNone && x.holders.any fun h => s.ringerJob h = some j then
      t.modChan (e.1 / 32) (e.1 % 32) fun y =>
        { y with state := .halted, cause := 6, fetching := none, running := none, recheck := false
                 finishing := y.finishing.filter fun f => !(s.ringerJob f.attr = some j) }
    else t) s

/-- Sequences of the job: the running one is abandoned at its slice's end, the queued ones are discarded (R185). -/
def State.dropRecords (s : State) (j : PartId × Fin 16) : State :=
  State.each s.columns (fun e t =>
    t.modColumn e.1 fun x =>
      { x with queue := x.queue.filter fun q => !(q.job = some j),
               waiting := x.waiting.filter fun q => !(q.job = some j),
               abandon := x.abandon || (match x.active with | some q => q.job = some j | none => false) }) s

/-- A running job is stopped, once: its cores report CAUSE 8 unless they have one (R410, R458). The list names the cores whose
arithmetic-range source is set by results that take effect at the stop. -/
def State.stopJob (s : State) (j : PartId × Fin 16) : State × List Nat :=
  if (s.job j.1 j.2).state = .running then
    let go := (s.job j.1 j.2).cores.foldl (fun (a : State × List Nat) (e : LaunchEntry) =>
      let q := (a.1.core e.core).seq
      if q.bound && q.job = some j then
        let r := a.1.haltCore e.core 8 false
        (r.1, if r.2 then a.2 ++ [e.core.val] else a.2)
      else a) (s, [])
    let left := ((s.job j.1 j.2).cores.filter fun e => (s.core e.core).seq.bound && decide ((s.core e.core).seq.job = some j)).length
    let t := go.1.modJob j.1 j.2 fun x => { x with state := .stopped, quiet := 0, left := left }
    ((t.haltChannels j).dropRecords j, go.2)
  else (s, [])

def jobId (p j : Nat) : Option (PartId × Fin 16) :=
  if h : p < 8 then if g : j < 16 then some (⟨p, h⟩, ⟨j, g⟩) else none else none

/-- Every running job is stopped. -/
def State.stopJobs (s : State) : State × List Nat :=
  s.runningJobs.foldl (fun (a : State × List Nat) x =>
    match jobId x.1 x.2 with
    | some j => let r := a.1.stopJob j; (r.1, a.2 ++ r.2)
    | none => a) (s, [])

/-! ## SAFE and GRAVE -/

def State.modPerturb (s : State) (f : Perturb → Perturb) : State := s.setPerturb (f s.perturb)

/-- The perturbation unit locks: every TST_ field returns to its reset value, TST_FORCED excepted (R488). -/
def State.lockPerturb (s : State) : State :=
  s.setPerturb { s.perturb with first := none, locking := s.perturb.locking || s.perturb.unlocked }

/-- The lock takes effect with the beat after its cause (R488). -/
def State.finishLock (s : State) : State :=
  if s.perturb.locking then
    let t := s.setPerturb { unlocked := false, first := none, lfsr := [], forced := s.perturb.forced, left := [], locking := false }
    t.setRegs (t.regs.filter fun e => decide (e.1 < 0x1F00000) || decide (0x2000000 ≤ e.1))
  else s

/-- Entry to SAFE (R418): every running job is stopped, and a reset sequence in progress stops (R419). -/
def State.enterSafe (s : State) : State × List Nat :=
  let r := s.stopJobs
  (r.1.modBoot fun b =>
    let seq := !b.hold && (b.base = .reset || b.base = .config || b.base = .train)
    { b with safe := true,
             base := if seq then .reset else b.base,
             step := if seq && (b.step ≠ .unpowered && b.step ≠ .refLock && b.step ≠ .waitPillar) then .waitRelease
                     else b.step }, r.2)

/-- Entry to GRAVE (R420): the actions of SAFE, self-refresh, core rails off, the perturbation unit locked. -/
def State.enterGrave (s : State) : State × List Nat :=
  let r := s.stopJobs
  ((((r.1.selfRefreshAll).railsOff false).lockPerturb).modBoot fun b => { b with grave := true }, r.2)

/-! ## Events (R404, R407, R409, R410, R422) -/

/-- An event: its kind source, the location sources it sets, the job and the host tag it is attributed to. -/
structure Ev where
  src  : Nat
  locs : List Nat
  job  : Option (PartId × Fin 16)
  tag  : Option Nat
  deriving DecidableEq, Repr

/-- Partition that owns a location source. -/
def State.locOwner (s : State) (l : Nat) : Option Nat := s.regionOwner (if l < 256 then l / 16 else l - 256)

/-- Partitions an event goes to, of the locations given (R422). -/
def State.recipients (s : State) (locs : List Nat) (job : Option (PartId × Fin 16)) (tag : Option Nat) : List Nat :=
  let tags := s.faults.one.evqTags.toNat
  (List.range 8).filter fun p =>
    locs.any (fun l => s.locOwner l = some p) ||
    (locs.any (fun l => s.locOwner l = none) && bitOf tags p) ||
    (match job with | some j => j.1.val = p | none => false) || tag = some p ||
    (locs.isEmpty && job.isNone && tag.isNone && bitOf tags p)

/-- Source `k` takes an event and its arrivals are made; its acting class is returned. -/
def State.hitSource (s : State) (k : Nat) (parts : List Nat) : State × Nat :=
  let t := s.modCopies fun f => f.put k ((s.timed (f.src k)).hit s.now)
  let cls := (t.source k).eff
  let t := t.drivePin cls
  let t := State.each parts (fun p u => u.arrive p k cls) t
  (if 3 ≤ cls then t.wakeCause 2 k false else t, cls)

/-- An event: every source it names is set, then each acts at its class. `fuel` bounds the events that an action itself
raises: a core mapped out during a job (R26), and range results that take effect when a job stops (R510). -/
def State.raiseN : Nat → Ev → State → State
  | 0, _, s => s
  | fuel + 1, ev, s =>
    if reservedSource ev.src then s
    else
      let hits := (ev.locs ++ [ev.src]).foldl (fun (a : State × List (Nat × Nat)) k =>
        let parts := if k < 272 then s.recipients [k] ev.job ev.tag else s.recipients ev.locs ev.job ev.tag
        let h := a.1.hitSource k parts
        (h.1, a.2 ++ [(k, h.2)])) (s, [])
      State.each hits.2 (fun h t =>
        let cls := h.2
        -- map-out at a location source (R423)
        let t := if h.1 < 272 ∧ 1 ≤ cls then
            State.each (if h.1 < 256 then [h.1] else coresOf (h.1 - 256)) (fun c u =>
              if (u.core c).power.out then u
              else
                -- what was on its way to its registers takes effect before they are lost (R510)
                let q := (u.core c).seq
                let r := u.commitWhere c fun _ => q.bound
                let v := r.1.retire c
                let v := if r.2 then State.raiseN fuel { src := 281, locs := [c], job := q.job, tag := none } v else v
                if q.bound then State.raiseN fuel { src := 307, locs := [c], job := q.job, tag := none } v else v) t
          else t
        let r : State × List Nat :=
          if cls = 2 then (match ev.job with | some j => t.stopJob j | none => (t, []))
          else if cls = 3 then (if t.boot.safe then (t, []) else t.enterSafe)
          else if cls = 4 then (if t.boot.grave then (t, []) else t.enterGrave)
          else (t, [])
        State.each r.2 (fun c u => State.raiseN fuel { src := 281, locs := [c], job := none, tag := none } u) r.1)
        hits.1

def State.raise (s : State) (ev : Ev) : State := State.raiseN 4 ev s

/-- An event located at a core. -/
def State.raiseCore (s : State) (src c : Nat) (job : Option (PartId × Fin 16)) : State :=
  s.raise { src := src, locs := [c], job := job, tag := none }

/-- An event located at a region. -/
def State.raiseRegion (s : State) (src r : Nat) (job : Option (PartId × Fin 16)) : State :=
  s.raise { src := src, locs := [256 + r], job := job, tag := none }

/-- A block event without attribution. -/
def State.raiseBlock (s : State) (src : Nat) : State := s.raise { src := src, locs := [], job := none, tag := none }

/-- A job is stopped, with the range events of results that take effect then. -/
def State.endJob (s : State) (j : PartId × Fin 16) : State :=
  let r := s.stopJob j
  State.each r.2 (fun c t => t.raiseCore 281 c none) r.1

def State.endJobs (s : State) : State :=
  let r := s.stopJobs
  State.each r.2 (fun c t => t.raiseCore 281 c none) r.1

/-- A condition of R407 begins or ends; it reports anew in each beat in which its sticky bit is clear. -/
def State.persistOn (s : State) (k : Nat) (l : Option Nat) : State :=
  if s.faults.persist.any (fun e => e = (k, l)) then s
  else s.modFaults fun x => { x with persist := x.persist ++ [(k, l)] }

def State.persistOff (s : State) (k : Nat) (l : Option Nat) : State :=
  s.modFaults fun x => { x with persist := x.persist.filter fun e => !(e = (k, l)) }

/-- A core goes dark (R308): it leaves service and its job is stopped through source 307. Results on their way to its registers
take effect first (R510). -/
def State.goDark (s : State) (c : Nat) : State :=
  let q := (s.core c).seq
  let job := if q.bound then q.job else none
  let r := s.commitWhere c fun _ => q.bound
  let t := (r.1.markOut c).coreOff c .dark
  (if r.2 then t.raiseCore 281 c job else t).raiseCore 307 c job

/-- A core's running job, for the attribution of its events. -/
def State.coreJob (s : State) (c : Nat) : Option (PartId × Fin 16) :=
  if (s.core c).seq.bound then (s.core c).seq.job else none

end Sys2Proof.Machine
end

