-- ==== Sys2Proof/Machine/Map.lean ====
section
/-! DEFINITION. The block address space as a requester of a partition meets it: ranges, ownership, tier windows, striping
(R7, R10, R115, R159 to R164, R177, R270, R271, R448 to R453), and reads and writes of what lies in core stores and tiers.

Marks: DEDUCED (log entry 55), DEDUCED (log entry 59). -/

namespace Sys2Proof.Machine

/-- Where an address leads for a partition. -/
inductive Site where
  /-- a byte of a core store or a column, by physical block address -/
  | mem (a : Nat)
  /-- the tier command port of a column -/
  | port (c : Nat)
  | host
  | peer (n : Nat)
  | regs
  /-- outside R7, or an unpopulated column offset (R160) -/
  | outside
  | notOwned
  /-- the byte lies in the column of an unavailable core (R450, R164) -/
  | unavailable
  deriving DecidableEq, Repr

/-! ## Tier windows (R162, R449) -/

structure Window where
  striped : Bool
  coff    : Nat
  sl      : Nat
  regions : Nat
  deriving DecidableEq, Repr

/-- Window `k` of the table whose block starts at `base` (live or staged), where its EN is set. -/
def State.windowAt (s : State) (base k : Nat) : Option Window :=
  let a := s.regN (base + 0x10 + 8 * k)
  if bitOf a 31 then
    some { striped := bitOf a 30, coff := fld a 0 12 * 0x200000, sl := fld a 12 12 * 0x200000,
           regions := fld (s.regN (base + 0x14 + 8 * k)) 0 16 }
  else none

def State.windowsAt (s : State) (base : Nat) : List Window := (List.range 8).filterMap fun k => s.windowAt base k

/-- Windows of partition `p`; none while its EN is 0 (R451). -/
def State.windows (s : State) (p : Nat) : List Window := if s.partEn p then s.windowsAt (partBase p) else []

/-- Cores of a window's regions, ascending (R162). -/
def Window.cores (w : Window) : List Nat := (bitsOf 16 w.regions).flatMap coresOf

/-- The window holds column offset `o` of core `c`. -/
def Window.holds (w : Window) (c o : Nat) : Bool :=
  bitOf w.regions (c / 16) && decide (w.coff ≤ o) && decide (o < w.coff + w.sl)

/-- Core and column offset of the byte that an address of the window names (R162). -/
def Window.place (w : Window) (c o : Nat) : Nat × Nat :=
  if w.striped then
    let l := w.cores
    let a := l.findIdx (· = c) * w.sl + (o - w.coff)
    let st := a / 4096
    (l.getD (st % l.length) 0, w.coff + st / l.length * 4096 + a % 4096)
  else (c, o)

/-! ## The map -/

def peerBase (n : Nat) : Nat := 0x1C00000 + n * 0x100

/-- Partition that owns peer port `n` (R271). -/
def State.portOwner (s : State) (n : Nat) : Nat := fld (s.regN (peerBase n)) 0 3

def State.available (s : State) (c : Nat) : Bool := (s.core c).power.avail

/-- Where byte address `a` leads for a requester of partition `p`. -/
def State.locate (s : State) (p a : Nat) : Site :=
  if a < 0x20000000000 then
    let c := colCore a
    let o := colOff a
    if 0x1FFFFF000 ≤ o then (if s.ownsRegion p (c / 16) then .port c else .notOwned)
    else if s.capacity ≤ o then .outside
    else match (s.windows p).find? (fun w => w.holds c o) with
      | none => .notOwned
      | some w =>
        let d := w.place c o
        if s.available d.1 then .mem (colAddr d.1 d.2) else .unavailable
  else if storeBase ≤ a ∧ a < 0x40040000000 then
    (if s.ownsRegion p ((a - storeBase) / 0x4000000) then .mem a else .notOwned)
  else if 0x40080000000 ≤ a ∧ a < 0x40084000000 then .regs
  else if 0x80000000000 ≤ a ∧ a < 0x100000000000 then
    let h := s.regN (partBase p + 8)
    let lo := 0x80000000000 + fld h 0 13 * 0x40000000
    if s.partEn p && decide (lo ≤ a) && decide (a < lo + fld h 16 14 * 0x40000000) then .host else .notOwned
  else if 0x100000000000 ≤ a ∧ a < 0x180000000000 then
    let n := (a - 0x100000000000) / 0x20000000000
    if s.partEn p && s.portOwner n = p then .peer n else .notOwned
  else .outside

/-- A stretch split at 4 KiB boundaries, within which the map is uniform. -/
def piecesGo : Nat → Nat → Nat → List (Nat × Nat)
  | 0, _, _ => []
  | fuel + 1, a, n =>
    if n = 0 then []
    else
      let k := min n (4096 - a % 4096)
      (a, k) :: piecesGo fuel (a + k) (n - k)

def pieces (a n : Nat) : List (Nat × Nat) := piecesGo (n / 4096 + 2) a n

/-- A piece of an access: where it leads and its length. -/
abbrev Piece := Site × Nat

def State.locateAll (s : State) (p a n : Nat) : List Piece := (pieces a n).map fun q => (s.locate p q.1, q.2)

/-- Every piece is data that can be read or written: a core store, a column, the host window or a peer window. -/
def Site.isData : Site → Bool
  | .mem _ | .host | .peer _ => true
  | _ => false

def allData (l : List Piece) : Bool := l.all fun q => q.1.isData

/-- Every piece lies in core stores and columns. -/
def allMem (l : List Piece) : Bool := l.all fun q => match q.1 with | .mem _ => true | _ => false

/-- Some piece lies outside R7 or at an unpopulated offset. -/
def anyOutside (l : List Piece) : Bool := l.any fun q => q.1 = .outside

/-! ## Page tables (R192, R193) -/

def pgkReg (p o : Nat) : Nat := 0x1800000 + p * 0x80 + o

/-- Address held in a pair of registers. -/
def State.addrReg (s : State) (lo : Nat) : Nat := s.regN lo + 2 ^ 32 * fld (s.regN (lo + 4)) 0 16

def State.pgkEn (s : State) (p : Nat) : Bool := bitOf (s.regN (pgkReg p 0)) 0
def State.ptBase (s : State) (p : Nat) : Nat := s.addrReg (pgkReg p 0x8)
def State.sumBase (s : State) (p : Nat) : Nat := s.addrReg (pgkReg p 0x10)
def State.ptCount (s : State) (p : Nat) : Nat := s.regN (pgkReg p 0x18)

/-- The page table that the registers of partition `p` describe. -/
def State.regTable (s : State) (p : Nat) : PgkTable :=
  let v := s.regN (pgkReg p 0x1C)
  { base := s.ptBase p, sums := s.sumBase p, count := s.ptCount p, size := 0x4000 * 2 ^ fld (s.regN (pgkReg p 0)) 1 2
    region := fld v 5 4, chan := fld v 0 5 }

/-- `[a, a + n)` touches the entry array of an enabled table of partition `p` (R193). -/
def State.hitsEntries (s : State) (p a n : Nat) : Bool :=
  s.pgkEn p && decide (a < s.ptBase p + 16 * s.ptCount p) && decide (s.ptBase p < a + n)

/-- `[a, a + n)` touches its summary array. -/
def State.hitsSummaries (s : State) (p a n : Nat) : Bool :=
  s.pgkEn p && decide (a < s.sumBase p + 64 * s.ptCount p) && decide (s.sumBase p < a + n)

/-! ## Schedule regions are read-only (R98) -/

/-- `[a, a + n)`, in a core store, meets the schedule region of a core that runs. -/
def State.hitsSchedule (s : State) (a n : Nat) : Bool :=
  match storeCore a with
  | none => false
  | some c => (s.core c).seq.bound && meetsSchedule (s.core c).seq ((a - storeBase) % 0x400000) n

/-! ## Reads and writes of pieces -/

/-- Sets the sources of a read at `a` (R157), attributed to `job`. -/
def State.raiseRead (s : State) (a : Nat) (f : Fetched) (job : Option (PartId × Fin 16)) (tag : Option Nat) : State :=
  State.each (f.sources a) (fun k t => t.raise { src := k, locs := [codeCore a], job := job, tag := tag }) s

/-- A read of memory pieces in order: the bytes, whether a word was uncorrectable, and the state with counts, events and
injections. -/
def State.readPieces (s : State) (job : Option (PartId × Fin 16)) (tag : Option Nat) (l : List Piece) :
    List Byte × Bool × State :=
  l.foldl (fun (a : List Byte × Bool × State) q =>
    match q.1 with
    | .mem x =>
      let r := a.2.2.readMem x q.2
      (a.1 ++ r.1.bytes, a.2.1 || r.1.bad, r.2.raiseRead x r.1 job tag)
    | _ => (a.1 ++ List.replicate q.2 0, a.2.1, a.2.2)) ([], false, s)

/-- Granule of a read-modify-write: 8 bytes in a core store (R154), a 1,024-byte burst in a column (R170). -/
def granule (a : Nat) : Nat := if storeBase ≤ a then 8 else 1024

/-- First bytes of the granules that `[a, a + n)` touches. -/
def granulesAt (a n : Nat) : List Nat :=
  let g := granule a
  (List.range ((a + n + g - 1) / g - a / g)).map fun k => (a / g + k) * g

/-- Granules that a write of `[a, a + n)` reads and writes back: the words of a core store that it covers in part (R154); every
burst of a column that it touches, unless it covers whole bursts alone (R170). -/
def granulesRead (a n : Nat) : List Nat :=
  let g := granule a
  if n = 0 ∨ (a % g = 0 ∧ n % g = 0) then []
  else if a < storeBase then granulesAt a n
  else (granulesAt a n).filter fun q => decide (q < a) || decide (a + n < q + g)

/-- A granule is read for a read-modify-write and holds the corrected bytes then; an uncorrectable one is unchanged and joins
the list. -/
def State.readBack (job : Option (PartId × Fin 16)) (tag : Option Nat) (p : State × List Nat) (q : Nat) : State × List Nat :=
  let r := p.1.readMem q (granule q)
  let t := r.2.raiseRead q r.1 job tag
  if r.1.bad then (t, p.2 ++ [q]) else (t.writeMem q r.1.bytes, p.2)

/-- Bytes written at `a`, but for the granules of a list. -/
def State.writeBut (s : State) (a : Nat) (bs : List Byte) (bad : List Nat) : State :=
  if bad.isEmpty then s.writeMem a bs
  else
    State.each ((granulesAt a bs.length).filter fun q => !bad.any (· = q)) (fun q t =>
      let lo := max a q
      t.writeMem lo ((bs.drop (lo - a)).take (q + granule a - lo))) s

/-- A write of bytes to one memory piece: the state, and whether it completed in error. What it covers in part is read first;
where that meets an uncorrectable word, the granule stays unchanged (R154, R170). -/
def State.writePiece (s : State) (a : Nat) (bs : List Byte) (job : Option (PartId × Fin 16)) (tag : Option Nat) :
    State × Bool :=
  if s.hitsSchedule a bs.length then (s, true)
  else
    let r := (granulesRead a bs.length).foldl (State.readBack job tag) (s, [])
    (r.1.writeBut a bs r.2, !r.2.isEmpty)

/-- A write of bytes over memory pieces in order. -/
def State.writePieces (s : State) (job : Option (PartId × Fin 16)) (tag : Option Nat) (l : List Piece)
    (bs : List Byte) : State × Bool :=
  let r := l.foldl (fun (a : (State × Bool) × List Byte) q =>
    match q.1 with
    | .mem x =>
      let w := a.1.1.writePiece x (a.2.take q.2) job tag
      ((w.1, a.1.2 || w.2), a.2.drop q.2)
    | _ => (a.1, a.2.drop q.2)) ((s, false), bs)
  r.1

/-- Bytes of the own store of core `c`, wrapping at 4 MiB (R114), with their decoding. -/
def State.readOwn (s : State) (c off n : Nat) (job : Option (PartId × Fin 16)) : List Byte × Bool × State :=
  let o := off % 0x400000
  let k := min n (0x400000 - o)
  s.readPieces job none
    ((pieces (storeAddr c o) k ++ pieces (storeAddr c 0) (n - k)).map fun q => (Site.mem q.1, q.2))

end Sys2Proof.Machine
end

