-- ==== Sys2Proof/Machine/NearBank.lean ====
section
/-! DEFINITION. Arithmetic of the working tiers: command records and the near-bank functions, each the exact real value of its
formula rounded once (R177 to R179, R182).

Square roots, quotients and sums are rounded from an exact floor with a sticky bit. The exponential and the error function
are summed to far more bits than the nearest approach of their values to a rounding boundary (log entry 4).

Marks: PRESUMED (log entry 4), DESIGN CHOICE (log entry 24). -/

namespace Sys2Proof.Machine

/-! ## Rounding into FP32 or BF16 -/

def nbFmt (code : Nat) : Fmt := if code = 0 then fmtFp32 else fmtBf16

/-- A value in units of 2^(−s), rounded once: overflow gives ±Inf (R179). -/
def nbRound (f : Fmt) (neg : Bool) (m s : Nat) (sticky : Bool) : Nat :=
  let c := f.round m s sticky
  signBit f neg (if f.top < c then f.inf.getD f.top else c)

def nbInf (f : Fmt) (neg : Bool) : Nat := signBit f neg (f.inf.getD f.top)

def nbVal (f : Fmt) (v : Val) : Nat :=
  match v with
  | .nan => f.nan
  | .inf x => nbInf f x
  | .fin x m => nbRound f x m 149 false

/-- Sum of a finite multiple of 2^(−s), with its sign kept when zero, and another. -/
def nbSum (f : Fmt) (s : Nat) (x : Bool) (m : Nat) (y : Bool) (n : Nat) : Nat :=
  let z := (if x then - Int.ofNat m else Int.ofNat m) + (if y then - Int.ofNat n else Int.ofNat n)
  if z = 0 then signBit f (decide (m = 0) && decide (n = 0) && x && y) 0
  else nbRound f (decide (z < 0)) z.natAbs s false

def nbAdd (f : Fmt) (a b : Val) : Nat :=
  match a, b with
  | .nan, _ => f.nan
  | _, .nan => f.nan
  | .inf x, .inf y => if x = y then nbInf f x else f.nan
  | .inf x, .fin _ _ => nbInf f x
  | .fin _ _, .inf y => nbInf f y
  | .fin x m, .fin y n => nbSum f 149 x m y n

/-- A product of two values: NaN, an infinity, or a multiple of 2^-298. -/
def nbProd (a b : Val) : Val :=
  match a, b with
  | .nan, _ => .nan
  | _, .nan => .nan
  | .inf x, .inf y => .inf (x != y)
  | .inf x, .fin y n => if n = 0 then .nan else .inf (x != y)
  | .fin x m, .inf y => if m = 0 then .nan else .inf (x != y)
  | .fin x m, .fin y n => .fin (x != y) (m * n)

def nbMul (f : Fmt) (a b : Val) : Nat :=
  match nbProd a b with
  | .nan => f.nan
  | .inf x => nbInf f x
  | .fin x m => nbRound f x m 298 false

def nbFma (f : Fmt) (a b c : Val) : Nat :=
  match nbProd a b, c with
  | .nan, _ => f.nan
  | _, .nan => f.nan
  | .inf x, .inf y => if x = y then nbInf f x else f.nan
  | .inf x, .fin _ _ => nbInf f x
  | .fin _ _, .inf y => nbInf f y
  | .fin x m, .fin y n => nbSum f 298 x m y (n * 2 ^ 149)

def nbRelu (f : Fmt) (a : Val) : Nat :=
  match a with
  | .fin true _ => 0
  | .inf true => 0
  | v => nbVal f v

/-! ## Exponential and error function in fixed point -/

/-- Σ y^n / n! for `fuel` terms from term `t`, in units of 2^(−p). -/
def expSeries (p y : Nat) : Nat → Nat → Nat → Nat
  | 0, _, _ => 0
  | fuel + 1, n, t => t + expSeries p y fuel (n + 1) (t * y / 2 ^ p / (n + 1))

def squareTimes (p : Nat) : Nat → Nat → Nat
  | 0, v => v
  | k + 1, v => squareTimes p k (v * v / 2 ^ p)

/-- e^(−x) in units of 2^(−p), x in the same units: the reciprocal of (e^(x / 2^24))^(2^24) of the series. -/
def expNeg (p x : Nat) : Nat :=
  -- e^(-y) = 1 / e^y for y = x / 2^24
  let e := expSeries p (x / 2 ^ 24) (p / 8 + 8) 0 (2 ^ p)
  squareTimes p 24 (2 ^ p * 2 ^ p / e)

/-- π in units of 2^(−p), by Machin's formula. -/
def atanInv (p k : Nat) : Nat → Nat → Nat → Int
  | 0, _, _ => 0
  | fuel + 1, n, t =>
    (if n % 2 = 0 then Int.ofNat (t / (2 * n + 1)) else - Int.ofNat (t / (2 * n + 1))) +
      atanInv p k fuel (n + 1) (t / (k * k))

def piFix (p : Nat) : Nat :=
  (16 * atanInv p 5 (p / 4 + 8) 0 (2 ^ p / 5) - 4 * atanInv p 239 (p / 4 + 8) 0 (2 ^ p / 239)).toNat

/-- Σ x^(2n+1) / (2n+1)!! from term `t`, with z = x², in units of 2^(−p). -/
def phiSeries (p z : Nat) : Nat → Nat → Nat → Nat
  | 0, _, _ => 0
  | fuel + 1, n, t => t + phiSeries p z fuel (n + 1) (t * z / 2 ^ p / (2 * n + 3))

/-- (1 + erf(x / √2)) / 2 − 1/2 for x ≥ 0, in units of 2^(−p). -/
def phiFix (p x : Nat) : Nat :=
  let z := x * x / 2 ^ p
  let d := expNeg p (z / 2) * 2 ^ p / isqrt (2 * piFix p * 2 ^ p)
  d * phiSeries p z (2 * (z / 2 ^ p) + p + 64) 0 x / 2 ^ p

/-- Bits of the fixed-point evaluations. -/
def nbBits : Nat := 2048

/-- 1 / (1 + e^(−a)) for a finite value, strictly below the exact one, in units of 2^(−nbBits). At |a| ≥ 512 the exact value
differs from 0 or 1 by less than 2^-700. -/
def sigmoid (neg : Bool) (m : Nat) : Nat :=
  let one := 2 ^ nbBits
  if 512 * 2 ^ 149 ≤ m then (if neg then 0 else one - 1)
  else
    let e := expNeg nbBits (m * 2 ^ (nbBits - 149))
    (if neg then e * one / (one + e) else one * one / (one + e)) - 1

/-- (1 + erf(a / √2)) / 2, strictly below the exact value, in units of 2^(−nbBits). -/
def gaussCdf (neg : Bool) (m : Nat) : Nat :=
  let one := 2 ^ nbBits
  if 32 * 2 ^ 149 ≤ m then (if neg then 0 else one - 1)
  else
    let h := phiFix nbBits (m * 2 ^ (nbBits - 149))
    (if neg then one / 2 - h else one / 2 + h) - 1

/-- A × w for a weight w in (0, 1) in units of 2^(−nbBits); an infinity of the sign at which w tends to 0 has no stated result
and takes the free value `open'`. -/
def nbWeighted (f : Fmt) (w : Bool → Nat → Nat) (open' : Nat) (a : Val) : Nat :=
  match a with
  | .nan => f.nan
  | .inf x => if x then open' else nbInf f false
  | .fin x m => if m = 0 then signBit f x 0 else nbRound f x (m * w x m) (149 + nbBits) true

/-- SILU(a) × b, rounded once. -/
def nbSwiglu (f : Fmt) (open' : Nat) (a b : Val) : Nat :=
  match a, b with
  | .nan, _ => f.nan
  | _, .nan => f.nan
  | .inf true, _ => open'
  | .inf false, .inf y => nbInf f y
  | .inf false, .fin y n => if n = 0 then f.nan else nbInf f y
  | .fin x m, .inf y => if m = 0 then f.nan else nbInf f (x != y)
  | .fin x m, .fin y n =>
    if m = 0 ∨ n = 0 then signBit f (x != y) 0
    else nbRound f (x != y) (m * n * sigmoid x m) (298 + nbBits) true

/-! ## Norms -/

/-- √(num / den) × 2^200 rounded down, and whether that is exact; `num` carries the factor 2^400 already. -/
def rootOf (num den : Nat) : Nat × Bool :=
  let r := isqrt (num / den)
  (r, decide (r * r * den = num))

/-- t × b / √D + c, where the first factor pair is `t b`, and (t b)² / D = num / den in units of 2^-400. -/
def nbRootSum (f : Fmt) (neg : Bool) (num den : Nat) (c : Val) (addC : Bool) : Nat :=
  let r := rootOf num den
  if !addC then (if num = 0 then signBit f neg 0 else nbRound f neg r.1 200 (!r.2))
  else match c with
    | .nan => f.nan
    | .inf y => nbInf f y
    | .fin y n =>
      let k := n * 2 ^ 51
      if r.2 then nbSum f 200 neg r.1 y k
      else
        let lo : Int := (if neg then - Int.ofNat r.1 - 1 else Int.ofNat r.1) + (if y then - Int.ofNat k else Int.ofNat k)
        if lo < 0 then nbRound f true (-lo - 1).toNat 200 true else nbRound f false lo.toNat 200 true

/-- One element of a norm: centred numerator `t`, weight `b`, added `c`, with D = den2 / scale. -/
def nbNormElem (f : Fmt) (t : Int) (b c : Val) (g nd : Nat) (addC : Bool) : Nat :=
  match b with
  | .nan => f.nan
  | .inf x =>
    if t = 0 then f.nan
    else if addC then nbAdd f (.inf (x != decide (t < 0))) c
    else nbInf f (x != decide (t < 0))
  | .fin x n => nbRootSum f (x != decide (t < 0)) (t.natAbs * t.natAbs * n * n * g * 2 ^ 102) nd c addC

def Val.finite : Val → Bool
  | .fin _ _ => true
  | _ => false

/-- One group of RMSNORM or LAYERNORM over values `a`, weights `b`, addends `c`, ε in units of 2^-149. -/
def nbGroup (f : Fmt) (layer : Bool) (eps : Nat) (a b c : List Val) : List Nat :=
  let g := a.length
  if a.any (fun v => !v.finite) then a.map fun _ => f.nan
  else
    let xs := a.map Val.int
    let sum := xs.foldl (· + ·) 0
    -- LAYERNORM centres by the mean: G a − Σ a; its variance has the denominator G³
    let ts := if layer then xs.map fun x => Int.ofNat g * x - sum else xs
    let q := ts.foldl (fun z t => z + t.natAbs * t.natAbs) 0
    let nd := q + eps * 2 ^ 149 * (if layer then g * g * g else g)
    if nd = 0 then a.map fun _ => 0
    else
      (List.zip (List.zip ts a) (List.zip b c)).map fun p =>
        nbNormElem f p.1.1 p.2.1 p.2.2 g nd layer |> fun code =>
          -- a zero numerator keeps the sign of the element
          if p.1.1 = 0 ∧ !layer ∧ p.2.1.finite then
            signBit f ((match p.1.2 with | .fin x _ => x | _ => false) != (match p.2.1 with | .fin y _ => y | _ => false)) 0
          else code

/-! ## Command records (R178) -/

def NbRecord.w (q : NbRecord) (k : Nat) : Nat := (q.words.getD k 0).toNat
def NbRecord.func (q : NbRecord) : Nat := fld (q.w 0) 58 6
def NbRecord.tier (q : NbRecord) : Nat := fld (q.w 0) 56 2
def NbRecord.fmt (q : NbRecord) : Nat := fld (q.w 0) 53 3
def NbRecord.len (q : NbRecord) : Nat := fld (q.w 0) 36 17
def NbRecord.elems (q : NbRecord) : Nat := 32 * q.len
def NbRecord.raD (q : NbRecord) : Nat := fld (q.w 1) 49 15
def NbRecord.raA (q : NbRecord) : Nat := fld (q.w 1) 34 15
def NbRecord.raB (q : NbRecord) : Nat := fld (q.w 1) 19 15
def NbRecord.raC (q : NbRecord) : Nat := fld (q.w 1) 4 15
def NbRecord.param (q : NbRecord) : Nat := fld (q.w 2) 32 32
def NbRecord.group (q : NbRecord) : Nat := fld (q.w 2) 0 32

def NbRecord.isNorm (q : NbRecord) : Bool := q.func = 0x09 || q.func = 0x0A
def NbRecord.isMx (q : NbRecord) : Bool := q.func = 0x0B || q.func = 0x0C

/-- Row operations per 2,048 elements (Table — Near-bank functions). -/
def nbRowOps (func : Nat) : Nat :=
  match func with
  | 0x01 | 0x02 | 0x08 => 3
  | 0x03 | 0x09 => 4
  | 0x0A => 5
  | _ => 2

/-- Bytes of a packed element run: half a byte each in E2M1, else one byte. -/
def mxBytes (fmt n : Nat) : Nat := if fmt = 0 then n / 2 else n

/-- Bytes of one element of A to D. -/
def NbRecord.size (q : NbRecord) : Nat := if q.fmt = 0 then 4 else 2

/-- Operands read: starting row and bytes. -/
def NbRecord.reads (q : NbRecord) : List (Nat × Nat) :=
  let n := q.elems * q.size
  match q.func with
  | 0x01 | 0x02 | 0x08 => [(q.raA, n), (q.raB, n)]
  | 0x03 => [(q.raA, n), (q.raB, n), (q.raC, n)]
  | 0x09 => [(q.raA, n), (q.raB, q.group * q.size)]
  | 0x0A => [(q.raA, n), (q.raB, q.group * q.size), (q.raC, q.group * q.size)]
  | 0x0B => [(q.raA, 4 * q.elems)]
  | 0x0C => [(q.raA, mxBytes q.fmt q.elems), (q.raC, q.len)]
  | _ => [(q.raA, n)]

/-- Operands written. -/
def NbRecord.writes (q : NbRecord) : List (Nat × Nat) :=
  match q.func with
  | 0x0B => [(q.raD, mxBytes q.fmt q.elems), (q.raC, q.len)]
  | 0x0C => [(q.raD, 4 * q.elems)]
  | _ => [(q.raD, q.elems * q.size)]

/-- Words of an operand that units `u0` to `u1 - 1` read, from its first. The weights of a norm's group serve every unit. -/
def NbRecord.sliceWords (q : NbRecord) (x : Nat × Nat) (u0 u1 : Nat) : Nat × Nat :=
  let n := (x.2 + 7) / 8
  if q.isNorm && decide (x.2 < q.elems * q.size) then (0, n)
  else (min n (x.2 * u0 * 2048 / q.elems / 8), min n ((x.2 * u1 * 2048 / q.elems + 7) / 8))

/-- An operand's bytes, as column offset and length. -/
def NbRecord.span (q : NbRecord) (x : Nat × Nat) : Nat × Nat := (q.tier * 0x10000000 + x.1 * 0x2000, x.2)

/-- The record's fields obey R178 in a stack of `wtiers` working tiers, and its operands lie within the rows of its tier. -/
def NbRecord.wellFormed (q : NbRecord) (wtiers : Nat) : Bool :=
  decide (1 ≤ q.func ∧ q.func ≤ 0x0D) && decide (q.tier < wtiers) &&
  (if q.isMx then decide (q.fmt ≤ 5) else decide (q.fmt ≤ 1)) && decide (1 ≤ q.len) &&
  decide (fld (q.w 0) 0 36 = 0) && decide (fld (q.w 1) 0 4 = 0) && decide (q.w 3 = 0) &&
  (!q.isNorm || (decide (q.param < 0x7F800000) || decide (q.param = 0x80000000))) &&
  (!q.isNorm || (decide (q.group % 32 = 0) && decide (q.group ≠ 0) && decide (q.elems % q.group = 0))) &&
  (q.reads ++ q.writes).all fun x => decide (x.1 * 0x2000 + x.2 ≤ 0x10000000)

/-- The record obeys every rule of R178 for partition `p` at the column of core `c`. -/
def State.nbValid (s : State) (p c : Nat) (q : NbRecord) : Bool :=
  q.wellFormed s.boot.wtiers &&
  (q.reads ++ q.writes).all fun x =>
    (pieces (q.span x).1 (q.span x).2).all fun y => (s.windows p).any fun w => w.holds c y.1

/-! ## Results -/

/-- Values of a run of elements. -/
def NbRecord.values (q : NbRecord) (bs : List Byte) : List Val :=
  if q.fmt = 0 ∨ q.isMx then (List.range (bs.length / 4)).map fun i => fmtFp32.value (bytesLe ((bs.drop (4 * i)).take 4))
  else (List.range (bs.length / 2)).map fun i => fmtBf16.value (bytesLe ((bs.drop (2 * i)).take 2))

def chunksOf {α : Type} (n : Nat) : Nat → List α → List (List α)
  | 0, _ => []
  | fuel + 1, l => if l.isEmpty then [] else l.take n :: chunksOf n fuel (l.drop n)

/-- Code of packed element `e` (as `elemValue` takes it). -/
def mxRaw (fmt : Nat) (bs : List Byte) (e : Nat) : Nat :=
  if fmt = 0 then (let b := (bs.getD (e / 2) 0).toNat; if e % 2 = 0 then b % 16 else b / 16)
  else (bs.getD e 0).toNat

def packMx (fmt : Nat) (l : List Nat) : List Byte :=
  if fmt = 0 then
    (List.range (l.length / 2)).map fun i => BitVec.ofNat 8 (l.getD (2 * i) 0 % 16 + 16 * (l.getD (2 * i + 1) 0 % 16))
  else l.map (BitVec.ofNat 8)

/-- FP32 code of an element times its scale (R179). -/
def dequant (fmt raw scale : Nat) : Nat :=
  if scale = 0xFF then fmtFp32.nan
  else match elemValue fmt raw with
    | .nan => fmtFp32.nan
    | .inf x => nbInf fmtFp32 x
    | .fin x m => nbRound fmtFp32 x (m * 2 ^ scale) 276 false

/-- Element codes packed into bytes of the format. -/
def NbRecord.pack (q : NbRecord) (l : List Nat) : List Byte := l.flatMap (leBytes q.size)

/-- Free code of lane `i` (a result that no rule states). -/
def freeCode (draws : Nat) (f : Fmt) (i : Nat) : Nat :=
  bytesLe ((List.range 4).map fun k => Config.freeByte draws (4 * i + k)) % 2 ^ f.width

/-- Bytes that the sequence writes, one list for each of `writes`, from the bytes of each of `reads`. -/
def NbRecord.results (q : NbRecord) (draws : Nat) (ops : List (List Byte)) : List (List Byte) :=
  let f := nbFmt q.fmt
  let op := fun k => ops.getD k []
  let a := q.values (op 0)
  let b := q.values (op 1)
  let c := q.values (op 2)
  let indexed := List.zip (List.range a.length) a
  match q.func with
  | 0x01 => [q.pack (List.zipWith (nbAdd f) a b)]
  | 0x02 => [q.pack (List.zipWith (nbMul f) a b)]
  | 0x03 => [q.pack (List.zipWith (fun x y => nbFma f x.1 x.2 y) (List.zip a b) c)]
  | 0x04 => [q.pack (a.map fun x => nbMul f x (fmtFp32.value q.param))]
  | 0x05 => [q.pack (a.map (nbRelu f))]
  | 0x06 => [q.pack (indexed.map fun x => nbWeighted f sigmoid (freeCode draws f x.1) x.2)]
  | 0x07 => [q.pack (indexed.map fun x => nbWeighted f gaussCdf (freeCode draws f x.1) x.2)]
  | 0x08 => [q.pack (List.zipWith (fun x y => nbSwiglu f (freeCode draws f x.1) x.2 y) indexed b)]
  | 0x09 | 0x0A =>
    let layer := decide (q.func = 0x0A)
    let eps := match fmtFp32.value q.param with | .fin _ m => m | _ => 0
    [q.pack ((chunksOf q.group (q.elems / 32) a).flatMap fun g =>
      nbGroup f layer eps g b (if layer then c else b))]
  | 0x0B =>
    let bl := (chunksOf 32 q.len (a.map (nbVal fmtFp32))).map (mxBlock q.fmt)
    [packMx q.fmt (bl.flatMap fun x => x.2.1), bl.map fun x => BitVec.ofNat 8 x.1]
  | 0x0C =>
    [(List.range q.elems).flatMap fun e =>
      leBytes 4 (dequant q.fmt (mxRaw q.fmt (op 0) e) ((op 1).getD (e / 32) 0).toNat)]
  | _ => [q.pack (a.map (nbVal f))]

end Sys2Proof.Machine
end

