-- ==== Sys2Proof/Machine/Outbound.lean ====
section
/-! DEFINITION. Transactions that leave the block: host-window reads and writes (R452, R455) and peer-port accesses (R270 to
R280), their identifiers, credits, answers and failures.

Marks: DEDUCED (log entry 52). -/

namespace Sys2Proof.Machine

/-! ## Host window -/

/-- First identifier from `n` upward, modulo 1,024, that is not in `used`. -/
def freeTid (used : List Nat) : Nat → Nat → Nat
  | 0, n => n % 1024
  | fuel + 1, n => if used.any (fun t => t = n % 1024) then freeTid used fuel (n + 1) else n % 1024

/-- It is sent and has no response. -/
def Outbound.isOpen (o : Outbound) : Bool := o.sentAt.isSome && o.reply.isNone

/-- Sends waiting transactions, oldest first, while fewer than 1,024 are open (R455): the list, the messages and the next TID. -/
def hostPumpGo (now : Nat) : List Outbound → Nat → List Nat → Nat → List Outbound × List OutMsg × Nat
  | [], _, _, next => ([], [], next)
  | x :: t, 0, _, next => (x :: t, [], next)
  | x :: t, n + 1, used, next =>
    if x.sentAt.isSome then
      let r := hostPumpGo now t (n + 1) used next
      (x :: r.1, r.2)
    else
      let tid := freeTid used 1024 next
      let r := hostPumpGo now t n (tid :: used) ((tid + 1) % 1024)
      ({ x with tid := tid, sentAt := some now } :: r.1,
        (if x.read then .hostRd x.tag tid x.addr x.len else .hostWr x.tag tid x.addr x.data) :: r.2.1, r.2.2)

def State.pumpHost (s : State) : State :=
  let live := (s.host.outbound.filter Outbound.isOpen).map (·.tid)
  let r := hostPumpGo s.now s.host.outbound (1024 - live.length) live s.host.nextTid
  s.setHost { s.host with outbound := r.1, nextTid := r.2.2, out := s.host.out ++ r.2.1 }

/-- An outbound RD or WR with tag `tag` (R455), sent at once while fewer than 1,024 await their responses. -/
def State.sendOutbound (s : State) (tag addr len : Nat) (data : Option (List Byte)) (who : Issuer) : State :=
  let h : Fin 8 := ⟨tag % 8, Nat.mod_lt _ (by decide)⟩
  let o : Outbound := { id := s.host.nextId, tid := 0, tag := h, read := data.isNone, addr := addr, len := len,
                        data := data.getD [], issuer := who, sentAt := none, reply := none }
  (s.setHost { s.host with outbound := s.host.outbound ++ [o], nextId := s.host.nextId + 1 }).pumpHost

/-! ## Peer ports -/

def State.linkUp (s : State) (n : Nat) : Bool := (s.peer n).link = .up

/-- A message of a peer port with its TID. -/
def OutMsg.withTid (m : OutMsg) (tid : Nat) : OutMsg :=
  match m with
  | .peerWr p _ a bs => .peerWr p tid a bs
  | .peerRd p _ a n => .peerRd p tid a n
  | .peerSig p _ c v => .peerSig p tid c v
  | m => m

/-- What sending leaves: the accesses, the messages, the credits and the next TID. -/
structure Pumped where
  accesses : List PeerAccess
  msgs     : List OutMsg
  req      : Nat
  data     : Nat
  next     : Nat

/-- Sends waiting accesses in order while credits last and fewer than 1,024 TIDs are outstanding (R274, R276). -/
def pumpGo (now : Nat) : List PeerAccess → Nat → Nat → List Nat → Nat → Pumped
  | [], rq, dc, _, next => ⟨[], [], rq, dc, next⟩
  | x :: t, rq, dc, used, next =>
    if x.sentAt.isSome then
      let r := pumpGo now t rq dc used next
      { r with accesses := x :: r.accesses }
    else if rq = 0 ∨ dc < x.flits ∨ 1024 ≤ used.length then ⟨x :: t, [], rq, dc, next⟩
    else
      let tid := freeTid used 1024 next
      let m := x.msg.withTid tid
      let r := pumpGo now t (rq - 1) (dc - x.flits) (tid :: used) ((tid + 1) % 1024)
      { r with accesses := { x with tid := tid, msg := m, sentAt := some now } :: r.accesses, msgs := m :: r.msgs }

/-- None leaves in SAFE or GRAVE (R418). -/
def State.pump (s : State) (n : Nat) : State :=
  if s.linkUp n && !s.boot.safe && !s.boot.grave then
    let x := s.peer n
    let live := (x.accesses.filter fun a => a.sentAt.isSome && a.reply.isNone).map (·.tid)
    let r := pumpGo s.now x.accesses x.reqCred x.dataCred live x.nextTid
    let t := s.modPeer n fun y =>
      { y with accesses := r.accesses, reqCred := r.req, dataCred := r.data, nextTid := r.next }
    State.each r.msgs (fun m u => u.send m) t
  else s

/-- Issuer of an access of operation `id` of core `c`. -/
def opIssuer (c id : Nat) : Issuer := .op ⟨c % 256, Nat.mod_lt _ (by decide)⟩ id

/-! ## Failures of peer accesses (R278 to R280) -/

/-- Job that an event of operation `o` of core `c` is attributed to: the one that issued it, until its core or its handle serves
another launch (R157). -/
def State.opJob (s : State) (c : Nat) (o : Op) : Option (PartId × Fin 16) :=
  match o.job with
  | some j => if o.live && (s.job j.1 j.2).cores.any fun e => decide (e.core.val = c) then some j else none
  | none => none

/-- Requester of the descriptor that made access `n` of the channel. -/
def Channel.attrOf (x : Channel) (n : Nat) : Option Ringer :=
  match x.finishing.find? fun f => decide (n < f.upTo) with
  | some f => f.attr
  | none => x.attr

/-- Access `n` of channel `k` of region `r` failed: its descriptor fails with `cause`, and with it every later one of the chain
(R266). One that has failed, been stopped or been aborted already goes on as it was. -/
def State.failDescriptor (s : State) (r k n cause : Nat) : State :=
  let x := s.chan r k
  if x.failed.isSome || !(x.state = .running || x.state = .parked || !x.finishing.isEmpty) then s
  else match x.finishing.find? fun f => decide (n < f.upTo) with
    | some f => s.modChan r k fun y =>
        { y with finishing := y.finishing.takeWhile (fun g => !(g = f)), cur := f.cur, attr := f.attr, running := none
                 fetching := none, failed := some cause }
    | none => if x.state = .running then s.modChan r k fun y => { y with failed := some cause } else s

/-- Job an access was made for. -/
def State.issuerJob (s : State) (who : Issuer) : Option (PartId × Fin 16) :=
  match who with
  | .op c id => match (s.core c).ops.find? (fun o => o.id = id) with
    | some o => s.opJob c o
    | none => none
  | .signal _ j => j
  | .dma r k n => s.ringerJob ((s.chan r k).attrOf n)
  | _ => none

/-- Fenced signals that wait for a failed access never leave (Table — Outcomes of a lost link or a timeout). -/
def State.dropFenced (s : State) (who : Issuer) : State :=
  match who with
  | .op c id => s.modCore c fun x => { x with outbox := x.outbox.filter fun f => !f.ops.any (· = id) }
  | _ => s

/-- A job with a failed peer access is stopped through source 303; an access of no job stops none. A DMA descriptor fails with
CAUSE 4 (Table — Outcomes of a lost link or a timeout). -/
def State.peerFailed (s : State) (who : Issuer) : State :=
  let t := match who with
    | .dma r k n => s.failDescriptor r k n 4
    | _ => s
  match s.issuerJob who with
  | some j => (t.dropFenced who).raise { src := 303, locs := [], job := some j, tag := none }
  | none => t

/-- An engine still waits for the access: its operation, its read or write of a channel, its transaction of the host. -/
def State.wanted (s : State) (who : Issuer) : Bool :=
  match who with
  | .op c id => (s.core c).ops.any fun o => o.id = id
  | .dma r k n => let x := s.chan r k
    x.writes.any (fun w => w.1 = n) || (match x.running with | some q => q.reading = some n | none => false)
  | .signal _ _ => false
  | _ => true

/-! ## Answers -/

/-- Answers so far to the accesses of an issuer, host and peer, in order of issue. -/
def State.answers (s : State) (who : Issuer) : List (Option (Option (List Byte))) :=
  ((s.host.outbound.filter fun o => o.issuer = who).map (·.reply)) ++
  (List.range 4).flatMap fun n => ((s.peer n).accesses.filter fun a => a.issuer = who).map (·.reply)

/-- Every access of the issuer has its answer. -/
def State.answered (s : State) (who : Issuer) : Bool := (s.answers who).all Option.isSome

/-- Some access of the issuer ended in error. -/
def State.failedAccess (s : State) (who : Issuer) : Bool := (s.answers who).any fun a => a = some none

/-- Some host-window access of the issuer ended in error (R455). -/
def State.hostFailed (s : State) (who : Issuer) : Bool :=
  s.host.outbound.any fun o => o.issuer = who && decide (o.reply = some none)

/-- Data of the issuer's reads, in order. -/
def State.answerData (s : State) (who : Issuer) : List Byte :=
  (s.answers who).flatMap fun a => match a with
    | some (some bs) => bs
    | _ => []

/-- Accesses of the issuer are done with. -/
def State.dropAccesses (s : State) (who : Issuer) : State :=
  State.each (List.range 4) (fun n t =>
    if (t.peer n).accesses.any (fun a => a.issuer = who) then
      t.modPeer n fun y => { y with accesses := y.accesses.filter fun a => !(a.issuer = who) }
    else t)
    (s.setHost { s.host with outbound := s.host.outbound.filter fun o => !(o.issuer = who) })

/-- Accesses that are answered and that no engine waits for are forgotten. -/
def State.forgetAccess (s : State) (who : Issuer) : State :=
  if !s.wanted who && s.answered who && !(s.answers who).isEmpty then s.dropAccesses who else s

/-! ## Issue -/

/-- An access enters port `n`; one issued while the port is not UP ends at once (R278). -/
def State.peerIssue (s : State) (n : Nat) (who : Issuer) (isSig read : Bool) (flits : Nat) (msg : Nat → OutMsg) : State :=
  let x := s.peer n
  let a : PeerAccess := { tid := 0, issuer := who, isSig := isSig, read := read, msg := msg 0, flits := flits,
                          sentAt := none, reply := if x.link = .up then none else some none }
  let t := (s.modPeer n fun y => { y with accesses := y.accesses ++ [a] }).pump n
  if x.link = .up then t
  else
    let u := t.peerFailed who
    if isSig then u.forgetAccess who else u

/-- A stretch split on 1,024-byte boundaries (R273). -/
def splitKGo : Nat → Nat → Nat → List (Nat × Nat)
  | 0, _, _ => []
  | fuel + 1, a, n =>
    if n = 0 then []
    else
      let k := min n (1024 - a % 1024)
      (a, k) :: splitKGo fuel (a + k) (n - k)

def splitK (a n : Nat) : List (Nat × Nat) := splitKGo (n / 1024 + 2) a n

/-- Tier-space address on the partner that a peer-window address names (R270). -/
def partnerAddr (a : Nat) : Nat := (a - 0x100000000000) % 0x20000000000

def State.peerRead (s : State) (n a len : Nat) (who : Issuer) : State :=
  State.each (splitK (partnerAddr a) len)
    (fun q t => t.peerIssue n who false true 0 fun tid => .peerRd n tid q.1 q.2) s

def State.peerWrite (s : State) (n a : Nat) (bs : List Byte) (who : Issuer) : State :=
  (splitK (partnerAddr a) bs.length).foldl
    (fun (p : State × List Byte) q =>
      (p.1.peerIssue n who false false ((q.2 + 63) / 64) fun tid => .peerWr n tid q.1 (p.2.take q.2), p.2.drop q.2))
    (s, bs) |>.1

/-- Issues reads for the host and peer pieces of an access, from address `a`. -/
def State.issueReads (s : State) (tag : Nat) (who : Issuer) (a : Nat) (l : List Piece) : State :=
  (l.foldl (fun (p : State × Nat) q =>
    (match q.1 with
     | .host => p.1.sendOutbound tag p.2 q.2 none who
     | .peer n => p.1.peerRead n p.2 q.2 who
     | _ => p.1, p.2 + q.2)) (s, a)).1

/-- Issues writes for the host and peer pieces of an access. -/
def State.issueWrites (s : State) (tag : Nat) (who : Issuer) (a : Nat) (l : List Piece) (bs : List Byte) : State :=
  (l.foldl (fun (p : (State × Nat) × List Byte) q =>
    ((match q.1 with
      | .host => p.1.1.sendOutbound tag p.1.2 q.2 (some (p.2.take q.2)) who
      | .peer n => p.1.1.peerWrite n p.1.2 (p.2.take q.2) who
      | _ => p.1.1, p.1.2 + q.2), p.2.drop q.2)) ((s, a), bs)).1.1

/-- Bytes of an access of memory, host and peer pieces, the latter from their answers in order. -/
def mergeData (l : List Piece) (mem ans : List Byte) : List Byte :=
  match l with
  | [] => []
  | (.host, n) :: t => ans.take n ++ mergeData t (mem.drop n) (ans.drop n)
  | (.peer _, n) :: t => ans.take n ++ mergeData t (mem.drop n) (ans.drop n)
  | (_, n) :: t => mem.take n ++ mergeData t (mem.drop n) ans

end Sys2Proof.Machine
end

