-- ==== Sys2Proof/Machine/Column.lean ====
section
/-! DEFINITION. Tier columns: the command port and its sequences, tier commands, refresh and temperature (chapter 06, R171 to
R190).

Marks: DEDUCED (log entry 23), DESIGN CHOICE (log entry 26), DESIGN CHOICE (log entry 62). -/

namespace Sys2Proof.Machine

/-! ## Completion of a variable-latency operation (R82, R85) -/

/-- Operation `id` of core `c` is complete: its landing flag is decremented unless a launch has intervened. -/
def State.completeOp (s : State) (c id : Nat) : State :=
  s.modCore c fun x =>
    match x.ops.find? (fun o => o.id = id) with
    | none => x
    | some o =>
      let y := { x with ops := x.ops.filter fun p => !(p.id = id) }
      if o.live then y.putFlag o.flag (y.flag o.flag - 1) else y

/-! ## Tiers of a column -/

def Column.tier (x : Column) (t : Nat) : Tier := tabGet tierDefault x.tiers t
def Column.putTier (x : Column) (t : Nat) (v : Tier) : Column := { x with tiers := tabSet tierDefault x.tiers t v }
def State.modTier (s : State) (c t : Nat) (f : Tier → Tier) : State :=
  s.modColumn c fun x => x.putTier t (f (x.tier t))

/-- Tiers a position names: one below T, or every tier (R175, R190). -/
def State.tiersAt (s : State) (pos : Nat) : List Nat :=
  if pos = 31 then List.range s.boot.tiers else if pos < s.boot.tiers then [pos] else []

/-- Size of tier `t` (R159). -/
def State.tierSize (s : State) (t : Nat) : Nat := if t < s.boot.wtiers then 0x10000000 else 0x14000000

/-- Column offset of tier `t` (R159). -/
def State.tierBase (s : State) (t : Nat) : Nat :=
  if t < s.boot.wtiers then 0x10000000 * t else 0x10000000 * s.boot.wtiers + 0x14000000 * (t - s.boot.wtiers)

/-- Value of mode register `m` of a tier (Table — Tier mode registers). -/
def State.tierMode (s : State) (c t m : Nat) : Nat :=
  let x := s.column c
  match tabGet (fun _ => none) (x.tier t).mode m with
  | some v => v.toNat
  | none =>
    if m = 1 then b2n (decide (t < s.boot.wtiers))
    else if m = 2 then t
    else if m = 5 then x.temp.toNat
    else (Config.tierMode c t m).toNat

/-! ## The command port (R177, R178, R180) -/

def Column.fillGo : Nat → Column → Column
  | 0, x => x
  | fuel + 1, x =>
    match x.waiting with
    | [] => x
    | q :: t => if x.queue.length < 16 then fillGo fuel { x with queue := x.queue ++ [q], waiting := t } else x

/-- Records that waited take the free places of the queue. -/
def Column.fill (x : Column) : Column := x.fillGo 16

def recordsOf (bs : List Byte) : List (List (BitVec 64)) :=
  (chunksOf 32 (bs.length / 32) bs).map fun r =>
    (List.range 4).map fun k => BitVec.ofNat 64 (bytesLe ((r.drop (8 * k)).take 8))

/-- A write of bytes to the command port at `off` within it, for partition `p`: its records join the queue under the
write's number; one that breaks a rule does not, and the write is marked in error. -/
def State.nbArrive (s : State) (p c off : Nat) (job : Option (PartId × Fin 16)) (bs : List Byte) : State × Nat :=
  let num := (s.column c).nextPort
  let whole := decide (off % 32 = 0) && decide (bs.length % 32 = 0) && !bs.isEmpty
  let rs : List NbRecord := if whole then (recordsOf bs).map fun w => { words := w, port := num, job := job } else []
  let ok := rs.filter fun q => s.nbValid p c q
  (s.modColumn c fun x =>
    ({ x with waiting := x.waiting ++ ok, nextPort := num + 1,
              portErrs := if whole && decide (ok.length = rs.length) then x.portErrs else x.portErrs ++ [num] }).fill, num)

/-- Port write `num` has nothing left to run. -/
def Column.portDone (x : Column) (num : Nat) : Bool :=
  !((x.queue ++ x.waiting ++ x.active.toList).any fun q => q.port = num)

def Column.portFailed (x : Column) (num : Nat) : Bool := x.portErrs.any (· = num)

def NbRecord.rows (q : NbRecord) : List (Nat × Nat) :=
  (q.reads ++ q.writes).map fun x => ((q.span x).1 / 0x2000, ((q.span x).1 + x.2 + 0x1FFF) / 0x2000)

/-- `[a, a + n)` of a column touches a row that a sequence accepted and not complete reads or writes (R181). -/
def State.rowsInUse (s : State) (a n : Nat) : Bool :=
  if storeBase ≤ a then false
  else
    let x := s.column (colCore a)
    let lo := colOff a / 0x2000
    let hi := (colOff a + n + 0x1FFF) / 0x2000
    (x.queue ++ x.active.toList).any fun q => q.rows.any fun r => decide (r.1 < hi) && decide (lo < r.2)

/-- Tier of a column offset below C (R159). -/
def State.tierOf (s : State) (off : Nat) : Nat :=
  let w := s.boot.wtiers * 0x10000000
  if off < w then off / 0x10000000 else s.boot.wtiers + (off - w) / 0x14000000

/-- The access waits: a row of it is in use by a sequence (R181), or its core store is being written with zeros (R153). -/
def State.waitsAt (s : State) (q : Piece) : Bool :=
  match q.1 with
  | .mem a => s.rowsInUse a q.2 || (match storeCore a with | some c => (s.core c).power.zeroing | none => false)
  | _ => false

def State.waitsFor (s : State) (l : List Piece) : Bool := l.any s.waitsAt

/-- A REF holds the tier that serves the piece (R171). -/
def State.refreshes (s : State) (q : Piece) : Bool :=
  match q.1 with
  | .mem a => decide (a < storeBase) && decide (s.now < ((s.column (colCore a)).tier (s.tierOf (colOff a))).refUntil)
  | _ => false

/-- A read of the pieces cannot be served now. -/
def State.readWaits (s : State) (l : List Piece) : Bool := l.any fun q => s.waitsAt q || s.refreshes q

/-! ## Refresh (R171, R174, R186) -/

/-- Refresh interval in beats: 1.95 µs while the column is hot, 3.9 µs while it is cool. -/
def Column.interval (x : Column) : Nat := if x.hot then 3900 else 7800

/-- The first time after beat `b` at which a REF of tier `t` of `n` falls due: the tiers' offsets are t × interval / n. -/
def Column.nextRef (x : Column) (n t b : Nat) : Nat :=
  let first := x.refBase + t * x.interval / n
  if b < first then first else first + ((b - first) / x.interval + 1) * x.interval

/-- Beats of tRFC, which a tier declares in MR4 in ns, at most 160. -/
def State.trfc (s : State) (c t : Nat) : Nat := 2 * min 160 (s.tierMode c t 4)

/-- The controller issues `n` REFs to a tier, one after another: they hold it. -/
def State.issueRefs (s : State) (c t n : Nat) : State :=
  let hold := s.trfc c t
  s.modTier c t fun x => { x with refUntil := max x.refUntil s.now + n * hold }

/-- The controller issues every REF owed to the tier. -/
def State.payRefs (s : State) (c t : Nat) : State :=
  let n := ((s.column c).tier t).owed
  if n = 0 then s else (s.issueRefs c t n).modTier c t fun x => { x with owed := 0 }

/-! ## Tier commands as packets (R175) -/

/-- A tier command with its operands. -/
inductive TierCmd where
  | act (bank row : Nat)
  | rd (bank burst : Nat) (auto : Bool)
  | wr (bank burst : Nat) (auto : Bool)
  | pre (bank : Nat) (all : Bool)
  | ref
  | sre
  | srx
  | mrr (reg : Nat)
  | mrw (reg value : Nat)
  | nbl (k value : Nat)
  | nbgo (units : Nat)
  | nbs
  | nba
  deriving DecidableEq, Repr

/-- Opcode of a command (Table — Tier commands). -/
def TierCmd.opcode : TierCmd → Nat
  | .act _ _ => 0x01
  | .rd _ _ _ => 0x02
  | .wr _ _ _ => 0x03
  | .pre _ _ => 0x04
  | .ref => 0x05
  | .sre => 0x06
  | .srx => 0x07
  | .mrr _ => 0x08
  | .mrw _ _ => 0x09
  | .nbl _ _ => 0x10
  | .nbgo _ => 0x11
  | .nbs => 0x12
  | .nba => 0x13

/-- Operand bits [83:0]; those the table does not name are zero. -/
def TierCmd.operands : TierCmd → Nat
  | .act bank row => at' 79 5 bank + at' 68 11 row
  | .rd bank burst auto => at' 79 5 bank + at' 76 3 burst + at' 75 1 (b2n auto)
  | .wr bank burst auto => at' 79 5 bank + at' 76 3 burst + at' 75 1 (b2n auto)
  | .pre bank all => at' 79 5 bank + at' 78 1 (b2n all)
  | .mrr reg => at' 80 4 reg
  | .mrw reg value => at' 80 4 reg + at' 0 32 value
  | .nbl k value => at' 82 2 k + at' 0 64 value
  | .nbgo units => at' 67 17 units
  | _ => 0

/-- The packet of a command to a tier position: bit 95 makes its parity even. -/
def packetOf (pos : Nat) (c : TierCmd) : BitVec 96 :=
  let body := at' 90 5 pos + at' 84 6 c.opcode + c.operands
  BitVec.ofNat 96 (at' 95 1 (popCount 96 body % 2) + body)

/-- The command of an opcode and operand bits. -/
def tierCmdOf (op w : Nat) : Option TierCmd :=
  match op with
  | 0x01 => some (.act (fld w 79 5) (fld w 68 11))
  | 0x02 => some (.rd (fld w 79 5) (fld w 76 3) (bitOf w 75))
  | 0x03 => some (.wr (fld w 79 5) (fld w 76 3) (bitOf w 75))
  | 0x04 => some (.pre (fld w 79 5) (bitOf w 78))
  | 0x05 => some .ref
  | 0x06 => some .sre
  | 0x07 => some .srx
  | 0x08 => some (.mrr (fld w 80 4))
  | 0x09 => some (.mrw (fld w 80 4) (fld w 0 32))
  | 0x10 => some (.nbl (fld w 82 2) (fld w 0 64))
  | 0x11 => some (.nbgo (fld w 67 17))
  | 0x12 => some .nbs
  | 0x13 => some .nba
  | _ => none

/-- What a tier receives in a packet: the position and the command; none for odd parity or an opcode not in the table (R176). -/
def packetRead (w : Nat) : Option (Nat × TierCmd) :=
  if popCount 96 w % 2 = 1 then none else (tierCmdOf (fld w 84 6) w).map fun c => (fld w 90 5, c)

/-- A packet that a tier ignores (R176). -/
def badPacket (w : Nat) : Bool := (packetRead w).isNone

/-- A packet goes out on VCc_CA. -/
def State.drive (s : State) (c pos : Nat) (cmd : TierCmd) : State :=
  s.modColumn c fun x => { x with packet := packetOf pos cmd }

/-! ## Bursts on the data pins (R158) -/

/-- Check bytes of a burst under the tier code, one for each 64-bit word: byte 16k + g travels on VCc_CB[8g + 7:8g] in
transfer k. -/
def burstChecks (bs : List Byte) : List Byte :=
  (List.range (bs.length / 8)).map fun i => BitVec.ofNat 8 (eccEncode (bytesLe ((bs.drop (8 * i)).take 8)))

/-- VCc_DQ in transfer `k`: lane group `g` carries burst bytes 128k + 8g to 128k + 8g + 7 as DQ[64g + 63:64g]. -/
def Column.dqPins (x : Column) (k : Nat) : BitVec 1024 :=
  BitVec.ofNat 1024 (bytesLe ((x.lastRead.drop (128 * k)).take 128))

/-- VCc_CB in transfer `k`. -/
def Column.cbPins (x : Column) (k : Nat) : BitVec 128 :=
  BitVec.ofNat 128 (bytesLe ((x.lastCheck.drop (16 * k)).take 16))

/-- Strobe that covers bit `i` of VCc_DQ. -/
def dqStrobe (i : Nat) : Nat := 2 * (i / 64) + i % 64 / 32

/-- Strobe that covers bit `i` of VCc_CB. -/
def cbStrobe (i : Nat) : Nat := 2 * (i / 8) + i % 8 / 4

/-- A burst and its check bytes on the pins of the column. -/
def State.pinBurst (s : State) (c : Nat) (bs checks : List Byte) : State :=
  s.modColumn c fun x => { x with lastRead := bs, lastCheck := checks }

/-- A burst whose content is open. -/
def State.pinOpen (s : State) (c : Nat) : State :=
  (s.pinBurst c ((List.range 1024).map fun i => Config.freeByte s.draws i)
    ((List.range 128).map fun i => Config.freeByte s.draws (1024 + i))).drawn

/-- A value in the form of an MRR burst: bytes 0 to 3 of lane group 0, transfer 0; every other byte is zero; it carries the tier
code. -/
def State.pinValue (s : State) (c v : Nat) : State :=
  let bs := leBytes 4 v ++ List.replicate 1020 0
  s.pinBurst c bs (burstChecks bs)

/-- Status of NBS: slice done, sequence done, uncorrectable read, units completed. -/
def Tier.status (x : Tier) : Nat := b2n x.sliceDone + 2 * b2n x.seqDone + 4 * b2n x.badWord + 256 * (x.units % 2 ^ 24)

/-- The controller issues NBS to a tier, whose status returns on the pins. -/
def State.readStatus (s : State) (c t : Nat) : State :=
  (s.drive c t .nbs).pinValue c ((s.column c).tier t).status

/-! ## Sequences (R180 to R188) -/

/-- Units of 2,048 elements of one slice by tROW, at least one: for a tROW so long that the formula of R182 gives none the spec
states no slice (log entry 62). -/
def State.sliceUnits (s : State) (c t func : Nat) : Nat :=
  let trow := s.tierMode c t 3
  max 1 (min 256 (2000 * 4 / max 1 trow) / nbRowOps func)

/-- Time that `u` units of the record may take, in beats (R183): U × p × tROW. -/
def State.sliceBeats (s : State) (c : Nat) (q : NbRecord) (u : Nat) : Nat :=
  (u * nbRowOps q.func * s.tierMode c q.tier 3 + 1) / 2

/-- Units that end before a ninth REF falls due at the tier, for a slice that starts in beat `b` (R186). -/
def State.unitsInRefresh (s : State) (c : Nat) (q : NbRecord) (b : Nat) : Nat :=
  let x := s.column c
  let y := x.tier q.tier
  let ninth := x.nextRef s.boot.tiers q.tier y.refLast + (8 - y.owed) * x.interval
  2 * (ninth - b) / max 1 (nbRowOps q.func * s.tierMode c q.tier 3)

/-- Units of the sequence. -/
def NbRecord.total (q : NbRecord) : Nat := (q.elems + 2047) / 2048

/-- Units of the next slice, which starts in beat `b` (R182, R186). -/
def State.nextSlice (s : State) (c : Nat) (q : NbRecord) (b : Nat) : Nat :=
  min (q.total - (s.column c).unitsDone) (max 1 (min (s.sliceUnits c q.tier q.func) (s.unitsInRefresh c q b)))

/-- NBGO reaches the tier: the loaded sequence starts or resumes for `units` units in beat `b`. -/
def State.goSlice (s : State) (c t units b : Nat) : State :=
  (s.drive c t (.nbgo units)).modTier c t fun x =>
    { x with running := true, sliceDone := false, slice := units, sliceAt := b }

/-- The controller starts the next slice of the column's sequence once the tier is free of REFs. -/
def State.startSlice (s : State) (c : Nat) (q : NbRecord) : State :=
  let b := max s.now ((s.column c).tier q.tier).refUntil
  s.goSlice c q.tier (s.nextSlice c q b) b

/-- Bytes of an operand as the working tier reads them, corrected (R187). -/
def State.nbRead (s : State) (c : Nat) (q : NbRecord) (x : Nat × Nat) : List Byte :=
  let a := colAddr c (q.span x).1
  ((s.readWords 0 ((x.2 + 7) / 8) (a / 8)).bytes).take x.2

/-- Address of the uncorrectable word that units `u0` to `u1 - 1` meet first, operands in the order A, B, C. -/
def State.nbBad (s : State) (c : Nat) (q : NbRecord) (u0 u1 : Nat) : Option Nat :=
  q.reads.findSome? fun x =>
    let w := q.sliceWords x u0 u1
    let a := colAddr c (q.span x).1 / 8
    ((List.range (w.2 - w.1)).find? fun k => decide (s.readWord (a + w.1 + k) 0 = .bad)).map fun k => 8 * (a + w.1 + k)

/-- Destination bytes written: whole, or each 1,024-byte burst by a free choice of old and new (R184). -/
def State.nbStore (s : State) (c : Nat) (q : NbRecord) (mixed : Bool) : State :=
  let outs := List.zip q.writes (q.results s.draws (q.reads.map fun x => s.nbRead c q x))
  (State.each outs (fun o t =>
    State.each (List.range ((o.1.2 + 1023) / 1024)) (fun k u =>
      if mixed && !Config.raceRead s.draws (1024 * o.1.1 + k) then u
      else
        let a := colAddr c ((q.span o.1).1 + 1024 * k)
        let bs := (o.2.drop (1024 * k)).take 1024
        (u.writeMem a bs).markRows a bs.length true) t) s).drawn

/-- The running sequence ends before its time: NBA, with the destination of R184. -/
def State.abandonSequence (s : State) (c : Nat) (bad : Bool) : State :=
  match (s.column c).active with
  | none => s
  | some q =>
    let t := s.nbStore c q true
    let t := t.modTier c q.tier fun x => { x with running := false, sliceDone := true, seqDone := bad, badWord := bad }
    (t.modColumn c fun x =>
      ({ x with active := none, abandon := false, unitsDone := 0, portErrs := x.portErrs ++ [q.port] }).fill).payRefs c
        q.tier

/-- NB_RECORD_WRITE (R177, R178, R180): records written by the host to the command port of column `col`. -/
def execNbRecordWrite (path : Path) (col : CoreId) (data : List Byte) (s : State) :
    Host.Outcome State Fault Refusal :=
  .next (match path with
    | .host tag =>
      if s.ownsRegion tag (regionOf col) && !s.shut then (s.nbArrive tag col 0 none data).1 else s
    | .side => s)

/-- The sequence can start: none runs, and the tier is out of self-refresh and held by no REF. Writes accepted before the record
have reached the tier, since a write of the model is complete when its bytes stand there (R181). -/
def State.canStartSequence (s : State) (c : Nat) : Bool :=
  let x := s.column c
  x.active.isNone && match x.queue with
    | [] => false
    | q :: _ => !(x.tier q.tier).selfRef && decide ((x.tier q.tier).refUntil ≤ s.now)

/-- The record stands in the tier's record words, loaded with four NBL packets, and its sequence is the column's. -/
def State.loadSequence (s : State) (c : Nat) (q : NbRecord) : State :=
  let words := (List.zip (List.range 4) q.words).foldl (fun t w => tabSet (fun _ => 0) t w.1 w.2) ([] : Tab (BitVec 64))
  (s.modColumn c fun x => { x with active := some q, unitsDone := 0, abandon := false }).modTier c q.tier fun t =>
    { t with record := words, sliceDone := false, seqDone := false, badWord := false, units := 0 }

/-- NB_SEQUENCE_START (R180 to R182): the controller loads the record and issues the first NBGO. -/
def execNbSequenceStart (col : CoreId) (s : State) : Host.Outcome State Fault Refusal :=
  .next (if s.canStartSequence col then
      match (s.column col).queue with
      | [] => s
      | q :: rest =>
        ((s.modColumn col fun x => ({ x with queue := rest }).fill).loadSequence col q).startSlice col q
    else s)

/-- A slice of the column's sequence is running. -/
def Column.sliceRuns (x : Column) : Bool :=
  match x.active with
  | some q => (x.tier q.tier).running
  | none => false

/-- The slice that runs meets an uncorrectable word at `a`: the sequence ends with NBS bit 2 set, and that word is an uncorrectable
tier read of the record's job (R187). -/
def State.nbUncorrectable (s : State) (c : Nat) (q : NbRecord) (a : Nat) : State :=
  let nb := s.nearBankRow a
  (((s.abandonSequence c true).readStatus c q.tier).countEcc a ⟨[], 0, b2n (!nb), 0, b2n nb⟩).raise
    { src := if nb then 287 else 285, locs := [c], job := q.job, tag := none }

/-- A slice of the column's sequence is done: NBS reports it; at the yield point owed refreshes are paid (R186), and the next
slice starts, or the sequence is done. -/
def State.endSlice (s : State) (c : Nat) (q : NbRecord) (u : Nat) : State :=
  let done := decide (q.total ≤ u)
  let t := ((s.modColumn c fun y => { y with unitsDone := min u q.total }).modTier c q.tier fun y =>
    { y with running := false, sliceDone := true, seqDone := done, units := min u q.total }).readStatus c q.tier
  if done then t
  else
    let batch := fld (t.regN (regionBase (c / 16) + 0xE0000)) 0 4
    (if batch ≤ ((t.column c).tier q.tier).owed then t.payRefs c q.tier else t).startSlice c q

/-- NB_SLICE_END (R182 to R187): the slice that runs ends: done, or at an uncorrectable word. A stopped job's sequence is abandoned
then (R185). -/
def execNbSliceEnd (col : CoreId) (s : State) : Host.Outcome State Fault Refusal :=
  .next (if !(s.column col).sliceRuns then s
    else match (s.column col).active with
    | none => s
    | some q =>
      let x := s.column col
      let u := x.unitsDone + (x.tier q.tier).slice
      if s.now < (x.tier q.tier).sliceAt then s
      else match s.nbBad col q x.unitsDone (min u q.total) with
      | some a => s.nbUncorrectable col q a
      | none =>
        if x.abandon then (s.abandonSequence col false).drive col q.tier .nba else s.endSlice col q u)

/-- NB_OVERRUN (R184): NBS has not reported the slice done within 2 µs of its time. -/
def execNbOverrun (col : CoreId) (s : State) : Host.Outcome State Fault Refusal :=
  .next (if !(s.column col).sliceRuns then s
    else match (s.column col).active with
    | none => s
    | some q =>
      let y := (s.column col).tier q.tier
      if s.now < y.sliceAt + s.sliceBeats col q y.slice + 4000 then s
      else ((s.abandonSequence col false).drive col q.tier .nba).raise
        { src := 288, locs := [col.val], job := q.job, tag := none })

/-- Every slice of the column's sequence is done. -/
def Column.sequenceDone (x : Column) : Bool :=
  match x.active with
  | some q => (x.tier q.tier).seqDone
  | none => false

/-- NB_SEQUENCE_DONE (R179, R180, R186 to R188): the results stand in the destination, the rows written are near-bank rows,
owed refreshes are issued, and the record's part of its port write is complete. -/
def execNbSequenceDone (col : CoreId) (s : State) : Host.Outcome State Fault Refusal :=
  .next (if !(s.column col).sequenceDone then s
    else match (s.column col).active with
    | none => s
    | some q =>
      (((s.nbStore col q false).modColumn col fun x =>
        ({ x with active := none, abandon := false, unitsDone := 0 }).fill).modTier col q.tier fun t =>
          { t with running := false, seqDone := false }).payRefs col q.tier)

/-! ## Tier commands (R175) -/

/-- A tier command goes out on VCc_CA and reaches the tiers of its position that are out of self-refresh. A command taken ends
the retries of the one before. -/
def State.tierCommand (s : State) (c pos : Nat) (cmd : TierCmd) (f : Nat → State → State) : State :=
  State.each ((s.tiersAt pos).filter fun t => !((s.column c).tier t).selfRef) f
    ((s.modColumn c fun x => { x with retries := 0 }).drive c pos cmd)

/-- Addressable rows of a bank of tier `t` (R161); the row after them is its training row (R190). -/
def State.rowsOf (s : State) (t : Nat) : Nat := s.tierSize t / 0x40000

/-- Where a burst of the open row of a bank lies. -/
inductive BurstAt where
  /-- no row is open, or the tier has no such row -/
  | nowhere
  | mem (a : Nat)
  /-- in the bank's training row -/
  | train (k : Nat)
  deriving DecidableEq, Repr

def State.burstAt (s : State) (c t bank burst : Nat) : BurstAt :=
  match tabGet (fun _ => none) ((s.column c).tier t).rows bank with
  | none => .nowhere
  | some row =>
    if row < s.rowsOf t then .mem (colAddr c (s.tierBase t + row * 0x40000 + bank * 0x2000 + burst * 0x400))
    else if row = s.rowsOf t then .train (8 * bank + burst)
    else .nowhere

def trainDefault (_ : Nat) : Option (List Byte × List Byte) := none

def State.setRow (s : State) (c t bank : Nat) (v : Option Nat) : State :=
  s.modTier c t fun x => { x with rows := tabSet (fun _ => none) x.rows bank v }

/-- Check bytes of the `n` words from word index `i`, as they stand. -/
def State.checksAt (s : State) (i n : Nat) : List Byte := (List.range n).map fun k => tabGet checkDefault s.check (i + k)

/-- A burst written with the check bytes that came with it. -/
def State.writeBurst (s : State) (a : Nat) (data checks : List Byte) : State :=
  ((s.setMem (memWrite s.mem a data)).setCheck
    ((List.zip (List.range 128) checks).foldl (fun t p => tabSet checkDefault t (a / 8 + p.1) p.2) s.check)).markRows a 1024
    false

/-- Several tiers that answer at once leave the data open. -/
def State.contend (s : State) (c pos : Nat) : State :=
  if 1 < (s.tiersAt pos).length then s.pinOpen c else s

/-- ACT (R175): opens a row of a bank. -/
def execAct (col : CoreId) (pos bank : BitVec 5) (row : BitVec 11) (s : State) : Host.Outcome State Fault Refusal :=
  .next (s.tierCommand col pos.toNat (.act bank.toNat row.toNat) fun t u => u.setRow col t bank.toNat (some row.toNat))

/-- RD (R158, R167): one burst of the bank's open row with its check bytes, at the pins. What no row holds is open, and so is a
training row since the last training but for what WR wrote. -/
def execRd (col : CoreId) (pos bank : BitVec 5) (burst : BitVec 3) (auto : Bool) (s : State) :
    Host.Outcome State Fault Refusal :=
  .next ((s.tierCommand col pos.toNat (.rd bank.toNat burst.toNat auto) fun t u =>
    let v := match u.burstAt col t bank.toNat burst.toNat with
      | .mem a => u.pinBurst col (memRead u.mem a 1024) (u.checksAt (a / 8) 128)
      | .train k => match tabGet trainDefault ((u.column col).tier t).train k with
        | some b => u.pinBurst col b.1 b.2
        | none => u.pinOpen col
      | .nowhere => u.pinOpen col
    if auto then v.setRow col t bank.toNat none else v).contend col pos.toNat)

/-- WR (R158, R175): one burst into the bank's open row, with the check bytes of VCc_CB. -/
def execWr (col : CoreId) (pos bank : BitVec 5) (burst : BitVec 3) (auto : Bool) (sent : Burst) (s : State) :
    Host.Outcome State Fault Refusal :=
  .next (if sent.data.length ≠ 1024 ∨ sent.checks.length ≠ 128 then s
    else s.tierCommand col pos.toNat (.wr bank.toNat burst.toNat auto) fun t u =>
      let v := match u.burstAt col t bank.toNat burst.toNat with
        | .mem a => u.writeBurst a sent.data sent.checks
        | .train k => u.modTier col t fun x => { x with train := tabSet trainDefault x.train k (some (sent.data, sent.checks)) }
        | .nowhere => u
      (if auto then v.setRow col t bank.toNat none else v).pinBurst col sent.data sent.checks)

/-- PRE (R175): closes one bank's row or all. -/
def execPre (col : CoreId) (pos bank : BitVec 5) (all : Bool) (s : State) : Host.Outcome State Fault Refusal :=
  .next (s.tierCommand col pos.toNat (.pre bank.toNat all) fun t u =>
    if all then u.modTier col t fun x => { x with rows := [] } else u.setRow col t bank.toNat none)

/-- REF (R171): one all-bank refresh, which holds the tier for tRFC and pays one that is owed. -/
def execRef (col : CoreId) (pos : BitVec 5) (s : State) : Host.Outcome State Fault Refusal :=
  .next (s.tierCommand col pos.toNat .ref fun t u =>
    (u.issueRefs col t 1).modTier col t fun x => { x with owed := x.owed - 1 })

/-- SRE (R61): self-refresh entry. -/
def execSre (col : CoreId) (pos : BitVec 5) (s : State) : Host.Outcome State Fault Refusal :=
  .next (s.tierCommand col pos.toNat .sre fun t u => u.modTier col t fun x => { x with selfRef := true, rows := [] })

/-- SRX (R175): self-refresh exit, in TRAIN only (R174). -/
def execSrx (col : CoreId) (pos : BitVec 5) (s : State) : Host.Outcome State Fault Refusal :=
  .next (if s.boot.base = .train then
      State.each (s.tiersAt pos.toNat) (fun t u => u.modTier col t fun x => { x with selfRef := false })
        ((s.modColumn col fun x => { x with retries := 0 }).drive col pos.toNat .srx)
    else s)

/-- MRR (R175): the value of a mode register, as a burst. -/
def execMrr (col : CoreId) (pos : BitVec 5) (reg : BitVec 4) (s : State) : Host.Outcome State Fault Refusal :=
  .next ((s.tierCommand col pos.toNat (.mrr reg.toNat) fun t u => u.pinValue col (u.tierMode col t reg.toNat)).contend col
    pos.toNat)

/-- MRW (R175): writes a mode register. -/
def execMrw (col : CoreId) (pos : BitVec 5) (reg : BitVec 4) (value : BitVec 32) (s : State) :
    Host.Outcome State Fault Refusal :=
  .next (s.tierCommand col pos.toNat (.mrw reg.toNat value.toNat) fun t u =>
    u.modTier col t fun x => { x with mode := tabSet (fun _ => none) x.mode reg.toNat (some value) })

/-- NBL (R182): word k of the command record of a working tier. -/
def execNbl (col : CoreId) (pos : BitVec 5) (k : BitVec 2) (value : BitVec 64) (s : State) :
    Host.Outcome State Fault Refusal :=
  .next (s.tierCommand col pos.toNat (.nbl k.toNat value.toNat) fun t u =>
    if t < u.boot.wtiers then u.modTier col t fun x => { x with record := tabSet (fun _ => 0) x.record k.toNat value }
    else u)

/-- The record that stands in a tier's record words, under a port number that no write waits for. -/
def State.loadedRecord (s : State) (c t : Nat) : NbRecord :=
  let x := s.column c
  { words := (List.range 4).map fun k => tabGet (fun _ => 0) (x.tier t).record k, port := x.nextPort, job := none }

/-- NBGO at tier `t`: the column's sequence on it goes on for the units given, or the record loaded into it starts where the
column runs none. -/
def State.nbgoAt (s : State) (c t units : Nat) : State :=
  match (s.column c).active with
  | some q =>
    if q.tier = t && !((s.column c).tier t).seqDone then
      s.goSlice c t (min units (q.total - (s.column c).unitsDone)) s.now
    else s
  | none =>
    let q := s.loadedRecord c t
    if q.wellFormed s.boot.wtiers && decide (q.tier = t) then
      ((s.modColumn c fun x => { x with nextPort := x.nextPort + 1 }).loadSequence c q).goSlice c t (min units q.total) s.now
    else s

/-- NBGO (R182): the loaded sequence starts or resumes for a number of units. -/
def execNbgo (col : CoreId) (pos : BitVec 5) (units : BitVec 17) (s : State) : Host.Outcome State Fault Refusal :=
  .next (s.tierCommand col pos.toNat (.nbgo units.toNat) fun t u =>
    if t < u.boot.wtiers ∧ units ≠ 0 then u.nbgoAt col t units.toNat else u)

/-- NBS (R183): the near-bank status, as an MRR value. -/
def execNbs (col : CoreId) (pos : BitVec 5) (s : State) : Host.Outcome State Fault Refusal :=
  .next ((s.tierCommand col pos.toNat .nbs fun t u =>
    if t < u.boot.wtiers then u.pinValue col ((u.column col).tier t).status else u).contend col pos.toNat)

/-- NBA (R175): the tier abandons its sequence. -/
def execNba (col : CoreId) (pos : BitVec 5) (s : State) : Host.Outcome State Fault Refusal :=
  .next (s.tierCommand col pos.toNat .nba fun t u =>
    match (u.column col).active with
    | some q => if q.tier = t then u.abandonSequence col false else u
    | none => u.modTier col t fun x => { x with running := false })

/-- TIER_COMMAND_REJECT (R176): the tier ignores the packet and pulls VCc_ALERT_N low. -/
def execTierCommandReject (col : CoreId) (packet : BitVec 96) (s : State) : Host.Outcome State Fault Refusal :=
  .next (if badPacket packet.toNat then s.modColumn col fun x => { x with packet := packet, alert := true } else s)

/-! ## Refresh and temperature (R171 to R174, R186) -/

/-- The tier's next REF has fallen due: the column is trained and the tier out of self-refresh. -/
def State.refDue (s : State) (c t : Nat) : Bool :=
  let x := s.column c
  decide (t < s.boot.tiers) && x.passed && !(x.tier t).selfRef &&
    decide (x.nextRef s.boot.tiers t (x.tier t).refLast ≤ s.now)

/-- REFRESH_DUE (R171, R174, R186): the tier's offset in the refresh interval is reached; a REF is issued, or owed while a sequence
runs on the tier. -/
def execRefreshDue (col : CoreId) (tier : Fin 20) (s : State) : Host.Outcome State Fault Refusal :=
  .next (if !s.refDue col tier then s
    else
      let x := s.column col
      let busy := match x.active with
        | some q => decide (q.tier = tier.val)
        | none => false
      let t := s.modTier col tier fun y => { y with refLast := x.nextRef s.boot.tiers tier y.refLast }
      if busy then t.modTier col tier fun y => { y with owed := satInc y.owed 8 }
      else (t.drive col tier .ref).issueRefs col tier 1)

/-- TIER_TEMP_FRAME (R172): a report above 85 °C makes the column hot; the first at or below it starts the cooling wait. A frame
ends the hold of R173. -/
def execTierTempFrame (col : CoreId) (temp : BitVec 8) (s : State) : Host.Outcome State Fault Refusal :=
  .next (
    let above := decide (85 < temp.toNat)
    (s.modColumn col fun x =>
      { x with temp := temp, lastFrame := s.now, hot := x.hot || above, tempLost := false,
               coolSince := if above then none
                            else match x.coolSince with
                              | some b => some b
                              | none => if x.hot then some s.now else none }).persistOff 291 (some col))

/-- COLUMN_COOL (R172): 1 ms of reports at or below 85 °C has passed. -/
def execColumnCool (col : CoreId) (s : State) : Host.Outcome State Fault Refusal :=
  .next (
    let x := s.column col
    match x.coolSince with
    | some b =>
      if x.hot && !x.tempLost && decide (b + 2000000 ≤ s.now) then
        s.modColumn col fun y => { y with hot := false, coolSince := none }
      else s
    | none => s)

/-- TIER_TEMP_LOST (R173): no valid frame for 128 µs, seen by a controller that its service domain supplies. -/
def execTierTempLost (col : CoreId) (s : State) : Host.Outcome State Fault Refusal :=
  .next (
    let x := s.column col
    if s.serviceOn (col.val / 16) && !x.tempLost && decide (x.lastFrame + 256000 ≤ s.now) then
      ((s.modColumn col fun y => { y with hot := true, tempLost := true, coolSince := none }).persistOn 291
        (some col.val)).raiseCore 291 col none
    else s)

end Sys2Proof.Machine
end

