-- ==== Sys2Proof/Machine/Landing.lean ====
section
/-! DEFINITION. How the data of a variable-latency load reaches its destination: when its access can take place, the words that it
delivers before its completion (R78), and the rest (R82 to R93, R98).

Marks: DEDUCED (log entry 6), DEDUCED (log entry 59). -/

namespace Sys2Proof.Machine

def Core.op (x : Core) (id : Nat) : Option Op := x.ops.find? fun o => o.id = id

/-- Addresses an operation accesses beyond its own core. -/
def OpKind.range : OpKind → Option (Nat × Nat)
  | .load a _ n => some (a, n)
  | .loadV a _ => some (a, 1024)
  | .store a bs => some (a, bs.length)
  | _ => none

def rangesMeet (x y : Option (Nat × Nat)) : Bool :=
  match x, y with
  | some (a, n), some (b, m) => decide (a < b + m) && decide (b < a + n)
  | _, _ => false

/-- An operation of the core issued earlier to the same location is still outstanding (R89). -/
def Core.behind (x : Core) (o : Op) : Bool :=
  x.ops.any fun e => decide (e.id < o.id) && rangesMeet e.kind.range o.kind.range

def opPart (o : Op) : Nat := match o.job with | some j => j.1.val | none => 0

/-- Pieces of an operation's accesses, as its partition meets them. -/
def State.opPieces (s : State) (o : Op) : List Piece :=
  match o.kind.range with
  | some (a, n) => s.locateAll (opPart o) a n
  | none => []

def OpKind.isLoad : OpKind → Bool
  | .load _ _ _ => true
  | .loadV _ _ => true
  | _ => false

/-- A byte of the access lies in the column of a core that has gone dark since the issue: it is refused (R164). -/
def anyUnavailable (l : List Piece) : Bool := l.any fun q => q.1 = .unavailable

/-- The access of operation `o` of core `c` can complete. -/
def State.opReady (s : State) (c : Nat) (o : Op) : Bool :=
  !(s.core c).behind o &&
    (o.refused ||
      (!(if o.kind.isLoad then s.readWaits (s.opPieces o) else s.waitsFor (s.opPieces o)) &&
        s.answered (opIssuer c o.id)))

/-- The bytes of its destination as they stand. -/
def State.destBytes (s : State) (c : Nat) (o : Op) : List Byte :=
  match o.kind with
  | .load _ dst n =>
    let k := 0x400000 - dst % 0x400000
    memRead s.mem (storeAddr c dst) (min n k) ++ memRead s.mem (storeAddr c 0) (n - k)
  | .loadV _ reg => (s.core c).vBytes reg
  | _ => []

/-- Bytes reach the destination of a load from byte `off` of it. A schedule region is not written (R98). -/
def State.putDest (s : State) (c : Nat) (o : Op) (off : Nat) (bs : List Byte) : State :=
  match o.kind with
  | .load _ dst _ =>
    if (s.core c).seq.bound && meetsSchedule (s.core c).seq ((dst + off) % 0x400000) bs.length then s
    else s.writeStore c (dst + off) bs
  | .loadV _ reg => s.modCore c fun x => { x with regs := { x.regs with v := memWrite x.regs.v (1024 * reg + off) bs } }
  | _ => s

/-- What a load delivers when its access takes place now: every byte, unless an access of it failed or met an uncorrectable
word. -/
def State.delivered (s : State) (c : Nat) (o : Op) : Option (List Byte) :=
  let who := opIssuer c o.id
  let l := s.opPieces o
  let r := s.readPieces none none l
  if o.refused || anyUnavailable l || s.hostFailed who || s.failedAccess who || r.2.1 then none
  else some (mergeData l r.1 (s.answerData who))

/-- The bytes that the load delivered early as its word `k`. -/
def Op.earlyWord (o : Op) (k : Nat) : Option (List Byte) := (o.early.find? fun e => e.1 = k).map (·.2)

/-- Word `k` of a load is delivered with its bytes among `bs`, and remembered. -/
def State.landWord (s : State) (c : Nat) (o : Op) (bs : List Byte) (k : Nat) : State :=
  let w := (bs.drop (8 * k)).take 8
  (s.putDest c o (8 * k) w).modCore c fun x =>
    { x with ops := x.ops.map fun p => if p.id = o.id then { p with early := p.early ++ [(k, w)] } else p }

/-- Some words of an outstanding load, any of those not yet delivered, reach their destination now (R78). -/
def State.landSome (s : State) (c : Nat) (o : Op) : State :=
  match s.delivered c o with
  | none => s
  | some bs =>
    State.each ((List.range (bs.length / 8)).filter fun k =>
      (o.earlyWord k).isNone && Config.raceRead s.draws (131072 * o.id + k)) (fun k t => t.landWord c o bs k) s

/-- Before a bundle of core `c` reads its operands, any words of the core's outstanding loads may have been delivered: for each of
them the bundle reads the value before the operation or the value it delivers, never a mix (R78). -/
def State.landEarly (s : State) (c : Nat) : State :=
  if (s.core c).ops.isEmpty || decide ((s.core c).seq.slots ≠ 0) then s
  else
    (State.each ((s.core c).ops.filter fun o => o.kind.isLoad && s.opReady c o) (fun o t => t.landSome c o) s).drawn

/-- A fixed-latency result has reached word `k` of the destination since the issue. -/
def Op.soiled (o : Op) (k : Nat) : Bool :=
  match o.kind with
  | .load _ dst _ => o.dirty.any fun d => wrapMeet d.1 d.2 (dst + 8 * k) 8
  | .loadV _ _ => o.dirty.any fun d => decide (d.1 < 8 * k + 8) && decide (8 * k < d.1 + d.2)
  | _ => false

/-- The destination's bytes at completion: a word delivered early stands, and a word that a fixed-latency result has reached holds
either value (R78). -/
def State.settledBytes (s : State) (o : Op) (old new : List Byte) : List Byte :=
  if o.dirty.isEmpty && o.early.isEmpty then new
  else (List.zip (List.range new.length) (List.zip old new)).map fun p =>
    let k := p.1 / 8
    let keep := o.soiled k && Config.raceRead s.draws (131072 * o.id + k)
    match o.earlyWord k with
    | some w => if o.soiled k && !keep then w.getD (p.1 % 8) 0 else p.2.1
    | none => if keep then p.2.1 else p.2.2

/-- A load's bytes reach their destination. -/
def State.landLoad (s : State) (c : Nat) (o : Op) (bs : List Byte) : State :=
  s.putDest c o 0 (s.settledBytes o (s.destBytes c o) bs)

end Sys2Proof.Machine
end

