-- ==== Sys2Proof/Machine/Issue.lean ====
section
/-! DEFINITION. Issue of bundles (R70 to R78, R84, R88, R99 to R104, R120, R241): which core may issue, the checks at issue,
staging of results, and the end of a bundle. A slot command issues one slot of the bundle at the core's CORE_NEXT; the
core beat advances when all four have issued (log entry 5).

Marks: DESIGN CHOICE (log entry 5), DEDUCED (log entry 6), DESIGN CHOICE (log entry 12), DEDUCED (log entry 13), DEDUCED (log entry 14). -/

namespace Sys2Proof.Machine

/-- Slot word of the bundle at CORE_NEXT, after correction (R99, R152). -/
def State.slotWord (s : State) (c : Nat) (i : SlotName) : Nat :=
  let q := (s.core c).seq
  match s.readWord ((storeAddr c (32 * q.next) + 8 * slotIndex i) / 8) 0 with
  | .clean d => d
  | .corrected d => d
  | .bad => 0

/-- A word of the bundle at CORE_NEXT is uncorrectable. -/
def State.bundleBad (s : State) (c : Nat) : Bool :=
  [SlotName.m, .v, .l, .c].any fun i =>
    s.readWord ((storeAddr c (32 * (s.core c).seq.next) + 8 * slotIndex i) / 8) 0 = .bad

def State.corePart (s : State) (c : Nat) : Nat :=
  match (s.core c).seq.job with
  | some j => j.1.val
  | none => 0

/-- The page keeper holds channel `k` of region `r`: an enabled table of the region's partition names it in PGK_COPY, or a table
being disabled still uses it (R205, R269). -/
def State.keeperHolds (s : State) (r k : Nat) : Bool :=
  (List.range 8).any fun p =>
    s.ownsRegion p r &&
    ((s.pgkEn p && decide ((s.regTable p).region = r) && decide ((s.regTable p).chan = k)) ||
     ((s.keeper p).closing && decide ((s.keeper p).table.region = r) && decide ((s.keeper p).table.chan = k)))

/-- A doorbell on channel `k` of region `r` is refused by the channel's state, or because the page keeper holds it (R257). -/
def State.bellRefused (s : State) (r k : Nat) : Bool :=
  let x := s.chan r k
  x.state = .off || x.state = .halted || x.state = .draining || s.keeperHolds r k

/-- CAUSE 7 of a word whose access the job's partition may not make (R115, R116, R226, R271); loads and stores are refused at
their completion instead. -/
def State.refusedCause (s : State) (c : Nat) (i : SlotName) (w : Nat) : Nat :=
  let p := s.corePart c
  match i, opcodeOf w with
  | .l, 0x12 => if s.ownsRegion p (fld w 52 4) && !s.bellRefused (fld w 52 4) (fld w 47 5) then 0 else 7
  | .c, 0x02 => if s.ownsRegion p (counterRegion (fld w 32 16)) then 0 else 7
  | .c, 0x03 | .c, 0x04 =>
    if fld w 53 3 = 0 then (if s.ownsRegion p (counterRegion (fld w 36 16)) then 0 else 7)
    else if s.portOwner (fld w 53 3 - 4) = p then 0 else 7
  | _, _ => 0

/-- CAUSE of one slot of the bundle: the specific codes, then reserved bits and illegal values, then a refused access (R104). -/
def State.slotCause (s : State) (c : Nat) (i : SlotName) : Nat :=
  let x := s.core c
  let w := s.slotWord c i
  let k := match i with
    | .m => mCause x w
    | .v => vCause w
    | .l => lCause x w
    | .c => cCause w
  let p := specificCause x c i w
  if p ≠ 0 then p else if k = 0 then s.refusedCause c i w else k

/-- CAUSE of the bundle at CORE_NEXT: past the region's end (R102), else the first slot in the order M, V, L, C (R104). -/
def State.bundleCause (s : State) (c : Nat) : Nat :=
  let q := (s.core c).seq
  if q.next < q.base ∨ q.base + q.len ≤ q.next then 5
  else
    let first := fun (k : Nat) (i : SlotName) => if k = 0 then s.slotCause c i else k
    [SlotName.m, .v, .l, .c].foldl first 0

/-- Flag count without the operations of the bundle in issue: a bundle reads the flags of its beat (R100). -/
def Core.flagSeen (x : Core) (i : Nat) : Nat :=
  x.flag i - (x.ops.filter fun o => o.live && decide (o.flag = i) && decide (o.issued = x.seq.beat.toNat)).length

def State.strict (s : State) (c : Nat) : Bool := bitOf (s.regN (regionBase (c / 16) + 0xC8000)) 31

/-- The C word is a fenced signal: SIGNAL.F, or SIGNAL under strict mode (R242). -/
def State.isFenced (s : State) (c w : Nat) : Bool :=
  opcodeOf w = 0x04 || (opcodeOf w = 0x03 && s.strict c)

/-- The bundle waits: a flag at 15 (R84), END before every flag is set (R120), a full outbox (R241). -/
def State.stalled (s : State) (c : Nat) : Bool :=
  let x := s.core c
  let lw := s.slotWord c .l
  let cw := s.slotWord c .c
  (match lFlag lw with | some i => decide (15 ≤ x.flag i) | none => false) ||
    (opcodeOf cw = 0x0F && (List.range 64).any (fun i => decide (0 < x.flag i))) ||
    (s.isFenced c cw && decide (16 ≤ x.outbox.length))

/-- Other running members of the lockstep group. -/
def State.groupOf (s : State) (c : Nat) : List Nat :=
  let q := (s.core c).seq
  ((bitsOf 16 q.members.toNat).map fun j => 16 * (c / 16) + j).filter fun d =>
    d ≠ c && (s.core d).seq.bound && (s.core d).seq.job = q.job

/-- The bundle of the core is not yet begun and would wait. -/
def State.blocked (s : State) (c : Nat) : Bool :=
  let q := (s.core c).seq
  q.slots = 0 && s.bundleCause c = 0 && s.stalled c

/-- The loop outputs of an application beat are in force (R343): nothing issues in that beat before. -/
def State.loopsApplied (s : State) : Bool := decide (s.now % 2000 ≠ 64) || decide (s.power.applied = s.now + 1)

/-- The lowest allowance, and of equals the reason that stands earlier. -/
def firstReason (l : List (Nat × Nat)) : Option (Nat × Nat) :=
  l.foldl (fun m x => match m with
    | none => some x
    | some y => if x.2 < y.2 ∨ (x.2 = y.2 ∧ x.1 < y.1) then some x else some y) none

/-- A hold of any member holds the group; a member that is not held itself takes the reason from those that are (R21, R88). -/
def State.shareHold (s : State) (c : Nat) : State :=
  let q := (s.core c).seq
  if q.held then s.modSeq c fun x => { x with owed := true }
  else match firstReason (((s.groupOf c).filter fun d => (s.core d).seq.held).map fun d => (s.core d).seq.why) with
    | some w => s.modSeq c fun x => { x with owed := true, why := w }
    | none => s

/-- The core may issue in this beat: it runs, no member of its group holds, none lags behind, and none that stands at the same
bundle waits, has waited in this beat, or is stalled (R86, R88). A member that has issued this bundle in this beat stands one
core beat ahead, and a WAIT that it issued there holds nobody back before the next beat. -/
def State.mayIssue (s : State) (c : Nat) : Bool :=
  let q := (s.core c).seq
  q.bound && !q.issued && !q.resumed && !q.held && q.waiting.isNone && s.pins.refclk && s.loopsApplied &&
    (s.groupOf c).all fun d =>
      let r := (s.core d).seq
      !r.held && (decide (q.beat < r.beat) ||
        (decide (q.beat = r.beat) && r.waiting.isNone && !r.resumed && !s.blocked d))

/-- The present block beat is the one in which core `c` issues its bundle of the present core beat: it issues now, or has begun
to (R76, R510). -/
def State.atCoreBeat (s : State) (c : Nat) : Bool :=
  decide ((s.core c).seq.slots ≠ 0) || (s.mayIssue c && !s.blocked c)

/-- Results due by the present core beat are in effect (R76). -/
def State.settle (s : State) (c : Nat) : State :=
  let b := (s.core c).seq.beat.toNat
  let r := s.commitWhere c fun g => decide (g.due ≤ b)
  if r.2 then r.1.raiseCore 281 c (r.1.coreJob c) else r.1

/-- Results of core `c` that are due and that `pick` selects take effect in the beat in which it issues their core beat, with the
arithmetic-range source of R129, R130 and R141 (R510). -/
def State.commitDue (s : State) (c : Nat) (pick : Result → Bool) : State :=
  if !s.atCoreBeat c then s
  else
    let b := (s.core c).seq.beat.toNat
    let r := s.commitWhere c fun g => decide (g.due ≤ b) && pick g.res
    if r.2 then r.1.raiseCore 281 c (r.1.coreJob c) else r.1

/-- A schedule error (R103): the bundle is unissued, the cause is recorded, the job is stopped. -/
def State.scheduleError (s : State) (c cause : Nat) : State :=
  let job := s.coreJob c
  (s.modSeq c fun q => { q with cause := if q.cause = 0 then cause else q.cause }).raiseCore 280 c job

/-- A doorbell that the channel refuses reports CAUSE 5 there and sets the DMA-configuration source (R257). -/
def State.bellRefusal (s : State) (r k : Nat) (job : Option (PartId × Fin 16)) (tag : Option Nat) : State :=
  (s.modChan r k fun x => { x with cause := 5 }).raise { src := 295, locs := [256 + r], job := job, tag := tag }

/-- The schedule error of the bundle at issue, with the refusal of its doorbell where that is the error. -/
def State.bundleError (s : State) (c : Nat) : State :=
  let w := s.slotWord c .l
  let r := fld w 52 4
  let k := fld w 47 5
  let bell := opcodeOf w = 0x12 && s.slotCause c .m = 0 && s.slotCause c .v = 0 && specificCause (s.core c) c .l w = 0 && lCause (s.core c) w = 0 &&
    s.ownsRegion (s.corePart c) r && s.bellRefused r k
  let cause := s.bundleCause c
  (if bell then s.bellRefusal r k (s.coreJob c) none else s).scheduleError c cause

/-- Stages a result of the bundle in issue: visible `latency` core beats later. -/
def State.stage (s : State) (c latency : Nat) (res : Result) (arith : BitVec 5) : State :=
  s.modCore c fun x =>
    { x with staged := x.staged ++ [{ due := x.seq.beat.toNat + latency, order := x.staged.length, res := res,
                                      arith := arith }] }

/-- The job has ended when none of its cores runs it (R458). -/
def State.checkEnded (s : State) (j : PartId × Fin 16) : State :=
  let x := s.job j.1 j.2
  if x.state = .running && x.cores.all (fun e => !((s.core e.core).seq.bound && (s.core e.core).seq.job = some j)) then
    s.modJob j.1 j.2 fun y => { y with state := .ended, quiet := 0 }
  else s

/-- All four slots have issued: the core beat and CORE_NEXT advance (R73, R101), and END takes effect (R120). -/
def State.finishBundle (s : State) (c : Nat) : State :=
  let t := s.modSeq c fun q =>
    let d := q.delay - 1
    let jump := decide (q.delay = 1) && q.target.isSome
    { q with beat := q.beat + 1, slots := 0, issued := true, issuedNow := q.issuedNow + 1, delay := d,
             next := if jump then q.target.getD 0 else q.next + 1,
             target := if d = 0 then none else q.target }
  let q := (t.core c).seq
  if q.ended then
    let r := t.haltCore c 0 true
    let u := if r.2 then r.1.raiseCore 281 c q.job else r.1
    match q.job with
    | some j => u.checkEnded j
    | none => u
  else t

/-- Bytes of vector register `r` as a bundle of core `c` reads them. -/
def State.readV (s : State) (c r : Nat) : List Byte := (s.core c).vBytes r

/-- Scalar register `i` as a bundle of core `c` reads it. -/
def State.readS (s : State) (c i : Nat) : BitVec 64 := (s.core c).s i

/-- Marks a slot of the bundle issued. -/
def State.markSlot (s : State) (c : Nat) (i : SlotName) : State :=
  if !(s.core c).seq.bound then s
  else if i = .c then s.finishBundle c
  else s.modSeq c fun q => { q with slots := BitVec.ofNat 4 (2 * 2 ^ slotIndex i - 1) }

/-- The slots of a bundle issue in the order M, V, L, C, so that results of one bundle are kept in that order (R77). -/
def nextSlot (q : Sequencer) (i : SlotName) : Bool := decide (q.slots.toNat = 2 ^ slotIndex i - 1)

/-- The slot `i` of core `c` stands ready to issue operation `op`: every condition of issue holds. -/
def State.slotReady (s : State) (c : Nat) (i : SlotName) (op : Nat) : Bool :=
  s.mayIssue c && (let t := s.settle c
    (t.core c).seq.bound && !t.bundleBad c && decide (opcodeOf (t.slotWord c i) = op) && nextSlot (t.core c).seq i &&
    ((t.core c).seq.slots ≠ 0 || (t.bundleCause c = 0 && !t.stalled c)))

/-- Counts the corrected words of a bundle fetch, once for the bundle (R152, R515). -/
def State.fetchCount (s : State) (c : Nat) : State :=
  let a := storeAddr c (32 * (s.core c).seq.next)
  let r := s.readMem a 32
  if (s.core c).seq.slots = 0 then r.2.raiseRead a r.1 (s.coreJob c) none else s

/-- A slot command: the slot of the bundle at CORE_NEXT issues operation `op` with the given effect of its word. A core that
may not issue, a slot of another operation and a slot already issued are no occurrence of the command and change nothing; a
bundle that waits stays as it is; a malformed bundle is a schedule error. -/
def State.issueSlot (s : State) (c : Nat) (i : SlotName) (op : Nat) (effect : Nat → State → State) : State :=
  if !s.mayIssue c then s
  else
    let t := s.settle c
    let q := (t.core c).seq
    if !q.bound then t
    else if q.slots = 0 && t.bundleCause c = 5 then t.scheduleError c 5
    else if t.bundleBad c then t.fetchCount c
    else if opcodeOf (t.slotWord c i) ≠ op || !nextSlot q i then s
    else if q.slots = 0 && t.bundleCause c ≠ 0 then t.bundleError c
    else if q.slots = 0 && t.stalled c then s
    else
      let w := t.slotWord c i
      (effect (w % 2 ^ 56) ((t.fetchCount c).landEarly c)).markSlot c i

end Sys2Proof.Machine
end

