-- ==== Sys2Proof/Machine/LoadStore.lean ====
section
/-! DEFINITION. The L slot's loads, stores, group stores and fences, and the completions of variable-latency operations (R82 to
R93, R113 to R115, R240).

Marks: DEDUCED (log entry 6), DEDUCED (log entry 14), DEDUCED (log entry 59). -/

namespace Sys2Proof.Machine

/-! ## Fixed-latency accesses to the own core store -/

/-- Own core-store bytes for core `c`: the bytes as read, whether a word was uncorrectable, and the state with its counts. -/
def State.loadOwn (s : State) (c off n : Nat) : List Byte × Bool × State :=
  s.readOwn c off n (s.coreJob c)

def ldvEffect (c w : Nat) (s : State) : State :=
  let r := s.loadOwn c (ownOffset (s.core c) w) 1024
  if r.2.1 then r.2.2 else r.2.2.stage c 4 (.vec (fld w 50 6) 0 r.1) 0

def stvEffect (c w : Nat) (s : State) : State :=
  s.stage c 2 (.store (ownOffset (s.core c) w) (s.readV c (fld w 50 6))) 0

def ldsEffect (c w : Nat) (s : State) : State :=
  let r := s.loadOwn c (ownOffset (s.core c) w) 8
  if r.2.1 then r.2.2 else r.2.2.stage c 4 (.scalar (fld w 50 5) (BitVec.ofNat 64 (bytesLe r.1))) 0

def stsEffect (c w : Nat) (s : State) : State :=
  s.stage c 2 (.store (ownOffset (s.core c) w) (leBytes 8 (s.readS c (fld w 50 5)).toNat)) 0

/-- LDT: segment q of tile Tt; segment 8 is the 512 scale bytes (R107). -/
def ldtEffect (c w : Nat) (s : State) : State :=
  let q := fld w 50 4
  let r := s.loadOwn c (ownOffset (s.core c) w) (if q = 8 then 512 else 1024)
  if r.2.1 then r.2.2 else r.2.2.stage c 4 (.tile (fld w 54 2) (1024 * q) r.1) 0

/-! ## Issue of variable-latency operations (R82) -/

/-- An operation is outstanding on a flag of core `c`. -/
def State.newOp (s : State) (c flag : Nat) (kind : OpKind) (refused : Bool) : State :=
  s.modCore c fun x =>
    { x.putFlag flag (x.flag flag + 1) with
      nextOp := x.nextOp + 1,
      ops := x.ops ++ [{ id := x.nextOp, flag := flag, issued := x.seq.beat.toNat, live := true, kind := kind,
                         refused := refused, job := s.coreJob c, dirty := [], beatAt := s.now, early := [],
                         metAt := none }] }

/-- A load may read the piece: data, or the tier command port, which reads zero (R115, R177). -/
def Site.readable : Site → Bool
  | .port _ => true
  | x => x.isData

/-- A load is issued: its flag counts, and what it needs of the host window and the peer ports is sent. -/
def State.issueLoad (s : State) (c flag a n : Nat) (kind : OpKind) : State :=
  let l := s.locateAll (s.corePart c) a n
  let id := (s.core c).nextOp
  let bad := !(l.all fun q => q.1.readable) || s.hitsEntries (s.corePart c) a n
  let t := s.newOp c flag kind bad
  if bad then t else t.issueReads (s.corePart c) (opIssuer c id) a l

def vldEffect (c w : Nat) (s : State) : State :=
  let a := sOf (s.core c) (fld w 45 5)
  let n := 16 * fld w 24 16
  s.issueLoad c (fld w 50 6) a n (.load a (sOf (s.core c) (fld w 40 5) % 0x400000) n)

def vldvEffect (c w : Nat) (s : State) : State :=
  let a := sOf (s.core c) (fld w 39 5)
  s.issueLoad c (fld w 50 6) a 1024 (.loadV a (fld w 44 6))

/-- The tier command port that a stretch of pieces names, if it is nothing else. -/
def portOf (l : List Piece) : Option Nat :=
  match l with
  | [(.port k, _)] => some k
  | _ => none

/-- VST: the own core store's bytes at issue go to the destination. -/
def vstEffect (c w : Nat) (s : State) : State :=
  let a := sOf (s.core c) (fld w 40 5)
  let r := s.loadOwn c (sOf (s.core c) (fld w 45 5) % 0x400000) (16 * fld w 24 16)
  let t := r.2.2
  if r.2.1 then t
  else
    let p := t.corePart c
    let l := t.locateAll p a r.1.length
    let id := (t.core c).nextOp
    match portOf l with
    | some k =>
      let q := t.nbArrive p k (a % 4096) (t.coreJob c) r.1
      q.1.newOp c (fld w 50 6) (.port k q.2) ((q.1.column k).portFailed q.2)
    | none =>
      let ok := allData l && !t.hitsEntries p a r.1.length
      let u := t.newOp c (fld w 50 6) (.store a r.1) (!ok)
      if ok then u.issueWrites p (opIssuer c id) a l r.1 else u

/-- GST: Va into the store of a member of the group, visible there six core beats later (R88). -/
def gstEffect (c w : Nat) (s : State) : State :=
  let d := 16 * (c / 16) + fld w 52 4
  let due := (s.core c).seq.beat.toNat + 6
  let g : Staged := { due := due, order := 0, arith := 0,
                      res := .group c (sOf (s.core c) (fld w 41 5) % 0x400000) (s.readV c (fld w 46 6)) }
  (s.modCore d fun x => { x with staged := x.staged ++ [g] }).modSeq c fun q => { q with gst := due }

/-- Writes of core `c` that are outstanding. -/
def Core.writesOut (x : Core) : List Nat :=
  (x.ops.filter fun o => match o.kind with | .store _ _ => true | .port _ _ => true | _ => false).map (·.id)

/-- Core beat by which every write of the core to its own store that is on its way is visible. -/
def Core.ownDue (x : Core) : Nat :=
  x.staged.foldl (fun m g => match g.res with | .store _ _ => max m g.due | _ => m) 0

def fenceEffect (c w : Nat) (s : State) : State :=
  let x := s.core c
  s.newOp c (fld w 50 6) (.fence x.writesOut x.seq.gst x.ownDue) false

/-- LNOP (R113): nothing. -/
def execLnop (core : CoreId) (s : State) : Host.Outcome State Fault Refusal :=
  .next (s.issueSlot core .l 0x00 fun _ t => t)

/-- LDV (R113): 1,024 bytes of own core store to Vd, latency 4. -/
def execLdv (core : CoreId) (s : State) : Host.Outcome State Fault Refusal :=
  .next (s.issueSlot core .l 0x01 (ldvEffect core))

/-- STV (R113): Va to own core store, latency 2. -/
def execStv (core : CoreId) (s : State) : Host.Outcome State Fault Refusal :=
  .next (s.issueSlot core .l 0x02 (stvEffect core))

/-- LDS (R113): 8 bytes of own core store to Sd, latency 4. -/
def execLds (core : CoreId) (s : State) : Host.Outcome State Fault Refusal :=
  .next (s.issueSlot core .l 0x03 (ldsEffect core))

/-- STS (R113): Sd to own core store, latency 2. -/
def execSts (core : CoreId) (s : State) : Host.Outcome State Fault Refusal :=
  .next (s.issueSlot core .l 0x04 (stsEffect core))

/-- LDT (R107): a tile segment from own core store, latency 4. -/
def execLdt (core : CoreId) (s : State) : Host.Outcome State Fault Refusal :=
  .next (s.issueSlot core .l 0x05 (ldtEffect core))

/-- VLD (R113): a copy from a readable address to own core store begins. -/
def execVld (core : CoreId) (s : State) : Host.Outcome State Fault Refusal :=
  .next (s.issueSlot core .l 0x08 (vldEffect core))

/-- VST (R113): a copy from own core store to a writable address begins. -/
def execVst (core : CoreId) (s : State) : Host.Outcome State Fault Refusal :=
  .next (s.issueSlot core .l 0x09 (vstEffect core))

/-- VLDV (R113): a load of 1,024 bytes to Vd begins. -/
def execVldv (core : CoreId) (s : State) : Host.Outcome State Fault Refusal :=
  .next (s.issueSlot core .l 0x0A (vldvEffect core))

/-- GST (R88, R115). -/
def execGst (core : CoreId) (s : State) : Host.Outcome State Fault Refusal :=
  .next (s.issueSlot core .l 0x0C (gstEffect core))

def Result.isStore : Result → Bool
  | .group _ _ _ => true
  | .store _ _ => true
  | _ => false

/-- The group store has come due by the core beat of its sender, or its sender runs no schedule any more: the rule for a target
that has ended, whose own core beat does not come (log entry 29). -/
def State.senderDue (s : State) (g : Staged) : Bool :=
  match g.res with
  | .group src _ _ =>
    let q := (s.core src).seq
    !q.bound || decide (g.due < q.beat.toNat) || (decide (g.due = q.beat.toNat) && s.atCoreBeat src)
  | _ => false

/-- GROUP_STORE_LANDING (R88): group stores due at the target member's core beat are visible, kept over the member's own
stores that are due by then (R77). -/
def execGroupStoreLanding (core : CoreId) (s : State) : Host.Outcome State Fault Refusal :=
  .next (if (s.core core).seq.bound then s.commitDue core Result.isStore else (s.commitWhere core s.senderDue).1)

/-- FENCE (R240): completes once every earlier write of the core is complete. -/
def execFence (core : CoreId) (s : State) : Host.Outcome State Fault Refusal :=
  .next (s.issueSlot core .l 0x10 (fenceEffect core))

/-! ## Completions (R83, R85, R89) -/

/-- Operation `o` completes in error as an access refused (R85, R115): its flag falls, no destination changes. -/
def State.opRefused (s : State) (c : Nat) (o : Op) : State :=
  let t := (s.completeOp c o.id).dropAccesses (opIssuer c o.id)
  let t := if anyOutside (s.opPieces o) then t.raiseCore 279 c (s.opJob c o) else t
  if o.live && (s.core c).seq.bound then t.scheduleError c 7 else t.raiseCore 280 c (t.opJob c o)

/-- A load completes: its data, its flag, and what its accesses found. -/
def State.finishLoad (s : State) (c : Nat) (o : Op) : State :=
  if o.refused then s.opRefused c o
  else
    let who := opIssuer c o.id
    let l := s.opPieces o
    if s.hostFailed who || anyUnavailable l then s.opRefused c o
    else if s.failedAccess who then (s.completeOp c o.id).dropAccesses who
    else
      let r := s.readPieces (s.opJob c o) none l
      let bs := mergeData l r.1 (s.answerData who)
      let t := if r.2.1 then r.2.2 else (r.2.2.landLoad c o bs).drawn
      (t.completeOp c o.id).dropAccesses who

/-- LOAD_COMPLETE (R83, R85): every byte stands in its destination and the flag is decremented; a refused access, or one that
met an error, changes no destination. -/
def execLoadComplete (core : CoreId) (op : Nat) (s : State) : Host.Outcome State Fault Refusal :=
  .next (match (s.core core).op op with
    | none => s
    | some o =>
      match o.kind with
      | .load _ _ _ => if s.opReady core o then s.finishLoad core o else s
      | .loadV _ _ => if s.opReady core o then s.finishLoad core o else s
      | _ => s)

/-- A store completes: its bytes at their destination, its flag. -/
def State.finishStore (s : State) (c : Nat) (o : Op) (bs : List Byte) : State :=
  if o.refused then s.opRefused c o
  else
    let who := opIssuer c o.id
    let l := s.opPieces o
    if s.hostFailed who || anyUnavailable l then s.opRefused c o
    else
      let ro := l.any fun q => match q.1 with | .mem a => s.hitsSchedule a q.2 | _ => false
      if ro then s.opRefused c o
      else
        let r := s.writePieces (s.opJob c o) none l bs
        (r.1.completeOp c o.id).dropAccesses who

/-- STORE_COMPLETE (R83, R169, R180): the write is complete and the flag is decremented; a port write completes with the last
sequence it queued. -/
def execStoreComplete (core : CoreId) (op : Nat) (s : State) : Host.Outcome State Fault Refusal :=
  .next (match (s.core core).op op with
    | none => s
    | some o =>
      match o.kind with
      | .store _ bs => if s.opReady core o then s.finishStore core o bs else s
      | .port k num =>
        if (s.column k).portDone num then
          let t := s.modColumn k fun x => { x with portErrs := x.portErrs.filter fun e => !(e = num) }
          if o.refused then t.opRefused core o else t.completeOp core o.id
        else s
      | _ => s)

/-- Every write a fence names is complete: the listed operations, the group stores due by core beat `gst`, which stand in the
stores of their targets, and the writes to the own store due by core beat `own`, which are visible (R90, R240). -/
def State.fenceDone (s : State) (c : Nat) (ops : List Nat) (gst own : Nat) : Bool :=
  !((s.core c).ops.any fun o => ops.any (· = o.id)) &&
  !((coresOf (c / 16)).any fun d => (s.core d).staged.any fun g => g.groupFrom c && decide (g.due ≤ gst)) &&
  !((s.core c).staged.any fun g => match g.res with | .store _ _ => decide (g.due ≤ own) | _ => false)

/-- At the end of a beat: the condition of an outstanding FENCE that was issued in an earlier beat is found to hold (R240). -/
def State.markFences (s : State) : State :=
  State.each s.cores (fun e t =>
    if e.2.ops.any fun o => match o.kind with | .fence _ _ _ => o.metAt.isNone | _ => false then
      t.modCore e.1 fun x => { x with ops := x.ops.map fun o =>
        match o.kind with
        | .fence ops gst own =>
          if o.metAt.isNone && decide (o.beatAt < t.now) && t.fenceDone e.1 ops gst own then { o with metAt := some t.now } else o
        | _ => o }
    else t) s

/-- FENCE_COMPLETE (R240): in a block beat after one in which every earlier write of the core was complete. -/
def execFenceComplete (core : CoreId) (op : Nat) (s : State) : Host.Outcome State Fault Refusal :=
  .next (match (s.core core).op op with
    | none => s
    | some o =>
      match o.kind with
      | .fence _ _ _ =>
        match o.metAt with
        | some b => if b < s.now then s.completeOp core o.id else s
        | none => s
      | _ => s)

end Sys2Proof.Machine
end

