-- ==== Sys2Proof/Machine/Sync.lean ====
section
/-! DEFINITION. Sync counters, watches, notifications, the outbox of fenced signals, the host watch and the deadlock detector
(chapter 08, R225 to R247).

Marks: DESIGN CHOICE (log entry 11), DEDUCED (log entry 29), DEDUCED (log entry 50). -/

namespace Sys2Proof.Machine

/-! ## Counters and packets -/

def counterDefault (_ : Nat) : BitVec 32 := 0

def State.counter (s : State) (k : Nat) : BitVec 32 := tabGet counterDefault s.sync.counters k
def State.putCounter (s : State) (k : Nat) (v : BitVec 32) : State :=
  s.setSync { s.sync with counters := tabSet counterDefault s.sync.counters k v }

def Packet.arrive : Packet → Nat
  | .add a _ _ _ => a
  | .register a _ _ _ _ => a
  | .cancel a _ _ => a
  | .notify a _ _ => a

/-- The packet is bound for a counter: an addition, a registration or a cancellation. -/
def Packet.forCounter : Packet → Option Nat
  | .add _ k _ _ => some k
  | .register _ k _ _ _ => some k
  | .cancel _ k _ => some k
  | .notify _ _ _ => none

/-- Packets that have reached counter `k` and are not yet taken. -/
def State.duePackets (s : State) (k : Nat) : List Packet :=
  s.sync.packets.filter fun p => decide (p.forCounter = some k) && decide (p.arrive ≤ s.now)

/-- Beat of the earliest of them. -/
def firstBeat : List Packet → Nat
  | [] => 0
  | p :: t => t.foldl (fun m q => min m q.arrive) p.arrive

/-! ## Registers of a region's sync unit -/

def synBase (r : Nat) : Nat := regionBase r + 0xC0000
def synHwatch (r : Nat) : Nat := synBase r + 0x8004
def synHwatchVal (r : Nat) : Nat := synBase r + 0x8008
def synStats (r : Nat) : Nat := synBase r + 0x800C
def synDld (r k : Nat) : Nat := synBase r + 0x8010 + 4 * k

/-! ## Additions with saturation (R227) -/

def Origin.job : Origin → Option (PartId × Fin 16)
  | .core j => j
  | .dma j => j
  | .scout j => j
  | _ => none

/-- Answer to the sender of an addition: SYN_ADD and a peer signal are answered when it is made, and a host write whose sum
saturated completes with an error response. -/
def State.answerAdd (s : State) (sat : Bool) (o : Origin) : State :=
  match o with
  | .host (.host tag) (some tid) => s.send (if sat then .err tag tid 5 else .wrsp tag tid)
  | .host .side (some _) => s.send (.side (if sat then 1 else 0) (if sat then 5 else 0) [])
  | .peer port tid => s.send (.peerAck port tid)
  | _ => s

/-- Jobs with a watch armed on counter `k` are not quiet in this beat (R244, condition 9). -/
def State.stirWatchers (s : State) (k : Nat) : State :=
  State.each s.sync.watches (fun w t =>
    if w.counter = k then
      match w.who with
      | .core c _ => match (t.core c).seq.job with
        | some j => t.modJob j.1 j.2 fun x => { x with loud := true }
        | none => t
      | _ => t
    else t) s

/-! ## Whose additions a counter's value holds (R224) -/

abbrev Shares := List (Option (PartId × Fin 16) × Nat)

def State.shares (s : State) (k : Nat) : Shares := tabGet (fun _ => []) s.sync.shares k
def State.putShares (s : State) (k : Nat) (l : Shares) : State :=
  s.setSync { s.sync with shares := tabSet (fun _ => []) s.sync.shares k l }

/-- An addition of `n` for job `j` joins the shares of a counter's value. -/
def addShare (l : Shares) (j : Option (PartId × Fin 16)) (n : Nat) : Shares :=
  if n = 0 then l
  else match l.getLast? with
    | some (i, m) => if i = j then l.dropLast ++ [(i, m + n)] else l ++ [(j, n)]
    | none => [(j, n)]

/-- A take of `v` consumes the oldest additions. -/
def dropShare : Nat → Shares → Shares
  | _, [] => []
  | v, (j, n) :: t => if v < n then (j, n - v) :: t else dropShare (v - n) t

/-- Jobs that wait at the ring of an enabled scout engine: their additions stand in its request counter (R215, R224). -/
def State.ringJobs (s : State) (r : Nat) : List (Option (PartId × Fin 16)) :=
  let v := s.regN (0x1801008 + 0x20 * r)
  if bitOf v 31 then (s.shares (fld v 0 16)).map (·.1) else []

/-- Step 3: the additions as one sum. A saturation counts once and each origin meets its own outcome. -/
def State.addSum (s : State) (k : Nat) (adds : List (BitVec 32 × Origin)) : State :=
  if adds.isEmpty then s
  else
    let sum := adds.foldl (fun n a => n + a.1.toNat) (s.counter k).toNat
    let sat := decide (0xFFFFFFFF < sum)
    let t := ((s.putCounter k (w32 (min sum 0xFFFFFFFF))).stirWatchers k).putShares k
      (adds.foldl (fun l a => addShare l a.2.job a.1.toNat) (s.shares k))
    let t :=
      if sat then
        let r := counterRegion k
        let jobs := (adds.filterMap fun a => a.2.job)
        let u := (t.addField (synStats r) 0 16 1).raise { src := 293, locs := [256 + r], job := jobs.head?, tag := none }
        if (u.source 293).eff = 2 then State.each jobs.tail (fun j v => v.endJob j) u else u
      else t
    State.each adds (fun a u => u.answerAdd sat a.2) t

/-! ## Watches (R229 to R233, R238) -/

/-- Ascending order of watchers: cores by 64 × core + slot, the scout engine, the host watch. -/
def Watcher.order : Watcher → Nat
  | .core c slot => 64 * c.val + slot
  | .scout _ => 16384
  | .host _ => 16385

def Watcher.region : Watcher → Nat
  | .core c _ => c.val / 16
  | .scout r => r.val
  | .host r => r.val

/-- Delay of a notification to region `r` under test perturbation (R489). -/
def State.syncDelay (s : State) (r : Nat) : Nat :=
  let v := s.regN 0x1F0003C
  if bitOf v r then
    (if bitOf v 31 then Config.freeNat s.draws % (fld v 16 4 + 1) else fld v 16 4)
  else 0

/-- A watch on counter `k` fires: it takes, leaves the table, and its watcher is told. -/
def State.fire (s : State) (w : WatchEntry) : State :=
  let r := counterRegion w.counter
  let job := match s.shares w.counter with | (j, _) :: _ => j | [] => none
  let t := if w.take then
      (s.putCounter w.counter (s.counter w.counter - w.v)).putShares w.counter (dropShare w.v.toNat (s.shares w.counter))
    else s
  let t := t.setSync { t.sync with watches := t.sync.watches.filter fun x => !(x = w) }
  match w.who with
  | .core c slot =>
    let q := c.val / 16
    (t.sendSync (.notify (t.now + 1 + transit r q + t.syncDelay q) w.counter (.core c slot))).drawn
  | .scout q => t.modScout q fun x => { x with fired := x.fired ++ [job] }
  | .host q =>
    -- EN clears and FIRED sets, and the owner of the region is told (R243)
    let u := t.putReg (synHwatch q) (setFld (setFld (t.regN (synHwatch q)) 31 1 0) 30 1 1)
    let u := u.setSync { u.sync with hostFired := tabSet (fun _ => 0) u.sync.hostFired q (u.now + 1) }
    match u.regionOwner q with
    | some p => u.arrive p (336 + q) 0
    | none => u

/-- Step 5: every armed watch on the counter once, in ascending order of watcher. -/
def State.evaluate (s : State) (k : Nat) : State :=
  State.each (sortBy (fun w => Int.ofNat w.who.order) (s.sync.watches.filter fun w => w.counter = k))
    (fun w t => if w.v.toNat ≤ (t.counter k).toNat then t.fire w else t) s

def State.enterWatch (s : State) (w : WatchEntry) : State :=
  s.setSync { s.sync with watches := s.sync.watches ++ [w] }

def State.removeWatch (s : State) (k : Nat) (who : Watcher) : State :=
  s.setSync { s.sync with watches := s.sync.watches.filter fun w => !(w.counter = k && w.who = who) }

/-- One beat at counter `k` (R233): the packets `ps` that arrived in it, and the value of a host write to SYN_CNT. -/
def State.counterBeat (s : State) (k : Nat) (ps : List Packet) (set : Option (BitVec 32)) : State :=
  let t := s.setSync { s.sync with packets := s.sync.packets.filter fun p => !(ps.any fun q => q = p) }
  -- 1: cancellations
  let cancels := ps.filterMap fun p => match p with | .cancel _ _ w => some w | _ => none
  let t := State.each cancels (fun w u => u.removeWatch k w) t
  -- 2: the host's value
  let t := match set with
    | some v => (t.putCounter k v).putShares k (addShare [] none v.toNat)
    | none => t
  -- 3: additions
  let t := t.addSum k (ps.filterMap fun p => match p with | .add _ _ a o => some (a, o) | _ => none)
  -- 4: registrations, but for those cancelled in this beat
  let t := State.each ps (fun p u =>
    match p with
    | .register _ _ v take who =>
      if cancels.any (· = who) then u else u.enterWatch { counter := k, v := v, take := take, who := who }
    | _ => u) t
  -- 5: watches
  t.evaluate k

/-- Counter `k` has been through its steps in the present beat. -/
def State.hadBeat (s : State) (k : Nat) : Bool := decide (tabGet (fun _ => 0) s.sync.taken k = s.now + 1)

/-- The steps of the present beat at counter `k`, once. -/
def State.beatNow (s : State) (k : Nat) (ps : List Packet) (set : Option (BitVec 32)) : State :=
  (s.setSync { s.sync with taken := tabSet (fun _ => 0) s.sync.taken k (s.now + 1) }).counterBeat k ps set

/-- The next beat at counter `k`, when packets are due there and one of them is of the kind `pick`. -/
def State.counterArrival (s : State) (k : Nat) (pick : Packet → Bool) : State :=
  let due := s.duePackets k
  let b := firstBeat due
  let ps := due.filter fun p => p.arrive = b
  if ps.any pick then (if b = s.now then s.beatNow k ps none else s.counterBeat k ps none) else s

/-- Earlier beats at counter `k` whose packets no command has taken yet, in their order. -/
def State.catchUp (k : Nat) : Nat → State → State
  | 0, s => s
  | fuel + 1, s =>
    let due := (s.duePackets k).filter fun p => decide (p.arrive < s.now)
    if due.isEmpty then s
    else State.catchUp k fuel (s.counterBeat k (due.filter fun p => p.arrive = firstBeat due) none)

/-- Counter `k` with every earlier beat behind it. -/
def State.caughtUp (s : State) (k : Nat) : State := State.catchUp k (s.duePackets k).length s

/-- Packets that arrive at counter `k` in the present beat. -/
def State.packetsNow (s : State) (k : Nat) : List Packet := (s.duePackets k).filter fun p => p.arrive = s.now

/-- Counter `k` after step 5 of the present beat, as a read returns it. -/
def State.counterRead (s : State) (k : Nat) : State :=
  let t := s.caughtUp k
  if (t.packetsNow k).isEmpty then t else t.beatNow k (t.packetsNow k) none

def Packet.isAdd : Packet → Bool
  | .add _ _ _ _ => true
  | _ => false
def Packet.isRegister : Packet → Bool
  | .register _ _ _ _ _ => true
  | _ => false
def Packet.isCancel : Packet → Bool
  | .cancel _ _ _ => true
  | _ => false

/-- SIGNAL_ARRIVAL (R227, R233). -/
def execSignalArrival (counter : Fin 65536) (s : State) : Host.Outcome State Fault Refusal :=
  .next (s.counterArrival counter Packet.isAdd)

/-- WATCH_REGISTRATION_ARRIVAL (R231 to R233). -/
def execWatchRegistrationArrival (counter : Fin 65536) (s : State) : Host.Outcome State Fault Refusal :=
  .next (s.counterArrival counter Packet.isRegister)

/-- WATCH_CANCEL_ARRIVAL (R233, R235). -/
def execWatchCancelArrival (counter : Fin 65536) (s : State) : Host.Outcome State Fault Refusal :=
  .next (s.counterArrival counter Packet.isCancel)

/-- The notification that has reached slot `slot` of core `c`. -/
def State.dueNotice (s : State) (c : CoreId) (slot : Nat) : Option Packet :=
  s.sync.packets.find? fun p => match p with
    | .notify a _ who => decide (a ≤ s.now) && decide (who = .core c slot)
    | _ => false

def dropFirst {α : Type} [DecidableEq α] (x : α) : List α → List α
  | [] => []
  | y :: t => if y = x then t else y :: dropFirst x t

/-- NOTIFICATION_ARRIVAL (R235, R238): an armed slot is fired; on an idle slot the notification is discarded and counted. -/
def execNotificationArrival (core : CoreId) (slot : Fin 64) (s : State) : Host.Outcome State Fault Refusal :=
  .next (match s.dueNotice core slot with
    | some (.notify a k who) =>
      let t := s.setSync { s.sync with packets := dropFirst (.notify a k who) s.sync.packets }
      (match (t.core core).slot slot with
       | .idle => t.addField (synStats (counterRegion k)) 16 16 1
       | _ => t.modCore core fun x => x.putSlot slot .fired)
    | _ => s)

/-! ## Register writes -/

/-- SYN_CNT write: step 2 of a beat, with what else arrives in it (R233). None where the counter has been through the present beat
already: the write is served in a later one. -/
def State.writeCounter (s : State) (k : Nat) (v : BitVec 32) : Option State :=
  if s.hadBeat k then none
  else
    let t := s.caughtUp k
    some (t.beatNow k (t.packetsNow k) (some v))

/-- SYN_ADD write: the addition reaches the counter two beats later (R237). -/
def State.writeAdd (s : State) (k : Nat) (v : BitVec 32) (path : Path) (tid : Option Nat) : State :=
  s.sendSync (.add (s.now + 2) k v (.host path tid))

/-- SYN_HWATCH write (R243): with EN = 1 a registration in step 4 of the beat. None where the counter has been through the present
beat already. A write while FIRED is 1 is taken only with a 1 to FIRED, and a clear in the beat of a set leaves it set (R14). -/
def State.writeHwatch (s : State) (r : RegionId) (v : Nat) : Option State :=
  let o := synHwatch r
  let old := s.regN o
  if bitOf old 30 && !bitOf v 30 then some s
  else if bitOf v 31 && s.hadBeat (4096 * r.val + fld v 0 12) then none
  else
    let keep := bitOf old 30 && decide (tabGet (fun _ => 0) s.sync.hostFired r.val = s.now + 1)
    let t := s.setSync { s.sync with watches := s.sync.watches.filter fun w => !(w.who = .host r) }
    let k := 4096 * r.val + fld v 0 12
    let t := t.putReg o (at' 31 1 (fld v 31 1) + at' 30 1 (b2n keep) + fld v 0 12)
    if bitOf v 31 then
      let t := t.caughtUp k
      some (t.beatNow k (t.packetsNow k ++ [.register t.now k (t.reg (synHwatchVal r)) false (.host r)]) none)
    else some t

/-! ## Signals (R228, R241) -/

/-- An addition leaves core `c`: to a counter of this block, or over a peer port. -/
def State.sendSignal (s : State) (c : CoreId) (dest counter : Nat) (amount : BitVec 32)
    (job : Option (PartId × Fin 16)) : State :=
  if dest = 0 then s.sendSync (.add (s.arriveBeat (c.val / 16) (counterRegion counter)) counter amount (.core job))
  else s.peerIssue (dest - 4) (.signal c job) true false 0 fun tid => .peerSig (dest - 4) tid counter amount

/-- A fenced signal's earlier writes are complete. -/
def State.fencedReady (s : State) (c : Nat) (f : Fenced) : Bool := s.fenceDone c f.ops f.gst f.own

/-- OUTBOX_RELEASE (R241): the oldest fenced signal leaves once its writes are complete. -/
def execOutboxRelease (core : CoreId) (s : State) : Host.Outcome State Fault Refusal :=
  .next (match (s.core core).outbox with
    | [] => s
    | f :: rest =>
      if s.fencedReady core f then
        (s.modCore core fun x => { x with outbox := rest }).sendSignal core f.dest f.counter f.amount f.job
      else s)

/-! ## Deadlock (R244 to R247) -/

/-- Slots a WAIT names, ascending. -/
def WaitFor.indexes (w : WaitFor) : List Nat := (bitsOf 32 w.mask.toNat).map fun i => i + (if w.half then 32 else 0)

/-- The counter lies in its region's external range. -/
def State.external (s : State) (k : Nat) : Bool :=
  let v := s.regN (synBase (counterRegion k) + 0x8000)
  decide (fld v 0 12 ≤ k % 4096) && decide (k % 4096 ≤ fld v 12 12)

def Core.waitsOnWatch (x : Core) : Bool := match x.seq.waiting with | some w => w.watch | none => false

/-- The core waits on watches, none of them on an external counter (conditions 1 and 2 of R244). -/
def State.quietWait (s : State) (c : Nat) : Bool :=
  let x := s.core c
  match x.seq.waiting with
  | some w =>
    w.watch && w.indexes.all fun i => match x.slot i with
      | .armed k _ _ => !s.external k
      | _ => true
  | none =>
    -- a member stalled by members that wait so
    let ws := (s.groupOf c).filter fun d => (s.core d).seq.waiting.isSome
    !ws.isEmpty && ws.all fun d => (s.core d).waitsOnWatch

/-- A descriptor rung by job `j` is incomplete: one the channel executes or is to read, or one that awaits write responses. -/
def Channel.busyFor (s : State) (x : Channel) (j : PartId × Fin 16) : Bool :=
  (x.fetching.isSome && decide (s.ringerJob x.owner = some j)) ||
  ((x.running.isSome || x.fetching.isSome || !x.writes.isEmpty) && decide (s.ringerJob x.attr = some j)) ||
  x.finishing.any fun f => s.ringerJob f.attr = some j

/-- The job is quiet in the present beat (R244). -/
def State.jobQuiet (s : State) (j : PartId × Fin 16) : Bool :=
  let x := s.job j.1 j.2
  let cs := x.cores.map fun e => e.core.val
  let live := cs.filter fun c => (s.core c).seq.bound && decide ((s.core c).seq.job = some j)
  !x.loud && live.all (fun c => !(s.core c).seq.issued && s.quietWait c) &&
  cs.all (fun c => (List.range 64).all fun i => (s.core c).flag i = 0) &&
  cs.all (fun c => (s.core c).outbox.isEmpty) &&
  (!s.dma.any fun e => e.2.busyFor s j) &&
  (!s.pgk.calls.any fun k => k.copyTo.isSome && (match k.caller with | .core _ _ _ i => i = j | .host _ => false)) &&
  (!(List.range 16).any fun r => (s.ringJobs r).any (· = some j) || (s.scout r).fired.any (· = some j) ||
    (match (s.scout r).serving with | some q => q.job = some j | none => false)) &&
  ((List.range 4).all fun n => (s.peer n).accesses.all fun a => s.issuerJob a.issuer ≠ some j) &&
  live.all (fun c => !(s.core c).seq.held && (s.groupOf c).all fun d => !(s.core d).seq.held)

/-- Record of a declaration in region `r` (R246, R247). -/
def State.declare (s : State) (j : PartId × Fin 16) (r : Nat) : State :=
  let cs := ((s.job j.1 j.2).cores.map fun e => e.core.val).filter fun c => c / 16 = r
  let low := cs.foldl min 256
  let last := tabGet (fun _ => (0, 0)) s.sync.declared r
  if last.1 = s.now + 1 ∧ last.2 ≤ low then s
  else
    let t := s.setSync { s.sync with declared := tabSet (fun _ => (0, 0)) s.sync.declared r (s.now + 1, low) }
    match (sortBy Int.ofNat cs).find? fun c => (t.core c).waitsOnWatch && decide ((t.core c).seq.job = some j) with
    | none => t.putReg (synDld r 0) (0x80000000 + low)
    | some c =>
      let x := t.core c
      let slots := match x.seq.waiting with | some w => w.indexes | none => []
      let t := t.putReg (synDld r 0) (0x80000000 + c)
      match slots.findSome? fun i => (match x.slot i with | .armed k v take => some (i, k, v, take) | _ => none) with
      | none => t
      | some (i, k, v, take) =>
        ((t.putReg (synDld r 1) (at' 22 1 (b2n take) + at' 16 6 i + k)).putReg (synDld r 2) v.toNat).putReg (synDld r 3)
          (t.counter k).toNat

/-- DEADLOCK (R246): records are written, the source is set, the job is stopped. -/
def execDeadlock (part : PartId) (job : Fin 16) (s : State) : Host.Outcome State Fault Refusal :=
  .next (
    let x := s.job part job
    if x.state = .running ∧ 200000 ≤ x.quiet then
      let rs := (List.range 16).filter fun r => x.cores.any fun e => e.core.val / 16 = r
      ((State.each rs (fun r t => t.declare (part, job) r) s).modJob part job fun y => { y with quiet := 0 }).raise
        { src := 294, locs := rs.map (256 + ·), job := some (part, job), tag := none }
    else s)

end Sys2Proof.Machine
end

