-- ==== Sys2Proof/Machine/ControlSlot.lean ====
section
/-! DEFINITION. The C slot: waits, watches, signals, branches, END, phases and hints, scalar operations (R101, R117 to R121,
R228, R230, R363 to R368).

Marks: DEDUCED (log entry 14), DEDUCED (log entry 29), DESIGN CHOICE (log entry 68). -/

namespace Sys2Proof.Machine

/-! ## Waits (R86, R118) -/

/-- A flag or slot reads as set. `own` takes the operations of the bundle in issue out of the count (R100). -/
def Core.isSet (x : Core) (watch own : Bool) (i : Nat) : Bool :=
  if watch then (match x.slot i with | .armed _ _ _ => false | _ => true)
  else decide ((if own then x.flagSeen i else x.flag i) = 0)

/-- Fired slots that a completed WAIT names return to idle. -/
def Core.observe (x : Core) (w : WaitFor) : Core :=
  if w.watch then w.indexes.foldl (fun y i => if y.slot i = .fired then y.putSlot i .idle else y) x else x

def waitOf (w : Nat) : WaitFor := { watch := bitOf w 55, half := bitOf w 54, mask := BitVec.ofNat 32 w }

def waitEffect (c w : Nat) (s : State) : State :=
  let q := waitOf w
  if q.indexes.all ((s.core c).isSet q.watch true) then s.modCore c fun x => x.observe q
  else s.modSeq c fun y => { y with waiting := some q }

/-- The core waits and every flag or slot it names is set; held beats do not delay the wait (R20, R74). -/
def State.canResume (s : State) (c : Nat) : Bool :=
  let x := s.core c
  match x.seq.waiting with
  | some q => x.seq.bound && q.indexes.all (x.isSet q.watch false)
  | none => false

/-- WAIT_RESUME (R86): the WAIT completes; the next bundle issues in a later beat. -/
def execWaitResume (core : CoreId) (s : State) : Host.Outcome State Fault Refusal :=
  .next (if s.canResume core then
      match (s.core core).seq.waiting with
      | some q => (s.modCore core fun x => x.observe q).modSeq core fun y => { y with waiting := none, resumed := true }
      | none => s
    else s)

/-! ## Watches and signals (R228, R230, R241, R242) -/

def watchEffect (c w : Nat) (s : State) : State :=
  let k := fld w 32 16
  let v := BitVec.ofNat 32 (cValue (s.core c) w 48 27 0 24)
  let slot := fld w 50 6
  let who : Watcher := .core ⟨c % 256, Nat.mod_lt _ (by decide)⟩ slot
  (s.modCore c fun x => x.putSlot slot (.armed k v (bitOf w 49))).sendSync
    (.register (s.arriveBeat (c / 16) (counterRegion k)) k v (bitOf w 49) who)

/-- SIGNAL: at once, or through the outbox when it is fenced. The four slots of a bundle issue together (R100), and R90 speaks of
the writes issued earlier: that a write of the fenced signal's own bundle, in its L slot, counts as earlier is the model's choice
(log entry 68). -/
def signalEffect (c : Nat) (fenced : Bool) (w : Nat) (s : State) : State :=
  let dest := fld w 53 3
  let k := fld w 36 16
  let amount := BitVec.ofNat 32 (cValue (s.core c) w 52 31 0 16)
  let x := s.core c
  if fenced then
    s.modCore c fun y =>
      { y with outbox := y.outbox ++ [{ dest := dest, counter := k, amount := amount, job := s.coreJob c,
                                        ops := x.writesOut, gst := x.seq.gst, own := x.ownDue }] }
  else s.sendSignal ⟨c % 256, Nat.mod_lt _ (by decide)⟩ dest k amount (s.coreJob c)

/-! ## Branches and END (R101, R120) -/

/-- A branch issues: two delay bundles follow, and then the target if it is taken. -/
def branch (c w : Nat) (taken : Bool) (s : State) : State :=
  s.modSeq c fun q => { q with delay := 3, target := if taken then some (fld w 34 17) else none }

def brdecEffect (c w : Nat) (s : State) : State :=
  let i := fld w 51 5
  let v := s.readS c i - 1
  branch c w (decide (v ≠ 0)) (s.stage c 1 (.scalar i v) 0)

def endEffect (c _w : Nat) (s : State) : State := s.modSeq c fun q => { q with ended := true }

/-! ## Phases and hints (R363 to R368) -/

def lpeReg (r o : Nat) : Nat := regionBase r + 0x40000 + o

def learnedDefault (_ : Nat) : Option Learned := none

/-- Learned entry of a core and phase (R363). -/
def State.learned (s : State) (c phase : Nat) : Option Learned :=
  tabGet learnedDefault (s.loop (c / 16)).learned (256 * (c % 16) + phase)

/-- Phase is heavy for core `c` (R366). -/
def State.heavy (s : State) (c phase : Nat) : Bool :=
  match s.learned c phase with
  | some e => decide (10 * fld (s.regN (lpeReg (c / 16) 0x10)) 24 8 ≤ e.peak)
  | none => false

def State.hintsOn (s : State) (c : Nat) : Bool := bitOf (s.regN (lpeReg (c / 16) 0)) 29

/-- The set-point boost stands while a preparation runs (R367). -/
def State.setBoost (s : State) (c : Nat) : State :=
  let dv := fld (s.regN (lpeReg (c / 16) 0x10)) 20 4
  s.modCore c fun x =>
    { x with power := { x.power with boost := if x.hints.any (·.prep) then (if x.power.boost = 0 then dv else x.power.boost)
                                              else 0 } }

/-- EXPIRED advances. -/
def State.hintExpired (s : State) (c : Nat) : State := s.addField (lpeReg (c / 16) 0x18) 16 16 1

/-- A hint is pending until its phase has issued. -/
def Hint.pending (h : Hint) : Bool := h.endAt.isNone

/-- The list without its oldest pending hint. -/
def dropOldest : List Hint → List Hint
  | [] => []
  | h :: t => if h.pending then t else h :: dropOldest t

def hintLead (v : Nat) : Nat := if v = 0 then 1 else if 200 < v then 200 else v

def hintEffect (c w : Nat) (s : State) : State :=
  if !s.hintsOn c then s
  else
    let lead := hintLead (fld w 40 8)
    let prep := decide (lead ≤ fld (s.regN (lpeReg (c / 16) 0x10)) 16 4)
    let full := decide (4 ≤ ((s.core c).hints.filter Hint.pending).length)
    let t := if full then (s.modCore c fun x => { x with hints := dropOldest x.hints }).hintExpired c else s
    (t.modCore c fun x =>
      { x with hints := x.hints ++ [{ phase := fld w 48 8, issued := s.now, lead := lead, prep := prep, endAt := none }] }).setBoost c

/-- PHASE p: p is in force; pending hints for it are prepared until 20 µs on; a heavy phase without a hint at least 1 µs old is a
hint miss (R368), but not while HINT_EN is 0. -/
def phaseEffect (c w : Nat) (s : State) : State :=
  let p := fld w 48 8
  let t := s.modSeq c fun q => { q with phase := p, phased := true }
  let mine := fun (h : Hint) => h.pending && decide (h.phase = p)
  let hinted := (s.core c).hints.any fun h => mine h && decide (h.issued + 2000 ≤ s.now)
  let miss := s.hintsOn c && s.heavy c p && !hinted
  let stop := some (s.now + 40000)
  let t := t.modCore c fun x =>
      let hs := x.hints.map fun h => if mine h then { h with prep := true, endAt := stop } else h
      { x with hints := if miss && !(x.hints.any mine) then
          hs ++ [{ phase := p, issued := s.now, lead := 0, prep := true, endAt := stop }] else hs }
  let t := if miss then
        (t.addField (lpeReg (c / 16) 0x18) 0 16 1).modPower c fun x => { x with missLeft := 2, missAt := s.now }
      else t
  t.setBoost c

/-- HINT_PREP_START (R367): the preparation of a pending hint begins. -/
def execHintPrepStart (core : CoreId) (phase : BitVec 8) (s : State) : Host.Outcome State Fault Refusal :=
  .next (
    let prep := fld (s.regN (lpeReg (core.val / 16) 0x10)) 16 4
    let due := fun (h : Hint) => !h.prep && h.pending && decide (h.phase = phase.toNat) &&
      decide (h.issued + 2000 * h.lead ≤ s.now + 2000 * prep)
    if (s.core core).hints.any due then
      (s.modCore core fun x => { x with hints := x.hints.map fun h => if due h then { h with prep := true } else h }).setBoost
        core
    else s)

/-- The hint's preparation is over: 20 µs after its phase, or expired. -/
def Hint.over (h : Hint) (now : Nat) : Bool :=
  match h.endAt with
  | some e => decide (e ≤ now)
  | none => decide (h.issued + 2000 * (h.lead + 20) ≤ now)

/-- HINT_PREP_END (R367): request and boost are withdrawn; a hint whose phase never issued counts in EXPIRED. -/
def execHintPrepEnd (core : CoreId) (phase : BitVec 8) (s : State) : Host.Outcome State Fault Refusal :=
  .next (
    let gone := fun (h : Hint) => decide (h.phase = phase.toNat) && h.over s.now
    let expired := (s.core core).hints.filter fun h => gone h && h.pending
    if (s.core core).hints.any gone then
      (State.each expired (fun _ t => t.hintExpired core)
        (s.modCore core fun x => { x with hints := x.hints.filter fun h => !gone h })).setBoost core
    else s)

/-! ## Scalar operations (R117) -/

/-- Sd = f (S[Sa]) b, `latency` core beats later. -/
def scalarEffect (latency : Nat) (f : BitVec 64 → BitVec 64 → BitVec 64) (c w : Nat) (s : State) : State :=
  let x := s.core c
  s.stage c latency (.scalar (cSd w) (f (x.s (cSa w)) (cOperand x w))) 0

def boolWord (b : Bool) : BitVec 64 := if b then 1 else 0

/-- CNOP (R117): nothing. -/
def execCnop (core : CoreId) (s : State) : Host.Outcome State Fault Refusal :=
  .next (s.issueSlot core .c 0x00 fun _ t => t)

/-- WAIT (R86, R118). -/
def execWait (core : CoreId) (s : State) : Host.Outcome State Fault Refusal :=
  .next (s.issueSlot core .c 0x01 (waitEffect core))

/-- WATCH (R119, R230). -/
def execWatch (core : CoreId) (s : State) : Host.Outcome State Fault Refusal :=
  .next (s.issueSlot core .c 0x02 (watchEffect core))

/-- SIGNAL (R91, R228, R242). -/
def execSignal (core : CoreId) (s : State) : Host.Outcome State Fault Refusal :=
  .next (s.issueSlot core .c 0x03 fun w t => signalEffect core (t.strict core) w t)

/-- SIGNAL.F (R90, R241). -/
def execSignalF (core : CoreId) (s : State) : Host.Outcome State Fault Refusal :=
  .next (s.issueSlot core .c 0x04 (signalEffect core true))

/-- BR (R101). -/
def execBr (core : CoreId) (s : State) : Host.Outcome State Fault Refusal :=
  .next (s.issueSlot core .c 0x08 fun w t => branch core w true t)

/-- BRZ (R101). -/
def execBrz (core : CoreId) (s : State) : Host.Outcome State Fault Refusal :=
  .next (s.issueSlot core .c 0x09 fun w t => branch core w (t.readS core (fld w 51 5) = 0) t)

/-- BRNZ (R101). -/
def execBrnz (core : CoreId) (s : State) : Host.Outcome State Fault Refusal :=
  .next (s.issueSlot core .c 0x0A fun w t => branch core w (t.readS core (fld w 51 5) ≠ 0) t)

/-- BRDEC (R101): the decremented register is visible one core beat later. -/
def execBrdec (core : CoreId) (s : State) : Host.Outcome State Fault Refusal :=
  .next (s.issueSlot core .c 0x0B (brdecEffect core))

/-- END (R120). -/
def execEndSched (core : CoreId) (s : State) : Host.Outcome State Fault Refusal :=
  .next (s.issueSlot core .c 0x0F (endEffect core))

/-- PHASE (R121, R363, R368). -/
def execPhase (core : CoreId) (s : State) : Host.Outcome State Fault Refusal :=
  .next (s.issueSlot core .c 0x10 (phaseEffect core))

/-- HINT (R121, R367). -/
def execHint (core : CoreId) (s : State) : Host.Outcome State Fault Refusal :=
  .next (s.issueSlot core .c 0x11 (hintEffect core))

/-- SADD (R117): Sd = Sa + operand. -/
def execSadd (core : CoreId) (s : State) : Host.Outcome State Fault Refusal :=
  .next (s.issueSlot core .c 0x20 (scalarEffect 1 (· + ·) core))

/-- SSUB (R117): Sd = Sa − operand. -/
def execSsub (core : CoreId) (s : State) : Host.Outcome State Fault Refusal :=
  .next (s.issueSlot core .c 0x21 (scalarEffect 1 (· - ·) core))

/-- SMUL (R117): Sd = the low 64 bits of Sa × operand, latency 3. -/
def execSmul (core : CoreId) (s : State) : Host.Outcome State Fault Refusal :=
  .next (s.issueSlot core .c 0x22 (scalarEffect 3 (· * ·) core))

/-- SAND (R117): bitwise and. -/
def execSand (core : CoreId) (s : State) : Host.Outcome State Fault Refusal :=
  .next (s.issueSlot core .c 0x23 (scalarEffect 1 (· &&& ·) core))

/-- SOR (R117): bitwise or. -/
def execSor (core : CoreId) (s : State) : Host.Outcome State Fault Refusal :=
  .next (s.issueSlot core .c 0x24 (scalarEffect 1 (· ||| ·) core))

/-- SXOR (R117): bitwise exclusive or. -/
def execSxor (core : CoreId) (s : State) : Host.Outcome State Fault Refusal :=
  .next (s.issueSlot core .c 0x25 (scalarEffect 1 (· ^^^ ·) core))

/-- SSHL (R117): shift left by operand mod 64. -/
def execSshl (core : CoreId) (s : State) : Host.Outcome State Fault Refusal :=
  .next (s.issueSlot core .c 0x26 (scalarEffect 1 (fun a b => a <<< (b.toNat % 64)) core))

/-- SSHR (R117): logical shift right by operand mod 64. -/
def execSshr (core : CoreId) (s : State) : Host.Outcome State Fault Refusal :=
  .next (s.issueSlot core .c 0x27 (scalarEffect 1 (fun a b => a >>> (b.toNat % 64)) core))

/-- SSRA (R117): arithmetic shift right by operand mod 64. -/
def execSsra (core : CoreId) (s : State) : Host.Outcome State Fault Refusal :=
  .next (s.issueSlot core .c 0x28 (scalarEffect 1 (fun a b => a.sshiftRight (b.toNat % 64)) core))

/-- SLT (R117): 1 where Sa is below the operand, signed, else 0. -/
def execSlt (core : CoreId) (s : State) : Host.Outcome State Fault Refusal :=
  .next (s.issueSlot core .c 0x29 (scalarEffect 1 (fun a b => boolWord (a.slt b)) core))

/-- SLTU (R117): 1 where Sa is below the operand, unsigned, else 0. -/
def execSltu (core : CoreId) (s : State) : Host.Outcome State Fault Refusal :=
  .next (s.issueSlot core .c 0x2A (scalarEffect 1 (fun a b => boolWord (a.ult b)) core))

/-- SMOVHI: the low half of Sd is unchanged. -/
def smovhiEffect (c w : Nat) (s : State) : State :=
  s.stage c 1 (.scalar (cSd w) (BitVec.ofNat 64 (fld w 0 32 * 2 ^ 32 + (s.readS c (cSd w)).toNat % 2 ^ 32))) 0

/-- SMOVHI (R117): the high half of Sd from the immediate, its low half kept. -/
def execSmovhi (core : CoreId) (s : State) : Host.Outcome State Fault Refusal :=
  .next (s.issueSlot core .c 0x2B (smovhiEffect core))

end Sys2Proof.Machine
end

