-- ==== Sys2Proof/Machine/Dma.lean ====
section
/-! DEFINITION. DMA channels: doorbells, descriptors, lists, transforms, completion, errors, abort (chapter 09, R248 to R269).

A channel may read and start a descriptor while the writes of those before it await responses (R260).

Marks: DEDUCED (log entry 17), DEDUCED (log entry 18), DEDUCED (log entry 55). -/

namespace Sys2Proof.Machine

def dmaBase (r : Nat) : Nat := regionBase r + 0xA0000
def dmaReg (r k o : Nat) : Nat := dmaBase r + 0x20 * k + o

/-- Head descriptor of a channel. -/
def State.dmaHead (s : State) (r k : Nat) : Nat := s.regN (dmaReg r k 0x8) + 2 ^ 32 * fld (s.regN (dmaReg r k 0xC)) 0 16

/-- Sum of ALLOC over the region's channels. -/
def State.allocated (s : State) (r : Nat) : Nat := (List.range 32).foldl (fun n k => n + (s.chan r k).alloc) 0

/-- Slots of the basin a channel has in use: the filled ones, and the one whose read is issued (R250). -/
def Channel.slotsUsed (x : Channel) : Nat :=
  match x.running with
  | some q => q.basin.length + b2n q.reading.isSome
  | none => 0

def State.basinFree (s : State) (r : Nat) : Nat :=
  128 - (List.range 32).foldl (fun n k => n + (s.chan r k).slotsUsed) 0

/-- Host tag a requester stands for. -/
def State.ringerTag (s : State) (r : Option Ringer) : Option Nat :=
  match r with
  | some (.host t) => some t.val
  | some (.keeper id) =>
    match s.pgk.calls.find? (fun x => x.id = id) with
    | some x => match x.caller with | .host (.host t) => some t.val | _ => none
    | none => none
  | _ => none

/-- The event of a channel: its job and tag are those of the requester its descriptor is attributed to. -/
def State.dmaEvent (s : State) (src r k : Nat) : State :=
  let a := (s.chan r k).attr
  s.raise { src := src, locs := [256 + r], job := s.ringerJob a, tag := s.ringerTag a }

/-! ## Doorbells (R257, R258) -/

/-- A doorbell that is taken. -/
def State.takeBell (s : State) (r k : Nat) (who : Ringer) : State :=
  let x := s.chan r k
  match x.state with
  | .idle => s.modChan r k fun y =>
      { y with state := .running, cur := s.dmaHead r k, fetching := some false, owner := some who, running := none,
               recheck := false, failed := none }
  | .running => s.modChan r k fun y => { y with recheck := true, owner := some who }
  | .parked => s.modChan r k fun y => { y with fetching := some true, owner := some who }
  | _ => s

/-- DBELL rings a channel; a refused one is a schedule error at issue. -/
def dbellEffect (c w : Nat) (s : State) : State :=
  match s.coreJob c with
  | some j =>
    s.takeBell (fld w 52 4) (fld w 47 5) (.job ⟨c % 256, Nat.mod_lt _ (by decide)⟩ j)
  | none => s

/-- DBELL (R116, R257). -/
def execDbell (core : CoreId) (s : State) : Host.Outcome State Fault Refusal :=
  .next (s.issueSlot core .l 0x12 (dbellEffect core))

/-! ## Checks (R263, R264) -/

def crcBit (c : BitVec 32) : BitVec 32 := if c &&& 1 = 1 then (c >>> 1) ^^^ 0x82F63B78#32 else c >>> 1

def crcByte (c : BitVec 32) (b : Byte) : BitVec 32 :=
  (List.range 8).foldl (fun x _ => crcBit x) (c ^^^ b.setWidth 32)

def crcBytes (c : BitVec 32) (bs : List Byte) : BitVec 32 := bs.foldl crcByte c

/-- CRC-32C of a list of bytes (R263). -/
def crc32c (bs : List Byte) : BitVec 32 := crcBytes 0xFFFFFFFF#32 bs ^^^ 0xFFFFFFFF#32

/-- Sum of the whole 64-bit words of a list of bytes, and the bytes left over. -/
def sum64Go : Nat → BitVec 64 → List Byte → BitVec 64 × List Byte
  | 0, z, bs => (z, bs)
  | fuel + 1, z, bs =>
    if bs.length < 8 then (z, bs)
    else sum64Go fuel (z + BitVec.ofNat 64 (bytesLe (bs.take 8))) (bs.drop 8)

/-- The running check values with more bytes. -/
def Running.absorb (q : Running) (bs : List Byte) : Running :=
  let t := q.tail ++ bs
  let r := sum64Go (t.length / 8) q.sum t
  { q with crc := crcBytes q.crc bs, sum := r.1, tail := r.2 }

/-! ## Descriptor fields (R252) -/

def Running.isEnd (q : Running) : Bool := bitOf q.word0.toNat 63
def Running.sig (q : Running) : Bool := bitOf q.word0.toNat 62
def Running.nowrite (q : Running) : Bool := bitOf q.word0.toNat 58
def Running.xform (q : Running) : Nat := fld q.word0.toNat 54 4
def Running.counterNo (q : Running) : Nat := fld q.word0.toNat 32 16
def Running.len (q : Running) : Nat := fld q.word0.toNat 0 32
def Running.factor (q : Running) : Nat := 2 ^ (fld q.word0.toNat 52 2 + 1)
def Running.esize (q : Running) : Nat := 2 ^ fld q.word0.toNat 50 2

/-- Bytes of the check value, 0 for none. -/
def Running.checkSize (q : Running) : Nat := if q.xform = 1 then 4 else if q.xform = 2 then 8 else 0

/-- The check value (R263). -/
def Running.check (q : Running) : List Byte :=
  if q.xform = 1 then leBytes 4 (q.crc ^^^ 0xFFFFFFFF#32).toNat
  else leBytes 8 (q.sum + BitVec.ofNat 64 (bytesLe q.tail)).toNat

/-- Multiple that LEN must keep (Table — Reshuffle transforms). -/
def lenMultiple (w0 : Nat) : Nat :=
  match fld w0 54 4 with
  | 3 | 4 => 64
  | 5 | 6 => 2 ^ (fld w0 52 2 + 1) * 2 ^ fld w0 50 2
  | 7 => 1024
  | _ => 1

/-- The descriptor words are illegal for channel `k` (R253); `owns` says that COUNTER is the partition's. -/
def illegalDescriptor (k w0 w1 w2 w3 : Nat) (owns : Bool) : Bool :=
  let srcL := bitOf w0 61
  let dstL := bitOf w0 60
  let list := srcL || dstL
  let x := fld w0 54 4
  decide (fld w0 48 2 ≠ 0) || decide (fld w2 48 16 ≠ 0) || decide (fld w3 48 16 ≠ 0) || decide (8 ≤ x) ||
  (decide (3 ≤ x) && (decide (k < 30) || list)) || (srcL && dstL) || (list && decide (fld w0 0 32 ≠ 0)) ||
  (bitOf w0 59 && !list) ||
  (if list && !bitOf w0 59 then decide (fld w1 48 16 = 0) else decide (fld w1 48 16 ≠ 0)) ||
  (decide (fld w0 50 4 ≠ 0) && !(decide (x = 5) || decide (x = 6))) ||
  (bitOf w0 58 && (!(decide (x = 1) || decide (x = 2)) || dstL)) ||
  decide (fld w0 0 32 % lenMultiple w0 ≠ 0) || (bitOf w0 62 && !owns) ||
  (!bitOf w0 63 && decide (fld w1 0 48 % 32 ≠ 0))

/-! ## Reading descriptors and lists (R254, R255, R260) -/

/-- What a read of descriptor or list memory found. -/
inductive Got where
  /-- the read waits (R153, R171, R181) -/
  | wait
  | bytes (bs : List Byte)
  | refused
  | bad
  deriving DecidableEq, Repr

/-- Reads `n` bytes at `a` that must lie in core store or tier space of partition `p` (R255). -/
def State.readOwned (s : State) (p a n : Nat) (job : Option (PartId × Fin 16)) (tag : Option Nat) : Got × State :=
  let l := s.locateAll p a n
  if !allMem l then (.refused, s)
  else if s.readWaits l then (.wait, s)
  else
    let r := s.readPieces job tag l
    (if r.2.1 then .bad else .bytes r.1, r.2.2)

def wordAt (bs : List Byte) (k : Nat) : Nat := bytesLe ((bs.drop (8 * k)).take 8)

/-- Entries of a list, as address and length; none when one has a reserved bit. -/
def listEntries : Nat → List Byte → Option (List (Nat × Nat))
  | 0, _ => some []
  | n + 1, bs =>
    let w0 := wordAt bs 0
    let w1 := wordAt bs 1
    if fld w0 48 16 ≠ 0 ∨ fld w1 32 32 ≠ 0 then none
    else match listEntries n (bs.drop 16) with
      | none => none
      | some t => some (if fld w1 0 32 = 0 then t else (fld w0 0 48, fld w1 0 32) :: t)

/-- Stretches of a gather (bytes follow one another at `other`) or scatter. -/
def listSegs (gather : Bool) : Nat → List (Nat × Nat) → List Segment
  | _, [] => []
  | other, (a, n) :: t =>
    (if gather then { src := a, dst := other, len := n } else { src := other, dst := a, len := n }) ::
      listSegs gather (other + n) t

/-- Channel `k` of region `r` has met an error with the given cause. -/
def State.dmaFail (s : State) (r k cause : Nat) : State := s.modChan r k fun x => { x with failed := some cause }

/-- An access of the channel outside the block's address ranges, or at an unpopulated column offset, sets the address-range source
(R7, R160); no core requests it, so the event has no location (log entry 55). -/
def State.dmaOutside (s : State) (r k : Nat) (l : List Piece) : State :=
  if anyOutside l then
    let a := (s.chan r k).attr
    s.raise { src := 279, locs := [], job := s.ringerJob a, tag := s.ringerTag a }
  else s

/-- A descriptor or list word that channel `k` may not read: CAUSE 2. -/
def State.dmaRefuse (s : State) (r k p a n : Nat) : State := (s.dmaOutside r k (s.locateAll p a n)).dmaFail r k 2

/-- While a commit is in progress, DMA does not run for the partitions it changes (R465). -/
def State.dmaHeld (s : State) (r : Nat) : Bool :=
  s.commit.busy && match s.regionOwner r with
    | some p => s.commit.parts.any (· = p)
    | none => false

/-- The descriptor can issue the read of its next slot: bytes are left, none is being read, and the channel has a slot free. -/
def Channel.canRead (x : Channel) : Bool :=
  x.state = .running && x.failed.isNone && match x.running with
    | some q => !q.segs.isEmpty && q.reading.isNone && decide (q.basin.length < x.alloc)
    | none => false

/-- The read of the next slot is issued, where it can be (R250). -/
def State.dmaIssueRead (s : State) (r : RegionId) (k : ChanId) : State :=
  let x := s.chan r k
  if !x.canRead || s.dmaHeld r then s
  else match x.running, s.regionOwner r with
  | some q, some p =>
    match q.segs with
    | [] => s
    | g :: _ =>
      (s.modChan r k fun y =>
        { y with nextAcc := y.nextAcc + 1, running := some { q with reading := some y.nextAcc } }).issueReads p
        (.dma r k x.nextAcc) g.src (s.locateAll p g.src (min 4096 g.len))
  | _, _ => s

/-- The descriptor starts, with its stretches: their addresses must lie in the partition's data space (R255). -/
def State.dmaStart (s : State) (r : RegionId) (k : ChanId) (p w0 w1 w2 w3 : Nat) (segs : List Segment) : State :=
  let nowrite := bitOf w0 58
  let ps := segs.flatMap fun g => s.locateAll p g.src g.len ++ (if nowrite then [] else s.locateAll p g.dst g.len)
  if !allData ps then (s.dmaOutside r k ps).dmaFail r k 2
  else
    let dst := fld w3 0 48
    let stop := match segs.getLast? with
      | some g => g.dst + g.len
      | none => dst
    let q : Running :=
      { word0 := BitVec.ofNat 64 w0, next := fld w1 0 48, dst := dst, src := fld w2 0 48, segs := segs,
        moved := 0, snap := [], crc := 0xFFFFFFFF#32, sum := 0, tail := [], lastEnd := if nowrite then dst else stop,
        checked := false, basin := [], reading := none }
    (s.modChan r k fun x => { x with running := some q, fetching := none }).dmaIssueRead r k

/-- A descriptor with a list: its entries are read (R254). -/
def State.dmaEntries (s : State) (r : RegionId) (k : ChanId) (p w0 w1 w2 w3 n : Nat) (job : Option (PartId × Fin 16))
    (tag : Option Nat) : State :=
  let gather := bitOf w0 61
  let base := if gather then fld w2 0 48 else fld w3 0 48
  let other := if gather then fld w3 0 48 else fld w2 0 48
  if 65535 < n then s.dmaFail r k 1
  else
    let g := s.readOwned p base (16 * n) job tag
    match g.1 with
    | .wait => s
    | .refused => g.2.dmaRefuse r k p base (16 * n)
    | .bad => g.2.dmaFail r k 3
    | .bytes bs =>
      match listEntries n bs with
      | none => g.2.dmaFail r k 1
      | some es =>
        if 0xFFFFFFFF < es.foldl (fun t e => t + e.2) 0 then g.2.dmaFail r k 1
        else g.2.dmaStart r k p w0 w1 w2 w3 (listSegs gather other es)

/-- A descriptor with a list: the count that stands before it where COUNT_AT is set, then the entries. There is no address 16 below
an address less than 16. -/
def State.dmaList (s : State) (r : RegionId) (k : ChanId) (p w0 w1 w2 w3 : Nat) (job : Option (PartId × Fin 16))
    (tag : Option Nat) : State :=
  let base := if bitOf w0 61 then fld w2 0 48 else fld w3 0 48
  if base % 16 ≠ 0 then s.dmaFail r k 2
  else if !bitOf w0 59 then s.dmaEntries r k p w0 w1 w2 w3 (fld w1 48 16) job tag
  else if base = 0 then s.dmaFail r k 2
  else
    let g := s.readOwned p (base - 16) 4 job tag
    match g.1 with
    | .wait => s
    | .bytes bs => g.2.dmaEntries r k p w0 w1 w2 w3 (bytesLe bs) job tag
    | .refused => g.2.dmaRefuse r k p (base - 16) 4
    | .bad => g.2.dmaFail r k 3

/-- A whole descriptor has been read. -/
def State.dmaDescriptor (s : State) (r : RegionId) (k : ChanId) (p : Nat) (bs : List Byte)
    (job : Option (PartId × Fin 16)) (tag : Option Nat) : State :=
  let w0 := wordAt bs 0
  let w1 := wordAt bs 1
  let w2 := wordAt bs 2
  let w3 := wordAt bs 3
  if illegalDescriptor k w0 w1 w2 w3 (s.ownsRegion p (counterRegion (fld w0 32 16))) then s.dmaFail r k 1
  else if bitOf w0 61 || bitOf w0 60 then s.dmaList r k p w0 w1 w2 w3 job tag
  else
    let n := fld w0 0 32
    s.dmaStart r k p w0 w1 w2 w3 (if n = 0 then [] else [{ src := fld w2 0 48, dst := fld w3 0 48, len := n }])

/-- A reread of words 0 and 1 (R260): only END and NEXT are used. -/
def State.dmaReread (s : State) (r k : Nat) (bs : List Byte) : State :=
  let w0 := wordAt bs 0
  let next := fld (wordAt bs 1) 0 48
  if bitOf w0 63 then
    s.modChan r k fun x =>
      if x.recheck then { x with recheck := false, fetching := some true } else { x with state := .parked, fetching := none }
  else if next % 32 ≠ 0 then (s.modChan r k fun x => { x with state := .running }).dmaFail r k 1
  else s.modChan r k fun x => { x with state := .running, cur := next, fetching := some false }

/-- The channel can take the return of its descriptor read. -/
def Channel.fetchReady (x : Channel) : Bool :=
  x.fetching.isSome && x.failed.isNone && (x.state = .running || x.state = .parked)

/-- Every byte of the descriptor has been read and every write issued. -/
def Running.issued (q : Running) : Bool := q.segs.isEmpty && q.reading.isNone && q.basin.isEmpty && q.checked

/-- The channel goes on to NEXT while writes of the descriptor await responses (R260). -/
def Channel.goOn (x : Channel) : Channel :=
  match x.running with
  | some q =>
    if x.state = .running && x.failed.isNone && q.issued && !q.isEnd then
      { x with running := none, cur := q.next, fetching := some false
               finishing := x.finishing ++ [{ word0 := q.word0, cur := x.cur, attr := x.attr, upTo := x.nextAcc }] }
    else x
  | none => x

/-- The descriptor read of a channel returns. -/
def State.fetchReturn (s : State) (region : RegionId) (chan : ChanId) : State :=
  let x := s.chan region chan
  let reread := x.fetching.getD false
  let t := if reread then s else s.modChan region chan fun y => { y with attr := y.owner }
  let a := (t.chan region chan).attr
  let job := t.ringerJob a
  let tag := t.ringerTag a
  match t.regionOwner region with
  | none => t.dmaFail region chan 2
  | some p =>
    if x.cur % 32 ≠ 0 then t.dmaFail region chan 2
    else
      let g := t.readOwned p x.cur (if reread then 16 else 32) job tag
      match g.1 with
      | .wait => s
      | .refused => g.2.dmaRefuse region chan p x.cur (if reread then 16 else 32)
      | .bad => g.2.dmaFail region chan 3
      | .bytes bs =>
        if reread then g.2.dmaReread region chan bs else g.2.dmaDescriptor region chan p bs job tag

/-- DESCRIPTOR_FETCH (R252 to R255, R260): the descriptor read returns; it is checked and started, or its chain goes on. -/
def execDescriptorFetch (region : RegionId) (chan : ChanId) (s : State) : Host.Outcome State Fault Refusal :=
  .next (
    let t := s.modChan region chan Channel.goOn
    if (t.chan region chan).fetchReady && !s.dmaHeld region then t.fetchReturn region chan else s)

/-! ## Transforms (R265) -/

/-- PLANE_SPLIT of one 64-byte block. -/
def planeSplit (b : List Byte) : List Byte :=
  let nib := fun i => (b.getD (i / 2) 0).toNat / 16 ^ (i % 2) % 16
  (List.range 64).map fun o =>
    BitVec.ofNat 8 ((List.range 8).foldl (fun v m => v + (nib (8 * (o % 16) + m) / 2 ^ (o / 16) % 2) * 2 ^ m) 0)

/-- PLANE_MERGE of one 64-byte block: the inverse. -/
def planeMerge (b : List Byte) : List Byte :=
  let nib := fun i => (List.range 4).foldl
    (fun v j => v + ((b.getD (16 * j + i / 8) 0).toNat / 2 ^ (i % 8) % 2) * 2 ^ j) 0
  (List.range 64).map fun o => BitVec.ofNat 8 (nib (2 * o) + 16 * nib (2 * o + 1))

/-- TRANSPOSE of one 1,024-byte block. -/
def transpose (b : List Byte) : List Byte :=
  (List.range 1024).map fun o => b.getD (32 * (o % 32) + o / 32) 0

/-- Place in the output of input element `j` of INTERLEAVE by `f`, with `n` elements in each run. -/
def interleaved (f n j : Nat) : Nat := f * (j % n) + j / n

/-- Place in the output of input element `j` of DEINTERLEAVE. -/
def deinterleaved (f n j : Nat) : Nat := j % f * n + j / f

def blockwise (size : Nat) (f : List Byte → List Byte) (b : List Byte) : List Byte :=
  (chunksOf size (b.length / size) b).flatMap f

/-- Elements of `e` bytes of a run that starts at input element `j`, each at its place from `dst`. -/
def placed (dst e : Nat) (place : Nat → Nat) (j : Nat) (b : List Byte) : List (Nat × List Byte) :=
  let es := chunksOf e (b.length / e) b
  sortBy (fun x => Int.ofNat x.1) ((List.zip (List.range es.length) es).map fun x => (dst + e * place (j + x.1), x.2))

/-- Stretches that a slot of a reshuffle becomes: `b` holds the source bytes from byte `off`, a whole number of blocks or
elements (Table — Reshuffle transforms). -/
def Running.reshuffle (q : Running) (off : Nat) (b : List Byte) : List (Nat × List Byte) :=
  let n := q.len / (q.factor * q.esize)
  match q.xform with
  | 3 => [(q.dst + off, blockwise 64 planeSplit b)]
  | 4 => [(q.dst + off, blockwise 64 planeMerge b)]
  | 5 => placed q.dst q.esize (interleaved q.factor n) (off / q.esize) b
  | 6 => placed q.dst q.esize (deinterleaved q.factor n) (off / q.esize) b
  | _ => [(q.dst + off, blockwise 1024 transpose b)]

/-! ## Data movement (R250, R262) -/

/-- Earliest beat of the response to a write that the channel issues now: DELAY beats of TST_DMA later in a selected region, and no
earlier than that of a write delayed before it (R488, R489); 0 where nothing delays it. -/
def State.responseFrom (s : State) (r k : Nat) : Nat :=
  let v := s.regN 0x1F00038
  (s.chan r k).delayed.foldl (fun m e => max m e.2) (if bitOf v r && decide (fld v 16 12 ≠ 0) then s.now + fld v 16 12 else 0)

/-- One filled slot leaves the basin as a write, unless 256 writes await a response. -/
def State.dmaDrainOne (s : State) (r : RegionId) (k : ChanId) : State :=
  let x := s.chan r k
  match x.running, s.regionOwner r with
  | some q, some p =>
    match q.basin with
    | [] => s
    | w :: rest =>
      if 256 ≤ x.writes.length ∨ s.dmaHeld r = true then s
      else
        State.each w (fun g t => t.issueWrites p (.dma r k x.nextAcc) g.1 (t.locateAll p g.1 g.2.length) g.2)
          (s.modChan r k fun y =>
            { y with nextAcc := y.nextAcc + 1, writes := y.writes ++ [(y.nextAcc, w)]
                     delayed := if s.responseFrom r k = 0 then y.delayed else y.delayed ++ [(y.nextAcc, s.responseFrom r k)]
                     running := some { q with basin := rest } })
  | _, _ => s

/-- When every byte has been read and a slot is free, the check value fills it (R264). -/
def State.dmaCheckValue (s : State) (r : RegionId) (k : ChanId) : State :=
  let x := s.chan r k
  match x.running with
  | none => s
  | some q =>
    if !q.segs.isEmpty || q.reading.isSome || q.checked || x.failed.isSome then s
    else
      let size := q.checkSize
      if size = 0 then s.modChan r k fun y => { y with running := some { q with checked := true } }
      else
        let l := match s.regionOwner r with | some p => s.locateAll p q.lastEnd size | none => []
        if q.lastEnd % size ≠ 0 then s.dmaFail r k 2
        else if l.isEmpty || !allData l then (s.dmaOutside r k l).dmaFail r k 2
        else if x.alloc ≤ q.basin.length then s
        else s.modChan r k fun y =>
          { y with running := some { q with basin := q.basin ++ [[(q.lastEnd, q.check)]], checked := true } }

/-- The engines go on with the channel: filled slots leave, the check value follows the last byte, and the next read is issued. -/
def State.dmaGo (s : State) (r : RegionId) (k : ChanId) : State :=
  let t := (s.dmaDrainOne r k).dmaCheckValue r k
  (t.dmaDrainOne r k).dmaIssueRead r k

/-- The channel waits for read data. -/
def Channel.readReady (x : Channel) : Bool :=
  x.state = .running && x.failed.isNone && match x.running with
    | some q => !q.segs.isEmpty && q.reading.isSome
    | none => false

/-- A keeper's copy reads the old page as it stood when it started; of a word written since, it reads either value (R205). -/
def Running.asStood (q : Running) (draws src : Nat) (bs : List Byte) : List Byte :=
  if src < q.src || q.snap.isEmpty then bs
  else
    let old := q.snap.drop (src - q.src)
    (List.zip (List.range bs.length) bs).map fun p =>
      if Config.raceRead draws ((src - q.src + p.1) / 8) then old.getD p.1 p.2 else p.2

/-- The bytes of a slot enter the basin. -/
def State.dmaLand (s : State) (r : RegionId) (k : ChanId) (q : Running) (g : Segment) (n : Nat) (bs : List Byte) : State :=
  let rest := match q.segs with
    | [] => []
    | _ :: t => if n < g.len then { src := g.src + n, dst := g.dst + n, len := g.len - n } :: t else t
  let slot := if q.nowrite then [] else [if 3 ≤ q.xform then q.reshuffle q.moved bs else [(g.dst, bs)]]
  let q := { q.absorb bs with segs := rest, reading := none, moved := q.moved + n, basin := q.basin ++ slot }
  (s.modChan r k fun y => { y with running := some q }).dmaGo r k

/-- DMA_READ_RETURN (R250): the data of the next slot returns, is checked and transformed, and the write engine takes it. -/
def execDmaReadReturn (region : RegionId) (chan : ChanId) (s : State) : Host.Outcome State Fault Refusal :=
  .next (
    let x := s.chan region chan
    if !x.readReady || s.dmaHeld region then s
    else match x.running, s.regionOwner region with
    | some q, some p =>
      match q.segs with
      | [] => s
      | g :: _ =>
        let n := min 4096 g.len
        let l := s.locateAll p g.src n
        let who := Issuer.dma region chan (q.reading.getD 0)
        if s.readWaits l || !s.answered who then s
        else if !allData l then ((s.dropAccesses who).dmaOutside region chan l).dmaFail region chan 2
        else if s.failedAccess who then (s.dropAccesses who).dmaFail region chan 4
        else
          let d := s.readPieces (s.ringerJob x.attr) (s.ringerTag x.attr) l
          let bs := q.asStood s.draws g.src (mergeData l d.1 (s.answerData who))
          let t := (d.2.2.dropAccesses who).drawn
          if d.2.1 then t.dmaFail region chan 3
          else if (t.chan region chan).state = .running then t.dmaLand region chan q g n bs
          else t
    | _, _ => s)

/-- Pieces of each stretch of a write. -/
def State.writeAt (s : State) (r : Nat) (w : List (Nat × List Byte)) : List Piece :=
  match s.regionOwner r with
  | some p => w.flatMap fun g => s.locateAll p g.1 g.2.length
  | none => []

/-- A write of the channel that can take its response now. -/
def State.dmaWriteReady (s : State) (r : RegionId) (k : ChanId) (w : Nat × List (Nat × List Byte)) : Bool :=
  !s.waitsFor (s.writeAt r w.2) && s.answered (.dma r k w.1) &&
    (s.chan r k).delayed.all fun e => e.1 ≠ w.1 || decide (e.2 ≤ s.now)

/-- DMA_WRITE_RESPONSE (R262, R266): a write is complete, or answers with an error. -/
def execDmaWriteResponse (region : RegionId) (chan : ChanId) (s : State) : Host.Outcome State Fault Refusal :=
  .next (
    let x := s.chan region chan
    match x.writes.find? (s.dmaWriteReady region chan) with
    | none => s
    | some w =>
      let who := Issuer.dma region chan w.1
      let a := x.attrOf w.1
      let l := s.writeAt region w.2
      let ok := allData l && !l.isEmpty
      let t := s.modChan region chan fun y =>
        { y with writes := y.writes.filter fun v => !(v.1 = w.1), delayed := y.delayed.filter fun e => !(e.1 = w.1) }
      let t := if !ok then (t.dmaOutside region chan l).failDescriptor region chan w.1 2
        else if s.failedAccess who then t.failDescriptor region chan w.1 4
        else t
      let d := if ok then t.writePieces (s.ringerJob a) (s.ringerTag a) l (w.2.flatMap (·.2)) else (t, false)
      -- an error of the write itself: the descriptor fails with CAUSE 4, though the job's stop has halted the channel
      let t := if d.2 then
          (if x.state = .running || x.state = .parked then
            (d.1.modChan region chan fun y => { y with state := x.state, cause := x.cause, running := x.running, finishing := x.finishing }).failDescriptor
              region chan w.1 4
           else d.1)
        else d.1
      (t.dropAccesses who).dmaGo region chan)

/-- Every write of the descriptor has its response (R262). -/
def Channel.complete (x : Channel) : Bool :=
  x.state = .running && x.failed.isNone && x.writes.isEmpty && x.finishing.isEmpty && match x.running with
    | some q => q.issued
    | none => false

/-- Every write of the oldest descriptor that the channel has gone on from has its response. -/
def Channel.earlierComplete (x : Channel) : Option Finishing :=
  match x.finishing with
  | f :: _ => if x.writes.all fun w => decide (f.upTo ≤ w.1) then some f else none
  | [] => none

/-- End of a descriptor: on to NEXT, a reread, or parked (R260). -/
def Channel.advance (x : Channel) : Channel :=
  match x.running with
  | none => x
  | some q =>
    let y := { x with running := none, done := x.done + 1 }
    if !q.isEnd then { y with cur := q.next, fetching := some false }
    else if x.recheck then { y with recheck := false, fetching := some true }
    else { y with state := .parked, fetching := none }

/-- The addition that a completed descriptor asks for. -/
def State.dmaSignal (s : State) (r : RegionId) (word0 : BitVec 64) (attr : Option Ringer) : State :=
  if bitOf word0.toNat 62 then
    let c := fld word0.toNat 32 16
    s.sendSync (.add (s.arriveBeat r (counterRegion c)) c 1 (.dma (s.ringerJob attr)))
  else s

/-- DESCRIPTOR_COMPLETE (R260, R262): the oldest descriptor that is complete makes its addition, and the channel moves on. Of a copy
the keeper observes the completion itself. -/
def execDescriptorComplete (region : RegionId) (chan : ChanId) (s : State) : Host.Outcome State Fault Refusal :=
  .next (
    let t := s.dmaGo region chan
    let x := t.chan region chan
    match x.earlierComplete with
    | some f =>
      (t.dmaSignal region f.word0 f.attr).modChan region chan fun y =>
        { y with finishing := y.finishing.tail, done := y.done + 1 }
    | none =>
      if !x.complete || s.dmaHeld region then t
      else match x.running, x.attr with
      | _, some (.keeper _) => t
      | some q, a => (t.dmaSignal region q.word0 a).modChan region chan Channel.advance
      | none, _ => t)

/-- Answered accesses that no read or write of the channel waits for are forgotten. -/
def State.dmaSweep (s : State) (r : RegionId) (k : ChanId) : State :=
  State.each (List.range (s.chan r k).nextAcc) (fun n t => t.forgetAccess (.dma r k n)) s

/-- DESCRIPTOR_ERROR (R266): the channel halts with its cause, the source is set, the attributed job is stopped. Earlier descriptors
complete as their writes respond. -/
def execDescriptorError (region : RegionId) (chan : ChanId) (s : State) : Host.Outcome State Fault Refusal :=
  .next (
    let x := s.chan region chan
    match x.failed with
    | none => s
    | some cause =>
      let t := (s.modChan region chan fun y =>
        { y with state := .halted, cause := cause, failed := none, fetching := none, running := none, recheck := false }).dmaSweep
          region chan
      if cause = 3 then t else t.dmaEvent 296 region chan)

/-! ## Abort (R268) -/

/-- ABORT written to a channel: descriptors already complete make their additions. -/
def State.abortChan (s : State) (r : RegionId) (k : ChanId) : State :=
  let x := s.chan r k
  if x.state = .running ∨ x.state = .parked ∨ x.state = .halted then
    let done := x.finishing.takeWhile fun f => x.writes.all fun w => decide (f.upTo ≤ w.1)
    let t := State.each done (fun f u => u.dmaSignal r f.word0 f.attr) s
    let t := if x.complete then (match x.running with | some q => t.dmaSignal r q.word0 x.attr | none => t) else t
    (t.modChan r k fun y =>
      { y with state := .draining, fetching := none, running := none, finishing := [], failed := none
               done := y.done + BitVec.ofNat 32 (done.length + b2n x.complete) }).dmaSweep r k
  else s

/-- DMA_DRAIN_END (R268): the issued writes have responded. -/
def execDmaDrainEnd (region : RegionId) (chan : ChanId) (s : State) : Host.Outcome State Fault Refusal :=
  .next (
    let x := s.chan region chan
    if x.state = .draining && x.writes.isEmpty then
      s.modChan region chan fun y => { y with state := .idle, recheck := false, cause := 7 }
    else s)

/-- ALLOC written to a channel: none when it is refused (R249, R269). -/
def State.writeAlloc (s : State) (r k n : Nat) : Option State :=
  let x := s.chan r k
  if n = 1 ∨ 64 < n ∨ 128 < s.allocated r - x.alloc + n ∨ s.keeperHolds r k ∨ !(x.state = .off ∨ x.state = .idle) then none
  else some (s.modChan r k fun y => { y with alloc := n, state := if n = 0 then .off else .idle })

end Sys2Proof.Machine
end

