-- ==== Sys2Proof/Machine/Keeper.lean ====
section
/-! DEFINITION. The page keeper: page tables, calls, copies, enabling and disabling (chapter 07, R191 to R212). Entries stand in
memory; the keeper's entry cache is not visible, because an enabled table's entries belong to it (R193).

Marks: DEDUCED (log entry 27), DESIGN CHOICE (log entry 64). -/

namespace Sys2Proof.Machine

def pageNone : Nat := 0xFFFFFFFF

/-- The table that calls of partition `p` are served on. -/
def State.table (s : State) (p : Nat) : PgkTable := (s.keeper p).table

/-- The keeper serves calls on the table. -/
def State.tableUp (s : State) (p : Nat) : Bool := (s.keeper p).ready && !(s.keeper p).broken && !s.shut

def State.entryAddr (s : State) (p pn : Nat) : Nat := (s.table p).base + 16 * pn
def State.summaryAddr (s : State) (p pn : Nat) : Nat := (s.table p).sums + 64 * pn

/-! ## Entries (R192, R194) -/

structure PageEntry where
  addr  : Nat
  next  : Nat
  lease : Nat
  ref   : Nat
  deriving DecidableEq, Repr

/-- State of a page, which follows from its counts: 0 FREE, 1 OWNED, 2 SHARED, 3 FREE_PENDING. -/
def PageEntry.state (e : PageEntry) : Nat :=
  if e.ref = 0 then (if e.lease = 0 then 0 else 3) else if e.ref = 1 then 1 else 2

def PageEntry.bytes (e : PageEntry) : List Byte :=
  leBytes 8 (e.state * 2 ^ 56 + e.addr) ++ leBytes 8 (e.next * 2 ^ 32 + e.lease * 2 ^ 16 + e.ref)

def entryOf (bs : List Byte) : PageEntry :=
  let w0 := wordAt bs 0
  let w1 := wordAt bs 1
  { addr := fld w0 0 48, next := fld w1 32 32, lease := fld w1 16 16, ref := fld w1 0 16 }

/-- An uncorrectable error on an entry breaks the table and stops the caller's job (R207): no further call is served. -/
def State.breakTable (s : State) (p : Nat) (job : Option (PartId × Fin 16)) : State :=
  (s.modKeeper p fun x => { x with broken := true, ready := false }).raise { src := 298, locs := [], job := job, tag := some p }

/-- Reads entry `pn`; none at an uncorrectable word. -/
def State.readEntry (s : State) (p pn : Nat) (job : Option (PartId × Fin 16)) : Option PageEntry × State :=
  let g := s.readOwned p (s.entryAddr p pn) 16 job (some p)
  match g.1 with
  | .bytes bs => (some (entryOf bs), g.2)
  | _ => (none, g.2.breakTable p job)

/-- Writes bytes at an address of the partition: the state, and whether the write completed in error. -/
def State.putOwned (s : State) (p a : Nat) (bs : List Byte) (job : Option (PartId × Fin 16)) : State × Bool :=
  s.writePieces job (some p) (s.locateAll p a bs.length) bs

/-- Writes entry `pn` back. -/
def State.writeEntry (s : State) (p pn : Nat) (e : PageEntry) (job : Option (PartId × Fin 16)) : State :=
  let r := s.putOwned p (s.entryAddr p pn) e.bytes job
  if r.2 then r.1.breakTable p job else r.1

/-- Page `pn` becomes FREE at the head of the free list (R200). -/
def State.pushFree (s : State) (p pn addr : Nat) (job : Option (PartId × Fin 16)) : State :=
  let x := s.keeper p
  (s.writeEntry p pn { addr := addr, next := x.freeHead.toNat, lease := 0, ref := 0 } job).modKeeper p fun y =>
    { y with freeHead := w32 pn, freeCount := y.freeCount + 1 }

/-- Takes the head of the free list: its number and entry (R200). -/
def State.popFree (s : State) (p : Nat) (job : Option (PartId × Fin 16)) : Option (Nat × PageEntry) × State :=
  let h := (s.keeper p).freeHead.toNat
  if h = pageNone then (none, s)
  else
    let r := s.readEntry p h job
    match r.1 with
    | none => (none, r.2)
    | some e => (some (h, e), r.2.modKeeper p fun y => { y with freeHead := w32 e.next, freeCount := y.freeCount - 1 })

/-- The empty summary (R199). -/
def emptySummary : List Byte := (List.range 32).flatMap fun _ => [0x7E, 0xFE]

/-! ## Calls (R195 to R202, R208) -/

def PgkCall.job (x : PgkCall) : Option (PartId × Fin 16) :=
  match x.caller with
  | .core _ _ _ j => some j
  | .host _ => none

/-- Order of the requesters of one beat: cores 0 to 255, then the host paths, then the side-band (R201). -/
def PgkCall.rank (x : PgkCall) : Nat :=
  match x.caller with
  | .core c _ _ _ => c.val
  | .host (.host t) => 256 + t.val
  | .host .side => 264

/-- Call `y` is taken before `x`: it reached the keeper in an earlier beat, or in the same beat from an earlier requester, or before
it from the same one. -/
def PgkCall.before (y x : PgkCall) : Bool :=
  decide (y.beat < x.beat) ||
    (decide (y.beat = x.beat) && (decide (y.rank < x.rank) || (decide (y.rank = x.rank) && decide (y.id < x.id))))

/-- The call waits: the beat in which it reached the keeper is not over, or a call on the same page that is taken before it is
unfinished (R201). -/
def State.callBehind (s : State) (x : PgkCall) : Bool :=
  decide (s.now ≤ x.beat) ||
    s.pgk.calls.any fun y => y.before x && y.part = x.part && y.pn = x.pn && decide (x.pn.toNat ≠ pageNone)

def State.modCall (s : State) (id : Nat) (f : PgkCall → PgkCall) : State :=
  s.setPgk { s.pgk with calls := s.pgk.calls.map fun x => if x.id = id then f x else x }

/-- Memory that a call reads or writes: its page's entry and summary, and those of the free list's head. -/
def State.callPieces (s : State) (x : PgkCall) : List Piece :=
  let p := x.part.val
  let at' := fun (n : Nat) => s.locateAll p (s.entryAddr p n) 16 ++ s.locateAll p (s.summaryAddr p n) 64
  let h := (s.keeper p).freeHead.toNat
  (if x.pn.toNat < (s.table p).count then at' x.pn.toNat else []) ++ (if h = pageNone then [] else at' h)

/-- The entry that call `x` names, where the table serves it. -/
def State.namedEntry (s : State) (x : PgkCall) : Option PageEntry × State :=
  if x.down || !s.tableUp x.part || decide ((s.table x.part).count ≤ x.pn.toNat) then (none, s)
  else s.readEntry x.part x.pn.toNat x.job

/-- The call is a WRITE_INTENT that must copy: it names a SHARED page, a page is free, and the copy channel has an allocation
(R198). -/
def State.copies (s : State) (x : PgkCall) : Option PageEntry :=
  if x.op ≠ .writeIntent || x.copied || decide (x.pn.toNat = pageNone) then none
  else match (s.namedEntry x).1 with
    | some e =>
      if e.state ≠ 2 || decide ((s.keeper x.part).freeHead.toNat = pageNone) ||
          decide ((s.chan (s.table x.part).region (s.table x.part).chan).alloc = 0) then none
      else some e
    | none => none

/-- The copy channel is free for a copy: the keeper runs one at a time, and starts the channel again after a copy that failed. -/
def Channel.freeForCopy (x : Channel) : Bool :=
  x.running.isNone && x.fetching.isNone && x.failed.isNone && x.finishing.isEmpty && x.writes.isEmpty &&
    (x.state = .idle || x.state = .parked || x.state = .halted)

/-- The keeper's descriptor for a copy: the page, then its summary (R198, R205). It stands where only the keeper sees it, so its
address in DMA_CH_CUR is open. -/
def State.startDescriptor (s : State) (x : PgkCall) (old new : PageEntry) (pn : Nat) : State :=
  let p := x.part.val
  let g := s.table p
  let r : RegionId := ⟨g.region % 16, Nat.mod_lt _ (by decide)⟩
  let k : ChanId := ⟨g.chan % 32, Nat.mod_lt _ (by decide)⟩
  let l := s.locateAll p old.addr g.size
  let q : Running :=
    { word0 := BitVec.ofNat 64 (2 ^ 63 + g.size + 64), next := 0, dst := new.addr, src := old.addr
      segs := [{ src := old.addr, dst := new.addr, len := g.size },
               { src := s.summaryAddr p x.pn.toNat, dst := s.summaryAddr p pn, len := 64 }]
      moved := 0, snap := if allMem l then (s.readPieces none none l).1 else []
      crc := 0, sum := 0, tail := [], lastEnd := 0, checked := false, basin := [], reading := none }
  let ps := l ++ s.locateAll p new.addr g.size
  let t := (s.modChan r k fun y =>
    { y with state := .running, running := some q, attr := some (.keeper x.id), fetching := none, recheck := false
             cur := Config.freeNat s.draws % 2 ^ 43 * 32 }).drawn
  if allData ps then t.dmaIssueRead r k else (t.dmaOutside r k ps).dmaFail r k 2

/-- A WRITE_INTENT that must copy and stands first on its page starts its copy when the copy channel is free (R198, R201). -/
def State.startCopy (s : State) (x : PgkCall) : State :=
  if x.copyTo.isSome || s.callBehind x || s.readWaits (s.callPieces x) then s
  else match s.copies x with
    | none => s
    | some e =>
      let g := s.table x.part
      if !(s.chan g.region g.chan).freeForCopy || s.readWaits (s.locateAll x.part e.addr g.size) then s
      else
        let r := s.namedEntry x
        let f := r.2.popFree x.part x.job
        match f.1 with
        | none => s
        | some (pn, new) => (f.2.modCall x.id fun y => { y with copyTo := some pn }).startDescriptor x e new pn

/-- Calls in the order in which the keeper takes them. -/
def insertCall (x : PgkCall) : List PgkCall → List PgkCall
  | [] => [x]
  | y :: t => if x.before y then x :: y :: t else y :: insertCall x t

/-- Every call that can start its copy does. -/
def State.startCopies (s : State) : State :=
  State.each (s.pgk.calls.foldl (fun l x => insertCall x l) []) (fun x t => t.startCopy x) s

/-- A call reaches the keeper. -/
def State.newCall (s : State) (part : PartId) (op : PgkOp) (pn : BitVec 32) (n : Nat) (caller : Caller) : State :=
  let x : PgkCall := { id := s.pgk.nextId, part := part, op := op, pn := pn, n := if n = 0 then 1 else n, caller := caller
                       beat := s.now, copyTo := none, copied := false
                       down := !s.tableUp part || (s.keeper part).closing }
  s.setPgk { s.pgk with calls := s.pgk.calls ++ [x], nextId := x.id + 1 }

def subOp : Nat → PgkOp
  | 0 => .pin
  | 1 => .unpin
  | 2 => .share
  | 3 => .writeIntent
  | _ => .free

/-- PGK: the call goes to the keeper and counts on its flag. -/
def pgkEffect (c w : Nat) (s : State) : State :=
  match s.coreJob c with
  | none => s
  | some j =>
    let dest := fld w 42 5
    let flag := fld w 50 6
    let t := s.newOp c flag (.pgk s.pgk.nextId dest) false
    t.newCall j.1 (subOp (fld w 47 3)) (BitVec.ofNat 32 (s.readS c (fld w 37 5)).toNat) ((s.readS c (fld w 32 5)).toNat % 65536)
      (.core ⟨c % 256, Nat.mod_lt _ (by decide)⟩ flag dest j)

/-- A page-keeper slot command: the L slot holds PGK with the given sub-operation. -/
def State.pgkSlot (s : State) (c sub : Nat) : State :=
  if fld ((s.settle c).slotWord c .l) 47 3 = sub then s.issueSlot c .l 0x11 (pgkEffect c) else s

/-- PIN (R197). -/
def execPin (core : CoreId) (s : State) : Host.Outcome State Fault Refusal := .next (s.pgkSlot core 0)
/-- UNPIN (R197). -/
def execUnpin (core : CoreId) (s : State) : Host.Outcome State Fault Refusal := .next (s.pgkSlot core 1)
/-- SHARE (R197). -/
def execShare (core : CoreId) (s : State) : Host.Outcome State Fault Refusal := .next (s.pgkSlot core 2)
/-- WRITE_INTENT (R197 to R199). -/
def execWriteIntent (core : CoreId) (s : State) : Host.Outcome State Fault Refusal := .next (s.pgkSlot core 3)
/-- FREE (R197). -/
def execFree (core : CoreId) (s : State) : Host.Outcome State Fault Refusal := .next (s.pgkSlot core 4)

/-! ## Outcome of a call -/

/-- Result word of a call (R195). -/
def callResult (status : Nat) (copied : Bool) (state ref pn : Nat) : BitVec 64 :=
  BitVec.ofNat 64 (status * 2 ^ 60 + b2n copied * 2 ^ 59 + state * 2 ^ 56 + ref * 2 ^ 32 + pn)

/-- STATUS of a call on entry `e`, for the operations that change counts alone (Table — Page operations). -/
def opStatus (op : PgkOp) (e : PageEntry) (n : Nat) : Nat :=
  let held := decide (1 ≤ e.ref)
  match op with
  | .query => 0
  | .pin => if !held then 1 else if 0xFFFF < e.lease + n then 4 else 0
  | .unpin => if e.lease < n then 3 else 0
  | .share => if !held then 1 else if 0xFFFF < e.ref + n then 4 else 0
  | .writeIntent => if held then 0 else 1
  | .free => if held then 0 else 1

/-- Counts after a call that takes effect. -/
def opEntry (op : PgkOp) (e : PageEntry) (n : Nat) : PageEntry :=
  match op with
  | .pin => { e with lease := e.lease + n }
  | .unpin => { e with lease := e.lease - n }
  | .share => { e with ref := e.ref + n }
  | .free => { e with ref := e.ref - 1 }
  | _ => e

/-- Entry `pn` takes new counts; a page whose last count falls goes to the head of the free list (R194, R200). -/
def State.updateEntry (s : State) (p pn : Nat) (old new : PageEntry) (job : Option (PartId × Fin 16)) : State :=
  if new = old then s
  else if new.state = 0 then s.pushFree p pn new.addr job
  else s.writeEntry p pn { new with next := 0 } job

/-- A result, unless an uncorrectable error on an entry has broken the table on the way: that stops the caller's job. -/
def State.unbroken (s : State) (p : Nat) (v : BitVec 64) : Option (BitVec 64) := if (s.keeper p).broken then none else some v

/-- A WRITE_INTENT that names NONE (R199). -/
def State.allocate (s : State) (x : PgkCall) : Option (BitVec 64) × Nat × State :=
  let p := x.part.val
  let f := s.popFree p x.job
  match f.1 with
  | some (q, e) =>
    let t := f.2.writeEntry p q { e with next := 0, lease := 0, ref := 1 } x.job
    let t := (t.putOwned p (t.summaryAddr p q) emptySummary x.job).1
    (t.unbroken p (callResult 0 false 1 1 q), 0, t)
  | none =>
    if (f.2.keeper p).broken then (none, 0, f.2)
    else (some (callResult 2 false 0 0 x.pn.toNat), 0, f.2.raise { src := 297, locs := [], job := x.job, tag := some p })

/-- The call takes effect: its result and the state. The result is none where an error stopped the caller's job. A WRITE_INTENT on a
SHARED page that cannot copy reports NOSPACE before COPY_DOWN: the spec gives no order (log entry 64). -/
def State.runCall (s : State) (x : PgkCall) : Option (BitVec 64) × Nat × State :=
  let p := x.part.val
  let pn := x.pn.toNat
  if x.copied then (some (callResult 0 true 1 1 (x.copyTo.getD 0)), 0, s)
  else if x.down || !s.tableUp p then (some (callResult 6 false 0 0 pn), 0, s)
  else if pn = pageNone ∧ x.op = .writeIntent then s.allocate x
  else if (s.table p).count ≤ pn then (some (callResult 5 false 0 0 pn), 0, s)
  else
    let r := s.readEntry p pn x.job
    match r.1 with
    | none => (none, 0, r.2)
    | some e =>
      let t := r.2
      if x.op = .writeIntent ∧ e.state = 2 then
        if (t.keeper p).freeHead.toNat = pageNone then
          (some (callResult 2 false e.state e.ref pn), e.lease,
           t.raise { src := 297, locs := [], job := x.job, tag := some p })
        else if (t.chan (t.table p).region (t.table p).chan).alloc = 0 then (some (callResult 7 false e.state e.ref pn), e.lease, t)
        else (none, 0, (t.popFree p x.job).2)
      else
        let st := opStatus x.op e x.n
        if st ≠ 0 then (some (callResult st false e.state e.ref pn), e.lease, t)
        else
          let n := opEntry x.op e x.n
          let u := t.updateEntry p pn e n x.job
          (u.unbroken p (callResult 0 false n.state n.ref pn), n.lease, u)

/-- The copy of a call is in progress. -/
def PgkCall.copying (x : PgkCall) : Bool := x.copyTo.isSome && !x.copied

/-- The call leaves the keeper. -/
def State.dropCall (s : State) (id : Nat) : State :=
  s.setPgk { s.pgk with calls := s.pgk.calls.filter fun y => !(y.id = id) }

/-- The result reaches the caller: Sd and the landing flag of a core, or the result registers of the host (R195, R208). A host call
that ends without a result, at an uncorrectable entry or a failed copy, clears CALL_BUSY and leaves the result registers as they
were: the spec states no result (log entry 64). -/
def State.answerCall (s : State) (x : PgkCall) (res : Option (BitVec 64)) (lease : Nat) : State :=
  match x.caller with
  | .core c _ dest _ =>
    match (s.core c).ops.find? fun o => o.kind = .pgk x.id dest with
    | none => s
    | some o =>
      let keep := !o.dirty.isEmpty && Config.raceRead s.draws dest
      let t := match res with
        | some v => if o.live && !keep then s.modCore c fun y => y.putS dest v else s
        | none => s
      (t.drawn).completeOp c o.id
  | .host _ =>
    let p := x.part.val
    let t := s.modKeeper p fun y => { y with callBusy := false }
    match res with
    | none => t
    | some v =>
      let u := (t.putReg (pgkReg p 0x30) (v.toNat % 2 ^ 32)).putReg (pgkReg p 0x34) (v.toNat / 2 ^ 32)
      if x.op = .query then u.putReg (pgkReg p 0x38) lease else u

def State.countRefused (s : State) (p : Nat) (res : Option (BitVec 64)) : State :=
  match res with
  | some v => if v.toNat / 2 ^ 60 = 0 then s else s.putReg (pgkReg p 0x3C) (satInc (s.regN (pgkReg p 0x3C)) 0xFFFFFFFF)
  | none => s

def State.call (s : State) (id : Nat) : Option PgkCall := s.pgk.calls.find? fun x => x.id = id

/-- The call waits for its copy: it must copy, and the free list's head can be read. -/
def State.awaitsCopy (s : State) (x : PgkCall) : Bool :=
  (s.copies x).isSome && (((s.namedEntry x).2.popFree x.part x.job).1).isSome

/-- PGK_CALL_COMPLETE (R206, R83, R195 to R201): the call takes effect, its result is written, the flag is decremented. -/
def execPgkCallComplete (call : Nat) (s : State) : Host.Outcome State Fault Refusal :=
  .next (
    let t := s.startCopies
    match t.call call with
    | none => t
    | some x =>
      if x.copying || t.callBehind x || t.awaitsCopy x || (!x.copied && t.readWaits (t.callPieces x)) then t
      else
        let r := t.runCall x
        (((r.2.2.dropCall call).answerCall x r.1 r.2.1).countRefused x.part r.1).startCopies)

/-- The copy ends without its effect: the new page returns to the free list and the call completes (R206). -/
def State.failCopy (s : State) (x : PgkCall) (pn : Nat) : State :=
  let g := s.readEntry x.part pn x.job
  let t := match g.1 with
    | some e => g.2.pushFree x.part pn e.addr x.job
    | none => g.2
  ((t.dropCall x.id).answerCall x none 0).startCopies

/-- The new page is OWNED and the old one has a holder less (R198). -/
def State.endCopy (s : State) (x : PgkCall) (pn : Nat) : State :=
  let p := x.part.val
  let o := s.readEntry p x.pn.toNat x.job
  let n := o.2.readEntry p pn x.job
  match o.1, n.1 with
  | some old, some new =>
    let t := n.2.writeEntry p pn { new with next := 0, lease := 0, ref := 1 } x.job
    let t := t.writeEntry p x.pn.toNat { old with ref := old.ref - 1 } x.job
    if (t.keeper p).broken then t.failCopy x pn else t.modCall x.id fun y => { y with copied := true }
  | _, _ => n.2.failCopy x pn

/-- PAGE_COPY_COMPLETE (R198, R205, R206): the keeper observes the end of its descriptor on the copy channel. A copy whose channel has
been halted, by an error or by the stop of the caller's job, fails once its writes have responded. -/
def execPageCopyComplete (call : Nat) (s : State) : Host.Outcome State Fault Refusal :=
  .next (match s.call call with
    | none => s
    | some x =>
      match x.copyTo with
      | none => s
      | some pn =>
        let g := s.table x.part
        let r : RegionId := ⟨g.region % 16, Nat.mod_lt _ (by decide)⟩
        let k : ChanId := ⟨g.chan % 32, Nat.mod_lt _ (by decide)⟩
        if x.copied || s.readWaits (s.callPieces x) then s
        else
          let t := s.dmaGo r k
          let y := t.chan r k
          if y.attr = some (.keeper call) && y.complete then (t.modChan r k Channel.advance).endCopy x pn
          else if y.running.isNone && y.failed.isNone && y.writes.isEmpty then s.failCopy x pn
          else t)

/-! ## Enabling and disabling (R209, R210) -/

/-- A piece lies in a tier window of the partition, whether or not its column can be reached (R209). -/
def Site.inTiers : Site → Bool
  | .mem a => decide (a < storeBase)
  | .unavailable => true
  | _ => false

/-- An array of `n` bytes is aligned to 4 KiB and lies inside the partition's tier windows. -/
def State.arrayOk (s : State) (p a n : Nat) : Bool :=
  decide (a % 4096 = 0) && decide (a + n ≤ 0x20000000000) && (s.locateAll p a n).all fun q => q.1.inTiers

/-- The configuration is legal (R209). -/
def State.keeperConfigOk (s : State) (p : Nat) : Bool :=
  let g := s.regTable p
  decide (fld (s.regN (pgkReg p 0)) 1 2 ≠ 3) && decide (1 ≤ g.count) && decide (g.count ≤ 67108864) &&
  s.arrayOk p g.base (16 * g.count) && s.arrayOk p g.sums (64 * g.count) && s.ownsRegion p g.region

/-- ADDR of an entry names a page of the partition's tier windows or peer windows. -/
def State.pageAddrOk (s : State) (p a : Nat) : Bool :=
  let size := (s.table p).size
  decide (a % size = 0) && (s.locateAll p a size).all fun q => q.1.inTiers || (match q.1 with | .peer _ => true | _ => false)

/-- Counts of an entry keep R194: its STATE field is the one its counts give. -/
def entryConsistent (bs : List Byte) : Bool := decide (fld (wordAt bs 0) 56 3 = (entryOf bs).state)

/-- Result of the scan's pass over entry `pn`: the entry, or why it fails. -/
def State.scanEntry (s : State) (p pn : Nat) (keep : Bool) : Option (Option PageEntry) × State :=
  let g := s.readOwned p (s.entryAddr p pn) 16 none (some p)
  match g.1 with
  | .bytes bs =>
    let e := entryOf bs
    (some (if s.pageAddrOk p e.addr && (!keep || entryConsistent bs) then some e else none), g.2)
  | _ => (none, g.2)

/-- First failing entry, an uncorrectable word, or success, from entry `i` for `fuel` entries. -/
inductive ScanEnd where
  | ok
  | failed (pn : Nat)
  | broken
  deriving DecidableEq, Repr

def State.scanGo (p : Nat) (keep : Bool) : Nat → Nat → State → ScanEnd × State
  | 0, _, s => (.ok, s)
  | fuel + 1, i, s =>
    let r := s.scanEntry p i keep
    match r.1 with
    | some (some _) => State.scanGo p keep fuel (i + 1) r.2
    | some none => (.failed i, r.2)
    | none => (.broken, r.2)

/-- Entries `fuel - 1` down to 0 are rewritten, and the FREE ones linked in ascending order. -/
def State.linkGo (p : Nat) (keep : Bool) : Nat → State → State
  | 0, s => s
  | fuel + 1, s =>
    let g := s.readOwned p (s.entryAddr p fuel) 16 none (some p)
    match g.1 with
    | .bytes bs =>
      let e := if keep then entryOf bs else { entryOf bs with lease := 0, ref := 0 }
      State.linkGo p keep fuel (if e.state = 0 then g.2.pushFree p fuel e.addr none else g.2.writeEntry p fuel { e with next := 0 } none)
    | _ => State.linkGo p keep fuel g.2

/-- EN reads `v`. -/
def State.setPgkEn (s : State) (p : Nat) (v : Bool) : State :=
  s.putReg (pgkReg p 0) (setFld (s.regN (pgkReg p 0)) 0 1 (b2n v))

/-- Write of PGK_CTRL: none when it completes with an error response. PSIZE and KEEP stand still while EN or SCANNING is 1; a write
that would change them then changes nothing at all. EN = 0 written during a scan abandons it with every entry untouched: the spec
does not say what becomes of the scan (log entry 64). -/
def State.writePgkCtrl (s : State) (p v : Nat) : Option State :=
  let k := s.keeper p
  let old := s.regN (pgkReg p 0)
  let en := bitOf old 0
  if (en || k.scanning) && decide (fld v 1 3 ≠ fld old 1 3) then none
  else if en then
    some (if bitOf v 0 then s
      else (s.setPgkEn p false).modKeeper p fun x => { x with closing := x.closing || x.ready || x.broken, scanning := false })
  else
    let t := s.putReg (pgkReg p 0) (v % 16)
    some (if bitOf v 0 then
      t.modKeeper p fun x => { x with scanning := true, cfgErr := false, broken := false }
    else t)

/-- The scan fails at `pn`. -/
def State.scanFail (s : State) (p pn : Nat) : State :=
  ((s.modKeeper p fun x => { x with scanning := false, cfgErr := true }).setPgkEn p false).putReg (pgkReg p 0x24) pn

/-- PGK_SCAN_DONE (R209): the scan of a table that no earlier call still uses ends. -/
def execPgkScanDone (part : PartId) (s : State) : Host.Outcome State Fault Refusal :=
  .next (
    let g := s.regTable part
    if !(s.keeper part).scanning || (s.keeper part).closing then s
    else if !s.keeperConfigOk part then s.scanFail part pageNone
    else if s.readWaits (s.locateAll part g.base (16 * g.count)) then s
    else
      let keep := bitOf (s.regN (pgkReg part 0)) 3
      let r := State.scanGo part keep g.count 0 (s.modKeeper part fun x => { x with table := g })
      match r.1 with
      | .failed pn => r.2.scanFail part pn
      | .broken => (r.2.modKeeper part fun x => { x with scanning := false }).breakTable part none
      | .ok =>
        let t := State.linkGo part keep g.count
          (r.2.modKeeper part fun x => { x with freeHead := 0xFFFFFFFF#32, freeCount := 0 })
        t.modKeeper part fun x => { x with scanning := false, ready := !x.broken })

/-- PGK_DISABLE_DONE (R210): the calls taken are complete and READY clears. -/
def execPgkDisableDone (part : PartId) (s : State) : Host.Outcome State Fault Refusal :=
  .next (
    if (s.keeper part).closing && !(s.pgk.calls.any fun x => x.part = part && !x.down) then
      s.modKeeper part fun x => { x with closing := false, ready := false }
    else s)

/-- Write of PGK_CALL (R208): none when it completes with an error response. -/
def State.writePgkCall (s : State) (part : PartId) (v : Nat) (path : Path) : Option State :=
  let op := fld v 0 3
  if (s.keeper part).callBusy || decide (op = 5) || decide (op = 6) then none
  else
    some ((s.modKeeper part fun x => { x with callBusy := true }).newCall part (if op = 7 then .query else subOp op)
      (s.reg (pgkReg part 0x28)) (fld v 16 16) (.host path))

end Sys2Proof.Machine
end

