-- ==== Sys2Proof/Machine/Scout.lean ====
section
/-! DEFINITION. The page scout: requests, scoring, selection, output (chapter 07, R213 to R224).

Marks: DEDUCED (log entry 28), DESIGN CHOICE (log entry 65). -/

namespace Sys2Proof.Machine

def sctReg (r o : Nat) : Nat := 0x1801000 + r * 0x20 + o

def State.scoutEn (s : State) (r : Nat) : Bool := bitOf (s.regN (sctReg r 8)) 31
def State.scoutSize (s : State) (r : Nat) : Nat := fld (s.regN (sctReg r 8)) 16 13
def State.scoutCtr (s : State) (r : Nat) : Nat := fld (s.regN (sctReg r 8)) 0 16

def scoutWatcher (r : Nat) : Watcher := .scout ⟨r % 16, Nat.mod_lt _ (by decide)⟩

/-- The engine watches its request counter for a count of 1 with take (R215). -/
def State.armScout (s : State) (r : Nat) : State :=
  if s.scoutEn r then
    (s.enterWatch { counter := s.scoutCtr r, v := 1, take := true, who := scoutWatcher r }).evaluate (s.scoutCtr r)
  else s

/-- Write of SCT_CTRL. EN stays 0 when the counter is not one of region r or the ring lies outside the partition, and for a ring
address that is not aligned to a slot, for which the spec names no outcome (log entry 65). A write of EN = 1 starts the engine at
SEQ 0. -/
def State.writeScout (s : State) (r v : Nat) : State :=
  let size := let n := fld v 16 13; if n = 0 then 1 else if 4096 < n then 4096 else n
  let p := s.regionOwner r
  if s.scoutEn r then
    if bitOf v 31 then (s.removeWatch (s.scoutCtr r) (scoutWatcher r)).putReg (sctReg r 0xC) 0 |>.armScout r
    else (s.removeWatch (s.scoutCtr r) (scoutWatcher r)).putReg (sctReg r 8) (setFld (s.regN (sctReg r 8)) 31 1 0)
  else
    let ring := s.addrReg (sctReg r 0)
    let ok := bitOf v 31 && decide (counterRegion (fld v 0 16) = r) && decide (ring % 64 = 0) &&
      (match p with | some q => allMem (s.locateAll q ring (64 * size)) | none => false)
    let t := s.putReg (sctReg r 8) (at' 31 1 (b2n ok) + at' 16 13 size + fld v 0 16)
    if ok then (t.putReg (sctReg r 0xC) 0).armScout r else t

/-! ## Request records (R216, R218) -/

def ScoutReq.w (q : ScoutReq) (k : Nat) : Nat := (q.words.getD k 0).toNat
def ScoutReq.seq (q : ScoutReq) : Nat := fld (q.w 0) 0 32
def ScoutReq.queries (q : ScoutReq) : Nat := fld (q.w 0) 32 5
def ScoutReq.ht (q : ScoutReq) : Nat := fld (q.w 1) 0 48
def ScoutReq.first (q : ScoutReq) : Nat := fld (q.w 2) 0 32
def ScoutReq.stride (q : ScoutReq) : Nat := fld (q.w 2) 32 16
def ScoutReq.count (q : ScoutReq) : Nat := fld (q.w 3) 0 17
def ScoutReq.k (q : ScoutReq) : Nat := fld (q.w 3) 17 11
def ScoutReq.keepFirst (q : ScoutReq) : Nat := fld (q.w 3) 28 8
def ScoutReq.keepLast (q : ScoutReq) : Nat := fld (q.w 3) 36 8
def ScoutReq.qaddr (q : ScoutReq) : Nat := fld (q.w 4) 0 48
def ScoutReq.out (q : ScoutReq) : Nat := fld (q.w 5) 0 48
def ScoutReq.done (q : ScoutReq) : Nat := fld (q.w 6) 0 16

/-- A field breaks Table — Scout request record (STATUS 1). -/
def ScoutReq.malformed (q : ScoutReq) : Bool :=
  decide (fld (q.w 0) 37 27 ≠ 0) || decide (fld (q.w 1) 48 16 ≠ 0) || decide (fld (q.w 2) 48 16 ≠ 0) ||
  decide (fld (q.w 3) 44 20 ≠ 0) || decide (fld (q.w 4) 48 16 ≠ 0) || decide (fld (q.w 5) 48 16 ≠ 0) ||
  decide (fld (q.w 6) 16 48 ≠ 0) || decide (q.w 7 ≠ 0) ||
  decide (q.queries = 0 ∨ 16 < q.queries) || decide (q.ht % 4 ≠ 0) || decide (q.stride = 0) ||
  decide (q.count = 0 ∨ 65536 < q.count) || decide (q.k = 0 ∨ 1024 < q.k) || decide (q.qaddr % 16 ≠ 0) ||
  decide (q.out % 16 ≠ 0) || decide (q.k < q.keepFirst + q.keepLast)

/-- Head-table index of slice entry `i`. -/
def ScoutReq.index (q : ScoutReq) (i : Nat) : Nat := q.first + i * q.stride

/-- Bytes of the output. -/
def ScoutReq.outLen (q : ScoutReq) : Nat := 16 + 16 * q.k + 4 * q.k

/-- A stretch lies in the partition's core stores and tier windows, whether or not its column can be reached. -/
def State.within (s : State) (p a n : Nat) : Bool :=
  (s.locateAll p a n).all fun q => match q.1 with | .mem _ => true | .unavailable => true | _ => false

/-- The output lies inside one core store of the partition. -/
def State.outOk (s : State) (p : Nat) (q : ScoutReq) (n : Nat) : Bool :=
  decide (storeBase ≤ q.out) && decide ((storeCore q.out).isSome) &&
  decide (storeCore q.out = storeCore (q.out + n - 1)) && allMem (s.locateAll p q.out n)

/-- Addresses outside the partition (STATUS 2): the head table and every entry of the slice, the queries, the output, the
counter. -/
def State.scoutOutside (s : State) (p : Nat) (q : ScoutReq) : Bool :=
  !s.within p q.ht 4 || !((List.range q.count).all fun i => s.within p (q.ht + 4 * q.index i) 4) ||
  !s.within p q.qaddr (512 * q.queries) || !s.outOk p q q.outLen || !s.ownsRegion p (counterRegion q.done)

def State.scoutStatus (s : State) (p : Nat) (q : ScoutReq) : Nat :=
  if q.malformed then 1 else if s.scoutOutside p q then 2 else if !s.tableUp p then 3 else 0

/-- The slot is consumed: SCT_NEXT advances and the engine watches again. -/
def State.scoutNext (s : State) (r : Nat) : State :=
  ((s.putReg (sctReg r 0xC) ((s.regN (sctReg r 0xC) + 1) % 2 ^ 32)).modScout r fun x => { x with serving := none }).armScout r

/-- SCOUT_REQUEST (R215 to R218): the engine's watch has fired; it reads the next slot and checks it. None is served in SAFE (R418). -/
def execScoutRequest (region : RegionId) (s : State) : Host.Outcome State Fault Refusal :=
  .next (
    let r := region.val
    let x := s.scout r
    match s.regionOwner r with
    | none => s
    | some p =>
      if x.fired.isEmpty || x.serving.isSome || s.shut then s
      else
        let job := x.fired.head?.getD none
        let t := s.modScout r fun y => { y with fired := y.fired.tail }
        let seq := t.regN (sctReg r 0xC)
        let g := t.readOwned p (t.addrReg (sctReg r 0) + 64 * (seq % max 1 (t.scoutSize r))) 64 job none
        match g.1 with
        | .wait => s
        | .bytes bs =>
          let q : ScoutReq := { words := (List.range 8).map fun k => BitVec.ofNat 64 (wordAt bs k), status := 0, job := job }
          if q.seq ≠ seq then
            ((g.2.addField (sctReg r 0x10) 16 16 1).scoutNext r).raise
              { src := 299, locs := [256 + r], job := job, tag := none }
          else g.2.modScout r fun y => { y with serving := some { q with status := g.2.scoutStatus p q } }
        | _ => g.2.scoutNext r)

/-! ## Scoring (R219) -/

/-- A score: below every value, a value in units of 2^-298, or NaN above every value. -/
inductive Score where
  | ninf
  | val (v : Int)
  | nan
  deriving DecidableEq, Repr

def Score.lt : Score → Score → Bool
  | .nan, _ => false
  | _, .nan => true
  | .ninf, .val _ => true
  | .ninf, .ninf => false
  | .val _, .ninf => false
  | .val a, .val b => decide (a < b)

def Score.max (a b : Score) : Score := if a.lt b then b else a

/-- Score of a query against a summary. A query with a NaN or an infinity scores NaN against the empty summary too, for which R219
names both −Inf and NaN (log entry 65). -/
def scoreOf (query : List Val) (sum : List Byte) : Score :=
  let bound := fun i => fmtE4M3.value (sum.getD i 0).toNat
  if query.any (fun v => !v.finite) || (List.range 64).any (fun i => (bound i).isNan) then .nan
  else if sum = emptySummary then .ninf
  else
    .val ((List.range 128).foldl (fun z d =>
      let q := (query.getD d .nan).int
      let a := q * (bound (2 * (d / 4))).int
      let b := q * (bound (2 * (d / 4) + 1)).int
      z + (if a < b then b else a)) 0)

/-- A page's score: the greatest of its queries' scores. -/
def pageScore (queries : List (List Val)) (sum : List Byte) : Score :=
  queries.foldl (fun m q => m.max (scoreOf q sum)) .ninf

/-! ## Selection (R220) -/

/-- An eligible entry: place in the slice, page address, score. -/
structure Candidate where
  place : Nat
  addr  : Nat
  score : Score
  deriving DecidableEq, Repr

/-- Candidate put in rank order: greatest score first, ties in slice order. -/
def insertRank (x : Candidate) : List Candidate → List Candidate
  | [] => [x]
  | y :: t => if y.score.lt x.score then x :: y :: t else y :: insertRank x t

/-- Pages selected, in ascending slice order. -/
def selectPages (q : ScoutReq) (l : List Candidate) : List Candidate :=
  let forced := fun (c : Candidate) => decide (c.place < q.keepFirst) || decide (q.count ≤ c.place + q.keepLast)
  let m := min q.k l.length
  let kept := l.filter forced
  let ranked := (l.filter fun c => !forced c).foldl (fun t c => insertRank c t) []
  sortBy (fun c => Int.ofNat c.place) (kept ++ ranked.take (m - kept.length))

/-- What the reads of a request found. -/
inductive Scan where
  | ok (cands : List Candidate) (skipped : Nat)
  /-- the request ends with a status -/
  | status (n : Nat)
  /-- a word of it could not be read -/
  | bad
  deriving DecidableEq, Repr

/-- Memory that the service of a request reads: the queries, the head table's slice, and the entries and summaries of its pages. -/
def State.scoutPieces (s : State) (p : Nat) (q : ScoutReq) : List Piece :=
  s.locateAll p q.qaddr (512 * q.queries) ++ (List.range q.count).flatMap fun i =>
    let l := s.locateAll p (q.ht + 4 * q.index i) 4
    let pn := bytesLe (s.readPieces none none l).1
    l ++ (if pn < (s.table p).count then s.locateAll p (s.entryAddr p pn) 16 ++ s.locateAll p (s.summaryAddr p pn) 64 else [])

/-- Slice entries `i` to `i + fuel - 1`. The request that meets an uncorrectable entry ends with STATUS 3, as every later one does: R207
names the later ones alone (log entry 65). -/
def State.scoutScan (p : Nat) (q : ScoutReq) (queries : List (List Val)) : Nat → Nat → State → Scan × State
  | 0, _, s => (.ok [] 0, s)
  | fuel + 1, i, s =>
    let g := s.readOwned p (q.ht + 4 * q.index i) 4 q.job none
    match g.1 with
    | .bytes bs =>
      let pn := bytesLe bs
      if pn = pageNone then
        match State.scoutScan p q queries fuel (i + 1) g.2 with
        | (.ok c k, t) => (.ok c (k + 1), t)
        | r => r
      else if (s.table p).count ≤ pn then (.status 4, g.2)
      else
        let e := g.2.readEntry p pn q.job
        match e.1 with
        | none => (.status 3, e.2)
        | some en =>
          if en.state = 0 then
            match State.scoutScan p q queries fuel (i + 1) e.2 with
            | (.ok c k, t) => (.ok c (k + 1), t)
            | r => r
          else
            let sm := e.2.readOwned p (s.summaryAddr p pn) 64 q.job none
            match sm.1 with
            | .bytes b =>
              match State.scoutScan p q queries fuel (i + 1) sm.2 with
              | (.ok c k, t) => (.ok ({ place := i, addr := en.addr, score := pageScore queries b } :: c) k, t)
              | r => r
            | _ => (.bad, sm.2)
    | _ => (.bad, g.2)

/-- Query vectors of a request. -/
def queryVectors (n : Nat) (bs : List Byte) : List (List Val) :=
  (List.range n).map fun i =>
    (List.range 128).map fun d => fpVal (bytesLe ((bs.drop (512 * i + 4 * d)).take 4))

/-! ## Output (R221) -/

def State.scoutHeader (s : State) (p : Nat) (q : ScoutReq) (m skipped : Nat) (status : Byte) : State :=
  if s.outOk p q 16 then
    (s.putOwned p q.out (leBytes 4 m ++ leBytes 4 skipped ++ leBytes 4 q.seq ++ [status] ++ leBytes 3 0) q.job).1
  else s

def State.scoutLists (s : State) (p : Nat) (q : ScoutReq) (sel : List Candidate) : State :=
  let t := (s.putOwned p (q.out + 16) (sel.flatMap fun c => leBytes 8 c.addr ++ leBytes 8 (s.table p).size) q.job).1
  (t.putOwned p (q.out + 16 + 16 * q.k) (sel.flatMap fun c => leBytes 4 (q.index c.place)) q.job).1

/-- The request is complete: DONE counts, DONE_CTR receives 1, the engine goes on (R218, R222). -/
def State.scoutFinish (s : State) (r p : Nat) (q : ScoutReq) : State :=
  let d := s.regN (sctReg r 0x10)
  let t := s.putReg (sctReg r 0x10) (setFld d 0 16 (fld d 0 16 + 1))
  let t := if s.ownsRegion p (counterRegion q.done) then
      t.sendSync (.add (t.arriveBeat r (counterRegion q.done)) q.done 1 (.scout q.job))
    else t
  t.scoutNext r

/-- A request that selects nothing ends in its header and the addition (R218). -/
def State.scoutRefuse (s : State) (r p : Nat) (q : ScoutReq) (status : Byte) : State :=
  (s.scoutHeader p q 0 0 status).scoutFinish r p q

/-- A request that meets an unreadable word of its queries, its head table or a summary: it selects nothing, and the STATUS of its
header, for which the spec names no value, is open (log entry 65). -/
def State.scoutUnread (s : State) (r p : Nat) (q : ScoutReq) : State :=
  (s.drawn).scoutRefuse r p q (Config.freeByte s.draws 0)

/-- SCOUT_DONE (R218 to R222): scoring, selection, output, completion. -/
def execScoutDone (region : RegionId) (s : State) : Host.Outcome State Fault Refusal :=
  .next (
    let r := region.val
    match (s.scout r).serving, s.regionOwner r with
    | some q, some p =>
      if s.shut || s.waitsFor (s.locateAll p q.out q.outLen) then s
      else if q.status ≠ 0 then s.scoutRefuse r p q (BitVec.ofNat 8 q.status)
      else if s.readWaits (s.scoutPieces p q) then s
      else
        let g := s.readOwned p q.qaddr (512 * q.queries) q.job none
        match g.1 with
        | .bytes bs =>
          let sc := State.scoutScan p q (queryVectors q.queries bs) q.count 0 g.2
          match sc.1 with
          | .ok cands skipped =>
            let sel := selectPages q cands
            ((sc.2.scoutLists p q sel).scoutHeader p q sel.length skipped 0).scoutFinish r p q
          | .status n => sc.2.scoutRefuse r p q (BitVec.ofNat 8 n)
          | .bad => sc.2.scoutUnread r p q
        | _ => g.2.scoutUnread r p q
    | _, _ => s)

end Sys2Proof.Machine
end

