-- ==== Sys2Proof/Machine/Jobs.lean ====
section
/-! DEFINITION. Jobs and partitions: launch records, launches, starts and stops (R456 to R458, R71, R72, R87, R299), and the
change of the partition table (R464 to R466). Also the answer to a register or memory access that waits.

Marks: DEDUCED (log entry 35), DEDUCED (log entry 36). -/

namespace Sys2Proof.Machine

/-! ## Answers -/

/-- How an access ends at once: completed, refused with a cause of Table — Host error causes, later, or not begun: it is tried
again. -/
inductive Reply where
  | ok
  | err (cause : Nat)
  | later
  | retry
  deriving DecidableEq, Repr

/-- The static address of the side-band target (R65). -/
def staticAddress : BitVec 7 := 0x3A

/-- The address at which the target answers: its dynamic address once it has one, else the static one (R65). -/
def Sideband.address (x : Sideband) : BitVec 7 := if x.da = 0 then staticAddress else x.da

/-- The target sends `m` on its bus: as an I²C target at the static address until an I3C controller has addressed it (R65). -/
def State.sideSend (s : State) (m : OutMsg) : State := s.send (.target s.side.address (!s.side.i3c) m)

/-- A side-band answer goes out, and waits for its controller until an in-band interrupt has announced it (R459). -/
def State.sideAnswer (s : State) (m : OutMsg) : State :=
  (s.setSide { s.side with waiting := s.side.waiting + 1 }).sideSend m

/-- The answer to a write, or to a refused read, goes to its requester (R452, R462). -/
def State.answer (s : State) (req : Request) (r : Reply) : State :=
  match req.path, req.tid, r with
  | .host tag, some tid, .ok => s.send (.wrsp tag tid)
  | .host tag, some tid, .err c => s.send (.err tag tid c)
  | .side, some _, .ok => s.sideAnswer (.side 0 0 [])
  | .side, some _, .err c => s.sideAnswer (.side 1 c [])
  | _, _, _ => s

/-- The data of a read goes to its requester. -/
def State.answerRead (s : State) (req : Request) (data : List Byte) : State :=
  match req.path, req.tid with
  | .host tag, some tid => s.send (.cpl tag tid data)
  | .side, some _ => s.sideAnswer (.side 0 0 data)
  | _, _ => s

def State.modHost (s : State) (f : HostPort → HostPort) : State := s.setHost (f s.host)

def State.hold (s : State) (h : HeldTx) : State := s.modHost fun x => { x with held := x.held ++ [h] }

/-- Every access that waits for `why` is answered. -/
def State.release (s : State) (why : HeldWhy) (r : Reply) : State :=
  State.each (s.host.held.filter fun h => h.why = why) (fun h t => t.answer h.req r)
    (s.modHost fun x => { x with held := x.held.filter fun h => !(h.why = why) })

/-- Tag of a request from the host. -/
def Request.tag (q : Request) : Option Nat := match q.path with | .host tag => some tag.val | .side => none

/-! ## Launch records (R456) -/

def State.launchAddr (s : State) (p : Nat) : Nat := s.addrReg (partBase p + 0x50)
def launchGo (p : Nat) : Nat := partBase p + 0x58

/-- A stretch of a launch record, where it lies in the partition's memory and can be read. -/
def State.readRecord (s : State) (p a n : Nat) : Option (List Byte) × State :=
  let l := s.locateAll p a n
  if allMem l then
    let r := s.readPieces none (some p) l
    (if r.2.1 then none else some r.1, r.2.2)
  else (none, if anyOutside l then s.raise { src := 279, locs := [], job := none, tag := some p } else s)

def recordWord (bs : List Byte) (k : Nat) : Nat := bytesLe ((bs.drop (8 * k)).take 8)

/-- The entries of a record, and whether each keeps the rules of cause 2. -/
def launchEntry (w : Nat) : LaunchEntry :=
  { core := ⟨w % 256, Nat.mod_lt _ (by decide)⟩, group := fld w 8 4, grouped := bitOf w 12, base := fld w 13 17,
    len := fld w 30 18 }

def launchEntryBad (w : Nat) : Bool :=
  fld w 48 16 ≠ 0 || fld w 30 18 = 0 || decide (131072 < fld w 13 17 + fld w 30 18)

def hasDup (l : List Nat) : Bool :=
  match l with
  | [] => false
  | x :: t => t.any (· = x) || hasDup t

/-- The power state of core `c` admits a launch (R299). -/
def State.launchable (s : State) (c : Nat) : Bool :=
  match s.pstate c with
  | .on | .tied => true
  | .carrier => s.request c = 2
  | _ => false

/-- Causes 4 to 6 of Table — Launch refusals. -/
def State.coresCause (s : State) (cs : List Nat) : Nat :=
  if cs.any (fun c => !s.available c) then 4
  else if cs.any (fun c => !s.launchable c) then 5
  else if cs.any (fun c => (s.core c).seq.bound) then 6
  else 0

/-- The block state and a commit in progress admit a launch of partition `p`. -/
def State.launchOpen (s : State) (p : Nat) : Bool :=
  s.blockState = 4 && !(s.commit.busy && s.commit.parts.any (· = p))

/-- The handle is taken. -/
def Job.busy (j : Job) : Bool := j.state = .loading || j.state = .running

/-- First cause of Table — Launch refusals for a record that has been read; 0 when the launch is accepted. -/
def State.launchCause (s : State) (p : Nat) (hdr : List Byte) (ws : List Nat) : Nat :=
  let w := recordWord hdr 0
  let n := fld w 11 9
  let es := ws.map launchEntry
  let cs := es.map fun e => e.core.val
  if !s.launchOpen p then 1
  else if fld w 20 44 ≠ 0 ∨ recordWord hdr 1 ≠ 0 ∨ recordWord hdr 2 ≠ 0 ∨ recordWord hdr 3 ≠ 0 ∨ n = 0 ∨ 256 < n ∨
      ws.any launchEntryBad then 2
  else if hasDup cs ∨ cs.any (fun c => !s.ownsRegion p (regionOf c)) then 3
  else if s.coresCause cs ≠ 0 then s.coresCause cs
  else if es.any (fun e => !e.grouped && decide (e.group ≠ 0)) then 7
  else if bitOf w 4 ∧ !s.ownsSlot p (fld w 5 5) then 8
  else if (s.job p (fld w 0 4)).busy then 9
  else 0

/-- A refused launch: its handle reports the cause, unless it is in use for another launch. -/
def State.refuseLaunch (s : State) (p j cause : Nat) : State × Reply :=
  (if (s.job p j).busy then s else s.modJob p j fun _ => { Job.initial with state := .refused, cause := cause }, .err 5)

/-- A write of 1 to PART_LAUNCH_GO of partition `p` (R457). -/
def State.startLaunch (s : State) (req : Request) (p : Nat) : State × Reply :=
  if (List.range 16).any (fun j => (s.job p j).state = .loading) then (s, .err 5)
  else
    let a := s.launchAddr p
    if s.readWaits (s.locateAll p a 32) then (s, .retry)
    else
    let h := s.readRecord p a 32
    match h.1 with
    | none => (h.2, .err 5)
    | some hdr =>
      let w := recordWord hdr 0
      let n := fld w 11 9
      let j := fld w 0 4
      if s.readWaits (s.locateAll p (a + 32) (8 * n)) then (s, .retry)
      else
      let e := if n = 0 ∨ 256 < n then (some [], h.2) else h.2.readRecord p (a + 32) (8 * n)
      match e.1 with
      | none => e.2.refuseLaunch p j 1
      | some bs =>
        let ws := (List.range (bs.length / 8)).map (recordWord bs)
        let t := e.2
        let cause := t.launchCause p hdr ws
        if cause ≠ 0 then t.refuseLaunch p j cause
        else
          let u := t.modJob p j fun _ =>
            { Job.initial with state := .loading, cores := ws.map launchEntry, slot := if bitOf w 4 then some (fld w 5 5) else none,
                               slotClr := bitOf w 10 }
          (u.hold { req := req, read := false, addr := 0x40080000000 + launchGo p, len := 4, data := [], why := .launch p },
           .later)

/-- Local mask of the members of an entry's lockstep group (R87, R456). -/
def membersOf (es : List LaunchEntry) (e : LaunchEntry) : BitVec 16 :=
  BitVec.ofNat 16 (maskOf (if e.grouped then
      (es.filter fun f => f.grouped && decide (f.group = e.group) && decide (f.core.val / 16 = e.core.val / 16)).map
        fun f => f.core.val % 16
    else [e.core.val % 16]))

def slotDefault (_ : Nat) : Nat := 0

/-- Energy slot `t` is cleared (R388); an addition of the same beat is kept (R389). -/
def State.clearSlot (s : State) (t : Nat) : State :=
  s.setPower { s.power with
    slots := tabSet slotDefault s.power.slots t (if s.power.sampled = s.now + 1 then tabGet slotDefault s.power.added t else 0) }

/-- The learned entries of core `c` lose VALID (R365). -/
def State.forget (s : State) (c : Nat) : State :=
  s.modLoop (c / 16) fun x =>
    { x with learned := x.learned.filter fun e => !(e.1 / 256 = c % 16) }

/-- Core `c` starts its schedule at core beat 0 (R71, R96, R365). Operations of an earlier job no longer count on a flag. -/
def State.startCore (s : State) (j : PartId × Fin 16) (es : List LaunchEntry) (slot : Option Nat) (e : LaunchEntry) :
    State :=
  let c := e.core.val
  -- a group store still on its way to the core's store, from a job before, takes effect first
  let t := (s.commitWhere c fun _ => true).1.modCore c fun x =>
    { x with
      seq := { Sequencer.idle with
        bound := true, job := some j, group := e.group, members := membersOf es e, base := e.base, len := e.len,
        phased := x.seq.phased, next := e.base, held := x.seq.held, owed := x.seq.held, why := x.seq.why, heldNow := x.seq.heldNow, issuedNow := x.seq.issuedNow, gst := 0, slot := slot }
      flags := [], slots := [], hints := []
      ops := x.ops.map fun o => { o with live := false } }
  if bitOf (t.regN (regionBase (c / 16) + 0x40000)) 30 then t else t.forget c

/-- JOB_START (R71, R72, R457): a loaded launch starts every core it names, in one beat. Conditions that have gone since the
record was read refuse it. -/
def execJobStart (part : PartId) (job : Fin 16) (s : State) : Host.Outcome State Fault Refusal :=
  .next (
    let x := s.job part job
    if x.state ≠ .loading then s
    else
      let cs := x.cores.map fun e => e.core.val
      let cause := if !s.launchOpen part then 1
        else if cs.any (fun c => !s.ownsRegion part (regionOf c)) then 3 else s.coresCause cs
      if cause ≠ 0 then
        ((s.modJob part job fun _ => { Job.initial with state := .refused, cause := cause }).release (.launch part) (.err 5))
      else
        let t := match x.slot with
          | some k => if x.slotClr then s.clearSlot k else s
          | none => s
        let t := State.each x.cores (fun e u => u.startCore (part, job) x.cores x.slot e) t
        let t := State.each x.cores (fun e u => u.shareHold e.core) t
        (t.modJob part job fun y => { y with state := .running, quiet := 0, loud := false }).release (.launch part) .ok)

/-- A write to PART_STOP (R458). -/
def State.partStop (s : State) (p v : Nat) : State :=
  State.each (bitsOf 16 v) (fun j t =>
    match jobId p j with
    | some i => t.endJob i
    | none => t) s

/-- Cores of a job that have not ended (PART_JOB.CORES). -/
def State.jobCores (s : State) (p j : Nat) : Nat :=
  let x := s.job p j
  if x.state = .loading then 0
  else if x.state = .stopped then x.left
  else (x.cores.filter fun e =>
    (s.core e.core).seq.bound && decide ((s.core e.core).seq.job = jobId p j)).length

/-! ## The partition table (R464 to R466) -/

def stageBase (p : Nat) : Nat := 0x100800 + p * 0x100

/-- Offsets of the table registers in a partition's block. -/
def tableOffs : List Nat := [0, 4, 8] ++ (List.range 16).map fun k => 0x10 + 4 * k

/-- A staged register of the partition differs from the live one. -/
def State.changes (s : State) (p : Nat) : Bool :=
  tableOffs.any fun o => s.reg (stageBase p + o) ≠ s.reg (partBase p + o)

/-- Regions, slots and host slice of the block of table registers at `base`; nothing while EN is 0 (R451). -/
def State.regionsAt (s : State) (base : Nat) : Nat :=
  if bitOf (s.regN base) 31 then fld (s.regN base) 0 16 else 0
def State.slotsAt (s : State) (base : Nat) : Nat := if bitOf (s.regN base) 31 then s.regN (base + 4) else 0
def State.windowsOn (s : State) (base : Nat) : List Window := if bitOf (s.regN base) 31 then s.windowsAt base else []
def State.sliceAt (s : State) (base : Nat) : Nat × Nat :=
  if bitOf (s.regN base) 31 then
    (fld (s.regN (base + 8)) 0 13, fld (s.regN (base + 8)) 0 13 + fld (s.regN (base + 8)) 16 14)
  else (0, 0)

/-- Condition 1 of R464: the partition is idle. -/
def State.partIdle (s : State) (p : Nat) : Bool :=
  let live := s.regionsAt (partBase p)
  let moved := (List.range 16).filter fun r => bitOf live r ≠ bitOf (s.regionsAt (stageBase p)) r
  (List.range 16).all (fun j => !(s.job p j).busy) &&
  moved.all (fun r => (List.range 32).all fun k => (s.chan r k).state = .off || (s.chan r k).state = .idle) &&
  s.pgk.calls.all (fun c => c.part.val ≠ p) &&
  (bitsOf 16 live).all (fun r => (s.scout r).fired.isEmpty && (s.scout r).serving.isNone) &&
  s.host.outbound.all (fun o => o.tag.val ≠ p) &&
  (List.range 4).all fun n => s.portOwner n ≠ p || (s.peer n).accesses.isEmpty

/-- Two windows cover one byte of one column (R449). -/
def Window.meets (v w : Window) : Bool :=
  (List.range 16).any (fun r => bitOf v.regions r && bitOf w.regions r) && decide (v.coff < w.coff + w.sl) &&
    decide (w.coff < v.coff + v.sl)

def anyMeet : List Window → Bool
  | [] => false
  | v :: t => t.any v.meets || anyMeet t

/-- The window breaks R163, has no region, or has no length. `ready` tells which cores may stand in a striped window. -/
def Window.breaks (w : Window) (capacity : Nat) (ready : Nat → Bool) : Bool :=
  decide (capacity < w.coff + w.sl) || w.regions = 0 || w.sl = 0 || (w.striped && w.cores.any fun c => !ready c)

/-- Every byte of `[lo, hi)` in the columns of region `r` lies in one of the windows. -/
def coveredGo (ws : List Window) (r hi : Nat) : Nat → Nat → Bool
  | 0, lo => decide (hi ≤ lo)
  | fuel + 1, lo =>
    if hi ≤ lo then true
    else match ws.find? fun w => bitOf w.regions r && decide (w.coff ≤ lo) && decide (lo < w.coff + w.sl) with
      | none => false
      | some w => coveredGo ws r hi fuel (w.coff + w.sl)

/-- The staged table of partition `p` takes away a region or a byte of a window. -/
def State.loses (s : State) (p : Nat) : Bool :=
  let now := s.regionsAt (partBase p)
  let then' := s.regionsAt (stageBase p)
  let ws := s.windowsOn (stageBase p)
  (List.range 16).any (fun r => bitOf now r && !bitOf then' r) ||
  (s.windowsOn (partBase p)).any fun w => (bitsOf 16 w.regions).any fun r => !coveredGo ws r (w.coff + w.sl) 9 w.coff

/-- `[a, a + n)` lies in one tier window, or in the host slice, of the table registers at `base` (R435). -/
def State.ringInside (s : State) (base a n : Nat) : Bool :=
  if a < 0x20000000000 then
    (s.windowsOn base).any fun w =>
      w.holds (colCore a) (colOff a) && decide (colOff a + n ≤ w.coff + w.sl)
  else
    let h := s.sliceAt base
    decide (0x80000000000 + h.1 * 0x40000000 ≤ a) && decide (a + n ≤ 0x80000000000 + h.2 * 0x40000000)

def evqBase (p : Nat) : Nat := 0x201000 + p * 0x100
def State.ringAddr (s : State) (p : Nat) : Nat := s.addrReg (evqBase p)
def State.ringSize (s : State) (p : Nat) : Nat := 64 * 2 ^ fld (s.regN (evqBase p + 8)) 0 4

/-- The first partition of those given that has the property. -/
def firstPart (l : List Nat) (f : Nat → Bool) : Option Nat := l.find? f

/-- The staged table breaks one of conditions 2 to 6 of R464: the condition and the lowest partition concerned. -/
def State.tableBreaks (s : State) (ready : Nat → Bool) : Option (Nat × Nat) :=
  let parts := List.range 8
  let regs := fun (p : Nat) => s.regionsAt (stageBase p)
  let wins := fun (p : Nat) => s.windowsOn (stageBase p)
  let others := fun (p : Nat) => parts.filter (· ≠ p)
  let owner := fun (r : Nat) => parts.find? fun p => bitOf (regs p) r
  let c2 := firstPart parts fun p =>
    (others p).any (fun q => regs p &&& regs q ≠ 0) || anyMeet (wins p) ||
      (others p).any fun q => (wins p).any fun v => (wins q).any v.meets
  let c3 := firstPart parts fun p => (wins p).any fun w => w.breaks s.capacity ready
  let c4 := firstPart parts fun p =>
    let h := s.sliceAt (stageBase p)
    decide (h.1 < h.2) && (decide (8192 < h.2) || (others p).any fun q =>
      let g := s.sliceAt (stageBase q)
      decide (g.1 < g.2) && decide (h.1 < g.2) && decide (g.1 < h.2))
  let c5 := firstPart parts fun p => (others p).any fun q => s.slotsAt (stageBase p) &&& s.slotsAt (stageBase q) ≠ 0
  let c6 := (List.range 256).findSome? fun c =>
    match (s.core c).power.partner with
    | none => none
    | some d =>
      let a := owner (c / 16)
      let b := owner (d.val / 16)
      if a = b then none else some (min (a.getD 7) (b.getD 7))
  match c2, c3, c4, c5, c6 with
  | some p, _, _, _, _ => some (2, p)
  | none, some p, _, _, _ => some (3, p)
  | none, none, some p, _, _ => some (4, p)
  | none, none, none, some p, _ => some (5, p)
  | none, none, none, none, some p => some (6, p)
  | none, none, none, none, none => none

/-- Condition 7 of R464. -/
def State.tableStrands (s : State) (p : Nat) : Bool :=
  s.changes p && ((s.pgkEn p && s.loses p) ||
    ((s.evq p).en && !s.ringInside (stageBase p) (s.ringAddr p) (16 * s.ringSize p)))

/-- Why a commit is refused: the condition and the lowest partition concerned. -/
def State.commitCause (s : State) : Option (Nat × Nat) :=
  match firstPart (List.range 8) fun p => s.changes p && !s.partIdle p with
  | some p => some (1, p)
  | none => match s.tableBreaks s.available with
    | some x => some x
    | none => (firstPart (List.range 8) s.tableStrands).map fun p => (7, p)

/-- Part of `[lo, hi)` outside a stretch. -/
def cutOne (a b : Nat) (l : List (Nat × Nat)) : List (Nat × Nat) :=
  l.flatMap fun x =>
    (if x.1 < min x.2 a then [(x.1, min x.2 a)] else []) ++ (if max x.1 b < x.2 then [(max x.1 b, x.2)] else [])

/-- Column offsets of region `r` that lie in a staged window and in no live window of partition `p` (R465). -/
def State.gained (s : State) (p r : Nat) : List (Nat × Nat) :=
  let live := (s.windowsOn (partBase p)).filter fun w => bitOf w.regions r
  ((s.windowsOn (stageBase p)).filter fun w => bitOf w.regions r).flatMap fun w =>
    live.foldl (fun l v => cutOne v.coff (v.coff + v.sl) l) [(w.coff, w.coff + w.sl)]

/-- Zero with valid check bits over column offsets `[lo, hi)` of core `c`; its rows are ordinary rows then (R188). -/
def State.scrubColumn (s : State) (c lo hi : Nat) : State :=
  (s.zeroMem (colAddr c lo) (colAddr c hi)).modColumn c fun x =>
    { x with nearBank := x.nearBank.filter fun e =>
        let o := e.1 / 0x8000 * 0x10000000 + e.1 % 0x8000 * 0x2000
        !(decide (lo ≤ o) && decide (o < hi)) }

/-- Resources of a region that changes owner are reset (R465). -/
def State.resetRegion (s : State) (r : Nat) : State :=
  let t := s.setSync { s.sync with
    counters := s.sync.counters.filter fun e => !(counterRegion e.1 = r)
    shares := s.sync.shares.filter fun e => !(counterRegion e.1 = r)
    watches := s.sync.watches.filter fun w => match w.who with
      | .host q => !(q.val = r)
      | _ => true }
  let t := t.putReg (synHwatch r) 0
  let t := State.each (List.range 32) (fun k u => u.modChan r k fun x => { x with alloc := 0, state := .off }) t
  let t := t.putReg (sctReg r 8) (setFld (t.regN (sctReg r 8)) 31 1 0)
  let t := t.setSync { t.sync with watches := t.sync.watches.filter fun w => match w.who with
    | .scout q => !(q.val = r)
    | _ => true }
  let t := t.modLoop r fun x => { x with learned := [] }
  State.each (coresOf r) (fun c u =>
    if u.railOn c then u.zeroStore c else if u.pstate c = .retain then u.loseStore c else u) t

/-- Beats that the zero writes of a commit take at least: 4,096 for the core stores, and one for each 256 bytes of the column that
gains most (R465, R466). -/
def State.commitBeats (s : State) (scrub : Bool) (parts moved : List Nat) : Nat :=
  let bytes := fun (r : Nat) => parts.foldl (fun n p => (s.gained p r).foldl (fun m g => m + (g.2 - g.1)) n) 0
  let scrubs := if scrub then (List.range 16).foldl (fun m r => max m (bytes r / 256)) 0 else 0
  max scrubs (if moved.any fun r => (coresOf r).any fun c => s.railOn c then 4096 else 0)

/-- An accepted commit: resets, zero writes and scrubs; the new table waits for COMMIT_APPLY. -/
def State.beginCommit (s : State) (scrub : Bool) : State :=
  let parts := (List.range 8).filter s.changes
  let moved := (List.range 16).filter fun r =>
    parts.any fun p => bitOf (s.regionsAt (partBase p)) r ≠ bitOf (s.regionsAt (stageBase p)) r
  let slots := (List.range 32).filter fun k =>
    parts.any fun p => bitOf (s.slotsAt (partBase p)) k ≠ bitOf (s.slotsAt (stageBase p)) k
  let t := State.each moved (fun r u => u.resetRegion r) s
  let t := State.each slots (fun k u => u.clearSlot k) t
  let t := if scrub then
      State.each parts (fun p u => State.each (List.range 16) (fun r v =>
        State.each (s.gained p r) (fun g w => State.each (coresOf r) (fun c x => x.scrubColumn c g.1 g.2) w) v) u) t
    else t
  t.setCommit { busy := true, scrub := scrub, cause := 0, part := 0, parts := parts, doneAt := s.now + s.commitBeats scrub parts moved,
                wanted := s.regs.filter fun e => decide (0x100800 ≤ e.1) && decide (e.1 < 0x101000) }

/-- A write of PART_COMMIT with GO, from the side-band. -/
def State.writeCommit (s : State) (scrub : Bool) : Option State :=
  if s.commit.busy then none
  else match s.commitCause with
    | some (c, p) => some (s.setCommit { s.commit with cause := c, part := p })
    | none => some (s.beginCommit scrub)

/-- Table registers at the staging offsets become the live table. -/
def State.loadTable (s : State) (wanted : Tab (BitVec 32)) : State :=
  State.each (List.range 8) (fun p t =>
    State.each tableOffs (fun o u => u.putReg (partBase p + o) (tabGet (fun _ => 0) wanted (stageBase p + o)).toNat) t) s

/-- COMMIT_APPLY (R465): every write of the commit is complete; the new table takes effect and BUSY clears. -/
def execCommitApply (s : State) : Host.Outcome State Fault Refusal :=
  .next (if s.commit.busy && decide (s.commit.doneAt ≤ s.now) then
      (s.loadTable s.commit.wanted).setCommit
        { s.commit with busy := false, scrub := false, wanted := [], parts := [] }
    else s)

end Sys2Proof.Machine
end

