-- ==== Sys2Proof/Machine/PeerPort.lean ====
section
/-! DEFINITION. Peer ports and pace (chapter 10, R270 to R285): messages received, link states, outcomes of a lost link or a
timeout, credits, and pace notices.

Marks: DEDUCED (log entry 37), DEDUCED (log entry 38). -/

namespace Sys2Proof.Machine

/-! ## Answers to the partner -/

/-- A message leaves port `n` while its link is up. -/
def State.peerSend (s : State) (n : Nat) (m : OutMsg) : State := if s.linkUp n then s.send m else s

/-- Credits to return as buffers free (R274). -/
def State.owe (s : State) (n req data : Nat) : State :=
  s.modPeer n fun x => { x with owedReq := x.owedReq + req, owedData := x.owedData + data }

def flitsOf (len : Nat) : Nat := (len + 63) / 64

/-- A refusal of R272 or R418: NACK. -/
def State.peerNack (s : State) (n tid cause : Nat) : State := s.peerSend n (.peerNack n tid cause)

/-- An access that R272 refuses sets the peer-inbound-refused source. -/
def State.peerRefuse (s : State) (n tid : Nat) : State := (s.peerNack n tid 1).raiseBlock 300

/-- An access at an unpopulated column offset sets the address-range source (R160). -/
def State.peerOutside (s : State) (l : List Piece) : State := if anyOutside l then s.raiseBlock 279 else s

/-- A malformed message (R273). -/
def State.peerMalformed (s : State) (n : Nat) (tid : Option Nat) : State :=
  (match tid with
   | some t => s.peerNack n t 3
   | none => s).raiseBlock 301

/-- SAFE and GRAVE answer inbound accesses with NACK (R418, R420). -/
def State.peerShut (s : State) : Bool := s.shut

/-- A transaction received while the block is in IDLE is wake cause 4 (R444). -/
def State.peerWake (s : State) : State := s.wakeCause 4 0 true

/-! ## Inbound accesses (R272, R273, R275, R276) -/

/-- LEN and ADDR of a WR or RD keep Table — Peer messages. -/
def peerShape (len addr : Nat) : Bool :=
  decide (16 ≤ len) && decide (len ≤ 1024) && decide (len % 16 = 0) && decide (addr % 16 = 0)

/-- `[addr, addr + len)` lies wholly within the import window. -/
def State.inWindow (s : State) (n addr len : Nat) : Bool :=
  let lo := fld (s.regN (peerBase n + 0x8)) 0 21 * 0x200000
  let hi := lo + fld (s.regN (peerBase n + 0xC)) 0 21 * 0x200000
  decide (lo ≤ addr) && decide (addr + len ≤ hi) && decide (addr + len ≤ 0x20000000000)

/-- The access touches page-table entries, which belong to the keeper (R193). -/
def State.touchesEntries (s : State) (a n : Nat) : Bool := (List.range 8).any fun p => s.hitsEntries p a n

/-- An inbound WR takes effect now; `false` when it must wait for a near-bank sequence. -/
def State.takeWr (s : State) (n tid len addr : Nat) (data : List Byte) : State × Bool :=
  let l := s.locateAll (s.portOwner n) addr len
  let done := fun (t : State) => t.owe n 1 (flitsOf len)
  if s.peerShut then (done (s.peerNack n tid 2), true)
  else if !s.inWindow n addr len then (done (s.peerRefuse n tid), true)
  else if l.all (fun q => match q.1 with | .port _ => true | _ => false) then
    -- records for a tier command port: the write is complete when its sequences are (R177, R180)
    let c := colCore addr
    let r := s.nbArrive (s.portOwner n) c (addr % 4096) none data
    (done (r.1.modPeer n fun x => { x with ports := x.ports ++ [(tid, c, r.2)] }), true)
  else if !allMem l || s.touchesEntries addr len then (done ((s.peerOutside l).peerRefuse n tid), true)
  else if s.waitsFor l then (s, false)
  else
    let w := s.writePieces none none l data
    (done (if w.2 then w.1.peerNack n tid 4 else w.1.peerSend n (.peerAck n tid)), true)

/-- An inbound RD is answered with RDATA, or with NACK cause 4 for an uncorrectable word, which stops no job here. -/
def State.takeRd (s : State) (n tid len addr : Nat) : State × Bool :=
  let l := s.locateAll (s.portOwner n) addr len
  let done := fun (t : State) => t.owe n 1 0
  if s.peerShut then (done (s.peerNack n tid 2), true)
  else if !s.inWindow n addr len then (done (s.peerRefuse n tid), true)
  else if l.all (fun q => match q.1 with | .port _ => true | _ => false) then
    (done (s.peerSend n (.peerRdata n tid (List.replicate len 0))), true)
  else if !allMem l || s.touchesEntries addr len then (done ((s.peerOutside l).peerRefuse n tid), true)
  else if s.readWaits l then (s, false)
  else
    let r := s.readPieces none none l
    (done (if r.2.1 then r.2.2.peerNack n tid 4 else r.2.2.peerSend n (.peerRdata n tid r.1)), true)

/-- Region in which port `n` runs. -/
def portRegion (n : Nat) : Nat := match n with | 0 => 0 | 1 => 3 | 2 => 12 | _ => 15

/-- An inbound SIG goes straight to the sync network; its ACK follows the addition. -/
def State.takeSig (s : State) (n : PortId) (tid counter : Nat) (amount : BitVec 32) : State :=
  let v := s.regN (peerBase n + 0x10)
  let t := s.owe n 1 0
  if s.peerShut then t.peerNack n tid 2
  else if counter < fld v 0 16 ∨ fld v 16 16 < counter then t.peerRefuse n tid
  else t.sendSync (.add (t.arriveBeat (portRegion n) (counterRegion counter)) counter amount (.peer n tid))

/-- A message takes effect; `false` when it waits. -/
def State.peerTake (s : State) (m : Instr) : State × Bool :=
  match m with
  | .peerWr n tid len addr data => s.takeWr n tid.toNat len.toNat addr.toNat data
  | .peerRd n tid len addr => s.takeRd n tid.toNat len.toNat addr.toNat
  | .peerSig n tid amount counter => (s.takeSig n tid.toNat counter.toNat amount, true)
  | _ => (s, true)

/-- An inbound transaction: in IDLE it is buffered and wakes the block (R443, R444); a load or store stays behind those that
wait. -/
def State.peerArrive (s : State) (n : Nat) (m : Instr) : State :=
  let buffer := fun (t : State) => t.modPeer n fun x => { x with buffered := x.buffered ++ [m] }
  let sig := match m with | .peerSig _ _ _ _ => true | _ => false
  let took := fun (r : State × Bool) => if r.2 then r.1 else buffer s
  let behind := !sig && !(s.peer n).buffered.isEmpty
  s.wokenBy (if s.blockState = 8 || behind then buffer s else took (s.peerTake m)) 4

/-- Waiting messages of port `n` are applied in their order until one must wait on. -/
def State.serveGo (n : Nat) : Nat → State → State
  | 0, s => s
  | fuel + 1, s =>
    match (s.peer n).buffered with
    | [] => s
    | m :: t =>
      let r := s.peerTake m
      if r.2 then State.serveGo n fuel (r.1.modPeer n fun x => { x with buffered := t }) else s

/-- ACK or NACK for each port write whose sequences have completed (R180). -/
def State.servePorts (s : State) (n : Nat) : State :=
  let ready := fun (q : Nat × Nat × Nat) => (s.column q.2.1).portDone q.2.2
  State.each ((s.peer n).ports.filter ready) (fun q t =>
    if (t.column q.2.1).portFailed q.2.2 then t.peerNack n q.1 1 else t.peerSend n (.peerAck n q.1))
    (s.modPeer n fun x => { x with ports := x.ports.filter fun q => !ready q })

def State.servePeers (s : State) : State :=
  if s.blockState = 8 then s
  else State.each (List.range 4) (fun n t => ((t.serveGo n (t.peer n).buffered.length).servePorts n).pump n) s

/-- PEER_WR (R275). -/
def execPeerWr (port : PortId) (tid : BitVec 10) (len : BitVec 32) (addr : BitVec 48) (data : List Byte) (s : State) :
    Host.Outcome State Fault Refusal :=
  .next (if !s.linkUp port then s
    else if !peerShape len.toNat addr.toNat || decide (data.length ≠ len.toNat) then
      (s.owe port 1 (flitsOf data.length)).peerMalformed port (some tid.toNat)
    else s.peerArrive port (.peerWr port tid len addr data))

/-- PEER_RD (R275). -/
def execPeerRd (port : PortId) (tid : BitVec 10) (len : BitVec 32) (addr : BitVec 48) (s : State) :
    Host.Outcome State Fault Refusal :=
  .next (if !s.linkUp port then s
    else if !peerShape len.toNat addr.toNat then (s.owe port 1 0).peerMalformed port (some tid.toNat)
    else s.peerArrive port (.peerRd port tid len addr))

/-- PEER_SIG (R275). -/
def execPeerSig (port : PortId) (tid : BitVec 10) (amount : BitVec 32) (counter : BitVec 16) (s : State) :
    Host.Outcome State Fault Refusal :=
  .next (if !s.linkUp port then s else s.peerArrive port (.peerSig port tid amount counter))

/-! ## Answers from the partner -/

/-- The access of a TID that awaits its answer. -/
def State.awaiting (s : State) (n tid : Nat) : Option PeerAccess :=
  (s.peer n).accesses.find? fun a => a.tid = tid && a.sentAt.isSome && a.reply.isNone

def State.setReply (s : State) (n tid : Nat) (r : Option (List Byte)) : State :=
  s.modPeer n fun x =>
    { x with accesses := x.accesses.map fun a => if a.tid = tid && a.sentAt.isSome && a.reply.isNone then { a with reply := some r } else a }

/-- An access whose every part is answered is done where no other engine waits for it: a host access is answered. -/
def State.closeAccess (s : State) (who : Issuer) : State :=
  if !s.answered who then s
  else match who with
    | .host tag tid =>
      if (s.answers who).isEmpty then s
      else
        let req : Request := { path := .host tag, tid := some tid }
        let read := (List.range 4).any fun n => (s.peer n).accesses.any fun a => a.issuer = who && a.read
        let data := s.answerData who
        let t := s.dropAccesses who
        if s.failedAccess who then t.answer req (.err 5)
        else if read then t.answerRead req data else t.answer req .ok
    | _ => s.forgetAccess who

/-- An access has ended: an error stops its job (R280). -/
def State.endAccess (s : State) (n : Nat) (a : PeerAccess) (r : Option (List Byte)) : State :=
  let t := s.setReply n a.tid r
  let t := if r.isNone then t.peerFailed a.issuer else t
  t.closeAccess a.issuer

/-- A late answer is discarded and counted (R279). -/
def State.lateAnswer (s : State) (n tid : Nat) : State :=
  if (s.peer n).late.any (· = tid) then
    (s.modPeer n fun x => { x with late := x.late.filter fun t => !(t = tid) }).addField (peerBase n + 0x38) 24 8 1
  else s

/-- ACK (R275): the write or the signal is complete. -/
def execAck (port : PortId) (tid : BitVec 10) (s : State) : Host.Outcome State Fault Refusal :=
  .next (if !s.linkUp port then s
    else match s.awaiting port tid.toNat with
      | some a => if a.read then s.peerMalformed port (some tid.toNat) else (s.endAccess port a (some [])).peerWake
      | none => (s.lateAnswer port tid.toNat).peerWake)

/-- NACK (R280). -/
def execNack (port : PortId) (tid : BitVec 10) (cause : BitVec 8) (s : State) : Host.Outcome State Fault Refusal :=
  .next (if !s.linkUp port then s
    else if cause = 0 ∨ 4 < cause.toNat then s.peerMalformed port (some tid.toNat)
    else match s.awaiting port tid.toNat with
      | some a => (s.addField (peerBase port + 0x38) 0 12 1).endAccess port a none |>.peerWake
      | none => (s.lateAnswer port tid.toNat).peerWake)

/-- RDATA (R273): the data of a read. -/
def execRdata (port : PortId) (tid : BitVec 10) (len : BitVec 32) (data : List Byte) (s : State) :
    Host.Outcome State Fault Refusal :=
  .next (if !s.linkUp port then s
    else match s.awaiting port tid.toNat with
      | some a =>
        let want := match a.msg with | .peerRd _ _ _ k => k | _ => 0
        if a.read && decide (len.toNat = want) && decide (data.length = want) then
          (s.endAccess port a (some data)).peerWake
        else s.peerMalformed port (some tid.toNat)
      | none => (s.lateAnswer port tid.toNat).peerWake)

/-- CRD (R274): credits come back, and waiting accesses leave. -/
def execCrd (port : PortId) (req data : BitVec 16) (s : State) : Host.Outcome State Fault Refusal :=
  .next (if !s.linkUp port then s
    else ((s.modPeer port fun x =>
      { x with reqCred := x.reqCred + req.toNat, dataCred := x.dataCred + data.toNat }).pump port).peerWake)

/-- PEER_MESSAGE_MALFORMED (R273). -/
def execPeerMessageMalformed (port : PortId) (tid : Option (BitVec 10)) (s : State) :
    Host.Outcome State Fault Refusal :=
  .next (if s.linkUp port then (s.peerMalformed port (tid.map BitVec.toNat)).peerWake else s)

/-- CREDIT_RETURN_DUE (R274). -/
def execCreditReturnDue (port : PortId) (s : State) : Host.Outcome State Fault Refusal :=
  .next (let x := s.peer port
    if s.linkUp port && (decide (0 < x.owedReq) || decide (0 < x.owedData)) then
      (s.modPeer port fun y => { y with owedReq := 0, owedData := 0 }).send (.peerCrd port x.owedReq x.owedData)
    else s)

/-- PEER_ACCESS_TIMEOUT (R279): the access ends in error; the port stays UP. -/
def execPeerAccessTimeout (port : PortId) (tid : BitVec 10) (s : State) : Host.Outcome State Fault Refusal :=
  .next (match s.awaiting port tid.toNat with
    | some a =>
      if a.sentAt.getD 0 + 2000 * fld (s.regN (peerBase port + 0x14)) 0 16 ≤ s.now then
        ((s.addField (peerBase port + 0x38) 12 12 1).modPeer port fun x =>
          { x with late := x.late ++ [tid.toNat] }).endAccess port a none
      else s
    | none => s)

/-! ## Link states (R277, R278) -/

def State.peerEn (s : State) (n : Nat) : Bool := bitOf (s.regN (peerBase n)) 31

/-- The port enters INIT and sends its BLOCK_ID and the credits it grants (R273, R274). -/
def State.peerInitiate (s : State) (n : Nat) : State :=
  (s.modPeer n fun x => { x with link := .init, since := s.now }).send (.peerInit n 0x51530201 256 4096)

/-- Held-beat counters of every core, by 16 × core + reason. -/
def State.holdCounts (s : State) : Tab Nat :=
  s.cores.flatMap fun e => e.2.holds.map fun h => (16 * e.1 + h.1, h.2.toNat)

/-- Every access of port `n` ends in error, one not yet sent too, and fenced signals for it never leave (R278). -/
def State.loseLink (s : State) (n : Nat) : State :=
  let stuck := (s.peer n).accesses.filter fun a => a.reply.isNone
  let t := s.modPeer n fun x =>
    { x with link := .down, since := s.now, inForce := false, owedReq := 0, owedData := 0
             accesses := x.accesses.map fun a => if a.reply.isNone then { a with reply := some none } else a }
  let t := State.each stuck (fun a u => (u.peerFailed a.issuer).closeAccess a.issuer) t
  State.each t.cores (fun e u =>
    let mine := e.2.outbox.filter fun f => f.dest = 4 + n
    let v := if mine.isEmpty then u
      else u.modCore e.1 fun x => { x with outbox := x.outbox.filter fun f => !(f.dest = 4 + n) }
    State.each mine (fun f w => match f.job with
      | some j => if (w.job j.1 j.2).state = .running then w.raise { src := 303, locs := [], job := some j, tag := none } else w
      | none => w) v) t

/-- PEER_LINK_UP (R277): PPn_LINK_UP rises. -/
def execPeerLinkUp (port : PortId) (s : State) : Host.Outcome State Fault Refusal :=
  .next (let t := s.modPins fun p => { p with linkUp := p.linkUp ||| BitVec.ofNat 4 (2 ^ port.val) }
    if !bitOf s.pins.linkUp.toNat port && s.peerEn port && (s.peer port).link = .down then t.peerInitiate port else t)

/-- PEER_LINK_DOWN (R278): PPn_LINK_UP falls. -/
def execPeerLinkDown (port : PortId) (s : State) : Host.Outcome State Fault Refusal :=
  .next (let t := s.modPins fun p => { p with linkUp := p.linkUp &&& ~~~(BitVec.ofNat 4 (2 ^ port.val)) }
    if (s.peer port).link = .up then (t.loseLink port).raiseBlock 302
    else t.modPeer port fun x => { x with link := .down, since := s.now })

/-- INIT (R277): the partner's credits and version. -/
def execInit (port : PortId) (blockId : BitVec 32) (req data : BitVec 16) (s : State) :
    Host.Outcome State Fault Refusal :=
  .next (let major := fld blockId.toNat 8 8
    match (s.peer port).link with
    | .init =>
      if major = 2 then
        (s.modPeer port fun x =>
          { x with link := .up, since := s.now, major := major, reqCred := req.toNat, dataCred := data.toNat,
                   paceAt := s.now, paceBase := s.holdCounts, late := [] }).pump port
      else (s.modPeer port fun x => { x with link := .failed, since := s.now, major := major }).raiseBlock 301
    | .up => s.modPeer port fun x => { x with major := major }
    | _ => s)

/-- PEER_INIT_TIMEOUT (R277): no INIT within 1 ms. -/
def execPeerInitTimeout (port : PortId) (s : State) : Host.Outcome State Fault Refusal :=
  .next (if (s.peer port).link = .init && decide ((s.peer port).since + 2000000 ≤ s.now) then
      (s.modPeer port fun x => { x with link := .failed, since := s.now }).raiseBlock 301
    else s)

/-! ## Pace (R281 to R283) -/

/-- PACE (R282): the latest notice of a port; in force while its F is not zero. -/
def execPace (port : PortId) (f : BitVec 16) (reason period : BitVec 8) (seq : BitVec 32) (s : State) :
    Host.Outcome State Fault Refusal :=
  .next (if !s.linkUp port then s
    else if 1024 < f.toNat ∨ 12 < reason.toNat ∨ period = 0 ∨ 64 < period.toNat then s.peerMalformed port none
    else
      let t := s.modPeer port fun x =>
        { x with rx := ⟨f.toNat, period.toNat, reason.toNat, seq.toNat⟩, inForce := decide (1 ≤ f.toNat), rxBeat := s.now }
      let t := if f = 0 then t
        else State.each ((List.range 16).filter fun j => (t.job (s.portOwner port) j).state = .running)
          (fun j u => u.modJob (s.portOwner port) j fun x => { x with loud := true }) t
      t.peerWake)

/-- PACE_EXPIRE (R282): twice the period has passed. -/
def execPaceExpire (port : PortId) (s : State) : Host.Outcome State Fault Refusal :=
  .next (let x := s.peer port
    if x.inForce && decide (x.rxBeat + 4000 * x.rx.period ≤ s.now) then
      s.modPeer port fun y => { y with inForce := false }
    else s)

/-- Held beats that core `c` counted for a reason since the pace period began. -/
def State.paceHeld (s : State) (n c reason : Nat) : Nat :=
  (tabGet (fun _ => 0#64) (s.core c).holds reason).toNat - tabGet (fun _ => 0) (s.peer n).paceBase (16 * c + reason)

/-- F of one region and the reason with the most held beats (R281). -/
def State.regionPace (s : State) (n r beats : Nat) : Nat × Nat :=
  let cs := (coresOf r).filter fun c => (s.core c).seq.bound
  let by' := (List.range 12).map fun i => (cs.map fun c => s.paceHeld n c (i + 1)).foldl (· + ·) 0
  let held := by'.foldl (· + ·) 0
  let den := cs.length * beats
  let f := if den = 0 then 0 else (1024 * held + den - 1) / den
  let most := by'.foldl max 0
  (min f 1024, if f = 0 then 0 else by'.findIdx (· = most) + 1)

/-- F and REASON of the port's partition: the greatest of its regions, the first of equals. -/
def State.partPace (s : State) (n beats : Nat) : Nat × Nat :=
  (bitsOf 16 (s.partRegions (s.portOwner n))).foldl (fun m r =>
    let x := s.regionPace n r beats
    if m.1 < x.1 then x else m) (0, 0)

def pacePeriod (s : State) (n : Nat) : Nat := fld (s.regN (peerBase n + 0x18)) 24 6

/-- PACE_PERIOD_END (R281): the period's F is sent when it is not zero, and once when it has become zero. -/
def execPacePeriodEnd (port : PortId) (s : State) : Host.Outcome State Fault Refusal :=
  .next (let x := s.peer port
    let us := pacePeriod s port
    if s.linkUp port && decide (x.paceAt + 2000 * us ≤ s.now) then
      let p := s.partPace port (s.now - x.paceAt)
      let t := s.modPeer port fun y => { y with paceAt := s.now, paceBase := s.holdCounts }
      if 1 ≤ p.1 ∨ 1 ≤ x.tx.f then
        let seq := (x.tx.seq + 1) % 2 ^ 32
        (t.modPeer port fun y => { y with tx := ⟨p.1, us, p.2, seq⟩ }).send (.peerPace port p.1 p.2 us seq)
      else t
    else s)

/-! ## Register writes (R271, R475) -/

/-- A job of partition `p` runs. -/
def State.partRuns (s : State) (p : Nat) : Bool := (List.range 16).any fun j => (s.job p j).state = .running

/-- PEER_CTRL: the side-band alone moves the port to another partition, while no job of its partition runs; EN = 0 takes the
port down. -/
def State.writePeerCtrl (s : State) (path : Path) (n v : Nat) : Option State :=
  let o := peerBase n
  let moves := decide (fld v 0 3 ≠ s.portOwner n)
  if moves && (!(path = .side) || s.partRuns (s.portOwner n)) then none
  else
    let t := s.putReg o (at' 31 1 (fld v 31 1) + fld v 0 3)
    some (if bitOf v 31 then t
      else if (s.peer n).link = .up then t.loseLink n
      else t.modPeer n fun x => { x with link := .down, since := s.now })

/-- Registers of port `n` at offset `o`. `loads`: the image loads PEER_TIMEOUT. -/
def State.writePeer (s : State) (path : Path) (n o v : Nat) (loads : Bool) : Option State :=
  let b := peerBase n
  let fixed := !(path = .side) || s.partRuns (s.portOwner n)
  match o with
  | 0x00 => s.writePeerCtrl path n v
  | 0x08 | 0x0C => if fixed then none else some (s.putReg (b + o) (fld v 0 21))
  | 0x10 =>
    let lo := fld v 0 16
    let hi := fld v 16 16
    let inside := (bitsOf 16 (s.partRegions (s.portOwner n)))
    let ok := decide (hi < lo) ||
      (List.range 16).all fun r => !(decide (lo / 4096 ≤ r) && decide (r ≤ hi / 4096)) || inside.any (· = r)
    if fixed || !ok then none else some (s.putReg (b + o) v)
  | 0x14 => if path = .side || loads then some (s.putReg (b + o) (max 1 (fld v 0 16))) else none
  | 0x18 =>
    some (s.putReg (b + o) (at' 31 1 (fld v 31 1) + at' 24 6 (clampTo 1 64 (fld v 24 6)) + min 20 (fld v 0 5)))
  | _ => some s

end Sys2Proof.Machine
end

