-- ==== Sys2Proof/Machine/Measure.lean ====
section
/-! DEFINITION. Exact ratios, and the measured quantities that the loop engines, the arbiter and the reports use: channel means
and held peaks in amperes and volts (R286, R374, R383).

Marks: DEDUCED (log entry 41). -/

namespace Sys2Proof.Machine

/-! ## Ratios -/

/-- A quantity that is not negative, as an exact fraction. -/
structure Ratio where
  num : Nat
  den : Nat
  deriving DecidableEq, Repr

def Ratio.ofNat (n : Nat) : Ratio := ⟨n, 1⟩
def Ratio.zero : Ratio := ⟨0, 1⟩
def Ratio.add (a b : Ratio) : Ratio := ⟨a.num * b.den + b.num * a.den, a.den * b.den⟩
/-- Difference, or zero where it would be negative. -/
def Ratio.sub (a b : Ratio) : Ratio := ⟨a.num * b.den - b.num * a.den, a.den * b.den⟩
def Ratio.mul (a b : Ratio) : Ratio := ⟨a.num * b.num, a.den * b.den⟩
def Ratio.div (a b : Ratio) : Ratio := ⟨a.num * b.den, a.den * b.num⟩
def Ratio.le (a b : Ratio) : Bool := decide (a.num * b.den ≤ b.num * a.den)
def Ratio.max (a b : Ratio) : Ratio := if a.le b then b else a
def Ratio.min (a b : Ratio) : Ratio := if a.le b then a else b
def Ratio.floor (a : Ratio) : Nat := a.num / a.den
def Ratio.isZero (a : Ratio) : Bool := a.num = 0
def Ratio.sum (l : List Ratio) : Ratio := l.foldl Ratio.add .zero

/-- Twice the median of a list of readings. -/
def medianTwice (l : List Int) : Int :=
  let t := sortBy id l
  let n := t.length
  t.getD ((n - 1) / 2) 0 + t.getD (n / 2) 0

/-! ## Channels (Table — Telemetry channels) -/

def tlmReg (r o : Nat) : Nat := regionBase r + 0x60000 + o

/-- Reference selection of region `r`: 0 internal, 1 external, 2 supply. -/
def State.refSel (s : State) (r : Nat) : Nat := fld (s.regN (tlmReg r 0)) 0 2

/-- Ratio of the reference of region `r` to 1.200 V (R380): of VREF_EXT, or of the region's service rail as last sensed. -/
def State.refRatio (s : State) (r : Nat) : Ratio :=
  if s.refSel r = 0 then ⟨1, 1⟩
  else if s.refSel r = 1 then ⟨s.pins.vrefUV, 1200000⟩
  else ⟨(s.vr (256 + r)).sensed, 1200000⟩

def chanDefault (_ : Nat) : TlmChan := TlmChan.initial
def State.tlmChan (s : State) (r k : Nat) : TlmChan := tabGet chanDefault (s.tlmR r).chans k
def State.modChanT (s : State) (r k : Nat) (f : TlmChan → TlmChan) : State :=
  s.modTlm r fun x => { x with chans := tabSet chanDefault x.chans k (f (tabGet chanDefault x.chans k)) }

/-- Full scale of a channel with the internal reference, in tenths of an ampere or volt. -/
def fullScale (k : Nat) : Nat :=
  if k < 16 ∨ k = 32 then 320
  else if k = 35 then 1280
  else if k = 37 then 20
  else if k = 34 then 24
  else 12

/-- One corrected unit of channel `k` of region `r`, in A or V. -/
def State.unit (s : State) (r k : Nat) : Ratio := (Ratio.mk (fullScale k) 655360).mul (s.refRatio r)

/-- Interval mean of a channel, in A or V. -/
def State.meanOf (s : State) (r k : Nat) : Ratio :=
  let x := s.tlmChan r k
  if x.mCount = 0 then .zero else (Ratio.mk x.mSum x.mCount).mul (s.unit r k)

/-- 1 µs held peak of a channel, in A or V. -/
def State.peakOf (s : State) (r k : Nat) : Ratio := (Ratio.ofNat (s.tlmChan r k).peak).mul (s.unit r k)

/-- Held peak of a channel in its internal units, as the arbiter and the tie search compare it. -/
def State.peakUnits (s : State) (r k : Nat) : Nat := ((Ratio.ofNat (s.tlmChan r k).peak).mul (s.refRatio r)).floor

/-- Held peak of IPIL of region `g`, in units of 128 A / 65,536. -/
def State.ipilPeak (s : State) (g : Nat) : Nat := s.peakUnits g 35

/-- Every converter of region `r` starts its sequence in this beat. -/
def State.restartSlots (s : State) (r : Nat) : State :=
  s.modTlm r fun x =>
    { x with entry := [], slots := [], ended := (List.range 8).foldl (fun t k => tabSet (fun _ => 0) t k s.now) [] }

/-- Group limit GL_g in A (R287). -/
def State.groupLimit (s : State) (g : Nat) : Nat := if (s.loop g).derated then fld (s.regN 0x4010D0) 24 8 else 75

/-- The core is powered: RAMPING, ON, TIED or CARRIER. -/
def State.powered (s : State) (c : Nat) : Bool := s.railOn c || s.pstate c = .ramping

/-- The service rail of region `r` is up: from the first loop sample at which it lay within 10 mV of its set-point until it is
turned off (R391). -/
def State.serviceLive (s : State) (r : Nat) : Bool := s.serviceOn r && (s.vr (256 + r)).live

/-- The beat, plus one, since which a condition holds. -/
def since (now before : Nat) (holds : Bool) : Nat := if !holds then 0 else if before = 0 then now + 1 else before

/-- The condition has held for `n` beats. -/
def lasted (now before n : Nat) : Bool := decide (before ≠ 0) && decide (before + n ≤ now + 1)

/-- The condition of REF_SETTLED holds (R380): 20 µs since the service rail came within 10 mV of its set-point, VREF_EXT within range
for 100 µs, or the service rail within 10 mV. -/
def State.refGood (s : State) (r : Nat) : Bool :=
  match s.refSel r with
  | 0 => lasted s.now (s.vr (256 + r)).nearSince 40000
  | 1 => lasted s.now s.pins.vrefSince 200000
  | _ => decide ((s.vr (256 + r)).nearSince ≠ 0)

/-- REF_SETTLED: the reference has settled since the last write of REF, and is usable. -/
def State.refUsable (s : State) (r : Nat) : Bool := (s.tlmR r).settled && s.serviceOn r && s.refGood r

/-- The domain that channel `k` measures is powered (R383). The spot channel has none. -/
def State.domainOn (s : State) (r k : Nat) : Bool :=
  if !s.serviceOn r then false
  else if k < 32 then s.powered (16 * r + k % 16)
  else decide (k < 39)

end Sys2Proof.Machine
end

