-- ==== Sys2Proof/Machine/Sluice.lean ====
section
/-! DEFINITION. Allowances and the sluice (R19 to R22, R88, R345 to R349, R489): the sources of a core's allowance, the holds of a
beat, and their decision anew where an allowance changes within the beat.

Marks: DESIGN CHOICE (log entry 32), DEDUCED (log entry 42). -/

namespace Sys2Proof.Machine

/-! ## Allowances (R345, R348) -/

def xholdDefault (_ : Nat) : Nat × Nat := (1024, 0)

/-- Sources of the allowance of core `c`: reason and value. -/
def State.sources (s : State) (c : Nat) : List (Nat × Nat) :=
  let p := (s.core c).power
  let r := c / 16
  [(1, p.loops.cap0), (2, p.loops.cap1), (3, p.loops.cap2), (4, min p.loops.cur p.loops.svc), (5, p.loops.thm),
   (6, p.loops.pil)] ++
  (if 0 < p.missLeft then [(7, fld (s.regN (lpeReg r 0x10)) 0 11)] else []) ++
  (if p.tying.isSome || (p.state = .carrier && p.out) then [(8, 0)] else if p.state = .tied then [(8, 512)] else []) ++
  (if s.coolantHeld || s.power.cool.isSome then [(9, 0)] else []) ++
  (if (List.range 16).any fun g => (s.loop g).capped.any (· = r) then [(10, fld (s.regN 0x4010C0) 16 10)] else []) ++
  (match s.regionOwner r with
   | some q => [(11, (tabGet xholdDefault s.power.xhold q).1)]
   | none => [])

/-- Least of the values, and the earliest reason that has it. -/
def leastSource (l : List (Nat × Nat)) : Nat × Nat :=
  l.foldl (fun m x => if x.2 < m.2 then x else m) (0, 1024)

/-- Allowance A of core `c`. -/
def State.allowance (s : State) (c : Nat) : Nat := (leastSource (s.sources c)).2

/-! ## Forced holds (R326, R348, R489) -/

def lfsrDefault (_ : Nat) : BitVec 32 := 0

/-- LFSR of region `r`. -/
def State.lfsr (s : State) (r : Nat) : BitVec 32 := tabGet lfsrDefault s.perturb.lfsr r

def tstReg (o : Nat) : Nat := 0x1F00000 + o

/-- The unit injects a held beat into core `c` now (R489). -/
def State.injectedHold (s : State) (c : Nat) : Bool :=
  s.perturb.unlocked && bitOf (s.regN (tstReg (0x10 + 4 * (c / 32)))) (c % 32) &&
    decide (fld (s.lfsr (c / 16)).toNat (c % 16) 10 < fld (s.regN (tstReg 0xC)) 0 10)

/-- Reasons and allowances that hold core `c` in the present beat, its sluice register having advanced (R22, R348). -/
def State.holdReasons (s : State) (c : Nat) : List (Nat × Nat) :=
  let p := (s.core c).power
  (if 1024 ≤ p.acc then [leastSource (s.sources c)] else []) ++
  (if p.clampNow || p.brownOut then [(4, 0)] else []) ++
  (if s.injectedHold c then [(12, 1024)] else [])

/-! ## The hold of a beat -/

/-- Cores that are clocked. -/
def State.clocked (s : State) : List Nat := (List.range 256).filter s.powered

/-- The sluice register of core `c` advances by the beat's allowance, in place of what it gained in this beat so far (R347), and
the core's own hold of the beat is decided. -/
def State.judgeHold (s : State) (c : Nat) : State :=
  let a := s.allowance c
  let t := s.modCore c fun x =>
    { x with
      power := { x.power with acc := (x.power.acc + 2048 - x.power.adv + (1024 - a)) % 2048, adv := 1024 - a }
      seq := { x.seq with held := false, owed := false, why := (0, 0) } }
  match firstReason (t.holdReasons c) with
  | some w => t.modSeq c fun q => { q with held := true, why := w }
  | none => t

/-- Nothing of the beat has been issued or held at core `c` or in its group. -/
def State.holdOpen (s : State) (c : Nat) : Bool :=
  (c :: s.groupOf c).all fun d =>
    let x := s.core d
    x.seq.slots = 0 && !x.seq.issued && !x.power.taken

/-- Allowances or forced holds have changed within the beat: the holds of those cores that have neither issued nor been held in it
are decided again, so that a ceiling acts in the beat in which its condition begins (R346) and an output in its application beat
(R343). A core that has begun to issue meets the change in its next beat (log entry 32). -/
def State.rehold (s : State) : State :=
  let cs := s.clocked.filter s.holdOpen
  let t := State.each cs (fun c u => u.judgeHold c) s
  State.each (cs.filter fun c => (t.core c).seq.bound) (fun c u => u.shareHold c) t

/-- The beats of the PWM period after a limited one are held, 16 in all (R326), from the present beat where it is open. -/
def State.clampHold (s : State) (cs : List Nat) : State :=
  (State.each cs (fun c u =>
    let now := u.holdOpen c
    u.modPower c fun p => { p with clampNow := p.clampNow || now, clampLeft := if now then 15 else 16 }) s).rehold

end Sys2Proof.Machine
end

