-- ==== Sys2Proof/Machine/Regulator.lean ====
section
/-! DEFINITION. Regulators (chapter 12, R316 to R341), voltage sense and ties (R293 to R296, R303 to R309), core power
requests, the inrush arbiter and retention (R297 to R302, R311 to R313). Regulators 0 to 255 are the cores', 256 + r is the
service regulator of region r.

A regulator is sampled at its PWM period boundaries (PWM_PERIOD): the period that ends is judged with the values computed for it,
and those of the next are computed. What an event needs of the time before is kept there, and the event's command tests it.

Marks: DEDUCED (log entry 40). -/

namespace Sys2Proof.Machine

/-! ## Registers and phases -/

def vrRegion (v : Nat) : Nat := if v < 256 then v / 16 else v - 256
def vrBase (v : Nat) : Nat :=
  if v < 256 then regionBase (v / 16) + 0x100 * (v % 16) else regionBase (v - 256) + 0x20000
def vrComp (v : Nat) : Nat :=
  if v < 256 then regionBase (v / 16) + 0x1000 else regionBase (v - 256) + 0x20020

/-- Location source of a regulator's events. -/
def vrLoc (v : Nat) : Nat := if v < 256 then v else 256 + (v - 256)

def State.vrCtrl (s : State) (v : Nat) : Nat := s.regN (vrBase v)
def State.shedEn (s : State) (v : Nat) : Bool := bitOf (s.vrCtrl v) 1

/-- The phases switch: in soft start, in normal operation, and while a failed regulator steers its rail to its carrier's (R304). -/
def Vr.running (x : Vr) : Bool := x.state = .softStart || x.state = .run || (x.state = .failed && x.steer)

/-- Phases that switch at a level of R327. -/
def phasesAt (level : Nat) : List Nat := (List.range 8).filter fun p => p % (8 / max 1 level) = 0

/-- Phases that switch (R327), those included that leave in a shed step in progress (R328); none while the regulator is off. -/
def Vr.switching (x : Vr) : List Nat :=
  if !x.running then []
  else if x.enabled = 0xFF then phasesAt x.leaving
  else bitsOf 8 x.enabled.toNat

def Vr.phasesOn (x : Vr) : Nat := popCount 8 x.enabled.toNat

/-! ## Set-point (R371, R309) -/

/-- Guard above VF, in steps of 2.5 mV. -/
def State.guardOf (s : State) (c : Nat) : Nat := fld (s.regN (lpeReg (c / 16) 0x14)) 0 4

/-- Set-point of core `c`, in steps of 2.5 mV above 0.55 V. -/
def State.setCode (s : State) (c : Nat) : Nat :=
  let p := (s.core c).power
  let own := max p.vf (min 160 (p.vf + s.guardOf c + p.boost) - p.paceCut)
  match p.partner with
  | some d =>
    if (s.pstate c = .carrier) then
      let tied := (s.core d).power.vf + s.guardOf d
      if p.out then tied else max own tied
    else own
  | none => own

/-- Set-point of a regulator in µV. -/
def State.setUV (s : State) (v : Nat) : Nat :=
  if v < 256 then 550000 + 2500 * s.setCode v else 700000 + 2500 * fld (s.regN (vrBase v + 0x10)) 0 8

/-- Voltage that regulator `v` moves its rail to, in µV: its set-point, or its carrier's before a tie closes (R304). -/
def State.aimUV (s : State) (v : Nat) : Nat :=
  if v < 256 && (s.vr v).steer then
    match (s.core v).power.tying with
    | some d => s.setUV d
    | none => s.setUV v
  else s.setUV v

/-- The regulator runs, and its rail is within `d` µV of the set-point, as last sensed. -/
def State.railNear (s : State) (v d : Nat) : Bool :=
  (s.vr v).running && decide (natDist (s.vr v).sensed (s.setUV v) ≤ d)

/-- Regulator that feeds core `c`: its own, or its carrier's once its own has failed. -/
def State.feeder (s : State) (c : Nat) : Nat :=
  match (s.vr c).state, (s.core c).power.partner with
  | .failed, some d => d.val
  | _, _ => c

/-! ## Soft start (R339, R340) -/

/-- A soft start begins: settings are latched, suspects and exclusions are released. `slope`: rise in 50 µs; `zero`: the reference
starts from 0 V, not from the rail's voltage. -/
def State.softStart (s : State) (v slope : Nat) (zero : Bool) : State :=
  let ctrl := s.reg (vrBase v)
  let goal := if v < 256 then 0 else s.setUV v
  let t := s.modVr v fun x =>
    { x with state := .softStart, suspect := 0, level := 8, leaving := 8, busyTo := 0, suspended := none, clamp := false, ocRun := 0,
             trim := [], startAt := s.now, startRef := if zero then some 0 else none, slope := slope, goalUV := goal,
             waitsFor := none, steer := false, ic := [], lastErr := 0, control := [], drive := [], pulsed := [], tripped := false,
             tripLim := false, lxsRun := [], senseRun := [], devRun := [], starts := 0, followed := 0, outs := [],
             sensed := 0, farSince := [], remoteSince := 0, lowSince := 0, live := false, nearSince := 0,
             comp := s.reg (vrComp v), ctrl := ctrl }
  if v < 256 then t.modPower v fun p => { p with excluded := 0, sense := bitOf ctrl.toNat 0, senseNext := none } else t

/-- The service rail of region `r` is at or above 90 % of its set-point. -/
def State.serviceNinety (s : State) (r : Nat) : Bool :=
  (s.vr (256 + r)).running && decide (9 * s.setUV (256 + r) ≤ 10 * (s.vr (256 + r)).sensed)

/-- A core's soft start outside tracking begins, or waits for the region's service rail (R339, R340). -/
def State.startVr (s : State) (c : Nat) : State :=
  if s.serviceNinety (c / 16) then s.softStart c (s.setUV c) false
  else s.modVr c fun x => { x with waitsFor := some (s.setUV c), sensed := 0 }

/-- A soft start that waited begins. -/
def State.startDue (s : State) (v : Nat) : State :=
  match (s.vr v).waitsFor with
  | some n => if s.serviceNinety (vrRegion v) then s.softStart v n false else s
  | none => s

/-- Reference of the period that begins: of a soft start `n` beats after it began (R339, R340), and of a slew (R322). -/
def Vr.reference (x : Vr) (now set : Nat) : Nat :=
  match x.state with
  | .softStart => min (if x.goalUV = 0 then set else x.goalUV) (x.startRef.getD 0 + x.slope * (now - x.startAt) / 100000)
  | .run | .failed => if x.refUV < set then min set (x.refUV + 2000) else max set (x.refUV - 2000)
  | _ => 0

/-! ## What the sensors show (R293 to R296) -/

/-- On-die sensors in use: those not excluded. -/
def sensorsIn (sensors : List Nat) (excluded : BitVec 8) : List Nat :=
  ((List.zip (List.range sensors.length) sensors).filter fun e => !bitOf excluded.toNat e.1).map (·.2)

def leastOf : List Nat → Nat
  | [] => 0
  | a :: l => l.foldl min a

/-- `u` µV differs from the median of the list by more than `d`. -/
def departs (u : Nat) (l : List Nat) (d : Nat) : Bool :=
  decide (2 * d < (2 * Int.ofNat u - medianTwice (l.map Int.ofNat)).natAbs)

def State.excludedOf (s : State) (v : Nat) : BitVec 8 := if v < 256 then (s.core v).power.excluded else 0

/-- The sensed voltage, as the sense selection gives it (R293). -/
def State.senseUV (s : State) (v : Nat) (inp : PwmInput) : Nat :=
  let l := sensorsIn inp.sensors (s.excludedOf v)
  if v < 256 && ((s.core v).power.sense || l.isEmpty) then inp.remoteUV else leastOf l

/-- Set-point that the rail of a core is held at: a tied core's is its carrier's (R297). -/
def State.jointUV (s : State) (v : Nat) : Nat := if v < 256 && s.pstate v = .tied then s.setUV (s.feeder v) else s.setUV v

def stageDefault (_ : Nat) : BitVec 8 := 0

/-- The sensors and stages of regulator `v` are read at a boundary, whether it runs or not. -/
def State.observe (s : State) (v : Nat) (inp : PwmInput) : State :=
  let l := sensorsIn inp.sensors (s.excludedOf v)
  let u := s.senseUV v inp
  s.modVr v fun x =>
    { x with sensors := inp.sensors, sensed := u
             farSince := (List.range 8).foldl (fun t k =>
               tabSet (fun _ => 0) t k (since s.now (tabGet (fun _ => 0) x.farSince k)
                 (decide (k < inp.sensors.length) && departs (inp.sensors.getD k 0) inp.sensors 30000))) []
             remoteSince := since s.now x.remoteSince (!l.isEmpty && departs inp.remoteUV l 50000)
             lowSince := since s.now x.lowSince (!l.isEmpty && decide (leastOf l + 100000 < s.jointUV v))
             nearSince := since s.now x.nearSince (x.running && decide (natDist u (s.setUV v) ≤ 10000))
             stage := (List.range 4).foldl (fun t k => tabSet stageDefault t k (inp.stages.getD k (tabGet stageDefault x.stage k))) x.stage
             periodAt := s.now + 1 }

/-! ## The PWM period (R316 to R321, R326) -/

/-- Load line: LL × 0.05 mV/A times the mean output current of the last 16 periods, in µV. -/
def loadLine (ll : Nat) (outs : List Nat) : Nat :=
  if outs.isEmpty then 0 else ll * outs.foldl (· + ·) 0 / (20 * outs.length)

/-- Clamp of a phase: 3.0 A + ΔI / 2, in µA (R319). -/
def clampUA (vpil vout : Int) : Int :=
  if vpil ≤ 0 then 3000000 else 3000000 + (vpil - vout) * vout * 16 / (vpil * 3 * 2)

def perPhase (f : Nat → Int) : Tab Int := (List.range 8).foldl (fun t p => tabSet (fun _ => 0) t p (f p)) []

def phaseOf (l : List PhaseIn) (p : Nat) : PhaseIn := l.getD p ⟨0, 0, 0, true, false⟩

/-- Picoseconds after its start at which a current that lies `gap` µA below a level and closes on it at `rate` µA/ns reaches it, at
most `limit`. -/
def reaches (gap rate : Int) (limit : Nat) : Nat :=
  if gap ≤ 0 then 0 else if rate ≤ 0 then limit else min limit ((gap * 1000 + rate - 1) / rate).toNat

/-- The pulse of a phase: its length in ps, and whether it ended at the clamp (R316). -/
def pulseOf (drive ramp clamp : Int) (q : PhaseIn) : Nat × Bool :=
  let a := reaches (drive - q.startUA) (q.riseUA + ramp) 7500
  let b := reaches (clamp - q.startUA) q.riseUA 7500
  (min a b, decide (b < 7500) && decide (b ≤ a))

/-- Sum of the currents of the other switching phases, and their number. -/
def siblings (sw : List Nat) (mA : Nat → Int) (p : Nat) : Int × Int :=
  let l := sw.filter (· ≠ p)
  (l.foldl (fun n q => n + mA q) 0, Int.ofNat l.length)

/-- A phase's current departs from the mean of its switching siblings by more than 40 %. -/
def farOff (sw : List Nat) (mA : Nat → Int) (p : Nat) : Bool :=
  let m := siblings sw mA p
  decide (0 < m.2) && decide (2 * m.1.natAbs < 5 * (m.2 * mA p - m.1).natAbs)

/-- The sense of a phase has failed in a period (R325). -/
def badSense (sw : List Nat) (l : List PhaseIn) (p : Nat) : Bool :=
  let q := phaseOf l p
  q.full || (decide (q.meanMA = 0) && q.follows &&
    (sw.filter (· ≠ p)).all fun r => decide (500 ≤ (phaseOf l r).meanMA))

def runOf (t : Tab Nat) (p : Nat) : Nat := tabGet (fun _ => 0) t p

/-- The period that ends: its pulses, whether it was limited, its output current, and the counts of R324 and R325. -/
def Vr.judge (x : Vr) (inp : PwmInput) : Vr :=
  let ps := x.pulsed
  let pulse := fun p => pulseOf (tabGet (fun _ => 0) x.drive p) x.ramp x.peakUA (phaseOf inp.phases p)
  let lim := (ps.filter fun p => (pulse p).2).length
  let limited := x.tripLim || (decide (0 < ps.length) && decide (ps.length ≤ 2 * lim))
  let mA := fun p => (phaseOf inp.phases p).meanMA
  let out := (ps.foldl (fun n p => n + mA p) 0).toNat
  let count := fun (old : Tab Nat) (hit : Nat → Bool) =>
    ps.foldl (fun t p => tabSet (fun _ => 0) t p (if hit p then runOf old p + 1 else 0)) old
  { x with
    clamp := limited, ocRun := if limited then min 64 (x.ocRun + 1) else 0
    highSide := ps.foldl (fun t p => tabSet (fun _ => (0, 0)) t p (1000 * p, 1000 * p + (pulse p).1)) []
    outs := if ps.isEmpty then x.outs else (out :: x.outs).take 16
    lxsRun := count x.lxsRun fun p => !(phaseOf inp.phases p).follows
    senseRun := count x.senseRun fun p => badSense ps inp.phases p
    devRun := count x.devRun fun p => decide (500 * ps.length ≤ out) && farOff ps mA p
    starts := if x.state = .softStart && !ps.isEmpty then x.starts + 1 else x.starts
    followed := ps.foldl (fun b p => if (phaseOf inp.phases p).follows then b ||| BitVec.ofNat 8 (2 ^ p) else b) x.followed }

/-- A HINT's request stands on the regulator (R367, step 1). -/
def State.hintStands (s : State) (v : Nat) : Bool :=
  let on := fun (c : Nat) => (s.core c).hints.any (·.prep)
  if v < 256 then on v else (coresOf (v - 256)).any on

/-- The output current asks for every phase (R329). -/
def State.overShed (s : State) (v : Nat) : Bool :=
  let x := s.vr v
  decide (x.switching.length * fld (s.regN (vrBase v + 4)) 8 8 * 100 < x.outs.headD 0)

/-- All eight phases switch again, and a shed in progress ends. -/
def Vr.addBack (x : Vr) (now : Nat) : Vr :=
  if x.level = 8 && decide (x.busyTo ≤ now) then x else { x with level := 8, leaving := 8, busyTo := now, lastStep := now }

/-- Cores whose beats a limited period of the regulator holds (R326). -/
def clampCores (v : Nat) : List Nat := if v < 256 then [v] else coresOf (v - 256)

def trimDefault (_ : Nat) : Int := 0

/-- The period that begins: target, control currents with trim and feed-forward, slope ramp and clamp (R317 to R323). The control
current of a phase that leaves in a shed step falls to zero over the step (R328). After an undershoot the law goes on from each
phase's sensed current (R330). -/
def Vr.period (x : Vr) (now set ll : Nat) (ff bal : Bool) (inp : PwmInput) : Vr :=
  let x := { x with startRef := some (x.startRef.getD x.sensed)
                    leaving := if x.busyTo ≤ now then x.level else x.leaving }
  let ref := x.reference now set
  let target : Int := Int.ofNat ref - Int.ofNat (loadLine ll x.outs)
  let e := target - Int.ofNat x.sensed
  let kp := Int.ofNat (fld x.comp.toNat 16 8)
  let ki := Int.ofNat (fld x.comp.toNat 8 8)
  let last := fun (t : Tab Int) (p : Nat) => if x.tripped then (phaseOf inp.phases p).startUA else tabGet trimDefault t p
  let ic := perPhase fun p => last x.ic p + 10 * kp * (e - x.lastErr) + ki * e
  let control := perPhase fun p => Config.onePole (fld x.comp.toNat 0 8) (last x.control p) (tabGet trimDefault ic p)
  let trim := if bal && !(x.state = .softStart) then x.trim else []
  let scale := fun (z : Int) => if ff && decide (0 < inp.vpilUV) then z * 1800000 / Int.ofNat inp.vpilUV else z
  let left := fun (p : Nat) (z : Int) =>
    if (phasesAt x.level).any (· = p) then z else z * Int.ofNat (x.busyTo - now) / 256
  let ended := x.state = .softStart && decide ((if x.goalUV = 0 then set else x.goalUV) ≤ ref)
  { x with refUV := ref, target := target, lastErr := e, ic := ic, control := control, trim := trim
           drive := perPhase fun p => left p (scale (tabGet trimDefault control p + 40000 * tabGet trimDefault trim p))
           ramp := scale (50000 * Int.ofNat (fld x.ctrl.toNat 24 5))
           peakUA := clampUA (Int.ofNat inp.vpilUV) target, pulsed := x.switching, tripped := false, tripLim := false
           state := if ended then .run else x.state, lastStep := if ended then now else x.lastStep }

/-! ## Balancing and suspects (R323, R324) -/

/-- Trim step of a phase toward the mean of its siblings, in units of 40 mA. -/
def trimStep (sw : List Nat) (mA : List Int) (p : Nat) : Int :=
  let m := siblings sw (fun q => mA.getD q 0) p
  let d := m.2 * mA.getD p 0 - m.1
  if m.2 = 0 then 0 else if 60 * m.2 < d then -1 else if d < -60 * m.2 then 1 else 0

/-- PHASE_BALANCE (R323): once every 16 periods; the trim of a suspect phase is frozen. -/
def execPhaseBalance (vr : VrId) (mA : List Int) (s : State) : Host.Outcome State Fault Refusal :=
  .next (let x := s.vr vr
    if x.state = .run && bitOf (s.vrCtrl vr) 3 && (decide (x.lastBal = 0) || decide (x.lastBal + 256 ≤ s.now)) then
      let step := fun (t : Tab Int) (p : Nat) =>
        if bitOf x.suspect.toNat p then t
        else
          let v := tabGet trimDefault t p + trimStep x.switching mA p
          tabSet trimDefault t p (if v < -7 then -7 else if 7 < v then 7 else v)
      s.modVr vr fun y => { y with trim := x.switching.foldl step y.trim, lastBal := s.now }
    else s)

/-- An event of a regulator, at its core or its region. -/
def State.raiseVr (s : State) (src v : Nat) : State := s.raise { src := src, locs := [vrLoc v], job := none, tag := none }

def phaseBit (p : Nat) : BitVec 8 := BitVec.ofNat 8 (2 ^ p)

/-- PHASE_SUSPECT (R324): 64 consecutive periods 40 % off the mean of its siblings. -/
def execPhaseSuspect (vr : VrId) (ph : Fin 8) (s : State) : Host.Outcome State Fault Refusal :=
  .next (let x := s.vr vr
    if x.state = .run && x.switching.any (· = ph.val) && !bitOf x.suspect.toNat ph && decide (64 ≤ runOf x.devRun ph) then
      (s.modVr vr fun y => { y with suspect := y.suspect ||| phaseBit ph }).raiseVr 309 vr
    else s)

/-! ## Failure, ties (R303 to R309, R337, R338) -/

def heldPeak (s : State) (c : Nat) : Nat := (s.core c).power.peaks.foldl max 0

/-- Spare current of core `d` in units of 32 A / 65,536: its continuous rating less its greatest held peak of 1 ms. -/
def State.spare (s : State) (d : Nat) : Nat := 4096 * (s.vr d).phasesOn - heldPeak s d

/-- Neighbour `d` may carry core `c` (R303). -/
def State.carries (s : State) (c d : Nat) (wasOn : Bool) : Bool :=
  let sameOwner := match s.regionOwner (c / 16), s.regionOwner (d / 16) with
    | some p, some q => decide (p = q)
    | _, _ => false
  s.pstate d = .on && !(s.core d).power.out && (s.vr d).state = .run &&
    !(s.cores.any fun e => e.2.power.tying.map (·.val) = some d) &&
    (decide (c / 16 = d / 16) || sameOwner) && decide ((s.core c).power.vf ≤ s.setCode d) &&
    decide (if wasOn then (heldPeak s c + 1) / 2 ≤ s.spare d else 8192 ≤ s.spare d)

/-- The better of two carriers: same region first, then more spare, then the lower number. -/
def betterCarrier (s : State) (c d e : Nat) : Bool :=
  let r := fun (x : Nat) => decide (x / 16 = c / 16)
  if r d ≠ r e then r d
  else if s.spare d ≠ s.spare e then decide (s.spare e < s.spare d)
  else decide (d < e)

def State.findCarrier (s : State) (c : Nat) (wasOn : Bool) : Option Nat :=
  (((tieNeighbours c).map (·.2)).filter fun d => s.carries c d wasOn).foldl (fun m d =>
    match m with
    | none => some d
    | some e => if betterCarrier s c d e then some d else some e) none

/-- A brown-out (R296): the core is held, its job stopped, its store lost. -/
def State.brownOut (s : State) (c : Nat) : State :=
  ((s.modPower c fun p => { p with brownOut := true }).loseStore c).raiseCore 306 c (s.coreJob c)

/-- The search for a carrier of core `c` whose regulator has failed; without one it goes dark (R303, R308). `near`: its rail is
within 100 mV of its set-point, and its remaining phases steer it to the carrier's (R304). A rail that has fallen has met R296; its
registers and store are lost, and the joined rail will ramp (R305). -/
def State.searchCarrier (s : State) (c : Nat) (near : Bool) : State :=
  let wasOn := s.pstate c = .on || s.pstate c = .carrier
  match s.findCarrier c wasOn with
  | some d =>
    let d : CoreId := ⟨d % 256, Nat.mod_lt _ (by decide)⟩
    if near then
      ((s.modPower c fun p => { p with tying := some d, fell := false }).modVr c fun x => { x with steer := true }).rehold
    else
      let t := if s.railOn c && !(s.core c).power.brownOut then s.brownOut c else s
      (((t.loseRegs c).loseStore c).modPower c fun p =>
        { p with state := .ramping, goal := .tied, tying := some d, fell := true }).rehold
  | none => s.goDark c

/-- A core regulator is declared failed (R337). A carrier's tied core goes dark first (R308). A core on its way to RETAIN or OFF
goes on there. -/
def State.failCoreVr (s : State) (c : Nat) (near : Bool) : State :=
  let t := (s.modVr c fun x =>
    { x with state := .failed, clamp := false, steer := false, waitsFor := none, pulsed := [], live := false }).raiseCore 313 c none
  let p := (t.core c).power
  let t := match p.partner with
    | some d =>
      ((t.goDark d).modPower d fun q => { q with partner := none }).modPower c fun q =>
        { q with partner := none, state := if q.state = .carrier then (if q.out then .dark else .on) else q.state }
    | none => t
  if p.out then (if p.partner.isSome then t.coreOff c .dark else t)
  else match (t.core c).power.state with
    | .on | .ramping => t.searchCarrier c near
    | _ => t

/-- A service regulator is declared failed (R338). -/
def State.failServiceVr (s : State) (r : Nat) (near : Bool) : State :=
  let t := s.endJobs
  let t := if near then
      State.each (coresOf r) (fun c u => u.modColumn c fun x => x.selfRefresh true 20) t
    else t
  let t := State.each (coresOf r) (fun c u => (u.markOut c).coreOff c .dark) t
  let t := t.modVr (256 + r) fun x => { x with state := .failed, refUV := 0, clamp := false, pulsed := [], live := false }
  let t := t.modBoot fun b => { b with serviceUp := b.serviceUp &&& ~~~(BitVec.ofNat 16 (2 ^ r)) }
  (t.persistOn 278 (some (256 + r))).raiseRegion 278 r none

/-- A regulator is declared failed. `near`: its rail is within 100 mV of the set-point. -/
def State.failVr (s : State) (v : Nat) (near : Bool) : State :=
  if (s.vr v).state = .failed then s
  else if v < 256 then s.failCoreVr v near else s.failServiceVr (v - 256) near

/-- PHASE_DISABLE (R325): a phase without follow-through in 4 consecutive periods, or in the first 16 of a soft start (R37), or
whose sense has failed in 16. It takes effect at the next period boundary. -/
def execPhaseDisable (vr : VrId) (ph : Fin 8) (s : State) : Host.Outcome State Fault Refusal :=
  .next (let x := s.vr vr
    if x.running && bitOf x.enabled.toNat ph &&
        (decide (4 ≤ runOf x.lxsRun ph) || decide (16 ≤ runOf x.senseRun ph) ||
          (x.state = .softStart && decide (16 ≤ x.starts) && !bitOf x.followed.toNat ph)) then
      s.modVr vr fun y => { y with lost := y.lost ||| phaseBit ph }
    else s)

/-- The phases disabled in the period that ends are out until a power cycle, together (R332): shedding stops, the count of limited
periods restarts, and fewer than four phases fail the regulator. -/
def State.disableLost (s : State) (v : Nat) : State :=
  let x := s.vr v
  let ps := (bitsOf 8 x.lost.toNat).filter fun p => bitOf x.enabled.toNat p
  if ps.isEmpty then s
  else
    let near := s.railNear v 100000
    let t := s.modVr v fun y =>
      { y with enabled := y.enabled &&& ~~~y.lost, lost := 0, ocRun := 0, level := 8, leaving := 8, busyTo := s.now }
    let t := State.each ps (fun _ u => u.raiseVr 310 v) t
    if (t.vr v).phasesOn < 4 then t.failVr v near else t

/-- The period that ends is judged, and the next begins. -/
def State.nextPeriod (s : State) (v : Nat) (inp : PwmInput) : State :=
  let t := s.modVr v fun x => x.judge inp
  let t := if (t.vr v).clamp then t.clampHold (clampCores v) else t
  let t := t.disableLost v
  if !(t.vr v).running then t
  else
    let w := t.vrCtrl v
    let back := t.hintStands v || t.overShed v || !t.shedEn v
    let soft := (t.vr v).state = .softStart
    let u := t.modVr v fun x =>
      (if back then x.addBack t.now else x).period t.now (t.aimUV v) (fld w 8 5) (bitOf w 2) (bitOf w 3) inp
    -- a core rail that has soft-started again is no longer browned out
    if v < 256 && soft && (u.vr v).state = .run then u.modPower v fun p => { p with brownOut := false } else u

/-- PWM_PERIOD (R317, R377): at block beats that are multiples of 16, the period boundary of one regulator. -/
def execPwmPeriod (vr : VrId) (inp : PwmInput) (s : State) : Host.Outcome State Fault Refusal :=
  .next (if s.now % 16 ≠ 0 ∨ (s.vr vr).periodAt = s.now + 1 then s
    else
      let t := (s.observe vr inp).startDue vr
      if (t.vr vr).running then t.nextPeriod vr inp else t)

/-! ## Shedding and undershoot (R327 to R332) -/

/-- SHED_STEP (R328). `meanMA`: mean output current of the last 10 µs. The departing phases switch until the step ends. -/
def execShedStep (vr : VrId) (meanMA : Nat) (s : State) : Host.Outcome State Fault Refusal :=
  .next (let x := s.vr vr
    let dn := fld (s.regN (vrBase vr + 4)) 0 8
    if x.state = .run && s.shedEn vr && x.enabled = 0xFF && decide (1 < x.level) && x.suspended.isNone &&
        decide (x.lastStep + 20000 ≤ s.now) && !s.hintStands vr && decide (meanMA < x.level / 2 * dn * 100) then
      s.modVr vr fun y => { y with level := y.level / 2, leaving := y.level, busyTo := s.now + 256, lastStep := s.now }
    else s)

/-- ADD_BACK (R329). -/
def execAddBack (vr : VrId) (s : State) : Host.Outcome State Fault Refusal :=
  .next (if (s.vr vr).running && (s.overShed vr || s.hintStands vr || !s.shedEn vr) then
      s.modVr vr fun x => x.addBack s.now
    else s)

/-- Threshold of the undershoot detector in µV (R330). -/
def State.undershootUV (s : State) (v : Nat) : Nat := 20000 + 5000 * fld (s.vrCtrl v) 16 4

/-- How long a phase fires, in ps, and whether it ends at its clamp: until the sensed voltage has risen, its current reaches the
clamp, or 8 ns have passed (R330). -/
def firing (x : Vr) (inp : Trip) (p : Nat) : Nat × Bool :=
  let q := phaseOf inp.phases p
  let rest := min 8000 (inp.recovers.getD 8000)
  let b := reaches (x.peakUA - q.startUA) q.riseUA 8000
  (min b rest, decide (b < 8000) && decide (b ≤ rest))

/-- UNDERSHOOT_TRIP (R330, R331): the least sensor in use falls below the target less the threshold, and every enabled phase
fires. -/
def execUndershootTrip (trip : Trip) (s : State) : Host.Outcome State Fault Refusal :=
  .next (let vr := trip.vr
    let x := s.vr vr
    let l := sensorsIn trip.sensors (s.excludedOf vr)
    if x.state = .run && !x.tripped && !l.isEmpty &&
        decide (Int.ofNat (leastOf l) < x.target - Int.ofNat (s.undershootUV vr)) then
      let ps := bitsOf 8 x.enabled.toNat
      let lim := (ps.filter fun p => (firing x trip p).2).length
      s.modVr vr fun y =>
        { y with level := 8, leaving := 8, busyTo := s.now, lastStep := s.now, tripped := true
                 tripLim := decide (0 < ps.length) && decide (ps.length ≤ 2 * lim)
                 fired := ps.foldl (fun t p => tabSet (fun _ => 0) t p (firing x trip p).1) []
                 suspended := some (s.now + 200000), undershoots := satInc y.undershoots 0xFFFFFF }
    else s)

/-- SHED_SUSPEND_END (R331): 100 µs after the last trip. -/
def execShedSuspendEnd (vr : VrId) (s : State) : Host.Outcome State Fault Refusal :=
  .next (match (s.vr vr).suspended with
    | some b => if b ≤ s.now then s.modVr vr fun x => { x with suspended := none } else s
    | none => s)

/-! ## Over-current and stages (R333 to R336) -/

/-- Limited periods that start a hiccup: OC_N (R333). -/
def ocN : Nat := clampTo 4 64 Config.ocN

/-- HICCUP (R333, R334): every phase is off for 50 µs; the eighth within 10 ms fails the regulator. -/
def execHiccup (vr : VrId) (s : State) : Host.Outcome State Fault Refusal :=
  .next (let x := s.vr vr
    if x.running && decide (ocN ≤ x.ocRun) then
      let recent := x.hiccups.filter fun b => decide (s.now < b + 20000000)
      let t := (s.modVr vr fun y =>
        { y with state := .hiccup, hiccups := recent ++ [s.now], hiccupTot := satInc y.hiccupTot 0xFF, hiccupAt := s.now,
                 ocRun := 0, clamp := false, refUV := 0, startRef := none, pulsed := [], live := false, nearSince := 0 }).raiseVr 311 vr
      if 7 ≤ recent.length then t.failVr vr false else t
    else s)

/-- HICCUP_END (R333): the regulator soft-starts, and a store that the fall lost is written zero (R153). -/
def execHiccupEnd (vr : VrId) (s : State) : Host.Outcome State Fault Refusal :=
  .next (let x := s.vr vr
    if x.state = .hiccup && decide (x.hiccupAt + 100000 ≤ s.now) then
      let t := s.softStart vr (s.setUV vr) false
      if vr.val < 256 && (t.core vr).power.storeLost && t.railOn vr then t.modPower vr fun p => { p with zeroing := true }
      else t
    else s)

def State.setStage (s : State) (v k : Nat) (temp : BitVec 8) : State :=
  s.modVr v fun x => { x with stage := tabSet stageDefault x.stage k temp }

/-- STAGE_WARNING (R335): a stage reports; at 110 °C or above it sets OT_WARN. -/
def execStageWarning (vr : VrId) (stage : Fin 4) (temp : BitVec 8) (s : State) : Host.Outcome State Fault Refusal :=
  .next (let t := s.setStage vr stage temp
    if temp.toNat < 110 || (s.vr vr).otWarn then t
    else (t.modVr vr fun x => { x with otWarn := true }).raiseVr 312 vr)

/-- OT_WARN_CLEAR (R335): every stage reads 105 °C or below. -/
def execOtWarnClear (vr : VrId) (s : State) : Host.Outcome State Fault Refusal :=
  .next (if (List.range 4).all fun k => decide ((tabGet stageDefault (s.vr vr).stage k).toNat ≤ 105) then
      s.modVr vr fun x => { x with otWarn := false }
    else s)

/-- STAGE_SHUTDOWN (R336): a stage at 125 °C or above turns the regulator off and fails it. -/
def execStageShutdown (vr : VrId) (stage : Fin 4) (temp : BitVec 8) (s : State) : Host.Outcome State Fault Refusal :=
  .next (let t := s.setStage vr stage temp
    if 125 ≤ temp.toNat && !((s.vr vr).state = .off) then t.failVr vr false else t)

/-! ## Voltage sense and brown-out (R294 to R296) -/

/-- The remote reading of core `c` has departed from the median of the sensors in use for 1 µs. -/
def State.remoteFails (s : State) (c : Nat) : Bool := lasted s.now (s.vr c).remoteSince 2000

/-- SENSE_EXCLUDE (R294): the sensor, 30 mV off the median for 1 µs, leaves MIN; the third one forces REMOTE from the next loop
sample. Where the remote reading fails too, the regulator is declared failed (R295). -/
def execSenseExclude (core : CoreId) (sensor : Fin 8) (s : State) : Host.Outcome State Fault Refusal :=
  .next (let p := (s.core core).power
    if (s.vr core).running && !bitOf p.excluded.toNat sensor && lasted s.now (runOf (s.vr core).farSince sensor) 2000 then
      let t := s.modPower core fun q => { q with excluded := q.excluded ||| phaseBit sensor }
      if popCount 8 (t.core core).power.excluded.toNat = 3 then
        if s.remoteFails core || p.senseNext = some false then t.failVr core (t.railNear core 100000)
        else (t.modPower core fun q => { q with senseNext := some true }).raiseCore 308 core (t.coreJob core)
      else t
    else s)

/-- SENSE_REMOTE_FALLBACK (R295): the remote reading fails while REMOTE is in use. With three sensors excluded both tests have
failed, and the regulator is declared failed. -/
def execSenseRemoteFallback (core : CoreId) (s : State) : Host.Outcome State Fault Refusal :=
  .next (let p := (s.core core).power
    if (s.vr core).running && p.sense && !(p.senseNext = some false) && s.remoteFails core then
      if 3 ≤ popCount 8 p.excluded.toNat then s.failVr core (s.railNear core 100000)
      else (s.modPower core fun q => { q with senseNext := some false }).raiseCore 308 core (s.coreJob core)
    else s)

/-- BROWN_OUT (R296): the least sensor in use has been 100 mV below the set-point for 50 ns. -/
def execBrownOut (core : CoreId) (s : State) : Host.Outcome State Fault Refusal :=
  .next (if s.railOn core && !(s.core core).power.brownOut && lasted s.now (s.vr core).lowSince 100 then s.brownOut core else s)

/-! ## Ties (R304, R305) -/

/-- Requests act at all: not in SAFE, where they are stored, nor before READY. -/
def State.requestsAct (s : State) : Bool :=
  s.blockState = 2 || s.blockState = 4 || s.blockState = 7 || s.blockState = 8

def tieDirOf (c d : Nat) : Nat :=
  match (tieNeighbours c).find? fun e => e.2 = d with
  | some e => e.1
  | none => 0

/-- The tie of core `c` to carrier `d` closes, and the failed regulator is off. -/
def State.joinRails (s : State) (c d : CoreId) : State :=
  let fell := (s.core c).power.fell
  let t := (s.modPower c fun p =>
    { p with tying := none, partner := some d, tieDir := tieDirOf c d, goal := .tied, zeroing := fell
             state := if fell then .ramping else .tied }).vrOff c
  t.modPower d fun p => { p with state := .carrier, partner := some c, tieDir := tieDirOf d c }

/-- TIE_CLOSE (R304, R305): the rails are within 10 mV of each other, and a request that came meanwhile applies. A rail that had
fallen is joined as it is; the joined rail then takes the 50 µs soft start, and the store is written zero. A carrier that no longer
qualifies is replaced. -/
def execTieClose (core : CoreId) (s : State) : Host.Outcome State Fault Refusal :=
  .next (let p := (s.core core).power
    match p.tying with
    | none => s
    | some d =>
      if !(s.pstate d = .on && (s.vr d).state = .run) then
        (s.modPower core fun q => { q with tying := none }).searchCarrier core (!p.fell && s.railNear core 100000)
      else if p.fell then
        if p.state = .ramping then ((s.joinRails core d).softStart d (s.setUV d) false).rehold else s
      else if p.state = .on && decide (natDist (s.vr core).sensed (s.vr d).sensed ≤ 10000) then
        let t := s.joinRails core d
        ((if t.requestsAct then (t.applyRequest core false).1 else t)).rehold
      else s)

/-! ## Requests and power-downs (R298, R301, R302) -/

/-- Power-ups may begin: in READY and HOLD, and during a wake or the recovery that follows a RESUME. -/
def State.upOpen (s : State) : Bool :=
  (s.blockState = 4 || s.blockState = 2 || s.boot.resuming || (s.boot.base = .idle && s.boot.waking)) &&
    !s.boot.entering && !s.boot.coolant && !s.boot.safe && !s.boot.grave

/-- A field of 3 stores 2. -/
def reqWord (v : Nat) : Nat :=
  (List.range 16).foldl (fun w j => if fld w (2 * j) 2 = 3 then setFld w (2 * j) 2 2 else w) v

/-- A write of PWR_CORE_REQ of region `r` (R298, R400, R418, R443). -/
def State.writeCoreReq (s : State) (r v : Nat) : Option State :=
  let w := reqWord v
  if (coresOf r).any fun c => s.railOn c && (s.core c).seq.bound && decide (fld w (2 * (c % 16)) 2 ≠ 2) then none
  else
    let t := s.putReg (0x401000 + 4 * r) w
    some (if t.requestsAct then t.actOnRequest r t.upOpen else t)

/-- RETAIN_COMPLETE (R301): TRANSIT ends in RETAIN or OFF, and a request that came meanwhile applies. -/
def execRetainComplete (core : CoreId) (s : State) : Host.Outcome State Fault Refusal :=
  .next (let p := (s.core core).power
    if p.state = .transit then
      let t := (s.vrOff core).modPower core fun q => { q with state := q.goal, brownOut := false }
      let t := if p.goal = .off then t.loseStore core else t
      if t.requestsAct then
        let r := t.applyRequest core t.upOpen
        if r.2 then r.1.pendUp (core.val / 16) [core.val % 16] else r.1
      else t
    else s)

/-- RETENTION_FAULT (R302). -/
def execRetentionFault (region : RegionId) (s : State) : Host.Outcome State Fault Refusal :=
  .next (let t := s.modBoot fun b => { b with retFault := b.retFault ||| BitVec.ofNat 16 (2 ^ region.val) }
    let t := State.each (coresOf region) (fun c u => if u.pstate c = .retain then u.loseStore c else u) t
    t.raiseRegion 314 region none)

/-! ## The inrush arbiter (R311 to R313) -/

/-- IPIL of region `g` is at or above PEAK percent of its limit. -/
def State.atPeak (s : State) (g : Nat) : Bool :=
  decide (s.groupLimit g * fld (s.regN 0x4010C0) 8 8 * 65536 ≤ s.ipilPeak g * 128 * 100)

/-- Conditions 1 to 3 of R311 for the pending power-up of region `r`; in the beat in which a ramp ends it still counts as ramping. -/
def State.grantable (s : State) (r : Nat) : Bool :=
  match (s.loop r).pendingUp, (s.loop r).ramping with
  | some (_, mask), none =>
    let n := popCount 16 mask.toNat
    decide ((s.loop r).rampEnd ≠ s.now + 1) &&
    -- in units of 0.1 A / 65,536
    decide (s.ipilPeak r * 1280 + fld (s.regN 0x4010C0) 0 8 * n * 65536 ≤ s.groupLimit r * 10 * 65536) &&
      (regionNeighbours r).all fun q => !s.atPeak q && (s.loop q).ramping.isNone && decide ((s.loop q).rampEnd ≠ s.now + 1)
  | _, _ => false

/-- Core `c` ramps. `first`: its region's service soft start begins in this beat, and its reference tracks the service reference
from 0 V (R339). A core whose regulator has failed ramps with its carrier, or is searched one (R303). -/
def State.rampCore (s : State) (c : Nat) (first : Bool) : State :=
  let v := s.modPower c fun q =>
    { q with state := .ramping, goal := .on, zeroing := q.storeLost && !q.out, loops := .full, next := .full, missLeft := 0 }
  if (v.vr c).state = .failed then (if (v.core c).power.partner.isNone then v.searchCarrier c false else v)
  else if first then v.softStart c (if bitOf (v.vrCtrl c) 4 then v.setUV c else v.setUV (256 + c / 16)) true
  else v.startVr c

/-- The grant: the cores of the power-up ramp together, a tied pair with its partner, which feeds it though it be mapped out
(R309). In the reset sequence the service regulator soft-starts first and the cores track it (R339); the region's converters
start. -/
def State.grant (s : State) (r : Nat) : State :=
  match (s.loop r).pendingUp with
  | none => s
  | some (_, mask) =>
    let first := !s.serviceOn r
    let t := s.modLoop r fun x => { x with pendingUp := none, ramping := some (s.now, mask) }
    let t := if first then
        ((t.softStart (256 + r) (t.setUV (256 + r)) true).modBoot fun b =>
          { b with serviceUp := b.serviceUp ||| BitVec.ofNat 16 (2 ^ r) }).restartSlots r
      else t
    let idle := fun (u : State) (c : Nat) => u.pstate c = .off || u.pstate c = .retain
    State.each (bitsOf 16 mask.toNat) (fun j u =>
      let c := 16 * r + j
      if (u.core c).power.out || !idle u c then u
      else
        let v := u.rampCore c first
        match (v.core c).power.partner with
        | some d => if idle v d then v.rampCore d first else v
        | none => v) t

/-- POWER_UP_GRANT (R311): an earlier pending power-up of a neighbour that could be granted in this beat goes first. -/
def execPowerUpGrant (region : RegionId) (s : State) : Host.Outcome State Fault Refusal :=
  .next (let earlier := (regionNeighbours region).any fun q =>
      match (s.loop q).pendingUp, (s.loop region).pendingUp with
      | some (b, _), some (a, _) => s.grantable q && (decide (b < a) || (decide (b = a) && decide (q < region.val)))
      | _, _ => false
    if s.grantable region && !earlier && (s.serviceOn region || s.boot.step = .powerUp) then s.grant region else s)

/-- INRUSH_FORCE (R312): granted after 200 µs, with the CUT ceiling on the region and its neighbours at peak. -/
def execInrushForce (region : RegionId) (s : State) : Host.Outcome State Fault Refusal :=
  .next (match (s.loop region).pendingUp, (s.loop region).ramping with
    | some (b, _), none =>
      if b + 400000 ≤ s.now && (s.serviceOn region || s.boot.step = .powerUp) then
        let hit := region.val :: (regionNeighbours region).filter s.atPeak
        let t := (s.grant region).modLoop region fun x => { x with capped := hit, capEnd := none }
        (t.putReg 0x4010C8 (satInc (t.regN 0x4010C8) 0xFFFFFFFF)).rehold
      else s
    | _, _ => s)

/-- CORE_STORE_READY (R153): the zero-write of a powered store ends. -/
def execCoreStoreReady (core : CoreId) (s : State) : Host.Outcome State Fault Refusal :=
  .next (if (s.core core).power.zeroing then
      (s.zeroStore core).modPower core fun p => { p with zeroing := false, storeLost := false }
    else s)

/-- No power-up is pending or ramping. -/
def State.upsDone (s : State) : Bool :=
  s.loops.all fun e => e.2.pendingUp.isNone && e.2.ramping.isNone

/-- What ends with the last power-up: a wake (R445), a recovery from COOLANT (R401), step 8 of the reset sequence (R468). -/
def State.afterUps (s : State) : State :=
  if !s.upsDone then s
  else
    let t := if s.boot.base = .idle && s.boot.waking && !s.boot.coolant && !s.boot.safe && !s.boot.grave then
        (s.modBoot fun b => { b with base := .ready, waking := false })
      else s
    let t := if t.boot.resuming && !t.boot.coolant then t.modBoot fun b =>
        { b with resuming := false, base := .ready, waking := false } else t
    if t.boot.step = .powerUp then t.modBoot fun b =>
        if b.base = .config then { b with step := .train, base := .train } else { b with step := .done }
    else t

/-- State of a core whose ramp has ended (R297, R307, R309). -/
def State.rampedState (s : State) (c : Nat) : PowerState :=
  match (s.core c).power.partner with
  | none => .on
  | some _ => if (s.vr c).state = .failed then .tied else .carrier

/-- The ramp of core `c` ends: it is live, its sluice starts afresh (R347), its learned entries are cleared (R365). -/
def State.endRamp (s : State) (c : Nat) : State :=
  if s.pstate c = .ramping then
    let st := s.rampedState c
    let t := s.modPower c fun p => { p with state := st, acc := 0, adv := 0, brownOut := false }
    let t := t.forget c
    if t.requestsAct then (t.applyRequest c false).1 else t
  else s

/-- The rail of core `c` is within 10 mV of its set-point, and its store is written zero where that is due (R313). -/
def State.rampedUp (s : State) (c : Nat) : Bool :=
  s.railNear (s.feeder c) 10000 && !(s.core c).power.zeroing

/-- RAMP_END (R313): at a loop sample, after it, every rail of the power-up is within 10 mV and every store that needs it is zeroed. It
also ends the joined ramp of a tie whose rail had fallen (R305). -/
def execRampEnd (region : RegionId) (s : State) : Host.Outcome State Fault Refusal :=
  .next (if s.now % 2000 ≠ 0 then s
    else
      let late := (coresOf region).filter fun c =>
        let p := (s.core c).power
        p.state = .ramping && p.goal = .tied && p.tying.isNone && s.rampedUp c
      let t := State.each late (fun c u => u.endRamp c) s
      match (t.loop region).ramping with
      | none => t
      | some (_, mask) =>
        let cs := (bitsOf 16 mask.toNat).map fun j => 16 * region.val + j
        let all := cs ++ cs.filterMap fun c => ((t.core c).power.partner.map (·.val))
        let mine := all.filter fun c => t.pstate c = .ramping && (t.core c).power.goal = .on
        if !mine.all t.rampedUp || ((t.vr (256 + region)).state = .softStart && !t.railNear (256 + region) 10000) then t
        else
          let u := State.each mine (fun c v => v.endRamp c) t
          (u.modLoop region fun x => x.stopRamp u.now).afterUps)

/-- RAMP_TIMEOUT (R313, R337): a rail that is not within 10 mV 100 µs after the grant. -/
def execRampTimeout (vr : VrId) (s : State) : Host.Outcome State Fault Refusal :=
  .next (match (s.loop (vrRegion vr)).ramping with
    | some (b, mask) =>
      let waits := if vr.val < 256 then s.pstate vr = .ramping && bitOf mask.toNat (vr.val % 16)
        else (s.vr vr).state = .softStart
      if waits && decide (b + 200000 ≤ s.now) && !s.railNear vr 10000 then s.failVr vr false else s
    | none => s)

/-! ## Register writes (R341) -/

/-- VRC_CTRL or VRS_CTRL with its clamps; the service register has no TRACK and no SENSE. -/
def vrCtrlValue (v w : Nat) : Nat :=
  at' 24 5 (max 8 (fld w 24 5)) + at' 16 4 (min 8 (fld w 16 4)) + at' 8 5 (min 20 (fld w 8 5)) +
    (if v < 256 then at' 4 1 (fld w 4 1) + fld w 0 1 else 0) + at' 1 3 (fld w 1 3)

def vrShedValue (w : Nat) : Nat :=
  let dn := clampTo 1 20 (fld w 0 8)
  at' 8 8 (clampTo (dn + 2) 30 (fld w 8 8)) + dn

def vrCompValue (w : Nat) : Nat :=
  at' 16 8 (max 1 (fld w 16 8)) + at' 8 8 (max 1 (fld w 8 8)) + max 1 (fld w 0 8)

/-- A write of the RW registers of regulator `v` at offset `o`. SHED_EN = 0 restores all phases at once (R327). -/
def State.writeVr (s : State) (v o w : Nat) : State :=
  match o with
  | 0x00 =>
    let t := s.putReg (vrBase v) (vrCtrlValue v w)
    if bitOf w 1 then t else t.modVr v fun x => x.addBack s.now
  | 0x04 => s.putReg (vrBase v + 4) (vrShedValue w)
  | 0x10 => if v < 256 then s else s.putReg (vrBase v + 0x10) (min 80 (fld w 0 8))
  | _ => s

end Sys2Proof.Machine
end

