-- ==== Sys2Proof/Machine/Loops.lean ====
section
/-! DEFINITION. Loop engines and power manager: the loop sample and its application, allowances, cap windows and their sharing,
learning, margin trim, and the registers of chapter 13 (R342 to R373).

Marks: DEDUCED (log entry 41), DEDUCED (log entry 42), DEDUCED (log entry 44), DESIGN CHOICE (log entry 66). -/

namespace Sys2Proof.Machine

/-! ## Intervals and energies (R383, R386, R388) -/

/-- The interval of a channel ends. `on`: its domain is powered; `tenths`: 0.1 mV in 65,536 units of the channel. -/
def TlmChan.close (x : TlmChan) (on : Bool) (tenths : Ratio) : TlmChan :=
  let y := if x.iCount = 0 then
      { x with stale := if !on then 0 else if x.cut then 17 else if x.stale < 16 then x.stale + 1 else x.stale
               peak := if on && x.cut then 65536 else x.peak }
    else
      { x with mSum := x.iSum, mCount := x.iCount, peak := x.iMax, stale := 0, wSum := x.wSum + x.iSum,
               wCount := x.wCount + x.iCount, iSum := 0, iCount := 0, iMax := 0 }
  if y.mCount = 0 then y
  else { y with wPeak := max y.wPeak y.peak, wMin := min y.wMin ((Ratio.mk y.mSum y.mCount).mul tenths).floor }

/-- Source 323 persists for region `r` while one of its channels is declared stale (R383, R407). -/
def State.staleCheck (s : State) (r : Nat) : State :=
  if (s.tlmR r).chans.any fun e => e.2.stale = 17 then s.persistOn 323 (some (256 + r))
  else s.persistOff 323 (some (256 + r))

def State.closeIntervals (s : State) (r : Nat) : State :=
  let ks := List.range 40
  let tenths := (s.unit r 34).mul ⟨10000, 1⟩
  (s.modTlm r fun x =>
    { x with chans := ks.foldl (fun t k =>
        tabSet chanDefault t k ((tabGet chanDefault t k).close (s.domainOn r k) tenths)) x.chans }).staleCheck r

/-- Energy of an interval from a voltage and a current channel, in 2^-16 µJ. -/
def State.energyOf (s : State) (r kv ki : Nat) : Nat := (((s.meanOf r kv).mul (s.meanOf r ki)).mul ⟨65536, 1⟩).floor

def State.coreEnergy (s : State) (c : Nat) : Nat := s.energyOf (c / 16) (16 + c % 16) (c % 16)

/-- Energy attributed to core `c`: a tied pair shares its own by issued beats (R386). -/
def State.shareOf (s : State) (c : Nat) : Nat :=
  match (s.core c).power.partner with
  | none => s.coreEnergy c
  | some d =>
    let tied := if s.pstate c = .tied then c else d.val
    let all := s.coreEnergy c + s.coreEnergy d
    let n := (s.core c).seq.issuedNow + (s.core d).seq.issuedNow
    let part := if n = 0 then all / 2 else all * (s.core tied).seq.issuedNow / n
    if c = tied then part else all - part

def natSum (l : List Nat) : Nat := l.foldl (· + ·) 0

/-- Output energy of the core domains of region `r`, and of the whole region. -/
def State.coresEnergy (s : State) (r : Nat) : Nat := natSum ((coresOf r).map s.coreEnergy)
def State.regionOut (s : State) (r : Nat) : Nat := s.coresEnergy r + s.energyOf r 33 32 + s.energyOf r 36 37
def State.regionIn (s : State) (r : Nat) : Nat := s.energyOf r 34 35

def tabAdd (t : Tab Nat) (k v : Nat) : Tab Nat := tabSet (fun _ => 0) t k (tabGet (fun _ => 0) t k + v)

/-- The energies of the interval enter the counters and the slots. -/
def State.addEnergies (s : State) : State :=
  let rs := List.range 16
  let t := s.setPower { s.power with
    eOut := s.power.eOut + natSum (rs.map s.regionOut)
    eIn := s.power.eIn + natSum (rs.map s.regionIn)
    regOut := rs.foldl (fun t r => tabAdd t r (s.regionOut r)) s.power.regOut
    regIn := rs.foldl (fun t r => tabAdd t r (s.regionIn r)) s.power.regIn
    added := [] }
  State.each (List.range 256) (fun c u =>
    match (s.core c).seq.slot with
    | none => u
    | some k =>
      let v := u.setPower { u.power with slots := tabAdd u.power.slots k (s.shareOf c), added := tabAdd u.power.added k (s.shareOf c) }
      if (s.core c).seq.bound then v else v.modSeq c fun q => { q with slot := none }) t

/-! ## Currents without holds (R344) -/

/-- 2,000 / max(2,000 − H, 125). -/
def unheld (h : Nat) : Ratio := ⟨2000, max (2000 - h) 125⟩

def State.fullMean (s : State) (c : Nat) : Ratio := (s.meanOf (c / 16) (c % 16)).mul (unheld (s.core c).seq.heldNow)
def State.fullPeak (s : State) (c : Nat) : Ratio := (s.peakOf (c / 16) (c % 16)).mul (unheld (s.core c).seq.heldNow)

/-- Phases whose learned values count for core `c`: the one in force, and those being prepared (R344, R367). -/
def State.phasesInForce (s : State) (c : Nat) : List Nat :=
  if (s.core c).seq.bound then
    (s.core c).seq.phase :: ((s.core c).hints.filter (·.prep)).map (·.phase)
  else []

/-- D and DPK of core `c`, in A. -/
def State.demand (s : State) (c : Nat) : Ratio × Ratio :=
  ((s.phasesInForce c).filterMap (s.learned c)).foldl
    (fun d e => (d.1.max ⟨e.mean, 100⟩, d.2.max ⟨e.peak, 100⟩)) (s.fullMean c, s.fullPeak c)

/-- Least H among the running cores of region `r`. -/
def State.leastHeld (s : State) (r : Nat) : Nat :=
  match ((coresOf r).filter fun c => (s.core c).seq.bound).map fun c => (s.core c).seq.heldNow with
  | [] => 0
  | h :: t => t.foldl min h

/-! ## Learning (R364) -/

/-- The entry after a sample with IFULL and IFULL_PK, in A; results are truncated to 0.01 A. -/
def learnStep (old : Option Learned) (alpha : Nat) (mean peak : Ratio) : Learned :=
  match old with
  | none => ⟨(mean.mul ⟨100, 1⟩).floor, (peak.mul ⟨100, 1⟩).floor⟩
  | some e =>
    ⟨(((Ratio.ofNat (e.mean * (2 ^ alpha - 1))).add (mean.mul ⟨100, 1⟩)).div (Ratio.ofNat (2 ^ alpha))).floor,
     ((peak.mul ⟨100, 1⟩).max ⟨e.peak * 1023, 1024⟩).floor⟩

def State.learn (s : State) (c : Nat) : State :=
  let q := (s.core c).seq
  if q.bound && !q.phased then
    let alpha := fld (s.regN (lpeReg (c / 16) 0)) 0 4
    let e := learnStep (s.learned c q.phase) alpha (s.fullMean c) (s.fullPeak c)
    s.modLoop (c / 16) fun x => { x with learned := tabSet learnedDefault x.learned (256 * (c % 16) + q.phase) (some e) }
  else s

/-! ## The laws (R350, R351, Table — Loop laws) -/

/-- floor(1,024 × limit / amount), at most 1,024; a demand of zero limits nothing. -/
def fraction1024 (limit amount : Ratio) : Nat :=
  if amount.isZero then 1024 else min 1024 ((limit.mul ⟨1024, 1⟩).div amount).floor

/-- Current-limit law for a regulator with `n` enabled phases. -/
def currentLaw (n : Nat) (d dpk : Ratio) : Nat :=
  min (fraction1024 (.ofNat (2 * n)) d) (fraction1024 ⟨27 * n, 10⟩ dpk)

/-- R350: an output falls at once and rises by at most `rise` units of 4; 0 means no limit. -/
def riseTo (raw prev rise : Nat) : Nat := if raw ≤ prev ∨ rise = 0 then raw else min raw (prev + 4 * rise)

def State.coef (s : State) (r lo : Nat) : Nat := fld (s.regN (lpeReg r 4)) lo 8

/-- Current-limit raw value of core `c`: a carrier and its tied core share the carrier's phases and the sums of their
values. -/
def State.currentRaw (s : State) (c : Nat) : Nat :=
  match (s.core c).power.partner with
  | some d =>
    if s.pstate c = .tied || s.pstate c = .carrier then
      let v := if s.pstate c = .tied then d.val else c
      let x := s.demand c
      let y := s.demand d
      currentLaw (s.vr v).phasesOn (x.1.add y.1) (x.2.add y.2)
    else currentLaw (s.vr c).phasesOn (s.demand c).1 (s.demand c).2
  | none => currentLaw (s.vr c).phasesOn (s.demand c).1 (s.demand c).2

/-- Service power of region `r` without holds, in W, and SFULL (R351). -/
def State.servicePower (s : State) (r : Nat) : Ratio := (s.meanOf r 33).mul (s.meanOf r 32)
def State.serviceFull (s : State) : Ratio :=
  .sum ((List.range 16).map fun r => (s.servicePower r).mul (unheld (s.leastHeld r)))

/-- Raw value of the service current-limit loop of region `r`. -/
def State.serviceRaw (s : State) (r : Nat) : Nat :=
  let k := unheld (s.leastHeld r)
  let v := currentLaw (s.vr (256 + r)).phasesOn ((s.meanOf r 32).mul k) ((s.peakOf r 32).mul k)
  let full := s.serviceFull
  if full.le (.ofNat 200) then v else ((Ratio.ofNat (v * 200)).div full).floor

/-- Thermal law for a temperature in 0.125 °C and TSTART in °C. -/
def thermalLaw (t : Int) (tstart : Nat) : Nat :=
  if 840 ≤ t then 0
  else if t < 8 * (tstart : Int) then 1024
  else (1024 * (840 - t) / (840 - 8 * (tstart : Int))).toNat

def maxDefault (_ : Nat) : Option Int := none

/-- Greatest T of core `c` in the interval, or the last one; likewise of a service sensor, while it is in use. -/
def State.heat (s : State) (k : Nat) (last : Option Int) : Option Int :=
  match tabGet maxDefault s.thermal.maxT k with
  | some t => some t
  | none => last

def sensorDefault (_ : Nat) : Sensor := Sensor.initial
def State.sensor (s : State) (n : Nat) : Sensor := tabGet sensorDefault s.thermal.sensors n
def Sensor.reading (x : Sensor) : Int := x.temp.toInt

def State.serviceHeat (s : State) (n : Nat) : Option Int :=
  let x := s.sensor n
  s.heat n (if x.valid && x.fresh && !x.suspect && s.serviceLive ((n - 1024) / 2) then some x.reading else none)

/-- Thermal raw value of core `c`: its own T, and the service sensors of its region (R396). -/
def State.thermalRaw (s : State) (c : Nat) : Nat :=
  let ts := fld (s.regN (lpeReg (c / 16) 8)) 0 8
  let r := c / 16
  ([s.heat c (tabGet maxDefault s.thermal.coreT c), s.serviceHeat (1024 + 2 * r), s.serviceHeat (1025 + 2 * r)].filterMap
    id).foldl (fun m t => min m (thermalLaw t ts)) 1024

/-- Pillar droop raw value of region `r`, for a core whose last output was `prev`. -/
def State.droopRaw (s : State) (r prev : Nat) : Nat :=
  let w := s.regN (lpeReg r 0xC)
  let v := fraction1024 (.ofNat (s.groupLimit r)) ((s.peakOf r 35).mul (unheld (s.leastHeld r)))
  let low := (s.tlmChan r 34).mCount ≠ 0 && !(Ratio.mk (fld w 0 11) 1000).le (s.meanOf r 34)
  if low then min v (prev - 8 * fld w 16 8) else v

/-! ## Cap windows and shares (R355 to R362) -/

def capReg (w : Nat) : Nat := 0x402000 + 4 * w
def capStat (w : Nat) : Nat := 0x402010 + 4 * w
def peakTimeReg : Nat := 0x40201C
def floorReg (p : Nat) : Nat := 0x402020 + 4 * p
def xholdReg (p : Nat) : Nat := 0x402040 + 4 * p
def shareReg (p : Nat) : Nat := 0x402060 + 4 * p

/-- Intervals of window `w`. -/
def windowLen (w : Nat) : Nat := match w with | 0 => 100 | 1 => 1000 | _ => 10000

def State.capOf (s : State) (w : Nat) : Nat := s.regN (capReg w)
def State.floorOf (s : State) (p : Nat) : Nat := s.regN (floorReg p)
/-- F, the sum of the floors. -/
def State.floors (s : State) : Nat := natSum ((List.range 8).map s.floorOf)

/-- Least VPIL_g mean of the groups measured so far, in V. -/
def State.vpilMin (s : State) : Option Ratio :=
  ((List.range 16).filter fun r => (s.tlmChan r 34).mCount ≠ 0).foldl (fun m r =>
    match m with
    | none => some (s.meanOf r 34)
    | some v => some (v.min (s.meanOf r 34))) none

/-- Block input current of the supply ceiling of window `w`, in A. -/
def State.ceilingAmps (s : State) (w : Nat) : Nat := if w = 0 ∧ s.regN peakTimeReg < 1000 then 1200 else 1050

/-- Effective cap C_w in W (R355, R356): before any group has been measured there is no ceiling to convert. -/
def State.effCap (s : State) (w : Nat) : Ratio :=
  match s.vpilMin with
  | none => .ofNat (s.capOf w)
  | some v =>
    let eta : Ratio := match s.power.eta with | some e => ⟨e.1, e.2⟩ | none => ⟨88, 100⟩
    (Ratio.ofNat (s.capOf w)).min (((Ratio.ofNat (s.ceilingAmps w)).mul v).mul eta)

def fillDefault (_ : Nat) : Nat × Nat := (0, 0)

/-- SH_w: shared energy over the last Tw − 1 µs, in 2^-16 µJ; before a restart it counts as that restart says (R359). -/
def State.sharedEnergy (s : State) (w : Nat) : Nat :=
  let n := windowLen w - 1
  let f := tabGet fillDefault s.power.fills w
  let k := min f.1 n
  natSum (s.power.shared.take k) + (n - k) * f.2

/-- X_w, the shared power window `w` permits over the next microsecond, in W. -/
def State.permitted (s : State) (w : Nat) : Ratio :=
  let room := ((s.effCap w).sub (.ofNat s.floors)).mul (.ofNat (windowLen w))
  (Ratio.ofNat (1600 - s.floors)).min (room.sub ⟨s.sharedEnergy w, 65536⟩)

/-- Set-point of core `c` in V. -/
def State.setVolts (s : State) (c : Nat) : Ratio := ⟨s.setUV c, 1000000⟩

/-- NEED(p): set-point × D over the powered cores of its regions, in W (R361). -/
def State.need (s : State) (p : Nat) : Ratio :=
  .sum ((((bitsOf 16 (s.partRegions p)).flatMap coresOf).filter s.powered).map fun c =>
    (s.setVolts c).mul (s.demand c).1)

/-- SHARE(p, w) for every partition (R361). `needs`: NEED of each; `svc`: S. -/
def shareOut (needs : List Ratio) (floors : List Nat) (x svc : Ratio) : List Ratio :=
  let fs := (needs.zip floors).map fun a => a.1.min (.ofNat a.2)
  let above := (needs.zip fs).map fun a => a.1.sub a.2
  let excess := Ratio.sum above
  let pool := x.sub svc
  (fs.zip above).map fun a =>
    if excess.isZero || pool.isZero then a.1 else a.1.add (a.2.min ((pool.mul a.2).div excess))

/-- Raw values of the three cap windows for a partition. -/
def capRaw (share need : Ratio) : Nat := fraction1024 share need

/-- A restart of window `w` (R359). -/
def State.restartWindow (s : State) (w : Nat) : State :=
  let e := (((s.effCap w).sub (.ofNat s.floors)).mul ⟨65536, 1⟩).floor
  s.setPower { s.power with fills := tabSet fillDefault s.power.fills w (0, e) }

/-- The power manager takes the interval's energies, PWR_PEAK_TIME and the trailing windows (R356, R358, R360). -/
def State.powerSample (s : State) : State :=
  let rs := List.range 16
  let out := natSum (rs.map s.regionOut)
  let part := fun (p : Nat) => min (natSum ((bitsOf 16 (s.partRegions p)).map s.coresEnergy)) (65536 * s.floorOf p)
  let shared := out - natSum ((List.range 8).map part)
  let high := !(Ratio.sum (rs.map fun r => s.meanOf r 35)).le (.ofNat 1050)
  let t := s.setPower { s.power with
    shared := (shared :: s.power.shared).take 10000
    output := (out :: s.power.output).take 10000
    inCur := (high :: s.power.inCur).take 10000
    fills := (List.range 3).foldl (fun t w =>
      let f := tabGet fillDefault t w
      tabSet fillDefault t w (min (f.1 + 1) 10000, f.2)) s.power.fills }
  t.putReg peakTimeReg (t.power.inCur.filter id).length

/-- Mean block output over the trailing window `w` exceeds C_w by more than 1 %. -/
def State.exceeded (s : State) (w : Nat) : Bool :=
  let n := windowLen w
  !(Ratio.mk (natSum (s.power.output.take n)) (65536 * n)).le ((s.effCap w).mul ⟨101, 100⟩)

/-- PWR_CAP_STAT of each window, with source 316 for each one exceeded (R360). -/
def State.capStats (s : State) : State :=
  State.each (List.range 3) (fun w t =>
    let hit := s.exceeded w
    let n := fld (t.regN (capStat w)) 20 12
    let u := t.putReg (capStat w) (at' 20 12 (if hit then satInc n 0xFFF else n) + min 0x7FF (s.effCap w).floor)
    if hit then u.raiseBlock 316 else u) s

/-- PWR_SHARE of partition `p`: the window with the lowest allowance, ties to the shorter. -/
def State.reportShare (s : State) (p : Nat) (need : Ratio) (sh : List Ratio) : State :=
  let a := fun (w : Nat) => capRaw (sh.getD w .zero) need
  let w := if a 1 < a 0 then (if a 2 < a 1 then 2 else 1) else if a 2 < a 0 then 2 else 0
  s.putReg (shareReg p) (at' 30 2 w + at' 16 13 (min 0x1FFF (sh.getD w .zero).floor) + min 0x1FFF need.floor)

/-! ## The sample (R342, R350) -/

/-- Region `r` holds its loops open. -/
def State.loopOpen (s : State) (r : Nat) : Bool := bitOf (s.regN (lpeReg r 0)) 31

/-- Outputs of core `c` for the next application beat; `caps`: raw values of the cap windows. -/
def State.nextOut (s : State) (c : Nat) (caps : List Nat) : LoopOut :=
  let r := c / 16
  let o := (s.core c).power.loops
  let cap := fun (w prev : Nat) => riseTo (caps.getD w 1024) prev (s.coef r 24)
  { cap0 := cap 0 o.cap0, cap1 := cap 1 o.cap1, cap2 := cap 2 o.cap2,
    cur := riseTo (s.currentRaw c) o.cur (s.coef r 16), svc := riseTo (s.serviceRaw r) o.svc (s.coef r 16),
    thm := riseTo (s.thermalRaw c) o.thm (s.coef r 8),
    pil := riseTo (s.droopRaw r o.pil) o.pil (s.coef r 0) }

/-- Outputs of every powered core; an open loop keeps its outputs, and a core without power has none. -/
def State.computeOutputs (s : State) : State :=
  let ps := List.range 8
  let needs := ps.map s.need
  let svc := Ratio.sum ((List.range 16).map s.servicePower)
  let sh := (List.range 3).map fun w => shareOut needs (ps.map s.floorOf) (s.permitted w) svc
  let ofPart := fun (p : Nat) => sh.map fun l => l.getD p .zero
  let t := State.each ps (fun p u => u.reportShare p (needs.getD p .zero) (ofPart p)) s
  State.each (List.range 256) (fun c u =>
    if !s.powered c then u
    else if s.loopOpen (c / 16) then u.modPower c fun p => { p with next := p.loops }
    else
      let caps := match s.regionOwner (c / 16) with
        | none => []
        | some p => (ofPart p).map fun x => capRaw x (needs.getD p .zero)
      u.modPower c fun p => { p with next := s.nextOut c caps }) t

/-- What each core's interval kept starts afresh; the held peak joins those of the last 1 ms (R303), and a new sense selection
takes effect (R294). -/
def State.startInterval (s : State) : State :=
  State.each (List.range 256) (fun c t =>
    let pk := s.peakUnits (c / 16) (c % 16)
    t.modCore c fun x =>
      { x with
        seq := { x.seq with heldNow := 0, issuedNow := 0, phased := false }
        power := { x.power with
          peaks := if pk = 0 && x.power.peaks.isEmpty then [] else (pk :: x.power.peaks).take 1000
          sense := x.power.senseNext.getD x.power.sense, senseNext := none } })
    (s.setThermal { s.thermal with maxT := [] })

/-- The interval mean of VPIL of group `g` against the limits of R499. -/
def State.judgeVpil (s : State) (g : Nat) : State :=
  let m := s.meanOf g 34
  if !s.serviceLive g || (s.tlmChan g 34).mCount = 0 then s
  else
    let far := !(Ratio.mk 160 100).le m || !m.le ⟨200, 100⟩
    s.modLoop g fun x =>
      { x with vpilBad := if far then satInc x.vpilBad 10 else 0,
               vpilOff := !(Ratio.mk 170 100).le m || !m.le ⟨195, 100⟩ }

/-! ## Pace following (R284) -/

/-- Ports of partition `p` that follow a notice in force. -/
def State.followed (s : State) (p : Nat) : List Nat :=
  (List.range 4).filter fun n => s.portOwner n = p && bitOf (s.regN (peerBase n + 0x18)) 31 && (s.peer n).inForce

/-- Reduction of the core set-points of partition `p`, in steps of 2.5 mV: DV of the port with the greatest F, the lowest-numbered of
equals (log entry 66). -/
def State.paceSteps (s : State) (p : Nat) : Nat :=
  let best := (s.followed p).foldl (fun (m : Nat × Nat) n =>
    let f := (s.peer n).rx.f
    if m.1 < f then (f, fld (s.regN (peerBase n + 0x18)) 0 5) else m) (0, 0)
  best.2 * best.1 / 1024

/-- The sample lowers every core's set-point by its partition's reduction, or withdraws it. -/
def State.paceSample (s : State) : State :=
  State.each (List.range 256) (fun c t =>
    t.modPower c fun q => { q with paceCut := match s.regionOwner (c / 16) with
      | some p => s.paceSteps p
      | none => 0 }) s

/-- Service rails within 10 mV of their set-points at the sample are up (R391), and a REF_SETTLED that reads 0 is noted (R380). -/
def State.serviceSample (s : State) : State :=
  State.each (List.range 16) (fun r t =>
    let u := if s.serviceOn r && s.railNear (256 + r) 10000 then t.modVr (256 + r) fun x => { x with live := true } else t
    u.modTlm r fun x => { x with refLow := since s.now x.refLow (s.serviceOn r && !s.refUsable r) }) s

/-- LOOP_SAMPLE (R342): at every block beat that is a multiple of 2,000. -/
def execLoopSample (s : State) : Host.Outcome State Fault Refusal :=
  .next (if s.now % 2000 ≠ 0 ∨ s.now = 0 ∨ s.power.sampled = s.now + 1 then s
    else
      let t := State.each (List.range 16) (fun r u => (u.closeIntervals r).judgeVpil r) s
      let t := (t.addEnergies).powerSample
      let t := State.each (List.range 256) (fun c u => u.learn c) t
      let t := ((t.computeOutputs).capStats).serviceSample.paceSample
      (t.startInterval).setPower { t.startInterval.power with sampled := s.now + 1 })

/-- LOOP_APPLY (R343, R346): outputs take effect, in the sluices of this beat too; ceilings whose condition ended in an earlier beat
are lifted. -/
def execLoopApply (s : State) : Host.Outcome State Fault Refusal :=
  .next (if s.now % 2000 ≠ 64 ∨ s.power.applied = s.now + 1 then s
    else
      let t := State.each (List.range 256) (fun c u =>
        u.modPower c fun p =>
          let q := if s.loopOpen (c / 16) then p else { p with loops := p.next }
          if 0 < q.missLeft && decide (q.missAt < s.now) then { q with missLeft := q.missLeft - 1 } else q) s
      let t := State.each (List.range 16) (fun r u =>
        u.modLoop r fun x =>
          match x.capEnd with
          | some e => if e + 64 < s.now then { x with capped := [], capEnd := none } else x
          | none => x) t
      (t.setPower { t.power with
        applied := s.now + 1
        cool := match t.power.cool with
          | some b => if b < s.now then none else some b
          | none => none
        xhold := (List.range 8).foldl (fun x p =>
          let h := tabGet xholdDefault x p
          if h.2 < s.now then tabSet xholdDefault x p (s.regN (xholdReg p), h.2) else x) t.power.xhold }).rehold)

/-! ## Opening the loop, margin trim (R354, R369, R370) -/

/-- LOOP_OPEN_EXPIRED (R354): 1 ms after HOLD was set. -/
def execLoopOpenExpired (region : RegionId) (s : State) : Host.Outcome State Fault Refusal :=
  .next (match (s.loop region).openSince with
    | some b =>
      if b + 2000000 ≤ s.now then
        let o := lpeReg region 0
        let v := s.regN o
        let t := s.putReg o (setFld (setFld v 31 1 0) 8 8 (satInc (fld v 8 8) 0xFF))
        (t.modLoop region fun x => { x with openSince := none }).raiseRegion 317 region none
      else s
    | none => s)

/-- Upper bound of VF: 0.95 V − GUARD, in steps above 0.55 V. -/
def State.floorTop (s : State) (c : Nat) : Nat := 160 - s.guardOf c

/-- MARGIN_TRIM (R369, R370): at the block beats that equal 781,250 c modulo 200,000,000. -/
def execMarginTrim (core : CoreId) (passAt passBelow : Bool) (roscPct : BitVec 8) (s : State) :
    Host.Outcome State Fault Refusal :=
  .next (let c := core.val
    let p := (s.core c).power
    if s.now % 200000000 ≠ 781250 * c ∨ !s.powered c then s
    else
      let dn := fld (s.regN (lpeReg (c / 16) 0x14)) 16 8
      let aged := decide (roscPct.toNat < 95) && !p.aged
      let run := if passAt && passBelow then p.passRun + 1 else 0
      let t := s.modPower c fun q =>
        { q with rosc := roscPct.toNat, aged := q.aged || decide (roscPct.toNat < 95)
                 vf := if !passAt then min (s.floorTop c) (q.vf + 1)
                       else if dn ≤ run && passBelow then q.vf - 1 else q.vf
                 passRun := if dn ≤ run then 0 else run }
      let t := if passAt then t else t.raiseCore 318 c (t.coreJob c)
      let t := if aged then t.raiseCore 319 c (t.coreJob c) else t
      if !passAt && decide (s.floorTop c ≤ p.vf) then
        let u := t.raiseCore 320 c (t.coreJob c)
        if (u.core c).power.out then u
        else
          let v := u.retire c
          if (u.core c).seq.bound then v.raiseCore 307 c (u.coreJob c) else v
      else t)

/-! ## Register writes (R353, R355 to R359, R373) -/

/-- The caps and floors that a write would leave keep R357. -/
def capsKeep (caps floors : List Nat) : Bool := caps.all fun c => decide (natSum floors + 200 ≤ c)

def State.writeCap (s : State) (w v : Nat) : Option State :=
  let c := clampTo 400 1600 (fld v 0 11)
  let caps := (List.range 3).map fun k => if k = w then c else s.capOf k
  if capsKeep caps ((List.range 8).map s.floorOf) then some ((s.putReg (capReg w) c).restartWindow w) else none

def State.writeFloor (s : State) (p v : Nat) : Option State :=
  let f := fld v 0 11
  let floors := (List.range 8).map fun k => if k = p then f else s.floorOf k
  if f ≤ 1400 && capsKeep ((List.range 3).map s.capOf) floors then
    some (State.each (List.range 3) (fun w t => t.restartWindow w) (s.putReg (floorReg p) f))
  else none

/-- PWR_XHOLD: a lower ceiling takes effect at once, a higher one at the first application beat after this one (R346). -/
def State.writeXhold (s : State) (p v : Nat) : State :=
  let c := min 1024 (fld v 0 11)
  let t := s.putReg (xholdReg p) c
  let h := tabGet xholdDefault t.power.xhold p
  (t.setPower { t.power with xhold := tabSet xholdDefault t.power.xhold p (min h.1 c, t.now) }).rehold

/-- LPE_CTRL (R352 to R354). -/
def State.writeLpeCtrl (s : State) (r v : Nat) : State :=
  let o := lpeReg r 0
  let old := s.regN o
  let alpha := if bitOf old 31 then clampTo 1 8 (fld v 0 4) else fld old 0 4
  let t := s.putReg o (at' 29 3 (fld v 29 3) + at' 8 8 (fld old 8 8) + alpha)
  t.modLoop r fun x => { x with openSince := if bitOf v 31 then (if bitOf old 31 then x.openSince else some s.now) else none }

/-- Registers of the loop engine of region `r` at offset `o`; LPE_COEF, LPE_THERM and LPE_DROOP accept writes only while HOLD
reads 1. -/
def State.writeLpe (s : State) (r o v : Nat) (loads : Bool) : Option State :=
  let opened := s.loopOpen r || loads
  match o with
  | 0x00 =>
    if loads then
      some (s.putReg (lpeReg r 0) (at' 29 2 (fld v 29 2) + at' 8 8 (fld (s.regN (lpeReg r 0)) 8 8) + clampTo 1 8 (fld v 0 4)))
    else some (s.writeLpeCtrl r v)
  | 0x04 => if opened then some (s.putReg (lpeReg r 4) v) else none
  | 0x08 => if opened then some (s.putReg (lpeReg r 8) (clampTo 90 104 (fld v 0 8))) else none
  | 0x0C =>
    if opened then some (s.putReg (lpeReg r 0xC) (at' 16 8 (max 1 (fld v 16 8)) + clampTo 1700 1800 (fld v 0 11))) else none
  | 0x10 =>
    some (s.putReg (lpeReg r 0x10) (at' 24 8 (max 1 (fld v 24 8)) + at' 20 4 (min 8 (fld v 20 4)) +
      at' 16 4 (max 1 (fld v 16 4)) + min 1024 (fld v 0 11)))
  | 0x14 =>
    -- VF stays at or below 0.95 V − GUARD (R370)
    let t := s.putReg (lpeReg r 0x14) (at' 16 8 (max 1 (fld v 16 8)) + min 12 (fld v 0 4))
    some (State.each (coresOf r) (fun c u => u.modPower c fun p => { p with vf := min p.vf (t.floorTop c) }) t)
  | 0x180 => some (s.putReg (lpeReg r 0x180) (at' 16 4 (fld v 16 4) + fld v 0 8))
  | _ => some s

/-! ## Views -/

/-- LPE_ALLOW of core `c`. -/
def State.allowView (s : State) (c : Nat) : Nat :=
  let m := leastSource (s.sources c)
  let o := (s.core c).power.loops
  at' 28 4 (if m.2 = 1024 then 0 else m.1) + at' 27 1 (b2n (decide (0 < (s.core c).power.missLeft))) + at' 16 11 m.2 +
    min o.cap0 (min o.cap1 o.cap2)

def State.marginView (s : State) (c : Nat) : Nat :=
  let p := (s.core c).power
  at' 24 8 p.rosc + at' 16 8 (min 0xFF p.passRun) + fld p.vf 0 8

/-- The learned entry that LPE_LEARN_SEL of region `r` selects. -/
def State.selected (s : State) (r : Nat) : Option Learned :=
  let v := s.regN (lpeReg r 0x180)
  s.learned (16 * r + fld v 16 4) (fld v 0 8)

end Sys2Proof.Machine
end

