-- ==== Sys2Proof/Machine/Thermal.lean ====
section
/-! DEFINITION. Thermal sensors, core and region temperatures, thresholds and the trip (R391 to R398, R516), and loss of coolant
(R51, R399 to R401, R513). Temperatures are in 0.125 °C.

Marks: DEDUCED (log entry 43). -/

namespace Sys2Proof.Machine

/-! ## Sensors (R391 to R394) -/

/-- The domain of sensor `n` is powered (Table — Thermal sensors). -/
def State.sensorOn (s : State) (n : Nat) : Bool :=
  if n < 1024 then s.powered (n / 4)
  else if n < 1056 then s.serviceLive ((n - 1024) / 2)
  else s.pins.stbyOk

def State.modSensor (s : State) (n : Nat) (f : Sensor → Sensor) : State :=
  s.setThermal { s.thermal with sensors := tabSet sensorDefault s.thermal.sensors n (f (s.sensor n)) }

/-- Sensor `n` is in use (R392). -/
def State.inUse (s : State) (n : Nat) : Bool :=
  let x := s.sensor n
  s.sensorOn n && x.valid && x.fresh && !x.suspect

def State.readingOf (s : State) (n : Nat) : Int := (s.sensor n).reading

/-- Sensor of the core in direction `dir` (0 east, 1 south, 2 west, 3 north) of core `c`, if there is one. -/
def acrossEdge (c dir quadrant : Nat) : List Nat :=
  ((tieNeighbours c).filter fun e => e.1 = dir).map fun e => 4 * e.2 + quadrant

/-- Neighbours of a sensor (Table — Sensor neighbours). -/
def sensorNeighbours (n : Nat) : List Nat :=
  if n < 1024 then
    let c := n / 4
    ((List.range 4).filter (· ≠ n % 4)).map (fun q => 4 * c + q) ++
    (match n % 4 with
     | 0 => acrossEdge c 2 1 ++ acrossEdge c 3 2
     | 1 => acrossEdge c 0 0 ++ acrossEdge c 3 3
     | 2 => acrossEdge c 2 3 ++ acrossEdge c 1 0
     | _ => acrossEdge c 0 2 ++ acrossEdge c 1 1)
  else if n < 1056 then
    let r := (n - 1024) / 2
    (1024 + 2 * r + (n + 1) % 2) :: (regionNeighbours r).flatMap fun q => [1024 + 2 * q, 1025 + 2 * q]
  else ([1056, 1057, 1058, 1059] : List Nat).filter (· ≠ n)

/-- Location sources of a sensor's events. -/
def sensorLocs (n : Nat) : List Nat :=
  if n < 1024 then [n / 4] else if n < 1056 then [256 + (n - 1024) / 2] else []

/-- Register of sensor `n`: THM_SENS, or PWR_THM_AON for the always-on sensors. -/
def sensorReg (n : Nat) : Nat :=
  if n < 1024 then regionBase (n / 64) + 0x80000 + 4 * (n % 64)
  else if n < 1056 then regionBase ((n - 1024) / 2) + 0x80100 + 4 * (n % 2)
  else 0x404010 + 4 * (n - 1056)

/-- Sensor `n` becomes suspect (R394). -/
def State.suspectSensor (s : State) (n : Nat) : State :=
  if (s.sensor n).suspect then s
  else ((s.modSensor n fun x => { x with suspect := true, dev := 0 }).mark (sensorReg n) 0x80000000).raise
    { src := 324, locs := sensorLocs n, job := none, tag := none }

/-- Deviation limit in 0.125 °C. -/
def State.devLimit (s : State) : Int := 8 * (fld (s.regN 0x404000) 0 4 : Int)

/-- A new reading of sensor `n` is judged against its neighbours in use (R393). -/
def State.judge (s : State) (n : Nat) : State :=
  let x := s.sensor n
  let l := ((sensorNeighbours n).filter s.inUse).map s.readingOf
  if x.suspect then s
  else if x.reading < -320 ∨ 1200 < x.reading then s.suspectSensor n
  else if l.length < 2 then s.modSensor n fun y => { y with dev := 0 }
  else
    let far := decide (2 * s.devLimit < ((2 * x.reading - medianTwice l).natAbs : Int))
    if !far then s.modSensor n fun y => { y with dev := 0 }
    else if 3 ≤ x.dev then s.suspectSensor n
    else s.modSensor n fun y => { y with dev := y.dev + 1 }

/-! ## Temperatures (R395, R516) -/

def State.coreT (s : State) (c : Nat) : Option Int := tabGet maxDefault s.thermal.coreT c
def substDefault (_ : Nat) : Bool := false
def State.substituted (s : State) (c : Nat) : Bool := tabGet substDefault s.thermal.subst c

def coreSensors (c : Nat) : List Nat := (List.range 4).map fun q => 4 * c + q

/-- Greatest T of those cores that are powered and not substituted. -/
def State.soundMax (s : State) (cs : List Nat) : Option Int :=
  maxOf ((cs.filter fun d => s.powered d && !s.substituted d).filterMap s.coreT)

/-- T of core `c` after two of its sensors have become suspect. -/
def State.borrowedT (s : State) (c : Nat) : Int :=
  let r := c / 16
  match s.soundMax ((tieNeighbours c).map (·.2)), s.soundMax ((coresOf r).filter (· ≠ c)),
      maxOf (([1024 + 2 * r, 1025 + 2 * r].filter s.inUse).map s.readingOf) with
  | some t, _, _ => t + 40
  | none, some t, _ => t + 40
  | none, none, some t => t + 40
  | none, none, none => 840

/-- Core `c` takes its temperature anew: its value, and whether it is substituted. -/
def State.newT (s : State) (c : Nat) : Option Int × Bool :=
  if 2 ≤ ((coreSensors c).filter fun n => (s.sensor n).suspect).length then (some (s.borrowedT c), true)
  else
    match maxOf (((coreSensors c).filter s.inUse).map s.readingOf) with
    | some t => (some t, false)
    | none => (s.coreT c, false)

/-- A temperature joins the greatest of its loop interval. -/
def State.noteMax (s : State) (k : Nat) (t : Int) : State :=
  let m := match tabGet maxDefault s.thermal.maxT k with
    | some u => if u < t then t else u
    | none => t
  s.setThermal { s.thermal with maxT := tabSet maxDefault s.thermal.maxT k (some m) }

/-- Region temperature (R516); none while nothing of the region is measured. -/
def State.regionT (s : State) (r : Nat) : Option Int :=
  match ([1024 + 2 * r, 1025 + 2 * r].filter s.inUse).map s.readingOf with
  | [a, b] => some ((a + b) / 2)
  | [a] => some a
  | _ => maxOf (((coresOf r).filter s.powered).filterMap s.coreT)

/-- Temperatures in use (R396). -/
def State.temperatures (s : State) : List Int :=
  ((List.range 256).filter s.powered).filterMap s.coreT ++
    (((List.range 36).map fun k => 1024 + k).filter s.inUse).map s.readingOf

/-- BLOCK_STATUS.THERM_WARN. -/
def State.thermWarn (s : State) : Bool := s.temperatures.any fun t => decide (760 ≤ t)

/-- Greatest temperature in use in region `r`. -/
def State.regionMax (s : State) (r : Nat) : Option Int :=
  maxOf (((coresOf r).filter s.powered).filterMap s.coreT ++
    ([1024 + 2 * r, 1025 + 2 * r].filter s.inUse).map s.readingOf)

/-! ## The trip (R397, R54) -/

/-- The trip, once: regulators off, THERM_TRIP_N low, PWR_TRIP, GRAVE. -/
def State.tripBlock (s : State) (n : Nat) (t : Int) : State :=
  if s.boot.trip then s
  else
    let u := (s.railsOff true).modPins fun p => { p with tripLow := true }
    let u := u.modBoot fun b => { b with trip := true }
    let u := u.putReg 0x404020 (at' 31 1 1 + at' 16 11 n + toTwos 16 t)
    (u.persistOn 274 none).raiseBlock 274

/-- The core is at the hard hold: its own T, or a service sensor in use of its region, is at or above 105 °C (R396). -/
def State.hardHeld (s : State) (c : Nat) : Bool :=
  s.powered c &&
    ((match s.coreT c with | some t => decide (840 ≤ t) | none => false) ||
      ([1024 + 2 * (c / 16), 1025 + 2 * (c / 16)].filter s.inUse).any fun n => decide (840 ≤ s.readingOf n))

/-- Rising edges of THERM_WARN and of the hard holds, whatever brings them, set their sources (R396). -/
def State.thermEdges (s : State) : State :=
  let warm := s.thermWarn
  let hot := (List.range 256).filter s.hardHeld
  let new := hot.filter fun c => !s.thermal.held.any (· = c)
  let t := s.setThermal { s.thermal with warned := warm, held := hot }
  let t := State.each new (fun c u => u.raiseCore 327 c (u.coreJob c)) t
  if warm && !s.thermal.warned then t.raiseBlock 326 else t

/-- Sensor of core `c` in use whose reading is `t`. -/
def State.sensorAt (s : State) (c : Nat) (t : Int) : Nat :=
  ((((coreSensors c).filter s.inUse).filter fun n => s.readingOf n = t).head?).getD (4 * c)

/-- The core temperature of `c` is formed again, with what it sets. -/
def State.updateCore (s : State) (c : Nat) : State :=
  let was := s.substituted c
  let x := s.newT c
  match x.1 with
  | none => s
  | some t =>
    let u := s.setThermal { s.thermal with
      coreT := tabSet maxDefault s.thermal.coreT c (some t)
      subst := tabSet substDefault s.thermal.subst c x.2 }
    let u := u.noteMax c t
    let u := if x.2 && !was then u.raiseCore 325 c (u.coreJob c) else u
    if 944 ≤ t then u.tripBlock (if x.2 then 4 * c else s.sensorAt c t) t else u

/-- SENSOR_CONVERSION (R391): a powered sensor reports, once in 1,000 beats; it is judged, and the temperatures that rest on it are formed. -/
def execSensorConversion (sensor : SensorId) (reading : BitVec 16) (s : State) : Host.Outcome State Fault Refusal :=
  .next (let n := sensor.val
    if !s.sensorOn n || (decide ((s.sensor n).convAt ≠ 0) && decide (s.now + 1 < (s.sensor n).convAt + 1000)) then s
    else
      let t := (s.modSensor n fun x => { x with valid := true, fresh := true, temp := reading, convAt := s.now + 1 }).judge n
      if n < 1024 then (t.updateCore (n / 4)).thermEdges
      else if t.inUse n then
        let u := (if n < 1056 then t.noteMax n reading.toInt else t)
        (if 944 ≤ reading.toInt then u.tripBlock n reading.toInt else u).thermEdges
      else t.thermEdges)

/-- SUSPECT of sensor `n` is cleared (R394). -/
def State.clearSuspect (s : State) (n : Nat) : State :=
  if (s.sensor n).suspect && !(s.sensor n).cut then s.modSensor n fun x => { x with suspect := false, fresh := false, dev := 0 }
  else s

/-! ## Coolant (R51, R399 to R401, R513) -/

def coolReg : Nat := 0x404030

/-- Steps 1 to 4 of R399; a reset sequence before its step 10 takes step 4 alone (R513). -/
def State.loseCoolant (s : State) : State :=
  let seq := s.sequenceRuns
  let t := s.modBoot fun b => { b with coolant := true, resuming := false }
  let t := t.setPower { t.power with cool := none }
  let t := if seq then t else (t.endJobs).allToRetain
  let v := t.regN coolReg
  let t := t.putReg coolReg (setFld v 0 16 (satInc (fld v 0 16) 0xFFFF))
  ((t.raiseBlock 328).wakeCause 6 0 false).rehold

/-- COOLANT_OK_FALL (R51): a low begins; it restarts the second of R401. -/
def execCoolantOkFall (s : State) : Host.Outcome State Fault Refusal :=
  .next (if s.pins.coolantOk then
      (s.modPins fun p => { p with coolantOk := false }).modBoot fun b =>
        { b with sinceCoolant := s.now, lossSeen := false, recoverOk := false }
    else s)

/-- COOLANT_LOSS (R399): the low has lasted 1 µs, and is confirmed once. -/
def execCoolantLoss (s : State) : Host.Outcome State Fault Refusal :=
  .next (if s.pins.stbyOk && !s.pins.coolantOk && !s.boot.lossSeen && decide (s.boot.sinceCoolant + 2000 ≤ s.now) then
      (s.modBoot fun b => { b with lossSeen := true }).loseCoolant
    else s)

/-- COOLANT_OK_RISE (R401). -/
def execCoolantOkRise (s : State) : Host.Outcome State Fault Refusal :=
  .next (if s.pins.coolantOk then s
    else (s.modPins fun p => { p with coolantOk := true }).modBoot fun b => { b with sinceCoolant := s.now, lossSeen := false })

/-- COOLANT_RECOVER_OK (R401): high for 1 s without a break; source 353 arrives (R425). -/
def execCoolantRecoverOk (s : State) : Host.Outcome State Fault Refusal :=
  .next (if s.pins.stbyOk && s.pins.coolantOk && !s.boot.recoverOk && decide (s.boot.sinceCoolant + 2000000000 ≤ s.now) then
      State.each (bitsOf 8 s.faults.one.evqTags.toNat) (fun p t => t.arrive p 353 0)
        (s.modBoot fun b => { b with recoverOk := true })
    else s)

/-- A write of PWR_COOL (R401). -/
def State.writeCool (s : State) (v : Nat) : Option State :=
  if !bitOf v 31 then some s
  else if s.blockState = 7 && s.boot.recoverOk then
    if s.boot.coolant then
      let t := s.modBoot fun b => { b with coolant := false, resuming := true }
      let t := t.setPower { t.power with cool := some t.now }
      some (t.actOnRequests).afterUps
    else some s
  else none

/-! ## Views -/

def State.sensorView (s : State) (n : Nat) : Nat :=
  let x := s.sensor n
  at' 31 1 (b2n x.suspect) + at' 30 1 (b2n (x.valid && s.sensorOn n)) + x.temp.toNat

def State.coreTView (s : State) (c : Nat) : Nat :=
  at' 31 1 (b2n (s.substituted c)) + at' 30 1 (b2n (s.powered c)) + toTwos 16 ((s.coreT c).getD 0)

def State.regionTView (s : State) (r : Nat) : Nat :=
  at' 16 16 (toTwos 16 ((s.regionMax r).getD 0)) + toTwos 16 ((s.regionT r).getD 0)

/-- Fuse and flash writes are permitted (R402): an always-on or service sensor has given a reading, and none in use is outside 0 °C
to 85 °C. -/
def State.nvmOk (s : State) : Bool :=
  s.thermal.sensors.any (fun e => decide (1024 ≤ e.1) && e.2.valid) &&
    (((List.range 36).map fun k => 1024 + k).filter s.inUse).all fun n =>
      decide (0 ≤ s.readingOf n) && decide (s.readingOf n ≤ 680)

end Sys2Proof.Machine
end

