-- ==== Sys2Proof/Machine/Events.lean ====
section
/-! DEFINITION. Event queues: withdrawals, recorders, rings, interrupt messages, deep idle (R425 to R447, R512). Arrivals and
the start of a wake stand in Machine/Faults.lean.

Marks: DEDUCED (log entry 45), DEDUCED (log entry 46). -/

namespace Sys2Proof.Machine

/-- Host port transactions can be taken or sent: region 1's service rail is up, outside RESET (R57, R514). -/
def State.hostOpen (s : State) : Bool := s.serviceOn 1 && s.blockState ≠ 0

def State.deliver (s : State) : Bool := bitOf (s.regN 0x200000) 0

/-! ## Arrivals (R425, R426) -/

/-- Source `k` can arrive for partition `p` with class `cls` (Table — Event-only sources, R425). -/
def State.mayArrive (s : State) (p k cls : Nat) : Bool :=
  if k < 332 then decide (cls ≤ 4)
  else cls = 0 &&
    (if 336 ≤ k ∧ k < 352 then s.regionOwner (k - 336) = some p
     else if k = 352 then (s.evq p).en
     else if k = 353 then bitOf s.faults.one.evqTags.toNat p
     else false)

/-- EVENT_ARRIVAL (R426): taken in every block state from STBY_OK onward (R427). -/
def execEventArrival (part : PartId) (src : Fin 512) (cls : BitVec 3) (s : State) : Host.Outcome State Fault Refusal :=
  .next (if s.pins.stbyOk && s.mayArrive part src cls.toNat then s.arrive part src cls.toNat else s)

/-- Source `k` of partition `p` is withdrawn (R428); a record selected for it notes the beat (R430). -/
def State.withdrawOne (s : State) (p k : Nat) : State :=
  s.modEvq p fun x =>
    let q := x.pendOf k
    if !q.pend then x
    else
      let z := q.touch s.now
      let left := match q.last with
        | some (b, c) => if b = s.now then { z with count := 1, cls := c, stamp := BitVec.ofNat 48 s.now }
            else { z with pend := false, count := 0, cls := 0 }
        | none => { z with pend := false, count := 0, cls := 0 }
      let y := x.putPend k left
      { y with recs := y.recs.map fun r =>
          if r.src = k && !r.written then { r with withdrawn := some (BitVec.ofNat 48 s.now) } else r }

/-- A write of EVQ_PEND `k`. -/
def State.withdraw (s : State) (p k v : Nat) : State :=
  State.each (bitsOf 32 v) (fun j t => t.withdrawOne p (32 * k + j)) s

/-! ## Rooms and selections (R429, R431, R433) -/

/-- Records selected and not yet counted by HEAD. -/
def EventPart.flight (x : EventPart) : Nat := x.recs.length

def State.hasRoom (s : State) (p : Nat) : Bool :=
  let x := s.evq p
  decide ((x.head + BitVec.ofNat 32 x.flight - x.tail).toNat < s.ringSize p)

/-- The recorder of `p` runs, room apart. -/
def State.recorderOn (s : State) (p : Nat) : Bool :=
  let x := s.evq p
  let b := s.blockState
  s.deliver && (x.en || decide (x.offAt = s.now + 1)) && !x.halt && b ≠ 0 && b ≠ 1 && b ≠ 3 && (b ≠ 8 || s.boot.waking)

/-- Sources pending at the start of this beat, those of records still to be written apart. -/
def State.selectable (s : State) (p : Nat) : List Nat :=
  let x := s.evq p
  (x.pending.filter fun e =>
    (e.2.before s.now).1 && !(x.recs.any fun r => r.src = e.1 && !r.written)).map (·.1)

/-- RECORD_SELECT (R429): the lowest source pending at the start of the beat, at most once in four beats. Without room source 330
is set, once (R433). -/
def execRecordSelect (part : PartId) (s : State) : Host.Outcome State Fault Refusal :=
  .next (let p := part.val
    let x := s.evq p
    let free := match x.lastSel with
      | some b => decide (b + 4 ≤ s.now)
      | none => true
    if !s.recorderOn p || !free then s
    else match s.selectable p with
    | [] => s
    | k :: _ =>
      if s.hasRoom p then
        s.modEvq p fun y =>
          { y with recs := y.recs ++ [{ src := k, index := y.nextIdx, selected := s.now, withdrawn := none, written := false,
                                        complete := false, addr := 0, bytes := [], tid := none, took := (0, 0, 0, 0) }],
                   nextIdx := y.nextIdx + 1, lastSel := some s.now, fullSent := false }
      else if x.fullSent then s
      else (s.modEvq p fun y => { y with fullSent := true }).raise { src := 330, locs := [], job := none, tag := some p })

/-! ## Writing a record (R430, R432) -/

/-- The 16 bytes of Table — Event record. -/
def recordBytes (p : Nat) (index size : Nat) (took : Nat × Nat × Nat × BitVec 48) : List Byte :=
  leBytes 8 (index * 2 ^ 32 + b2n (index / size % 2 = 0) * 2 ^ 31 + p * 2 ^ 28 + took.2.2.1 * 2 ^ 24 + took.2.1 * 2 ^ 16 +
      took.1) ++ leBytes 8 took.2.2.2.toNat

/-- What the record of source `r.src` carries, and the pending state it leaves. -/
def recordTake (q : Pending) (r : EventRec) (now : Nat) : (Nat × Nat × Nat × BitVec 48) × Pending :=
  let b := q.before now
  if b.1 then
    let z := { q with seen := now + 1, was := (false, 0, 0, b.2.2.2) }
    ((r.src, b.2.1, b.2.2.1, b.2.2.2),
     match q.last with
     | some (l, c) => if l = now then { z with pend := true, count := 1, cls := c, stamp := BitVec.ofNat 48 now }
         else { z with pend := false, count := 0, cls := 0 }
     | none => { z with pend := false, count := 0, cls := 0 })
  else ((1023, 0, 0, r.withdrawn.getD 0), q)

def EventPart.modRec (x : EventPart) (index : BitVec 32) (f : EventRec → EventRec) : EventPart :=
  { x with recs := x.recs.map fun r => if r.index = index then f r else r }

/-- RECORD_WRITE (R430): the oldest selected record, four beats after its selection. -/
def execRecordWrite (part : PartId) (s : State) : Host.Outcome State Fault Refusal :=
  .next (let p := part.val
    match (s.evq p).recs.find? fun r => !r.written with
    | none => s
    | some r =>
      if s.now < r.selected + 4 then s
      else
        let size := s.ringSize p
        let a := s.ringAddr p + 16 * (r.index.toNat % size)
        let k := recordTake ((s.evq p).pendOf r.src) r s.now
        let bs := recordBytes p r.index.toNat size k.1
        let host := s.locate p a = .host && s.hostOpen
        let t := if host then s.sendOutbound p a 16 (some bs) (.event part r.index) else s
        let tid := if host then t.host.outbound.getLast?.map (·.id) else none
        t.modEvq p fun x =>
          (x.putPend r.src k.2).modRec r.index fun y =>
            { y with written := true, addr := a, bytes := bs, tid := tid, took := k.1 })

/-! ## Completion (R433, R434) -/

/-- HEAD passes the complete records at the front. -/
def EventPart.advance (x : EventPart) (now : Nat) : EventPart :=
  let done := x.recs.takeWhile (·.complete)
  let head := x.head + BitVec.ofNat 32 done.length
  { x with recs := x.recs.dropWhile (·.complete), head := head,
           ageStart := if x.head = x.tail && decide (head ≠ x.tail) && x.armed then now else x.ageStart }

/-- The pending state of a written record is restored, merged with what has arrived since (R434). -/
def EventPart.restore (x : EventPart) (r : EventRec) (now : Nat) : EventPart :=
  if !r.written || r.took.1 = 1023 then x
  else
    let q := x.pendOf r.src
    x.putPend r.src { q.touch now with
      pend := true, count := min 255 (r.took.2.1 + (if q.pend then q.count else 0)),
      cls := max r.took.2.2.1 (if q.pend then q.cls else 0), stamp := r.took.2.2.2 }

/-- The write of the record with this index has failed: HALT, and the records from it on are taken back. -/
def State.failRecord (s : State) (p : Nat) (index : BitVec 32) : State :=
  let t := s.modEvq p fun x =>
    let back := x.recs.dropWhile fun r => r.index ≠ index
    let y := back.foldl (fun (z : EventPart) r => z.restore r s.now) x
    { y with recs := x.recs.takeWhile (fun r => r.index ≠ index), nextIdx := index, halt := true, werr := true }
  t.raise { src := 330, locs := [], job := none, tag := some p }

/-- The record's answer, where it went to the host window: none while it is awaited. -/
def State.recordReply (s : State) (r : EventRec) : Option (Option Bool) :=
  match r.tid with
  | none => none
  | some tid => match s.host.outbound.find? (fun o => o.id = tid) with
    | some o => some (o.reply.map Option.isSome)
    | none => some (some false)

def State.dropOutbound (s : State) (tid : Nat) : State :=
  s.setHost { s.host with outbound := s.host.outbound.filter fun o => !(o.id = tid) }

/-- One written record completes. -/
def State.completeRecord (s : State) (p : Nat) (r : EventRec) (ok : Bool) : State :=
  match s.recordReply r with
  | some none => s
  | some (some good) =>
    if good = ok then
      let t := s.dropOutbound (r.tid.getD 0)
      if good then t.modEvq p fun x => (x.modRec r.index fun y => { y with complete := true }).advance t.now
      else t.failRecord p r.index
    else s
  | none =>
    let l := s.locateAll p r.addr 16
    if s.waitsFor l then s
    else
    let w := if ok && allMem l && !s.boot.grave then s.writePieces none (some p) l r.bytes else (s, true)
    if w.2 then w.1.failRecord p r.index
    else w.1.modEvq p fun x => (x.modRec r.index fun y => { y with complete := true }).advance w.1.now

/-- RECORD_COMPLETE (R433): the oldest record in flight whose write has ended. -/
def execRecordComplete (part : PartId) (ok : Bool) (s : State) : Host.Outcome State Fault Refusal :=
  .next (let p := part.val
    match (s.evq p).recs.find? fun r => r.written && !r.complete && !(s.recordReply r = some none) with
    | some r => s.completeRecord p r ok
    | none => s)

/-- Record writes that an end of service interrupts have failed (R512); records not yet written are given up. -/
def State.failRecords (s : State) : State :=
  State.each (List.range 8) (fun p t =>
    match (t.evq p).recs.find? fun r => r.written && !r.complete with
    | some r => t.failRecord p r.index
    | none =>
      match (t.evq p).recs with
      | [] => t
      | r :: _ => t.modEvq p fun x => { x with recs := [], nextIdx := r.index }) s

/-! ## The interrupt message (R438 to R440) -/

/-- The message of partition `p` is due. -/
def State.messageDue (s : State) (p : Nat) : Bool :=
  let x := s.evq p
  let cfg := s.regN (evqBase p + 8)
  s.deliver && x.en && x.armed && decide (x.head ≠ x.tail) &&
    (decide (fld cfg 8 8 ≤ (x.head - x.tail).toNat) || decide (x.ageStart + 2000 * fld cfg 16 12 ≤ s.now))

/-- MSG_ERR sets (R440). -/
def State.messageError (s : State) (p : Nat) : State :=
  (s.modEvq p fun x => { x with msgErr := true }).mark (evqBase p + 0x14) 0x4000000

/-- MESSAGE_SEND (R438). -/
def execMessageSend (part : PartId) (s : State) : Host.Outcome State Fault Refusal :=
  .next (let p := part.val
    if !s.messageDue p then s
    else
      let t := s.modEvq p fun x => { x with armed := false }
      let a := s.addrReg (evqBase p + 0x18)
      if s.hostOpen && s.locate p a = .host && s.locate p (a + 3) = .host then
        t.sendOutbound p a 4 (some (leBytes 4 (s.regN (evqBase p + 0x20)))) (.message part)
      else t.messageError p)

/-! ## Register writes (R435, R436, R439) -/

/-- A write of EVQ_TAIL; none where it is refused. -/
def State.writeTail (s : State) (p v : Nat) : Option State :=
  let x := s.evq p
  let w := BitVec.ofNat 32 v
  let age := fun (y : EventPart) => { y with armed := true, ageStart := if y.head ≠ y.tail then s.now else y.ageStart }
  if !x.en then
    some (s.modEvq p fun y => age { y with tail := w, head := w, nextIdx := w, recs := [] })
  else if (w - x.tail).toNat ≤ (x.head - x.tail).toNat then some (s.modEvq p fun y => age { y with tail := w })
  else none

/-- The ring of partition `p` passes the check of R435 against the table registers in force. -/
def State.ringGood (s : State) (p : Nat) : Bool :=
  decide (fld (s.regN (evqBase p + 8)) 0 4 ≤ 10) && decide (s.ringAddr p % 4096 = 0) &&
    s.ringInside (partBase p) (s.ringAddr p) (16 * s.ringSize p)

/-- A write of EVQ_CFG; none where it would change SIZE while EN is 1. -/
def State.writeEvqCfg (s : State) (p v : Nat) : Option State :=
  let o := evqBase p + 8
  if (s.evq p).en && decide (fld v 0 4 ≠ fld (s.regN o) 0 4) then none
  else
    let t := s.putReg o (at' 16 12 (fld v 16 12) + at' 8 8 (max 1 (fld v 8 8)) + fld v 0 4)
    if bitOf v 31 then
      let good := t.ringGood p
      some (t.modEvq p fun x => { x with halt := false, werr := false, cfgErr := !good, en := good, offAt := 0 })
    else some (t.modEvq p fun x =>
        { x with en := false, halt := false, werr := false, offAt := if x.en then s.now + 1 else x.offAt })

/-- A write of EVQ_RING_LO or _HI; none while EN is 1. -/
def State.writeRing (s : State) (p o v : Nat) : Option State :=
  if (s.evq p).en then none
  else some (s.putReg (evqBase p + o) (if o = 0 then v / 4096 * 4096 else v % 65536))

/-- EVQ_STAT. -/
def State.evqStat (s : State) (p : Nat) : Nat :=
  let x := s.evq p
  at' 31 1 (b2n x.armed) + at' 30 1 (b2n (!s.hasRoom p)) + at' 29 1 (b2n x.halt) + at' 28 1 (b2n x.cfgErr) +
    at' 27 1 (b2n x.werr) + at' 26 1 (b2n x.msgErr) + (x.pending.filter fun e => e.2.pend).length

/-- EVQ_PEND `k`. -/
def State.evqPend (s : State) (p k : Nat) : Nat :=
  maskOf ((List.range 32).filter fun j => ((s.evq p).pendOf (32 * k + j)).pend)

/-- Every enabled ring is checked against the table just loaded (R512). -/
def State.recheckRings (s : State) : State :=
  State.each (List.range 8) (fun p t =>
    if (t.evq p).en && !t.ringGood p then t.modEvq p fun x => { x with en := false, cfgErr := true } else t) s

/-! ## Deep idle (R441, R442, R446) -/

/-- First of conditions 2 to 5 of R441 that holds; 0 when none does. -/
def State.busyReason (s : State) : Nat :=
  if s.cores.any (fun e => e.2.seq.bound) then 2
  else if s.dma.any (fun e => e.2.state = .running || e.2.state = .draining) then 3
  else if !s.pgk.calls.isEmpty || s.scouts.any (fun e => !e.2.fired.isEmpty || e.2.serving.isSome) then 4
  else if s.peers.any (fun e => !e.2.accesses.isEmpty) then 5
  else 0

/-- First failing condition of R441; 0 when the request is accepted. -/
def State.idleRefusal (s : State) : Nat :=
  if s.blockState ≠ 4 then 1
  else if s.busyReason ≠ 0 then s.busyReason
  else if (List.range 8).any (fun p => (s.evq p).pending.any fun e => e.2.pend && s.owlNames e.1) then 6
  else 0

/-- A write of EVQ_IDLE with ENTER: the Bool says that it is accepted. -/
def State.enterIdle (s : State) : State × Bool :=
  let n := s.idleRefusal
  if n = 0 then
    if s.boot.entering then (s, true) else ((s.allToRetain).modBoot fun b => { b with entering := true, wakeMet := none }, true)
  else (s.putReg 0x200008 (setFld (s.regN 0x200008) 24 4 n), false)

/-- IDLE_REACHED (R442): every core is down. -/
def execIdleReached (s : State) : Host.Outcome State Fault Refusal :=
  .next (if s.boot.entering && s.allDown then
      s.modBoot fun b => { b with base := if b.base = .ready then .idle else b.base, entering := false }
    else s)

/-- A wake cause that met the entry begins its wake in the next beat (R446). -/
def State.lateWake (s : State) : State :=
  match s.boot.wakeMet with
  | some (c, k) =>
    if s.boot.base = .idle && !s.boot.waking && !s.boot.entering then
      ((s.modBoot fun b => { b with wakeMet := none }).wakeCause c k true).afterUps
    else s
  | none => s

/-- EVQ_IDLE_STAT. -/
def State.idleStat (s : State) : Nat := setFld (s.regN 0x200008) 31 1 (b2n s.boot.waking)

end Sys2Proof.Machine
end

