-- ==== Sys2Proof/Machine/Tlm.lean ====
section
/-! DEFINITION. Telemetry: conversions, spot conversions, snapshots, the reference, stale channels, 1 ms windows and the pillar
check (R374 to R390, R314, R315).

Marks: DEDUCED (log entry 44), DEDUCED (log entry 56). -/

namespace Sys2Proof.Machine

/-! ## Converters and sequences (R376 to R378) -/

def convReg (r k : Nat) : Nat := tlmReg r (0x40 + 16 * k)

/-- Converter whose sequence converter `k` runs: its own, or that of its even sibling with PAIR = 1. -/
def State.leader (s : State) (r k : Nat) : Nat :=
  if k % 2 = 1 ∧ bitOf (s.regN (convReg r (k - 1))) 30 then k - 1 else k

def State.convOn (s : State) (r k : Nat) : Bool := bitOf (s.regN (convReg r (s.leader r k))) 31

/-- Entry the converter runs: its place in the sequence, and its input. -/
def State.entryAt (s : State) (r k : Nat) : Nat × Nat :=
  let l := s.leader r k
  let len := max 1 (fld (s.regN (convReg r l)) 0 4)
  let i := tabGet (fun _ => 0) (s.tlmR r).entry k % len
  let w := s.regN (convReg r l + (if i < 4 then 4 else 8))
  (i, fld w (8 * (i % 4)) 6)

/-- Beat in which the slot that follows beat `e` begins under its own trigger. -/
def slotFrom (w e : Nat) : Nat := if bitOf w 29 then e + (fld w 16 4 + 16 - e % 16) % 16 else e

def endedAt (x : TlmRegion) (k : Nat) : Nat := tabGet (fun _ => 0) x.ended k

/-- Beat in which the converter's present slot begins. One that runs its sibling's sequence begins half a slot after its slots
(R378). -/
def State.slotStart (s : State) (r k : Nat) : Nat :=
  let l := s.leader r k
  let w := s.regN (convReg r l)
  let e := endedAt (s.tlmR r) k
  if l = k then slotFrom w e
  else
    let first := slotFrom w (endedAt (s.tlmR r) l)
    if bitOf w 29 then e + ((first + 64) % 128 + 128 - e % 128) % 128
    else e + ((first + 63) % 125 + 125 - e % 125) % 125

/-- Beats that a conversion or an idle slot occupies, less one: it ends in that beat. -/
def slotBeats : Nat := 124

/-! ## A conversion (R375, R381 to R383, R490) -/

/-- Corrected value of a code with the trims of its channel (R375). -/
def corrected (trim code : Nat) : Nat :=
  let v := Int.tdiv ((16 * (code : Int) - signedOf 12 (fld trim 16 12)) * (fld trim 0 16 : Int)) 32768
  if v < 0 then 0 else if 65535 < v then 65535 else v.toNat

def tstTlm (r : Nat) : Nat := 0x1F00040 + 4 * r

/-- Code and over-range flag that enter correction for input `k` (R489, R490), and the state with the force spent. -/
def State.forced (s : State) (r k code : Nat) (ovr : Bool) : Nat × Bool × State :=
  let w := s.regN (tstTlm r)
  if s.perturb.unlocked && bitOf w 31 && fld w 24 6 = k then
    let f := fld w 0 12
    let v := if k = 34 then min f code else if k = 38 then f else max f code
    let n := tabGet (fun _ => 0) s.perturb.left r
    let t := s.modPerturb fun p =>
      { p with forced := w32 (satInc p.forced.toNat 0xFFFFFFFF), left := tabSet (fun _ => 0) p.left r (n - 1) }
    (v, ovr || bitOf w 30, if fld w 16 8 ≠ 0 ∧ n ≤ 1 then t.putReg (tstTlm r) (setFld w 31 1 0) else t)
  else (code, ovr, s)

/-- A corrected value enters a channel: accumulator, trackers, interval. -/
def TlmChan.enter (x : TlmChan) (v : Nat) : TlmChan :=
  { x with sum := x.sum + BitVec.ofNat 48 v, count := x.count + 1, min0 := min x.min0 v, max0 := max x.max0 v,
           min1 := min x.min1 v, max1 := max x.max1 v, iSum := x.iSum + v, iCount := x.iCount + 1, iMax := max x.iMax v }

/-- A channel's sum, count and trackers in a snapshot bank. -/
def State.putSnap (s : State) (r b k : Nat) (x : TlmChan) (lo hi : Nat) : State :=
  let o := tlmReg r (0x400 + 0x400 * b + 16 * k)
  (((s.putReg o (x.sum.toNat % 2 ^ 32)).putReg (o + 4) (x.sum.toNat / 2 ^ 32)).putReg (o + 8) x.count.toNat).putReg (o + 12)
    (65536 * hi + lo)

def TlmChan.low (x : TlmChan) (b : Nat) : Nat := if b = 0 then x.min0 else x.min1
def TlmChan.high (x : TlmChan) (b : Nat) : Nat := if b = 0 then x.max0 else x.max1
def TlmChan.track (x : TlmChan) (b lo hi : Nat) : TlmChan :=
  if b = 0 then { x with min0 := lo, max0 := hi } else { x with min1 := lo, max1 := hi }

def snapDefault (_ : Nat) : Nat × Bool := (0, false)

/-- A corrected value enters channel `ch` unless its reading wires are broken (R408), and a snapshot of the same beat, whose reset of the trackers stands (R382). -/
def State.enterChan (s : State) (r ch v : Nat) : State :=
  let x := s.tlmChan r ch
  if x.cut then s else
  let y := { x.enter v with stale := 0 }
  State.each [0, 1] (fun b t =>
    let n := tabGet snapDefault (s.tlmR r).snaps b
    if n.1 = s.now + 1 then
      if n.2 then
        let w := s.regN (tlmReg r (0x400 + 0x400 * b + 16 * ch + 12))
        (t.putSnap r b ch y (min (w % 65536) v) (max (w / 65536) v)).modChanT r ch fun z => z.track b (x.low b) (x.high b)
      else t.putSnap r b ch y (y.low b) (y.high b)
    else t) (s.modChanT r ch fun _ => y)

/-- A conversion of input `k` of region `r` completes into channel `ch`. -/
def State.convert (s : State) (r k ch code : Nat) (ovr : Bool) : State :=
  let f := s.forced r k code ovr
  let t := f.2.2
  let v := if f.2.1 then 65535 else corrected (s.regN (tlmReg r (0x100 + 4 * k))) f.1
  let t := if s.refUsable r then (t.enterChan r ch v).staleCheck r else t
  if f.2.1 then
    let o := tlmReg r (if ch < 32 then 0xC8 else 0xCC)
    ((t.putReg o (setFld (t.regN o) (ch % 32) 1 1)).mark o (2 ^ (ch % 32))).raiseRegion 322 r none
  else t

def heldSlot (_ : Nat) : Option (Nat × Nat) := none

/-- The slot that converter `k` is in or will begin next: its start, its place in the sequence and its input. A slot in progress
keeps the input it began with. -/
def State.slotNow (s : State) (r k : Nat) : Option (Nat × Nat × Nat) :=
  match tabGet heldSlot (s.tlmR r).slots k with
  | some q => some (q.1, tabGet (fun _ => 0) (s.tlmR r).entry k, q.2)
  | none => if s.convOn r k then some (s.slotStart r k, s.entryAt r k) else none

/-- The slots of region `r` in progress keep their inputs (R376). -/
def State.keepSlots (s : State) (r : Nat) : State :=
  State.each (List.range 8) (fun k t =>
    match s.slotNow r k with
    | some q =>
      if q.1 ≤ s.now then
        t.modTlm r fun x => { x with slots := tabSet heldSlot x.slots k (some (q.1, q.2.2)), entry := tabSet (fun _ => 0) x.entry k q.2.1 }
      else t
    | none => t) s

/-- The slot of converter `k` that began at beat `b` has ended; `conv`: it was a conversion. -/
def State.endSlot (s : State) (r k b next : Nat) (conv : Bool) : State :=
  s.modTlm r fun y =>
    { y with entry := tabSet (fun _ => 0) y.entry k next, ended := tabSet (fun _ => 0) y.ended k (b + slotBeats + 1)
             slots := tabSet heldSlot y.slots k none
             convAt := if conv then tabSet (fun _ => 0) y.convAt k (s.now + 1) else y.convAt }

/-- ADC_CONVERSION (R376): the converter's present slot ends, or its spot conversion. An idle slot converts nothing. -/
def execAdcConversion (region : RegionId) (conv : Fin 8) (code : BitVec 12) (ovr : Bool) (s : State) :
    Host.Outcome State Fault Refusal :=
  .next (let r := region.val
    let k := conv.val
    let x := s.tlmR r
    if !s.serviceOn r then s
    else match x.spots.find? fun p => p.1 = k with
    | some p =>
      if s.now < p.2.2 + slotBeats then s
      else
        let t := (s.endSlot r k p.2.2 (tabGet (fun _ => 0) x.entry k) true).modTlm r fun y =>
          { y with spots := y.spots.filter fun q => !(q = p) }
        t.convert r p.2.1 39 code.toNat ovr
    | none =>
      match s.slotNow r k with
      | none => s
      | some q =>
        if s.now < q.1 + slotBeats then s
        else
          let conv := decide (q.2.2 < 39)
          let t := s.endSlot r k q.1 (q.2.1 + 1) conv
          if conv then t.convert r q.2.2 q.2.2 code.toNat ovr else t)

/-! ## Spot conversions and snapshots (R379, R382) -/

/-- A conversion is running on the converter in this beat, its last one included. -/
def State.converting (s : State) (r k : Nat) : Bool :=
  (s.tlmR r).spots.any (fun p => p.1 = k) || decide (tabGet (fun _ => 0) (s.tlmR r).convAt k = s.now + 1) ||
    (match s.slotNow r k with
     | some q => decide (q.2.2 < 39) && decide (q.1 ≤ s.now)
     | none => false)

/-- A write of TLM_SPOT; none where it names no input. The idle slot it falls in is over. -/
def State.writeSpot (s : State) (r v : Nat) : Option State :=
  let input := fld v 8 6
  let k := fld v 0 3
  if 39 ≤ input then none
  else if s.converting r k then
    some (s.putReg (tlmReg r 0xC4) (satInc (s.regN (tlmReg r 0xC4)) 0xFFFFFFFF))
  else
    let t := match s.slotNow r k with
      | some q => if q.1 ≤ s.now then s.endSlot r k q.1 (q.2.1 + 1) false else s
      | none => s
    some (t.modTlm r fun x => { x with spots := x.spots ++ [(k, input, s.now)] })

/-- A write of TLM_SNAP into bank `b`. -/
def State.writeSnap (s : State) (r b v : Nat) : State :=
  if !bitOf v 0 then s
  else
    let t := State.each (List.range 40) (fun k t =>
      let x := s.tlmChan r k
      t.putSnap r b k x (x.low b) (x.high b)) s
    let t := t.modTlm r fun y => { y with snaps := tabSet snapDefault y.snaps b (s.now + 1, bitOf v 1) }
    if bitOf v 1 then
      t.modTlm r fun y =>
        { y with chans := (List.range 40).foldl (fun l k =>
            tabSet chanDefault l k ((tabGet chanDefault l k).track b 0xFFFF 0)) y.chans }
    else t

/-! ## The reference (R380) -/

/-- TLM_CTRL: a write of REF clears REF_SETTLED in its beat. -/
def State.writeRef (s : State) (r v : Nat) : State :=
  let f := fld v 0 2
  (s.putReg (tlmReg r 0) (if f = 3 then 0 else f)).modTlm r fun x => { x with settled := false, refLow := s.now + 1 }

/-- REF_SETTLE (R380): VREF_EXT is measured; the reference that REF selects becomes usable where its condition holds. -/
def execRefSettle (vref : VrefReading) (s : State) : Host.Outcome State Fault Refusal :=
  .next (let r := vref.region.val
    let uv := vref.uv
    let t := s.modPins fun p =>
      { p with vrefUV := uv, vrefSince := since s.now p.vrefSince (decide (1150000 ≤ uv) && decide (uv ≤ 1250000)) }
    if t.serviceOn r && !t.refUsable r && t.refGood r then
      (t.modTlm r fun x => { x with settled := true, refLow := 0 }).persistOff 321 (some (256 + r))
    else t)

/-- TLM_REF_TIMEOUT (R380): REF_SETTLED has been 0 for 1 ms. -/
def execTlmRefTimeout (region : RegionId) (s : State) : Host.Outcome State Fault Refusal :=
  .next (let r := region.val
    if s.serviceOn r && !s.refUsable r && lasted s.now (s.tlmR r).refLow 2000000 then
      (s.persistOn 321 (some (256 + r))).raiseRegion 321 r none
    else s)

/-- TLM_STALE (R383): 16 intervals without a conversion; the held peak is taken as the full scale from now on. -/
def execTlmStale (region : RegionId) (chan : Fin 40) (s : State) : Host.Outcome State Fault Refusal :=
  .next (let r := region.val
    if (s.tlmChan r chan).stale = 16 && s.domainOn r chan then
      ((s.modChanT r chan fun x => { x with stale := 17, peak := 65536 }).staleCheck r).raiseRegion 323 r none
    else s)

/-! ## Windows and the pillar check (R385, R314, R315) -/

/-- Mean of channel `k` over the window, in A or V; the value held where it had no conversion. -/
def State.windowMean (s : State) (r k : Nat) : Ratio :=
  let x := s.tlmChan r k
  if x.wCount = 0 then
    if k = 34 then ⟨fld (s.regN (tlmReg r 0xC04)) 0 16, 10000⟩ else ⟨fld (s.regN (tlmReg r 0xC0C)) 0 16, 100⟩
  else (Ratio.mk x.wSum x.wCount).mul (s.unit r k)

/-- RES_g × 10^6, in Ω × 10^6 (R314). -/
def resistance (declared : Nat) (t : Int) : Ratio := ⟨declared * (80000 + 39 * (t - 200)).toNat, 80000⟩

/-- VPKG_g in V. -/
def State.packageVolts (s : State) (temp : Nat → Int) (g : Nat) : Ratio :=
  (s.windowMean g 34).add (((resistance (fld (s.regN (0x401140 + 4 * g)) 0 9) (temp g)).mul (s.windowMean g 35)).mul ⟨1, 1000000⟩)

def insertRatio (x : Ratio) : List Ratio → List Ratio
  | [] => [x]
  | y :: t => if x.le y then x :: y :: t else y :: insertRatio x t

/-- Median of sixteen: the mean of the two middle values. -/
def medianRatio (l : List Ratio) : Ratio :=
  let t := l.foldl (fun u x => insertRatio x u) []
  ((t.getD 7 .zero).add (t.getD 8 .zero)).mul ⟨1, 2⟩

/-- The check of R315 for group `g`. -/
def State.checkPillar (s : State) (g : Nat) (excess mean : Ratio) : State :=
  let cfg := s.regN 0x4010D0
  if (Ratio.ofNat (fld cfg 16 8)).le mean && !excess.le ⟨fld cfg 0 5, 1000⟩ then
    let o := 0x401100 + 4 * g
    let n := satInc (fld (s.regN o) 16 15) 0x7FFF
    let t := s.putReg o (at' 31 1 1 + at' 16 15 n + min 0xFFFF (excess.mul ⟨100000, 1⟩).floor)
    (t.modLoop g fun x => { x with derated := true }).raiseRegion 315 g none
  else s

/-- One window register: peak or minimum above the mean, in hundredths. -/
def State.putWindow (s : State) (r k o : Nat) : State :=
  let x := s.tlmChan r k
  if x.wCount = 0 then s
  else
    let h := (s.unit r k).mul ⟨if k = 34 then 10000 else 100, 1⟩
    let mean := ((Ratio.mk x.wSum x.wCount).mul h).floor
    let top := if k = 34 then x.wMin else ((Ratio.ofNat x.wPeak).mul h).floor
    s.putReg (tlmReg r o) (65536 * min 0xFFFF top + min 0xFFFF mean)

/-- Reports of region `r`, and the start of its next window. -/
def State.closeWindow (s : State) (r : Nat) : State :=
  let t := State.each (List.range 16) (fun j u => u.putWindow r j (0xC40 + 4 * j)) s
  let t := ((t.putWindow r 32 0xC08).putWindow r 35 0xC0C).putWindow r 34 0xC04
  let t := t.putReg (tlmReg r 0xC00) ((t.regN (tlmReg r 0xC00) + 1) % 2 ^ 32)
  t.modTlm r fun y =>
    { y with chans := (List.range 40).foldl (fun l k =>
        tabSet chanDefault l k { tabGet chanDefault l k with wSum := 0, wCount := 0, wPeak := 0, wMin := 0xFFFF }) y.chans }

/-- η of the window that ends (R356); where it took in no input energy the spec gives no ratio. -/
def State.closeEta (s : State) : State :=
  let p := s.power
  let i := p.eIn - p.etaBase.2
  (s.setPower { p with
    etaBase := (p.eOut, p.eIn)
    winOut := p.eOut - p.etaBase.1
    winIn := i
    eta := some (if i = 0 then (Config.freeNat s.draws, 65536) else (p.eOut - p.etaBase.1, i)) })

/-- TELEMETRY_WINDOW_END (R385): at every block beat that is a multiple of 2,000,000, after its loop sample. -/
def execTelemetryWindowEnd (s : State) : Host.Outcome State Fault Refusal :=
  .next (if s.now % 2000000 ≠ 0 ∨ s.power.sampled ≠ s.now + 1 ∨ s.power.windowed = s.now + 1 then s
    else
      -- the temperature of a region where nothing is measured is free
      let temp := fun (g : Nat) => (s.regionT g).getD (Int.ofNat (Config.freeNat (s.draws + 1 + g)))
      let gs := List.range 16
      let pk := gs.map (s.packageVolts temp)
      let mid := medianRatio pk
      let means := gs.map fun g => s.windowMean g 35
      let t := (State.each gs (fun r u => u.closeWindow r) s).closeEta
      let t := State.each gs (fun g u => u.checkPillar g (mid.sub (pk.getD g .zero)) (means.getD g .zero)) t
      (t.setPower { t.power with windowed := s.now + 1 }).setDraws (s.draws + 17))

/-! ## Register writes (R390) -/

/-- A converter that was off and now runs begins its sequence in this beat. -/
def State.startSlots (s : State) (r : Nat) (on : Nat → Bool) : State :=
  State.each (List.range 8) (fun k t =>
    if !on k && t.convOn r k then
      t.modTlm r fun x => { x with ended := tabSet (fun _ => 0) x.ended k (max (endedAt x k) s.now) }
    else t) s

/-- RW registers of the telemetry of region `r` at offset `o`: converters, sequences, trims. A slot in progress goes on as it began. -/
def State.writeTlm (s : State) (r o v : Nat) : State :=
  if 0x40 ≤ o ∧ o < 0xC0 then
    let k := (o - 0x40) / 16
    let t := if s.serviceOn r then s.keepSlots r else s
    (match o % 16 with
    | 0 => t.putReg (tlmReg r o) (at' 31 1 (fld v 31 1) + (if k % 2 = 0 then at' 30 1 (fld v 30 1) else 0) +
        at' 29 1 (fld v 29 1) + at' 16 4 (fld v 16 4) + clampTo 1 8 (fld v 0 4))
    | 4 | 8 => t.putReg (tlmReg r o) (v &&& 0x3F3F3F3F)
    | _ => t).startSlots r (s.convOn r)
  else if 0x100 ≤ o ∧ o < 0x1A0 then s.putReg (tlmReg r o) (at' 16 12 (fld v 16 12) + fld v 0 16)
  else s

end Sys2Proof.Machine
end

