-- ==== Sys2Proof/Machine/Image.lean ====
section
/-! DEFINITION. The configuration image: its checks, and the loading of its records (R471 to R477).

Marks: PRESUMED (log entry 7), DEDUCED (log entry 15). -/

namespace Sys2Proof.Machine

/-! ## Fields of the image (R472, R473) -/

/-- `n` bytes from offset `a` of a string, little-endian. -/
def leAt (bs : List Byte) (a n : Nat) : Nat := bytesLe ((bs.drop a).take n)

/-- An entry of the section table. -/
structure Section where
  type   : Nat
  offset : Nat
  length : Nat
  crc    : Nat
  deriving DecidableEq, Repr

def sectionAt (bs : List Byte) (i : Nat) : Section :=
  let a := 0x20 + 16 * i
  ⟨leAt bs a 2, leAt bs (a + 4) 4, leAt bs (a + 8) 4, leAt bs (a + 12) 4⟩

def sections (bs : List Byte) : List Section := (List.range 8).map (sectionAt bs)

def imageLen (bs : List Byte) : Nat := leAt bs 8 4

/-- The header rules of R472, HDR_CRC apart. -/
def headerOk (bs : List Byte) : Bool :=
  let n := imageLen bs
  leAt bs 0 4 = 0x43325351 && leAt bs 4 1 = 2 && decide (leAt bs 5 1 ≤ 1) && leAt bs 6 2 = 8 && n % 16 = 0 &&
    decide (256 ≤ n) && decide (n ≤ 262144) && leAt bs 0x14 12 = 0

def Section.inside (x : Section) (n : Nat) : Bool :=
  x.offset % 16 = 0 && decide (0xA0 ≤ x.offset) && x.length % 8 = 0 && decide (x.length ≤ 65536) &&
    decide (x.offset + x.length ≤ n)

def Section.meets (x y : Section) : Bool :=
  decide (x.offset < y.offset + y.length) && decide (y.offset < x.offset + x.length) && decide (0 < x.length) &&
    decide (0 < y.length)

def anySectionMeets : List Section → Bool
  | [] => false
  | x :: t => t.any x.meets || anySectionMeets t

/-- The section table keeps R472: each type once, in bounds, without overlap, reserved bytes zero. -/
def tableOk (bs : List Byte) : Bool :=
  let ss := sections bs
  (List.range 8).all (fun k => ss.any fun x => x.type = k + 1) &&
    (List.range 8).all (fun i => leAt bs (0x22 + 16 * i) 2 = 0) && ss.all (fun x => x.inside (imageLen bs)) &&
    !anySectionMeets ss

/-- CRC-32C of the first 160 bytes with HDR_CRC as zero. -/
def headerCrc (bs : List Byte) : Nat :=
  (crc32c (bs.take 0x10 ++ List.replicate 4 0 ++ (bs.drop 0x14).take 0x8C)).toNat

def sectionBytes (bs : List Byte) (x : Section) : List Byte := (bs.drop x.offset).take x.length

/-! ## Checks 2 to 6 (R476, R477) -/

/-- Causes 2 to 4 for the bytes that step 5 reads, and the section whose CRC failed; cause 0 when they pass. -/
def readCheck (bs : List Byte) : Nat × Nat :=
  if !headerOk bs then (2, 0xFF)
  else if !tableOk bs then (3, 0xFF)
  else if headerCrc bs ≠ leAt bs 0x10 4 then (4, 0xFF)
  else match (List.range 8).find? fun i =>
      (crc32c (sectionBytes bs (sectionAt bs i))).toNat ≠ (sectionAt bs i).crc with
    | some i => (4, i)
    | none => (0, 0xFF)

/-- The signature block: X‖Y, then r‖s. -/
def signatureBlock (bs : List Byte) : List Byte × List Byte :=
  let t := bs.drop (imageLen bs)
  (t.take 96, (t.drop 96).take 96)

/-- Causes 5 and 6. -/
def verifyCheck (keyHash : BitVec 384) (bs : List Byte) : Nat :=
  let q := signatureBlock bs
  let r := bytesLe (q.2.take 48).reverse
  let t := bytesLe (q.2.drop 48).reverse
  if keyHash = 0 ∨ sha384 q.1 ≠ keyHash then 5
  else if r = 0 ∨ curveOrder ≤ r ∨ t = 0 ∨ curveOrder ≤ t then 6
  else if ecdsaOk q.1 q.2 (sha384 (bs.take (imageLen bs))) then 0 else 6

/-! ## Registers that a section loads (Table — Section types) -/

/-- Defined bits of the registers of a region's block, with the section that loads them. -/
def regionMask (x : Nat) : Option (Nat × Nat) :=
  if x < 0x1000 then
    match x % 0x100 with
    | 0x00 => some (1, 0x1F0F1F1F)
    | 0x04 => some (1, 0xFFFF)
    | 0x08 => some (1, 0xFEFFFFFF)
    | 0x0C => some (1, 0xFFFFFFFF)
    | 0x10 => some (1, 0xFFFF00FF)
    | 0x14 => some (1, 0xFFFFFFFF)
    | 0x18 => some (1, 0xFFFFFFFF)
    | 0x1C => some (1, 0xFFFFFFFF)
    | _ => none
  else if x = 0x1000 ∨ x = 0x20020 then some (1, 0xFFFFFF)
  else if 0x20000 ≤ x ∧ x < 0x20020 then
    match x % 0x20 with
    | 0x00 => some (1, 0x1F0F1F0E)
    | 0x04 => some (1, 0xFFFF)
    | 0x08 => some (1, 0xFEFFFFFF)
    | 0x0C => some (1, 0xFFFFFFFF)
    | 0x10 => some (1, 0xFFFF00FF)
    | 0x14 => some (1, 0xFFFFFFFF)
    | 0x18 => some (1, 0xFFFFFFFF)
    | 0x1C => some (1, 0xFFFFFFFF)
    | _ => none
  else if 0x40000 ≤ x ∧ x < 0x41000 then
    let o := x - 0x40000
    if o = 0x00 then some (2, 0xE000FF0F)
    else if o = 0x04 then some (2, 0xFFFFFFFF)
    else if o = 0x08 then some (4, 0xFF)
    else if o = 0x0C then some (2, 0x00FF07FF)
    else if o = 0x10 then some (2, 0xFFFF07FF)
    else if o = 0x14 then some (2, 0x00FF000F)
    else if o = 0x18 then some (2, 0xFFFFFFFF)
    else if 0x100 ≤ o ∧ o < 0x140 then some (2, 0xFFFF07FF)
    else if 0x140 ≤ o ∧ o < 0x180 then some (2, 0xFFFF00FF)
    else if o = 0x180 then some (2, 0x800F00FF)
    else if o = 0x184 then some (2, 0xFFFFFFFF)
    else none
  else if 0x60000 ≤ x ∧ x < 0x61000 then
    let o := x - 0x60000
    if o = 0 then some (7, 0x13)
    else if 0x40 ≤ o ∧ o < 0xC0 then
      match o % 16 with
      | 0 => some (7, if (o - 0x40) / 16 % 2 = 0 then 0xE00F000F else 0xA00F000F)
      | 4 => some (7, 0x3F3F3F3F)
      | 8 => some (7, 0x3F3F3F3F)
      | _ => none
    else if 0x100 ≤ o ∧ o < 0x1A0 then some (7, 0x0FFFFFFF)
    else none
  else if x = 0xE0000 then some (8, 0xF)
  else none

/-- Offset within a partition's staging block of a table register. -/
def stagingMask (o : Nat) : Option Nat :=
  if o = 0 then some 0x8000FFFF
  else if o = 4 then some 0xFFFFFFFF
  else if o = 8 then some 0x3FFF1FFF
  else if 0x10 ≤ o ∧ o < 0x50 then some (if o % 8 = 0 then 0xC0FFFFFF else 0xFFFF)
  else none

/-- Section that loads the register at window offset `o`, and the register's defined bits. -/
def imageMask (o : Nat) : Option (Nat × Nat) :=
  if o % 4 ≠ 0 then none
  else if 0x800000 ≤ o ∧ o < 0x1800000 then regionMask ((o - 0x800000) % 0x100000)
  else if 0x401140 ≤ o ∧ o < 0x401180 then some (1, 0x1FF)
  else if o = 0x4010C0 then some (1, 0x03FFFFFF)
  else if o = 0x4010D0 then some (1, 0xFFFF001F)
  else if o = 0x401180 then some (1, 0x1FFFFF)
  else if o = 0x400F08 then some (2, 0xFFFFFFFF)
  else if 0x402000 ≤ o ∧ o < 0x40200C then some (3, 0x7FF)
  else if 0x402020 ≤ o ∧ o < 0x402060 then some (3, 0x7FF)
  else if o = 0x404000 then some (4, 0x80FFFF0F)
  else if o = 0x300084 then some (5, 0x00FF00FF)
  else if o = 0x300088 then some (5, 0xE0001F7F)
  else if 0x301000 ≤ o ∧ o < 0x301800 then some (5, 0xFFFFF707)
  else if 0x100800 ≤ o ∧ o < 0x101000 then (stagingMask (o % 0x100)).map fun m => (6, m)
  else if o = 0x1E0C004 then some (6, 0xFFFFFFFF)
  else if o = 0x102000 then some (6, 0xFFFF)
  else if 0x1C00000 ≤ o ∧ o < 0x1C00400 ∧ o % 0x100 = 0x14 then some (6, 0xFFFF)
  else none

/-- The register at `o` has fields that a section loads; the others its section may name are read-only to the image too. -/
def imageLoads (o : Nat) : Bool :=
  match imageMask o with
  | none => false
  | some _ =>
    if 0x800000 ≤ o ∧ o < 0x1800000 then
      let x := (o - 0x800000) % 0x100000
      if x < 0x1000 then decide (x % 0x100 < 8)
      else if 0x20000 ≤ x ∧ x < 0x20020 then decide (x % 0x20 < 8) || decide (x % 0x20 = 0x10)
      else if 0x40000 ≤ x ∧ x < 0x41000 then decide (x < 0x40018) || decide (x = 0x40180)
      else true
    else true

/-! ## Write rules of the loaded registers -/

/-- Class table entry of a source: a base below the shipped one stores it, fixed bases stay (R411). -/
def Source.configure (x : Source) (k v : Nat) : Source :=
  { x with n := max 1 (fld v 12 8), w := fld v 8 3,
           base := if fixedBase k then x.base else max (shippedBase k) (min 4 (fld v 0 3)) }

def State.writeSrcCfg (s : State) (k v : Nat) : State :=
  if reservedSource k then s else s.modCopies fun f => f.put k ((f.src k).configure k v)

def State.writeFltCtrl (s : State) (v : Nat) : State :=
  s.modCopies fun f => { f with evqTags := BitVec.ofNat 8 (fld v 16 8), clrTags := BitVec.ofNat 8 (fld v 0 8) }

/-- HOLD, ROUTE and WIDTH of ERR_PIN_CTRL; ROUTE bit 4 reads 1. -/
def State.writePinCfg (s : State) (v : Nat) : State :=
  s.modCopies fun f =>
    { f with hold := bitOf v 29, route := BitVec.ofNat 5 (fld v 8 4 + 16), width := clampTo 1 100 (fld v 0 7) }

/-- A write of register `x` of region `r` that a section loads; none where its rule refuses the write. -/
def State.writeRegionCfg (s : State) (r x v : Nat) (loads : Bool) : Option State :=
  if x < 0x1000 then some (s.writeVr (16 * r + x / 0x100) (x % 0x100) v)
  else if x = 0x1000 ∨ x = 0x20020 then some (s.putReg (regionBase r + x) (vrCompValue v))
  else if 0x20000 ≤ x ∧ x < 0x20020 then some (s.writeVr (256 + r) (x - 0x20000) v)
  else if 0x40000 ≤ x ∧ x < 0x41000 then s.writeLpe r (x - 0x40000) v loads
  else if x = 0x60000 then some (s.writeRef r v)
  else if 0x60000 ≤ x ∧ x < 0x61000 then some (s.writeTlm r (x - 0x60000) v)
  else if x = 0xE0000 then some (s.putReg (regionBase r + x) (clampTo 1 8 (fld v 0 4)))
  else some s

/-- A write of a register that a section loads, by the register's own rule; none where that rule refuses it. `loads`: the boot
reader writes. -/
def State.writeConfig (s : State) (o v : Nat) (loads : Bool) : Option State :=
  if 0x800000 ≤ o ∧ o < 0x1800000 then s.writeRegionCfg ((o - 0x800000) / 0x100000) ((o - 0x800000) % 0x100000) v loads
  else if 0x401140 ≤ o ∧ o < 0x401180 then some (if loads then s.putReg o (fld v 0 9) else s)
  else if o = 0x4010C0 then
    some (s.putReg o (at' 16 10 (fld v 16 10) + at' 8 8 (clampTo 50 100 (fld v 8 8)) + max 1 (fld v 0 8)))
  else if o = 0x4010D0 then
    some (s.putReg o (at' 24 8 (clampTo 30 75 (fld v 24 8)) + at' 16 8 (clampTo 5 75 (fld v 16 8)) + max 1 (fld v 0 5)))
  else if o = 0x401180 then some (s.putReg o (min 30 (fld v 0 5)))
  else if o = 0x400F08 then some (s.putReg o (max 2000000 v))
  else if 0x402000 ≤ o ∧ o < 0x40200C then
    if loads then some (s.putReg o (clampTo 400 1600 (fld v 0 11))) else s.writeCap ((o - 0x402000) / 4) v
  else if 0x402020 ≤ o ∧ o < 0x402040 then
    if loads then (if fld v 0 11 ≤ 1400 then some (s.putReg o (fld v 0 11)) else none) else s.writeFloor ((o - 0x402020) / 4) v
  else if 0x402040 ≤ o ∧ o < 0x402060 then some (s.writeXhold ((o - 0x402040) / 4) v)
  else if o = 0x404000 then some (s.putReg o (setFld (s.regN o) 0 4 (max 2 (fld v 0 4))))
  else if o = 0x300084 then some (s.writeFltCtrl v)
  else if o = 0x300088 then some (s.writePinCfg v)
  else if 0x301000 ≤ o ∧ o < 0x301800 then some (s.writeSrcCfg ((o - 0x301000) / 4) v)
  else if 0x100800 ≤ o ∧ o < 0x101000 then
    (stagingMask (o % 0x100)).map fun m => s.putReg o (v &&& m)
  else if o = 0x1E0C004 then some (s.putReg o v)
  else if o = 0x102000 then some (s.putReg o (max 1 (fld v 0 16)))
  else if 0x1C00000 ≤ o ∧ o < 0x1C00400 then s.writePeer .side ((o - 0x1C00000) / 0x100) (o % 0x100) v loads
  else some s

/-! ## Loading (R471, R473, R474) -/

/-- Final values in the making: the state, and T and W. -/
structure Loading where
  st : State
  t  : Option Nat
  w  : Option Nat

/-- A parameter of a section. The declared inlet temperature and coolant flow are in no register and no rule reads them. -/
def Loading.param (a : Loading) (sec key v : Nat) : Option Loading :=
  let k := key - 0x80000000
  if sec = 1 ∧ 0x100 ≤ k ∧ k < 0x200 then
    if v ≤ 160 then some { a with st := a.st.modPower (k - 0x100) fun p => { p with vf := v } } else none
  else if sec = 4 ∧ k = 3 then (if v ≤ 40 then some a else none)
  else if sec = 4 ∧ k = 4 then some a
  else if sec = 8 ∧ k = 1 then (if 1 ≤ v ∧ v ≤ 20 then some { a with t := some v } else none)
  else if sec = 8 ∧ k = 2 then (if v ≤ 4 then some { a with w := some v } else none)
  else none

/-- One record of section `sec`. -/
def Loading.record (a : Loading) (sec key v : Nat) : Option Loading :=
  if 0x80000000 ≤ key then a.param sec key v
  else match imageMask key with
    | none => none
    | some (n, m) =>
      if n ≠ sec ∨ v &&& (0xFFFFFFFF - m) ≠ 0 then none
      else if 0x800000 ≤ key ∧ (key - 0x800000) % 0x100000 = 0x40000 ∧ bitOf v 31 then none
      else if imageLoads key then (a.st.writeConfig key v true).map fun t => { a with st := t }
      else some a

/-- The records of a section, in order. -/
def Loading.section (sec : Nat) (bs : List Byte) : Nat → Nat → Option Loading → Option Loading
  | 0, _, a => a
  | n + 1, i, a =>
    Loading.section sec bs n (i + 1) (a.bind fun x => x.record sec (leAt bs (8 * i) 4) (leAt bs (8 * i + 4) 4))

/-- Every field that a section loads holds its reset value. -/
def State.loadDefaults (s : State) : State :=
  let t := s.setRegs (s.regs.filter fun e =>
    !(imageLoads e.1 || (decide (0x100000 ≤ e.1) && decide (e.1 < 0x100800) && (stagingMask (e.1 % 0x100)).isSome)) ||
      decide (e.1 = 0x404000) || (decide (0x800000 ≤ e.1) && decide ((e.1 - 0x800000) % 0x100000 = 0x40000)))
  let t := t.putReg 0x404000 (setFld (t.regN 0x404000) 0 4 6)
  let t := State.each (List.range 16) (fun r u =>
    let o := lpeReg r 0
    (u.putReg o (setFld 0x20000004 8 8 (fld (u.regN o) 8 8))).modLoop r fun x => { x with openSince := none }) t
  let t := t.modCopies fun f =>
    { f with sources := tabMap sourceDefault (fun k x =>
               { x with base := shippedBase k, n := (shippedRule k).1, w := (shippedRule k).2 }) f.sources,
             evqTags := 1, clrTags := 1, hold := false, route := 0x18, width := 1 }
  let t := t.setPower { t.power with xhold := [] }
  let t := State.each (List.range 16) (fun r u => u.writeRef r 0) t
  State.each (List.range 256) (fun c u => u.modPower c fun p => { p with vf := 100 }) t

/-- The rules of R474 that compare final values. -/
def Loading.finalOk (a : Loading) : Bool :=
  let s := a.st
  match a.t, a.w with
  | some t, some w =>
    decide (w ≤ t) && capsKeep ((List.range 3).map s.capOf) ((List.range 8).map s.floorOf) &&
    (List.range 16).all (fun g => decide (s.regN (0x401140 + 4 * g) ≤ 250)) &&
    (List.range 256).all (fun c => decide ((s.core c).power.vf + s.guardOf c ≤ 160)) &&
    ((s.modBoot fun b => { b with tiers := t, wtiers := w }).tableBreaks fun c => !(s.core c).power.out).isNone
  | _, _ => false

/-- Step 7 for a checked image: the state with its records loaded, or none where check 7 fails. -/
def State.loadImage (s : State) (bs : List Byte) : Option State :=
  let a := (sections bs).foldl (fun (a : Option Loading) x =>
    Loading.section x.type (sectionBytes bs x) (x.length / 8) 0 a) (some { st := s.loadDefaults, t := none, w := none })
  match a with
  | none => none
  | some x =>
    if x.finalOk then
      let t := x.st.modBoot fun b => { b with tiers := x.t.getD 0, wtiers := x.w.getD 0 }
      let t := State.each (List.range 3) (fun w u => u.restartWindow w) t
      let t := (t.loadTable (t.regs.filter fun e => decide (0x100800 ≤ e.1) && decide (e.1 < 0x101000))).recheckRings
      some (t.putReg 0x1E00004 (leAt bs 0xC 4))
    else none

/-- Checks 2 to 7 of an image, nothing taken from it: the cause, 0 when it passes. -/
def State.checkImage (s : State) (bs : List Byte) : Nat :=
  let c := (readCheck bs).1
  if c ≠ 0 then c
  else
    let v := verifyCheck s.nvm.keyUsed bs
    if v ≠ 0 then v else if (s.loadImage bs).isSome then 0 else 7

end Sys2Proof.Machine
end

