-- ==== Sys2Proof/Machine/Flash.lean ====
section
/-! DEFINITION. Image updates in the configuration flash, and fuse programming (R402, R480 to R482). One FLASH_OPERATION_DONE ends
one flash command: the erase of a 4 KiB sector, the program of a page, or the read-back of the image.

Marks: DEDUCED (log entry 47). -/

namespace Sys2Proof.Machine

/-! ## The flash engine (R480, R481) -/

/-- An operation is refused outside the temperature window (R402). -/
def State.nvmRefused (s : State) : State :=
  let v := s.regN 0x404000
  s.putReg 0x404000 (setFld v 8 16 (satInc (fld v 8 16) 0xFFFF))

/-- The update ends with STATUS `st`; a partial flash stays as it is. -/
def State.endUpdate (s : State) (st : Nat) : State :=
  s.modNvm fun n => { n with updStatus := st, job := .idle, finishing := false, buffer := [] }

/-- A program or erase command begins, unless the temperature window forbids it. -/
def State.flashCommand (s : State) (j : FlashJob) : State :=
  if s.nvmOk then s.modNvm fun n => { n with job := j, jobAt := s.now } else (s.nvmRefused).endUpdate 4

/-- The engine takes up what the update needs next, while no command is in progress. -/
def State.flashNext (s : State) : State :=
  let n := s.nvm
  if n.updStatus ≠ 1 ∨ n.job ≠ .idle then s
  else if 4096 * n.erased < n.updLen then s.flashCommand .erasing
  else if 256 ≤ n.buffer.length ∨ (n.finishing ∧ 0 < n.buffer.length) then s.flashCommand .programming
  else if n.finishing then s.modNvm fun m => { m with job := .verifying, jobAt := s.now }
  else s

/-- Bytes of a sector or page whose command did not end well (log entry 2). -/
def freePage (draws n : Nat) : List Byte := (List.range n).map (Config.freeByte draws)

/-- The erase or program command in progress completes. -/
def Nvm.completeCommand (n : Nvm) : Nvm :=
  match n.job with
  | .erasing => { n with flash := memWrite n.flash (4096 * n.erased) (List.replicate 4096 0xFF), erased := n.erased + 1,
                         known := max n.known (4096 * n.erased + 4096), job := .idle }
  | .programming =>
    let page := n.buffer.take 256
    let old := memRead n.flash n.programmed page.length
    { n with flash := memWrite n.flash n.programmed ((old.zip page).map fun b => b.1 &&& b.2),
             programmed := n.programmed + page.length, buffer := n.buffer.drop 256, job := .idle }
  | _ => n

/-- The command in progress did not end well: its sector or page holds free bytes, and the update ends with FLASH. -/
def State.flashFailed (s : State) : State :=
  let n := s.nvm
  let m := match n.job with
    | .erasing => memWrite n.flash (4096 * n.erased) (freePage s.draws 4096)
    | .programming => memWrite n.flash n.programmed (freePage s.draws (n.buffer.take 256).length)
    | _ => n.flash
  let known := if n.job = .erasing then max n.known (4096 * n.erased + 4096) else n.known
  ((s.modNvm fun x => { x with flash := m, known := known }).endUpdate 5).drawn

/-- An update in progress is aborted; the flash command in progress completes first (R481). -/
def State.abortUpdate (s : State) : State :=
  if s.nvm.updStatus = 1 then (s.modNvm Nvm.completeCommand).endUpdate 6 else s

/-- The flash's bytes: what the block has put there itself, and `bs` after it. -/
def Nvm.onFlash (n : Nvm) (bs : List Byte) : List Byte := memRead n.flash 0 (min n.known bs.length) ++ bs.drop n.known

/-- Bytes of the image that the flash holds, signature block included; what the block has not written is free (log entry 47). -/
def State.readImage (s : State) : List Byte :=
  let head := memRead s.nvm.flash 0 160
  let n := if headerOk head then imageLen head + 192 else 160
  if n ≤ s.nvm.known then memRead s.nvm.flash 0 n else s.nvm.onFlash (freePage s.draws n)

/-- FLASH_OPERATION_DONE (R480): `ok`: a read-back of the page found no mismatch. -/
def execFlashOperationDone (ok : Bool) (s : State) : Host.Outcome State Fault Refusal :=
  .next (match s.nvm.job with
    | .idle => s
    | .erasing => (s.modNvm Nvm.completeCommand).flashNext
    | .programming => if ok then (s.modNvm Nvm.completeCommand).flashNext else s.flashFailed
    | .verifying =>
      let c := s.checkImage s.readImage
      ((s.endUpdate (if c = 0 then 2 else 3)).drawn).modNvm fun n => { n with updCheck := c })

/-- FLASH_TIMEOUT (R481): a program or erase has not finished within 100 ms. -/
def execFlashTimeout (s : State) : Host.Outcome State Fault Refusal :=
  .next (if (s.nvm.job = .erasing || s.nvm.job = .programming) && decide (s.nvm.jobAt + 200000000 ≤ s.now) then s.flashFailed
    else s)

/-! ## Register writes -/

def updLenOk (n : Nat) : Bool := n % 16 = 0 && decide (448 ≤ n) && decide (n ≤ 262336)

/-- START; none where it is refused. -/
def State.startUpdate (s : State) (len : Nat) : Option State :=
  let b := s.blockState
  if b = 0 ∨ b = 1 ∨ b = 3 ∨ s.nvm.updStatus = 1 ∨ !updLenOk len then none
  else some ((s.modNvm fun n =>
    { n with updStatus := 1, updCheck := 0, updCount := 0, updLen := len, buffer := [], programmed := 0, job := .idle,
             finishing := false, erased := 0 }).flashNext)

/-- A write of BOOT_UPD_DATA. -/
def State.updateWord (s : State) (v : Nat) : Option State :=
  let n := s.nvm
  if n.updStatus ≠ 1 ∨ n.updLen < n.updCount + 4 ∨ 4096 < n.buffer.length + 4 then none
  else some ((s.modNvm fun m => { m with buffer := m.buffer ++ leBytes 4 v, updCount := m.updCount + 4 }).flashNext)

/-- FINISH. -/
def State.finishUpdate (s : State) : Option State :=
  if s.nvm.updStatus ≠ 1 ∨ s.nvm.updCount ≠ s.nvm.updLen ∨ s.nvm.finishing then none
  else some ((s.modNvm fun n => { n with finishing := true }).flashNext)

/-- BOOT_UPD_CTRL: more than one of its commands in one write is refused. -/
def State.writeUpdCtrl (s : State) (v : Nat) : Option State :=
  match bitOf v 31, bitOf v 30, bitOf v 29 with
  | false, false, false => some s
  | true, false, false => s.startUpdate (fld v 0 19)
  | false, true, false => s.finishUpdate
  | false, false, true => some s.abortUpdate
  | _, _, _ => none

/-- BOOT_UPD_STAT. -/
def State.updStat (s : State) : Nat := at' 29 3 s.nvm.updStatus + at' 23 4 s.nvm.updCheck + s.nvm.updCount

/-! ## Fuses (R402, R482) -/

/-- A write of FUSE_PROG: GO programs FUSE_PDATA, or LOCK. One while BUSY is refused. -/
def State.writeFuse (s : State) (v : Nat) : Option State :=
  let w := fld v 0 4
  if s.nvm.fuseStatus = 1 then none
  else if !bitOf v 31 then some (s.modNvm fun n => { n with fuseWord := w })
  else if 12 < w then none
  else
    let t := s.modNvm fun n => { n with fuseWord := w }
    if t.nvm.lock then some (t.modNvm fun n => { n with fuseStatus := 4 })
    else if t.nvmOk then some (t.modNvm fun n => { n with fuseStatus := 1 })
    else some ((t.nvmRefused).modNvm fun n => { n with fuseStatus := 3 })

/-- Bits of key hash word `w` that a value names. -/
def fuseBits (w v : Nat) : BitVec 384 := BitVec.ofNat 384 (fld v 0 32 * 2 ^ (32 * w))

/-- FUSE_PROGRAM_DONE (R482): fuse bits only change from 0 to 1. Where the read-back disagrees, any of the bits may have been set. -/
def execFuseProgramDone (ok : Bool) (s : State) : Host.Outcome State Fault Refusal :=
  .next (let n := s.nvm
    if n.fuseStatus ≠ 1 then s
    else
      let data := if ok then n.fuseData.toNat else n.fuseData.toNat &&& Config.freeNat s.draws
      let set := ok || bitOf (Config.freeNat s.draws) 0
      let t := if n.fuseWord = 12 then s.modNvm fun m => { m with lock := m.lock || set }
        else s.modNvm fun m => { m with keyHash := m.keyHash ||| fuseBits n.fuseWord data }
      (if ok then t else t.drawn).modNvm fun m => { m with fuseStatus := if ok then 2 else 5 })

/-- FUSE_PROG. -/
def State.fuseView (s : State) : Nat :=
  at' 28 3 s.nvm.fuseStatus + at' 27 1 (b2n s.nvm.lock) + s.nvm.fuseWord

end Sys2Proof.Machine
end

