-- ==== Sys2Proof/Machine/Supply.lean ====
section
/-! DEFINITION. Supply status, reset, clock, epoch and power cycles (R40 to R50, R79 to R81, R419, R467, R468, R479, R483, R484,
R499, R501).

Marks: DEDUCED (log entry 30), DEDUCED (log entry 48), DEDUCED (log entry 67). -/

namespace Sys2Proof.Machine

/-! ## End of service: what RST_N, a supply loss, a reboot and deep power-down take down (R42, R43, R45, R483) -/

/-- Launches that are loading are refused: the block is not in READY. -/
def State.refuseLoading (s : State) : State :=
  State.each s.jobs (fun e t =>
    if e.2.state = .loading then
      (t.setJobs (tabSet (fun _ => Job.initial) t.jobs e.1 { Job.initial with state := .refused, cause := 1 })).release
        (.launch (e.1 / 16)) (.err 5)
    else t) s

/-- A column with its near-bank units stopped, its queue and its near-bank bits gone (R188). -/
def Column.stopUnits (x : Column) : Column :=
  { x with
    tiers := (List.range 20).foldl (fun t k =>
      tabSet tierDefault t k { tabGet tierDefault t k with running := false, sliceDone := false, owed := 0 }) x.tiers
    active := none, queue := [], waiting := [], unitsDone := 0, abandon := false, retries := 0, portErrs := [],
    nearBank := [] }

/-- The tier controllers stop, each with its tiers in self-refresh; a running sequence leaves its destination mixed (R184). -/
def State.stopColumns (s : State) : State :=
  let t := State.each s.columns (fun e u => match e.2.active with
    | some q => u.nbStore e.1 q true
    | none => u) s
  (State.each t.columns (fun e u => u.modColumn e.1 Column.stopUnits) t).selfRefreshAll

/-- A core without service: nothing of it is outstanding, and it is not available. -/
def Core.stopService (x : Core) : Core :=
  { x with
    flags := [], slots := [], staged := [], ops := [], outbox := [], hints := []
    power := { x.power with avail := false, loops := .full, next := .full, adv := 0,
                            taken := false, clampNow := false, missLeft := 0, clampLeft := 0, brownOut := false,
                            boost := 0, paceCut := 0, tying := none } }

/-- The enable bits of engines whose state is gone. -/
def State.disableEngines (s : State) : State :=
  let t := State.each (List.range 16) (fun r u =>
    (u.putReg (synHwatch r) 0).putReg (sctReg r 8) (setFld (u.regN (sctReg r 8)) 31 1 0)) s
  let t := State.each (List.range 8) (fun p u => u.setPgkEn p false) t
  State.each (List.range 4) (fun n u => u.putReg (peerBase n) (setFld (u.regN (peerBase n)) 31 1 0)) t

/-- Service ends: jobs stop, tiers enter self-refresh, every rail is off, and what the engines held is gone (log entry 30).
Registers keep their values. -/
def State.endService (s : State) : State :=
  let t := (((s.endJobs).refuseLoading).failRecords).stopColumns
  let t := (t.railsOff true).disableEngines
  let t := t.mapCores Core.stopService
  let t := ((t.setSync ⟨[], [], [], [], [], [], []⟩).setDma []).setScouts []
  let t := (t.setPgk { t.pgk with parts := [], calls := [] }).setPeers []
  let t := t.setCommit { t.commit with busy := false, scrub := false, wanted := [], parts := [] }
  let t := t.modHost fun h => { h with held := [], outbound := [] }
  let t := t.setTlm (tabMap (fun _ => TlmRegion.initial) (fun _ x => { x with settled := false, refLow := 0, slots := [], convAt := [], snaps := [], spots := [], entry := [], ended := [] }) t.tlm)
  let t := t.setLoops (tabMap (fun _ => RegionLoop.initial)
    (fun _ x => { x with capped := [], capEnd := none, vpilBad := 0, vpilOff := false }) t.loops)
  let t := t.modFaults fun f => { f with persist := f.persist.filter fun e => !(e.1 = 291 || e.1 = 321 || e.1 = 323) }
  (t.modBoot fun b =>
    { b with base := .reset, tiers := 0, wtiers := 0, image := [], waking := false, entering := false, wakeMet := none,
             resuming := false, hold := false }).abortUpdate

/-! ## The sequence starts (R468 step 4, R471, R484) -/

/-- The condition of step 4 holds. -/
def State.stepFour (s : State) : Bool :=
  s.boot.step = .waitRelease && s.pins.pillarSeen && s.pins.pwrSeen && s.pins.rstSeen && s.pins.refclk && !s.boot.safe &&
    !s.boot.grave

/-- STATE becomes CONFIG; the SFDP read begins. Deep power-down ends here. -/
def State.enterConfig (s : State) : State :=
  let t := ((s.setShadows []).lockPerturb).clearAvail
  t.modBoot fun b =>
    { b with base := .config, step := .sfdp, configured := true, dpd := false, dpdLow := false, hold := false, rerun := false,
             tiers := 0, wtiers := 0 }

/-- Step 4 begins as soon as its condition holds, outside deep power-down. -/
def State.tryConfig (s : State) : State := if s.stepFour && !s.boot.dpd then s.enterConfig else s

/-! ## Status inputs (R40, R467) -/

/-- The reference has locked (step 1 of R468). -/
def State.locked (s : State) : Bool := s.pins.stbyOk && s.boot.step ≠ .unpowered && s.boot.step ≠ .refLock

/-- PILLAR_OK is taken as asserted. `early`: 1 ms after STBY_OK, of which step 1 takes at most 0.5 ms before beat 0. -/
def State.takePillar (s : State) (early : Bool) : State :=
  if s.locked && s.pins.pillarOk && !s.pins.pillarSeen && decide ((if early then 1000000 else 2000000) ≤ s.now) then
    (s.modPins fun p => { p with pillarSeen := true, pillarAt := s.now }).modBoot fun b =>
      { b with step := if b.step = .waitPillar then .waitRelease else b.step }
  else s

/-- PWR_GOOD is taken as asserted, 100 µs after PILLAR_OK. -/
def State.takePwr (s : State) : State :=
  if s.pins.pillarSeen && s.pins.pwrGood && !s.pins.pwrSeen && decide (s.pins.pillarAt + 200000 ≤ s.now) then
    s.modPins fun p => { p with pwrSeen := true, pwrAt := s.now }
  else s

/-- The release of RST_N is taken, 100 µs after PWR_GOOD. -/
def State.takeRst (s : State) : State :=
  if s.pins.pwrSeen && s.pins.rstN && !s.pins.rstSeen && s.boot.rebootAt.isNone && decide (s.pins.pwrAt + 200000 ≤ s.now) then
    (s.modPins fun p => { p with rstSeen := true }).tryConfig
  else s

/-- STBY_OK_ASSERT (R468 step 1): the always-on domain starts. -/
def execStbyOkAssert (s : State) : Host.Outcome State Fault Refusal :=
  .next (if s.pins.stbyOk then s
    else (s.modPins fun p => { p with stbyOk := true }).modBoot fun b => { b with step := .refLock })

/-- REFERENCE_LOCK (R468 step 1): fuses are sensed, a mapped-out core is DARK from here on (R470), the alarm pins leave high
impedance, and the beat counter starts. -/
def execReferenceLock (s : State) : Host.Outcome State Fault Refusal :=
  .next (if s.pins.stbyOk && s.boot.step = .refLock && s.pins.refclk then
      let t := (s.modPins fun p => { p with alarmZ := false }).modBoot fun b => { b with step := .waitPillar, sinceCoolant := s.now }
      State.each (bitsOf 256 t.nvm.coreOut.toNat) (fun c u => u.modPower c fun p => { p with state := .dark, out := true })
        (t.modNvm fun n => { n with keyUsed := n.keyHash })
    else s)

/-- PILLAR_OK_ASSERT (R468). -/
def execPillarOkAssert (s : State) : Host.Outcome State Fault Refusal :=
  .next (if s.pins.pillarOk then s else (s.modPins fun p => { p with pillarOk := true }).takePillar false)

/-- PWR_GOOD_ASSERT (R40). -/
def execPwrGoodAssert (s : State) : Host.Outcome State Fault Refusal :=
  .next (if s.pins.pwrGood then s else (s.modPins fun p => { p with pwrGood := true }).takePwr)

/-- RST_N_RELEASE (R468). -/
def execRstNRelease (s : State) : Host.Outcome State Fault Refusal :=
  .next (if s.pins.rstN then s else (s.modPins fun p => { p with rstN := true }).takeRst)

/-- MINIMUM_INTERVAL_END (R467): an input asserted too soon is taken as asserted now. -/
def execMinimumIntervalEnd (input : StatusPin) (s : State) : Host.Outcome State Fault Refusal :=
  .next (match input with
    | .pillarOk => s.takePillar true
    | .pwrGood => s.takePwr
    | .rstN => s.takeRst)

/-! ## Losses (R42, R44, R48, R499) -/

/-- The block's answer to the loss of pillar inputs, of system power, or of both (R42). -/
def State.loseSupply (s : State) (pillar pwr : Bool) : State :=
  let t := s.modBoot fun b => { b with okBeats := 0 }
  if t.boot.dpd then t.modBoot fun b => { b with dpdLow := true }
  else if t.blockState = 0 then t
  else
    let t := (t.endService).modBoot fun b => { b with rerun := true, step := .waitRelease }
    let t := if pillar then t.persistOn 275 none else t
    let t := if pwr then t.persistOn 276 none else t
    let t := if pillar then t.raiseBlock 275 else t
    if pwr then t.raiseBlock 276 else t

/-- SUPPLY_LOSS (R42). -/
def execSupplyLoss (pillar pwrGood : Bool) (s : State) : Host.Outcome State Fault Refusal :=
  .next (let p := pillar && s.pins.pillarOk
    let g := pwrGood && s.pins.pwrGood
    if !p && !g then s
    else
      (s.modPins fun x =>
        { x with pillarOk := x.pillarOk && !p, pwrGood := x.pwrGood && !g, pillarSeen := x.pillarSeen && !p, pwrSeen := false,
                 rstSeen := false }).loseSupply p g)

/-- PILLAR_VOLTAGE_FAULT (R499): the mean of the group's VPIL has been out of range for 10 intervals. -/
def execPillarVoltageFault (region : RegionId) (s : State) : Host.Outcome State Fault Refusal :=
  .next (if 10 ≤ (s.loop region).vpilBad && s.pins.pillarOk && s.pins.pillarSeen then s.loseSupply true false else s)

/-- REFCLK_LOST (R48). -/
def execRefclkLost (s : State) : Host.Outcome State Fault Refusal :=
  .next (if !s.pins.refclk then s
    else
      let t := s.modPins fun p => { p with refclk := false }
      if !t.locked then t
      else
        let t := (t.endJobs).modBoot fun b => { b with rerun := true, refBeats := 0 }
        (t.persistOn 277 none).raiseBlock 277)

/-- REFERENCE_CLOCK_RETURN (R48): the beat clock resumes; the source stops persisting after 1 ms in range (R44). -/
def execReferenceClockReturn (s : State) : Host.Outcome State Fault Refusal :=
  .next (if s.pins.refclk then s
    else (s.modPins fun p => { p with refclk := true }).modBoot fun b => { b with refBeats := 0 })

/-- A millisecond of good inputs ends the conditions of sources 275 to 277. -/
def State.countGood (s : State) : State :=
  let ok := s.pins.pillarOk && s.pins.pwrGood && !s.loops.any fun e => e.2.vpilOff
  let t := s.modBoot fun b =>
    { b with okBeats := if ok then satInc b.okBeats 2000000 else 0, refBeats := satInc b.refBeats 2000000 }
  let t := if t.boot.okBeats = 2000000 then (t.persistOff 275 none).persistOff 276 none else t
  if t.boot.refBeats = 2000000 then t.persistOff 277 none else t

/-! ## Reset (R45, R479) -/

/-- What an assertion of RST_N does. -/
def State.resetBlock (s : State) : State :=
  if !s.locked then s
  else
    let t := ((s.endService).setShadows []).lockPerturb
    t.modBoot fun b =>
      { b with step := if b.step = .waitPillar then .waitPillar else .waitRelease, dpdLow := b.dpdLow || b.dpd }

/-- RST_N_ASSERT (R45). -/
def execRstNAssert (s : State) : Host.Outcome State Fault Refusal :=
  .next (if s.pins.rstN then
      ((s.modPins fun p => { p with rstN := false, rstSeen := false }).modBoot fun b => { b with rebootAt := none }).resetBlock
    else s)

/-- A write of BOOT_CTRL.REBOOT, in HOLD and in deep power-down; none elsewhere. -/
def State.reboot (s : State) : Option State :=
  if s.blockState = 2 || s.boot.dpd then
    some (((s.modPins fun p => { p with rstSeen := false }).modBoot fun b => { b with rebootAt := some s.now }).resetBlock)
  else none

/-- The release that follows a REBOOT by 1 µs. -/
def State.endReboot (s : State) : State :=
  match s.boot.rebootAt with
  | none => s
  | some b =>
    if s.now < b + 2000 then s
    else
      let t := s.modBoot fun x => { x with rebootAt := none }
      if t.pins.rstN && t.pins.pwrSeen then
        let u := t.modPins fun p => { p with rstSeen := true }
        if u.stepFour then u.enterConfig else u
      else t

/-- DPD_RETURN (R484): the inputs are high again after one has been low. -/
def execDpdReturn (s : State) : Host.Outcome State Fault Refusal :=
  .next (if s.boot.dpd && s.boot.dpdLow && s.stepFour then s.enterConfig else s)

/-! ## Leaving SAFE (R44, R419) -/

/-- SAFE ends in the beat after the last source of class STOP_BLOCK is cleared. -/
def State.leaveSafe (s : State) : State :=
  if !s.boot.safe || s.blockHeld then s
  else
    let t := s.modBoot fun b => { b with safe := false }
    if t.boot.grave then t
    else if t.boot.rerun then
      ((t.clearAvail).modBoot fun b =>
        { b with base := .reset, hold := false, tiers := 0, wtiers := 0,
                 step := if b.step = .waitPillar then .waitPillar else .waitRelease }).tryConfig
    else if t.boot.hold then t
    else if t.boot.base = .ready || t.boot.base = .idle then
      (if t.boot.coolant then t else t.actOnRequests).afterUps
    else t.tryConfig

/-! ## Power cycle (R46, R501) -/

/-- Everything but the tiers, their self-refresh, the fuses, the flash and the levels of the pins is as at power-up. -/
def State.powerCycle (s : State) (stby : Bool) : State :=
  let t := if s.boot.serviceUp ≠ 0 then s.stopColumns else s
  let n := t.nvm.completeCommand
  let u := (State.reset.setPending t.pending).setDraws t.draws
  let u := (u.setMem (t.mem.filter fun e => decide (e.1 < storeBase))).setCheck
    (t.check.filter fun e => decide (8 * e.1 < storeBase))
  let u := u.setColumns (tabMap (fun _ => Column.initial) (fun _ x => { Column.initial with tiers := x.tiers }) t.columns)
  let u := u.setNvm { Nvm.initial with flash := n.flash, keyHash := n.keyHash, pid := n.pid, coreOut := n.coreOut, lock := n.lock }
  let u := u.modHost fun h => { h with out := t.host.out }
  (u.modPins fun p =>
    { p with stbyOk := stby, pillarOk := t.pins.pillarOk, pwrGood := t.pins.pwrGood, rstN := t.pins.rstN,
             coolantOk := t.pins.coolantOk, refclk := t.pins.refclk, linkUp := t.pins.linkUp, vrefUV := t.pins.vrefUV }).modBoot fun b =>
    { b with step := if stby then .refLock else .unpowered }

/-- POWER_CYCLE (R46): STBY_OK deasserts. -/
def execPowerCycle (s : State) : Host.Outcome State Fault Refusal :=
  .next (if s.pins.stbyOk then s.powerCycle false else s)

/-- VSTBY_LOW (R501): a power cycle whatever level STBY_OK has; the always-on domain starts again when VSTBY has returned. -/
def execVstbyLow (s : State) : Host.Outcome State Fault Refusal :=
  .next (if s.pins.stbyOk then s.powerCycle true else s)

/-! ## Epoch (R49, R50, R79 to R81) -/

/-- Beats since the last accepted edge; none before the first. -/
def State.sinceEdge (s : State) : Option Nat := if s.boot.epochAt = 0 then none else some (s.now + 1 - s.boot.epochAt)

/-- An edge marked in beat `m` comes too early to be accepted (R50). -/
def State.edgeEarly (s : State) (m : Nat) : Bool := decide (s.boot.epochAt ≠ 0) && decide (m + 1 < s.boot.epochAt + 1998000)

/-- The mark of an edge that the present beat is the first to sample high: 6 beats later, with an uncertainty of one beat (R49). -/
def State.markBeat (s : State) : Nat := s.now + 5 + Config.freeNat s.draws % 3

/-- EPOCH_IN can rise in this beat: it has been high for 10 ns and then low for 10 ns since its last rise (R49). -/
def State.edgeApart (s : State) : Bool :=
  s.locked && s.pins.refclk && s.boot.epochMark.isNone && (decide (s.boot.epochSeen = 0) || decide (s.boot.epochSeen + 39 ≤ s.now))

/-- EPOCH_IN rises, and its edge enters the synchroniser. -/
def State.sampleEdge (s : State) : State :=
  (s.modBoot fun b => { b with epochMark := some s.markBeat, epochSeen := s.now + 1 }).drawn

/-- An accepted edge, in its marked beat (R80). -/
def State.acceptEdge (s : State) : State :=
  let last := s.regN 0x400F10 + 2 ^ 32 * s.regN 0x400F14
  let armed := bitOf (s.regN 0x400F00) 0
  let t := s.putReg 0x400F18 (if s.boot.epochLock then (s.now - last) % 2 ^ 32 else 0)
  let t := (t.putReg 0x400F10 (s.now % 2 ^ 32)).putReg 0x400F14 (s.now / 2 ^ 32)
  let t := if armed then (t.putReg 0x400F0C (t.regN 0x400F04)).putReg 0x400F00 0
    else t.putReg 0x400F0C ((t.regN 0x400F0C + 1) % 2 ^ 32)
  t.modBoot fun b => { b with epochLock := true, epochAt := s.now + 1 }

/-- The edge in the synchroniser is marked, in its beat: accepted, or ignored and counted where it is early (R50, R80). -/
def State.markEdge (s : State) : State :=
  match s.boot.epochMark with
  | none => s
  | some m =>
    if s.now < m then s
    else
      let t := s.modBoot fun b => { b with epochMark := none }
      if t.edgeEarly t.now then t.putReg 0x400F1C (satInc (t.regN 0x400F1C) 0xFFFFFFFF) else t.acceptEdge

/-- EPOCH_EDGE (R49, R80): the pin rises, at an edge that the block accepts in its marked beat. -/
def execEpochEdge (s : State) : Host.Outcome State Fault Refusal :=
  .next (if s.edgeApart && !s.edgeEarly s.markBeat then s.sampleEdge else s)

/-- EPOCH_EARLY (R49, R50): the pin rises, at an edge that the block ignores and counts in its marked beat. -/
def execEpochEarly (s : State) : Host.Outcome State Fault Refusal :=
  .next (if s.edgeApart && s.edgeEarly s.markBeat then s.sampleEdge else s)

/-- EPOCH_LOST (R81). -/
def execEpochLost (s : State) : Host.Outcome State Fault Refusal :=
  .next (if s.boot.epochLock && (match s.sinceEdge with | some n => decide (s.regN 0x400F08 ≤ n) | none => false) then
      (s.modBoot fun b => { b with epochLock := false }).raiseBlock 304
    else s)

end Sys2Proof.Machine
end

