-- ==== Sys2Proof/Machine/Boot.lean ====
section
/-! DEFINITION. The reset sequence from step 4 on: the image, power-up, training; holding, deep power-down (R24, R25, R52, R64, R189,
R468 to R471, R477 to R479, R483, R513).

Marks: DEDUCED (log entry 15), DEDUCED (log entry 16), DEDUCED (log entry 49). -/

namespace Sys2Proof.Machine

def bootStatusReg : Nat := 0x1E00000

/-- LAST and SECTION of BOOT_STATUS; FIRST keeps the first cause that is not 0. -/
def State.bootResult (s : State) (cause sec : Nat) : State :=
  let v := s.regN bootStatusReg
  let first := if fld v 0 4 = 0 then cause else fld v 0 4
  s.putReg bootStatusReg (at' 16 8 sec + at' 4 4 cause + first)

/-- The reset sequence stands at step `t`, and runs. -/
def State.atStep (s : State) (t : BootStep) : Bool :=
  s.boot.step = t && s.boot.base = .config && !s.boot.safe && !s.boot.grave && !s.boot.hold && s.pins.refclk

/-- VRS_ registers of region `r` at their reset values. -/
def State.resetVrs (s : State) (r : Nat) : State :=
  s.setRegs (s.regs.filter fun e =>
    !(decide (regionBase r + 0x20000 ≤ e.1) && decide (e.1 < regionBase r + 0x20024)))

/-- A power-up of region `r` with the cores `mask`, its service regulator first, waits in the arbiter. -/
def State.startUp (s : State) (r mask : Nat) : State :=
  s.modLoop r fun x => { x with pendingUp := some (s.now, BitVec.ofNat 16 mask), ramping := none }

/-- A failed check (R478): BOOT_FAIL, a power-up of the service rails alone, HOLD. -/
def State.failBoot (s : State) (cause sec : Nat) : State :=
  let t := (s.bootResult cause sec).railsOff false
  let t := State.each (List.range 16) (fun r u => (u.resetVrs r).startUp r 0) t
  let t := t.modBoot fun b =>
    { b with bootFail := true, base := .reset, hold := true, step := .powerUp, image := [], tiers := 0, wtiers := 0 }
  t.raiseBlock 329

/-- SFDP_READ_COMPLETE (R64). -/
def execSfdpReadComplete (signature has144 : Bool) (s : State) : Host.Outcome State Fault Refusal :=
  .next (if !s.atStep .sfdp then s
    else if signature && has144 then s.modBoot fun b => { b with step := .imageRead }
    else s.failBoot 1 0xFF)

/-- The bytes end before the image does. -/
def imageShort (bs : List Byte) : Bool :=
  decide (bs.length < 160) || (headerOk bs && tableOk bs && decide (bs.length < imageLen bs + 192))

/-- IMAGE_READ_COMPLETE (R468 step 5, R477 checks 2 to 4): `read` is what the flash holds, as far as the block has not written it. -/
def execImageReadComplete (read : List Byte) (s : State) : Host.Outcome State Fault Refusal :=
  let image := s.nvm.onFlash read
  .next (if !s.atStep .imageRead || imageShort image then s
    else
      let c := readCheck image
      if c.1 = 0 then s.modBoot fun b => { b with step := .verify, image := image.take (imageLen image + 192) }
      else s.failBoot c.1 c.2)

/-- Cores of region `r` that step 8 brings up. -/
def State.sleepers (s : State) (r : Nat) : List Nat :=
  ((coresOf r).filter fun c =>
    !(s.core c).power.out && (s.pstate c = .off || s.pstate c = .retain)).map fun c => c % 16

/-- Step 8: every core request is ON, and every region's power-up waits in the arbiter. -/
def State.powerUpAll (s : State) : State :=
  State.each (List.range 16) (fun r t => (t.putReg (0x401000 + 4 * r) 0xAAAAAAAA).startUp r (maskOf (t.sleepers r)))
    (s.modBoot fun b => { b with step := .powerUp, image := [] })

/-- IMAGE_VERIFY_COMPLETE (R476, R468 steps 6 and 7, R477 checks 5 to 7). -/
def execImageVerifyComplete (s : State) : Host.Outcome State Fault Refusal :=
  .next (if !s.atStep .verify then s
    else
      let c := verifyCheck s.nvm.keyHash s.boot.image
      let s := s.modNvm fun n => { n with keyUsed := n.keyHash }
      if c ≠ 0 then s.failBoot c 0xFF
      else match s.loadImage s.boot.image with
        | none => s.failBoot 7 0xFF
        | some t => (t.bootResult 0 0xFF).powerUpAll)

/-! ## TRAIN (R189, R190, R468 steps 9 and 10) -/

def State.fusedOut (s : State) (c : Nat) : Bool := bitOf s.nvm.coreOut.toNat c

/-- The step and position at which the column of core `c` failed, if it did: one of the positions below T (R190). -/
def failOf (fails : List TrainFail) (tiers c : Nat) : Option (Nat × Nat) :=
  fails.findSome? fun f => match f with
    | .column d k pos => if d.val = c ∧ k.val ≠ 0 ∧ pos.val < tiers then some (k.val, pos.val) else none
    | .core _ => none

/-- Core `c` failed its built-in check. -/
def checkFailed (fails : List TrainFail) (c : Nat) : Bool :=
  fails.any fun f => match f with
    | .core d => decide (d.val = c)
    | .column _ _ _ => false

/-- Training has written the training rows of the tiers, and refresh begins (R189, R190). -/
def Column.trained (x : Column) (now tiers : Nat) : Column :=
  { x with tiers := (List.range tiers).foldl (fun t k =>
      tabSet tierDefault t k { tabGet tierDefault t k with train := [], refLast := now, refUntil := now, owed := 0 }) x.tiers }

/-- The column of core `c` ends its training. -/
def State.trainColumn (s : State) (fails : List TrainFail) (c : Nat) : State :=
  if s.fusedOut c then s.modColumn c fun x => { x with passed := false, failStep := 0, failPos := 0 }
  else match failOf fails s.boot.tiers c with
    | some (k, pos) =>
      let t := s.modColumn c fun x => { x with passed := false, failStep := k, failPos := pos, nearBank := [] }
      (if (t.core c).power.out then t else t.retire c).raiseCore 292 c none
    | none =>
      s.modColumn c fun x =>
        ({ x.selfRefresh false s.boot.tiers with
          passed := true, failStep := 0, failPos := 0, nearBank := [], refBase := s.now }).trained s.now s.boot.tiers

/-- Step 10: READY, or COOLANT while the condition stands or COOLANT_OK is low. -/
def State.enterReady (s : State) : State :=
  let t := State.each (List.range 256) (fun c u => u.modPower c fun p => { p with avail := !p.out }) s
  let t := t.modBoot fun b => { b with base := .ready, step := .done }
  let t := if t.boot.coolant || !t.pins.coolantOk then
      (t.modBoot fun b => { b with resuming := false }).setPower { t.power with cool := none } else t
  if t.boot.coolant then t.allToRetain
  else if t.pins.coolantOk then (t.actOnRequests).afterUps
  else
    let v := t.regN coolReg
    ((((t.modBoot fun b => { b with coolant := true, lossSeen := true }).allToRetain).putReg coolReg
      (setFld v 0 16 (satInc (fld v 0 16) 0xFFFF)))).raiseBlock 328

/-- TRAINING_COMPLETE (R25): results of every column and core, then step 10 unless a fault has stopped the sequence. -/
def execTrainingComplete (fails : List TrainFail) (s : State) : Host.Outcome State Fault Refusal :=
  .next (if s.boot.step ≠ .train || s.boot.base ≠ .train || s.boot.safe || s.boot.grave || s.boot.hold || !s.pins.refclk then s
    else
      let t := State.each (List.range 256) (fun c u => u.trainColumn fails c) s
      let t := State.each (List.range 256) (fun c u =>
        if checkFailed fails c && !(u.core c).power.out then u.retire c else u) t
      if t.boot.safe || t.boot.grave then t else t.enterReady)

/-! ## BOOT_CTRL (R479, R483) -/

/-- A write of HOLD; none where it is not accepted. -/
def State.enterHold (s : State) : Option State :=
  if s.blockState = 4 && !(s.jobs.any fun e => e.2.busy) &&
      !(s.dma.any fun e => e.2.state = .running || e.2.state = .draining) then
    some (s.modBoot fun b => { b with hold := true })
  else none

/-- A write of DPD. -/
def State.enterDpd (s : State) : Option State :=
  if (s.blockState = 4 || s.blockState = 8) && s.busyReason = 0 then
    some ((s.endService).modBoot fun b => { b with dpd := true, dpdLow := false, step := .waitRelease })
  else none

/-- BOOT_CTRL: one bit at most. -/
def State.writeBootCtrl (s : State) (v : Nat) : Option State :=
  match bitOf v 31, bitOf v 30, bitOf v 29 with
  | false, false, false => some s
  | true, false, false => s.enterHold
  | false, true, false => s.reboot
  | false, false, true => s.enterDpd
  | _, _, _ => none

/-- BOOT_STATUS. -/
def State.bootView (s : State) : Nat := setFld (s.regN bootStatusReg) 31 1 (b2n s.boot.dpd)

end Sys2Proof.Machine
end

