-- ==== Sys2Proof/Machine/FaultCmds.lean ====
section
/-! DEFINITION. Commands and registers of the fault collector (R404 to R417, R421, R424). What an event does stands in
Machine/Faults.lean.

Marks: DEDUCED (log entry 22), DEDUCED (log entry 25). -/

namespace Sys2Proof.Machine

/-! ## Places of sources (Table — Fault sources) -/

/-- Kinds of place at which a source's events are located. -/
inductive Place where
  | block | core | region | either
  deriving DecidableEq, Repr

def placeOf (k : Nat) : Place :=
  if k = 273 ∨ k = 324 ∨ (309 ≤ k ∧ k ≤ 312) then .either
  else if (279 ≤ k ∧ k ≤ 292) ∨ (306 ≤ k ∧ k ≤ 308) ∨ k = 313 ∨ (318 ≤ k ∧ k ≤ 320) ∨ k = 325 ∨ k = 327 then .core
  else if k = 278 ∨ (293 ≤ k ∧ k ≤ 296) ∨ k = 299 ∨ k = 314 ∨ k = 315 ∨ k = 317 ∨ (321 ≤ k ∧ k ≤ 323) then .region
  else .block

/-- Source `k` has events at location `l`; 273, 279 and 324 also have events without one. -/
def placeOk (k : Nat) (l : Option Nat) : Bool :=
  match placeOf k, l with
  | .block, none => true
  | .core, some n => decide (n < 256)
  | .region, some n => decide (256 ≤ n) && decide (n < 272)
  | .either, some n => decide (n < 272)
  | _, none => k = 273 || k = 279 || k = 324
  | _, _ => false

/-- A kind source that is not reserved. -/
def kindSource (k : Nat) : Bool := decide (272 ≤ k) && !reservedSource k

/-- FAULT_EVENT (R409): a checker reports an event of source `src`. -/
def execFaultEvent (src : Fin 512) (loc : Option (Fin 272)) (job : Option (PartId × Fin 16)) (tag : Option PartId) (s : State) :
    Host.Outcome State Fault Refusal :=
  .next (let l := loc.map Fin.val
    if s.locked && kindSource src && placeOk src l then
      s.raise { src := src, locs := l.toList, job := job, tag := tag.map Fin.val }
    else s)

/-! ## Broken pairs and the two copies (R408, R414, R415) -/

/-- Source 273 at the place of a broken pair, and the source of an event wire. -/
def State.breakWire (s : State) (k : Nat) (l : Option Nat) : State :=
  (s.raise { src := k, locs := l.toList, job := none, tag := none }).raise { src := 273, locs := l.toList, job := none, tag := none }

/-- BROKEN_WIRE (R408): a pair has read equal for two beats, and stays broken until a power cycle. The pair of a sensor's readings marks
it suspect; the pair of a telemetry channel's readings makes it stale; the pair of an event wire is a persisting condition of its source. -/
def execBrokenWire (src : Fin 512) (loc : Option (Fin 272)) (reading : Option ReadingWire) (s : State) :
    Host.Outcome State Fault Refusal :=
  .next (if !s.locked then s
    else match reading with
      | some (.sensor n) =>
        if (s.sensor n).cut then s
        else
        let t := (s.suspectSensor n).modSensor n fun x => { x with suspect := true, cut := true }
        t.raise { src := 273, locs := sensorLocs n, job := none, tag := none }
      | some (.channel r k) =>
        if (s.tlmChan r k).cut then s
        else
          let t := s.modTlm r fun x =>
            { x with chans := tabSet chanDefault x.chans k { tabGet chanDefault x.chans k with cut := true, stale := 17, peak := 65536 } }
          ((t.persistOn 323 (some (256 + r.val))).raiseRegion 323 r none).raiseRegion 273 r none
      | none =>
        let l := loc.map Fin.val
        if kindSource src && placeOk src l && !s.faults.broken.any (fun e => e = (src.val, l)) then
          (s.modFaults fun f => { f with broken := f.broken ++ [(src.val, l)] }).breakWire src l
        else s)

/-- The copies differ: SELF_FAIL, source 272 and GRAVE, whatever the class table holds. -/
def State.selfFail (s : State) : State :=
  let t := (s.modFaults fun f => { f with selfFail := true }).raiseBlock 272
  if t.boot.grave then t
  else
    let r := t.enterGrave
    State.each r.2 (fun c u => u.raiseCore 281 c none) r.1

/-- The copies are compared in every beat; while they differ, source 272 reports anew where its bit is clear (R407, R414). -/
def State.compareCopies (s : State) : State :=
  if s.faults.one ≠ s.faults.two ∧ !(s.faults.selfFail && (s.source 272).sticky) then s.selfFail else s

/-- COLLECTOR_MISMATCH (R415). -/
def execCollectorMismatch (s : State) : Host.Outcome State Fault Refusal := .next (if s.locked then s.selfFail else s)

/-! ## Persisting conditions (R407) -/

/-- Sources that report a condition anew while their sticky bit is clear. -/
def State.reraise (s : State) : State :=
  State.each (s.faults.persist ++ s.faults.broken) (fun e t =>
    if (t.source e.1).sticky then t else t.raise { src := e.1, locs := e.2.toList, job := none, tag := none }) s

/-! ## Windows and clears (R412, R413) -/

/-- FAULT_WINDOW_CLOSE (R412); while the beat clock stands still, the collector's oscillator times it. -/
def execFaultWindowClose (src : Fin 512) (s : State) : Host.Outcome State Fault Refusal :=
  .next (match (s.source src).closes with
    | some b =>
      if b ≤ s.now || !s.pins.refclk then s.modCopies fun f => f.put src { f.src src with count := 0, closes := none } else s
    | none => s)

/-- A source after a clear in beat `now`; an event of the same beat is the first of a new window, at the base class. -/
def Source.clear (x : Source) (now : Nat) : Source :=
  if x.eff = 4 then x
  else if x.sticky && decide (x.last = some now) then
    { x with promoted := false, count := if x.w = 0 then 0 else 1,
             closes := if x.w = 0 then none else some (now + windowBeats x.w), cleared := some now }
  else { x with sticky := false, promoted := false, count := 0, closes := none, cleared := some now }

/-- The source has acted in this beat at a class above its base: a clear meets the next beat, in which nothing has acted yet (R413). -/
def Source.hasActed (x : Source) (now : Nat) : Bool := x.promoted && decide (x.last = some now) && decide (x.eff ≠ 4)

/-- The bits that a write of `v` to FLT_STICKY `k` clears are cleared. A block held in SAFE by source 275, 276 or 277 leaves it through the
reset sequence (R419). -/
def State.clearSticky (s : State) (ks : List Nat) : State :=
  let t := State.each ks (fun k t => t.modCopies fun f => f.put k ((t.timed (f.src k)).clear t.now)) s
  let t := if s.boot.safe && ks.any (fun k => decide (275 ≤ k) && decide (k ≤ 277) && (s.source k).sticky && !(t.source k).sticky) then
      t.modBoot fun b => { b with rerun := true }
    else t
  -- conditions report anew in the next beat, which BLOCK_BEAT begins; while the beat clock stands still, at once
  if s.pins.refclk then t else t.reraise

/-- A write of `v` to FLT_STICKY `k`; none where it waits for the next beat. -/
def State.writeSticky (s : State) (k v : Nat) : Option State :=
  let ks := ((bitsOf 32 v).map fun j => 32 * k + j).filter fun j => !reservedSource j
  if ks.any fun j => (s.timed (s.source j)).hasActed s.now then none else some (s.clearSticky ks)

/-! ## The pin (R417) -/

def pinReg : Nat := 0x300088

/-- ERR_PULSE_END (R417): WIDTH after the last routed event the pin is released, or held; while the beat clock stands still, the collector's
oscillator times it. -/
def execErrPulseEnd (s : State) : Host.Outcome State Fault Refusal :=
  .next (if s.faults.pulse && (decide (s.faults.pulseEnd ≤ s.now) || !s.pins.refclk) then
      let t := s.modFaults fun f => { f with pulse := false }
      if t.faults.one.hold then (t.modCopies fun f => { f with held := true }).mark pinReg 0x80000000 else t
    else s)

/-- A write of ERR_PIN_CTRL clears HELD where bit 31 is 1. -/
def State.clearHeld (s : State) (v : Nat) : State :=
  if bitOf (s.clears pinReg v) 31 then s.modCopies fun f => { f with held := false } else s

/-! ## Injection (R416) -/

/-- A write of FLT_INJ from the side-band; none where it is refused. -/
def State.writeInj (s : State) (v : Nat) : Option State :=
  let k := fld v 0 9
  let l := fld v 18 9
  let loc := if l = 511 then none else some l
  if fld v 29 2 = 3 ∨ (bitOf v 31 ∧ (!kindSource k ∨ !placeOk k loc)) then none
  else some (s.modFaults fun f => { f with inj := { arm := bitOf v 31, mode := fld v 29 2, loc := l, src := k, when := s.now } })

/-- The sources whose check reads a QS2 tier code: an injected bit waits for the next read. -/
def codeSource (k : Nat) : Bool := decide (282 ≤ k) && decide (k ≤ 287)

/-- Jobs that run on cores of region `r`. -/
def State.regionJobs (s : State) (r : Nat) : List (PartId × Fin 16) := (coresOf r).filterMap s.coreJob

/-- The checker of source `k` at core `c` makes a check in this beat: of the bundle that issues, of a running sequence, of a column whose
tiers are served, or of what is powered. -/
def State.checksCore (s : State) (k c : Nat) : Bool :=
  if 279 ≤ k ∧ k ≤ 281 then (s.core c).seq.issued
  else if k = 288 then (s.column c).active.isSome
  else if 289 ≤ k ∧ k ≤ 292 then s.serviceOn (c / 16) && decide (0 < s.boot.tiers)
  else s.powered c

/-- The checker of source `k` of region `r` makes a check in this beat. -/
def State.checksRegion (s : State) (k r : Nat) : Bool :=
  s.serviceOn r &&
    (if k = 293 then s.sync.taken.any fun e => decide (counterRegion e.1 = r) && decide (e.2 = s.now + 1)
     else if k = 294 then !(s.regionJobs r).isEmpty
     else if k = 295 ∨ k = 296 then s.dma.any fun e => decide (e.1 / 32 = r) && decide (e.2.state = .running)
     else if k = 299 then (s.scout r).serving.isSome
     else true)

/-- The checker of an unlocated source makes a check in this beat. -/
def State.checksBlock (s : State) (k : Nat) : Bool :=
  if k = 297 ∨ k = 298 then !s.pgk.calls.isEmpty
  else if 300 ≤ k ∧ k ≤ 303 then (List.range 4).any s.linkUp
  else if k = 304 then s.boot.epochLock
  else if k = 329 then decide (s.boot.base = .config)
  else true

/-- The checker of source `k` at `l` makes a check in this beat (R416, log entry 22). -/
def State.checks (s : State) (k : Nat) (l : Option Nat) : Bool :=
  match l with
  | some n => if n < 256 then s.checksCore k n else s.checksRegion k (n - 256)
  | none => s.checksBlock k

/-- The job that an injected event of source `k` at `l` is attributed to, as the source's defining rule attributes it. -/
def State.injectedJob (s : State) (k : Nat) (l : Option Nat) : Option (PartId × Fin 16) :=
  match l with
  | some n =>
    if n < 256 then (if k = 288 then (s.column n).active.bind (·.job) else s.coreJob n)
    else if k = 296 then ((s.dma.filter fun e => decide (e.1 / 32 = n - 256) && decide (e.2.state = .running)).head?).bind fun e => s.ringerJob e.2.attr
    else if k = 294 then (s.regionJobs (n - 256)).head?
    else none
  | none => none

/-- An armed injection is made at the next check of its checker; equal rails are found broken after two beats. A core reported dark goes
dark. -/
def State.fireInjection (s : State) : State :=
  let j := s.faults.inj
  let l := if j.loc = 511 then none else some j.loc
  if !j.arm || (if j.mode = 2 then decide (s.now < j.when + 2) else codeSource j.src || !s.checks j.src l) then s
  else
    let t := s.modFaults fun f => { f with inj := { f.inj with arm := false } }
    if j.mode = 2 then t.breakWire j.src l
    else if j.src = 272 then t.selfFail
    else if j.src = 307 then t.goDark j.loc
    else t.raise { src := j.src, locs := l.toList, job := t.injectedJob j.src l, tag := none }

/-! ## Views -/

def State.stickyView (s : State) (k : Nat) : Nat := maskOf ((List.range 32).filter fun j => (s.source (32 * k + j)).sticky)
def State.promoView (s : State) (k : Nat) : Nat := maskOf ((List.range 32).filter fun j => (s.source (32 * k + j)).promoted)

/-- FLT_STATUS. -/
def State.fltStatus (s : State) : Nat :=
  let set := s.setSources
  let top := set.foldl (fun m k => max m (s.source k).eff) 0
  at' 31 1 (b2n !set.isEmpty) + at' 28 3 top + at' 27 1 (b2n s.faults.selfFail) + set.length

def State.fltCtrl (s : State) : Nat := at' 16 8 s.faults.one.evqTags.toNat + s.faults.one.clrTags.toNat

/-- ERR_PIN_CTRL. -/
def State.pinView (s : State) : Nat :=
  let f := s.faults.one
  at' 31 1 (b2n f.held) + at' 30 1 (b2n s.pinLow) + at' 29 1 (b2n f.hold) + at' 8 5 f.route.toNat + f.width

def State.injView (s : State) : Nat :=
  let j := s.faults.inj
  at' 31 1 (b2n j.arm) + at' 29 2 j.mode + at' 18 9 j.loc + j.src

/-- FLT_SRC_CFG `k`. -/
def State.srcView (s : State) (k : Nat) : Nat :=
  if reservedSource k then 0
  else
    let x := s.source k
    at' 29 3 x.eff + at' 28 1 (b2n x.promoted) + at' 20 8 (x.countNow s.now) + at' 12 8 x.n + at' 8 3 x.w + x.base

end Sys2Proof.Machine
end

