-- ==== Sys2Proof/Machine/Perturb.lean ====
section
/-! DEFINITION. The test perturbation unit (chapter 20, R486 to R491).

Marks: DEDUCED (log entry 50). -/

namespace Sys2Proof.Machine

/-! ## The random generators -/

/-- One step of the Galois generator with polynomial 0x80200003. -/
def lfsrStep (x : BitVec 32) : BitVec 32 := if x &&& 1 = 1 then (x >>> 1) ^^^ 0x80200003#32 else x >>> 1

/-- Generators at an unlock or a write of TST_SEED. -/
def seeded (seed : BitVec 32) : Tab (BitVec 32) :=
  (List.range 16).foldl (fun t r =>
    let v := seed ^^^ BitVec.ofNat 32 r
    tabSet lfsrDefault t r (if v = 0 then 1 else v)) []

/-- Every generator advances. -/
def State.stepLfsr (s : State) : State :=
  if s.perturb.unlocked then s.modPerturb fun p => { p with lfsr := tabMap lfsrDefault (fun _ x => lfsrStep x) p.lfsr } else s

/-! ## Register writes (R486 to R488) -/

/-- A write of TST_UNLOCK from the side-band. -/
def State.writeUnlock (s : State) (v : Nat) : State × Reply :=
  if v = 0 then (s.lockPerturb, .ok)
  else if s.perturb.unlocked then (s, .ok)
  else match s.perturb.first with
    | none => if v = 0x5157 then (s.modPerturb fun p => { p with first := some s.now }, .ok) else (s, .ok)
    | some b =>
      let st := s.blockState
      if v = 0x7E57 && decide (s.now ≤ b + 2000000) && (st = 4 || st = 2 || st = 8) then
        ((s.modPerturb fun p => { p with unlocked := true, first := none, lfsr := seeded (s.reg (tstReg 8)) }).raiseBlock 331, .ok)
      else (s.modPerturb fun p => { p with first := none }, .err 5)

/-- A write of another TST_ register from the side-band, while the unit is unlocked; none where it is refused. -/
def State.writeTst (s : State) (o v : Nat) : Option State :=
  let put := fun (x : Nat) => some (s.putReg (tstReg o) x)
  if !s.perturb.unlocked then none
  else if o = 0x8 then
    some ((s.putReg (tstReg 8) v).modPerturb fun p => { p with lfsr := seeded (BitVec.ofNat 32 v) })
  else if o = 0xC then put (min 512 (fld v 0 10))
  else if 0x10 ≤ o ∧ o < 0x30 then put v
  else if o = 0x30 ∨ o = 0x3C then put (v &&& 0x800FFFFF)
  else if o = 0x34 then put (v &&& 0x00FFFFFF)
  else if o = 0x38 then put (v &&& 0x0FFFFFFF)
  else if 0x40 ≤ o ∧ o < 0x80 then
    if bitOf v 31 ∧ 39 ≤ fld v 24 6 then none
    else
      some ((s.putReg (tstReg o) (v &&& 0xFFFF0FFF)).modPerturb fun p =>
        { p with left := tabSet (fun _ => 0) p.left ((o - 0x40) / 4) (fld v 16 8) })
  else some s

/-- TST_STAT. -/
def State.tstStat (s : State) : Nat :=
  let on := fun (i : Nat) (b : Bool) => at' i 1 (b2n b)
  on 31 s.perturb.unlocked + on 30 s.perturb.first.isSome + on 0 (s.regN (tstReg 0xC) ≠ 0) +
    on 1 (fld (s.regN (tstReg 0x30)) 16 4 ≠ 0) + on 2 (fld (s.regN (tstReg 0x34)) 16 8 ≠ 0) +
    on 3 (fld (s.regN (tstReg 0x38)) 16 12 ≠ 0) + on 4 (fld (s.regN (tstReg 0x3C)) 16 4 ≠ 0) +
    on 5 ((List.range 16).any fun r => bitOf (s.regN (tstReg (0x40 + 4 * r))) 31)

end Sys2Proof.Machine
end

