-- ==== Sys2Proof/Machine/Regs.lean ====
section
/-! DEFINITION. The register window: what each register reads, and what a write of it does (R9 to R15, R492 to R495, and the
register descriptions of every chapter). Ownership and block state are judged here too (R57, R451, R453, R463).

Marks: DEDUCED (log entry 51), DEDUCED (log entry 54), DEDUCED (log entry 57). -/

namespace Sys2Proof.Machine

def windowBase : Nat := 0x40080000000
def windowSize : Nat := 0x4000000

/-! ## Counter pairs (R15, R495) -/

/-- Energy in µJ of an accumulator kept in units of 2^-16 µJ (R386). -/
def microJ (e : Nat) : Nat := e / 65536 % 2 ^ 64

/-- Two registers of the register file as one value. -/
def State.regPair (s : State) (o : Nat) : Nat := s.regN o + 2 ^ 32 * s.regN (o + 4)

/-- Counter pairs of a region's block, at their low offset in it. -/
def State.regionPair (s : State) (r x : Nat) : Option Nat :=
  let o := x - 0x60000
  if x < 0x60400 ∨ 0x60D10 ≤ x then none
  else if o < 0xC00 then
    if o % 0x400 < 0x280 ∧ o % 16 = 0 then some (s.regPair (regionBase r + x)) else none
  else if o = 0xD00 then some (microJ (tabGet (fun _ => 0) s.power.regOut r))
  else if o = 0xD08 then some (microJ (tabGet (fun _ => 0) s.power.regIn r))
  else none

/-- Value of the counter pair whose low half lies at `o`; none where there is no such pair. -/
def State.pairAt (s : State) (o : Nat) : Option Nat :=
  if o = 0x30 then some s.now
  else if o = 0x400F10 then some (s.regPair o)
  else if o = 0x403000 then some (microJ s.power.eOut)
  else if o = 0x403008 then some (microJ s.power.eIn)
  else if 0x403100 ≤ o ∧ o < 0x403200 ∧ o % 8 = 0 then some (microJ (tabGet slotDefault s.power.slots ((o - 0x403100) / 8)))
  else if 0x800000 ≤ o ∧ o < 0x1800000 then s.regionPair ((o - 0x800000) / 0x100000) ((o - 0x800000) % 0x100000)
  else if 0x1C00000 ≤ o ∧ o < 0x1C00400 ∧ (o % 0x100 = 0x28 ∨ o % 0x100 = 0x30) then some (s.regPair o)
  else if 0x2000000 ≤ o ∧ o < 0x4000000 then
    let c := (o - 0x2000000) / 0x20000
    let x := o % 0x20000
    if x = 0 then some (s.core c).seq.beat.toNat
    else if 0x100 ≤ x ∧ x < 0x160 ∧ x % 8 = 0 then
      some (tabGet (fun _ => 0#64) (s.core c).holds ((x - 0x100) / 8 + 1)).toNat
    else none
  else none

def pathIndex : Path → Nat
  | .host t => t.val
  | .side => 8

def shadowDefault (_ : Nat) : BitVec 32 := 0
def shadowAt (p : Path) (o : Nat) : Nat := 2 ^ 26 * pathIndex p + o

/-! ## Views, group by group -/

/-- BLOCK_STATUS. -/
def State.blockStatus (s : State) : Nat :=
  let tied := s.cores.any fun e => e.2.power.state = .tied
  let up := (s.cores.filter fun e => e.2.power.avail).length
  at' 27 1 (b2n tied) + at' 26 1 (b2n s.perturb.unlocked) + at' 25 1 (b2n s.boot.epochLock) + at' 16 9 up +
    at' 13 3 s.boot.wtiers + at' 8 5 s.boot.tiers + at' 7 1 (b2n (!s.setSources.isEmpty)) + at' 6 1 (b2n s.thermWarn) +
    at' 5 1 (b2n s.pins.coolantOk) + at' 4 1 (b2n s.boot.bootFail) + at' 0 4 s.blockState

def State.readBlk (s : State) (o : Nat) : Nat :=
  if o = 0 then 0x51530201
  else if o = 4 then 0x02010001
  else if o = 8 then s.blockStatus
  else if 0x10 ≤ o ∧ o < 0x30 then
    maskOf ((List.range 32).filter fun j => s.available (32 * ((o - 0x10) / 4) + j))
  else 0

def jobStateCode : JobState → Nat
  | .free => 0 | .loading => 1 | .running => 2 | .ended => 3 | .stopped => 4 | .refused => 5

/-- PART_JOB `j` of partition `p`. -/
def State.jobView (s : State) (p j : Nat) : Nat :=
  let x := s.job p j
  at' 29 3 (jobStateCode x.state) + at' 25 4 (if x.state = .refused then x.cause else 0) + at' 0 9 (s.jobCores p j)

/-- PART_COMMIT_STAT. -/
def State.commitView (s : State) : Nat :=
  at' 31 1 (b2n s.commit.busy) + at' 30 1 (b2n (s.commit.busy && s.commit.scrub)) + at' 8 4 s.commit.cause +
    at' 0 3 s.commit.part

def State.readPart (s : State) (o : Nat) : Nat :=
  if o < 0x100800 then
    let p := (o - 0x100000) / 0x100
    let x := o % 0x100
    if (stagingMask x).isSome ∨ x = 0x50 ∨ x = 0x54 then s.regN o
    else if 0x60 ≤ x ∧ x < 0xA0 then s.jobView p ((x - 0x60) / 4)
    else 0
  else if o < 0x101000 then (if (stagingMask (o % 0x100)).isSome then s.regN o else 0)
  else if o = 0x101004 then s.commitView
  else if o = 0x102000 ∨ o = 0x102004 then s.regN o
  else 0

def State.readEvq (s : State) (o : Nat) : Nat :=
  if o = 0x200000 ∨ o = 0x20000C then s.regN o
  else if o = 0x200008 then s.idleStat
  else if 0x200100 ≤ o ∧ o < 0x200180 then s.regN o
  else if 0x201000 ≤ o ∧ o < 0x201800 then
    let p := (o - 0x201000) / 0x100
    let x := o % 0x100
    if x = 0 ∨ x = 4 ∨ x = 0x18 ∨ x = 0x1C ∨ x = 0x20 then s.regN o
    else if x = 8 then at' 31 1 (b2n (s.evq p).en) + s.regN o
    else if x = 0xC then (s.evq p).head.toNat
    else if x = 0x10 then (s.evq p).tail.toNat
    else if x = 0x14 then s.evqStat p
    else if 0x40 ≤ x ∧ x < 0x80 then s.evqPend p ((x - 0x40) / 4)
    else 0
  else 0

def State.readFlt (s : State) (o : Nat) : Nat :=
  let x := o - 0x300000
  if x < 0x40 then s.stickyView (x / 4)
  else if x < 0x80 then s.promoView ((x - 0x40) / 4)
  else if x = 0x80 then s.fltStatus
  else if x = 0x84 then s.fltCtrl
  else if x = 0x88 then s.pinView
  else if x = 0x8C then s.injView
  else if 0x1000 ≤ x ∧ x < 0x1800 then s.srcView ((x - 0x1000) / 4)
  else 0

/-- Codes of Table — Core power states. -/
def powerCode : PowerState → Nat
  | .off => 0 | .retain => 1 | .ramping => 2 | .on => 3 | .tied => 4 | .carrier => 5 | .dark => 6 | .transit => 7

/-- PWR_CORE_STATE `k`. -/
def State.coreStates (s : State) (k : Nat) : Nat :=
  ((List.range 8).map fun i => powerCode (s.pstate (8 * k + i)) * 16 ^ i).foldl (· + ·) 0

/-- PWR_TIE of core `c`. -/
def State.tieView (s : State) (c : Nat) : Nat :=
  let p := (s.core c).power
  let tied := decide (p.state = .tied)
  let carrier := decide (p.state = .carrier)
  let partner := match p.partner with | some d => d.val | none => 0
  at' 31 1 (b2n tied) + at' 30 1 (b2n carrier) +
    (if tied || carrier then at' 28 2 p.tieDir + at' 8 8 partner else 0) + at' 16 2 (b2n p.sense) + at' 0 8 p.excluded.toNat

def State.readPwr (s : State) (o : Nat) : Nat :=
  let x := o - 0x400000
  if x = 0x10C4 then
    maskOf (((List.range 16).filter fun r => (s.loop r).pendingUp.isSome) ++
      ((List.range 16).filter fun r => (s.loop r).ramping.isSome).map fun r => r + 16)
  else if 0xF00 ≤ x ∧ x < 0xF20 ∧ x ≠ 0xF10 ∧ x ≠ 0xF14 then s.regN o
  else if 0x1000 ≤ x ∧ x < 0x1040 then s.regN o
  else if 0x1040 ≤ x ∧ x < 0x10C0 then s.coreStates ((x - 0x1040) / 4)
  else if x = 0x10C0 ∨ x = 0x10C8 ∨ x = 0x10D0 then s.regN o
  else if 0x1100 ≤ x ∧ x < 0x1180 then s.regN o
  else if x = 0x1180 then at' 5 16 s.boot.retFault.toNat + s.regN o
  else if 0x1400 ≤ x ∧ x < 0x1800 then s.tieView ((x - 0x1400) / 4)
  else if 0x2000 ≤ x ∧ x < 0x2080 ∧ x ≠ 0x200C then s.regN o
  else if x = 0x4000 then at' 31 1 (b2n s.nvmOk) + s.regN o
  else if 0x4010 ≤ x ∧ x < 0x4020 then s.sensorView (1056 + (x - 0x4010) / 4)
  else if x = 0x4020 then s.regN o
  else if x = 0x4030 then at' 30 1 (b2n s.boot.recoverOk) + s.regN o
  else 0

def vrStateCode : VrState → Nat
  | .off => 0 | .softStart => 1 | .run => 2 | .hiccup => 3 | .failed => 4

/-- VRC_STATUS of regulator `v`. -/
def State.vrStatus (s : State) (v : Nat) : Nat :=
  let x := s.vr v
  at' 29 3 (vrStateCode x.state) + at' 28 1 (b2n x.otWarn) + at' 27 1 (b2n x.suspended.isSome) +
    at' 26 1 (b2n (decide (s.now < x.busyTo))) + at' 25 1 (b2n x.clamp) + at' 20 4 x.switching.length +
    at' 16 4 x.phasesOn + at' 8 8 (min 64 x.ocRun) +
    at' 0 8 (min 8 (x.hiccups.filter fun b => decide (s.now ≤ b + 20000000)).length)

/-- VRC_PHASE. A shed phase is one that is enabled and does not switch while the regulator runs. -/
def State.vrPhase (s : State) (v : Nat) : Nat :=
  let x := s.vr v
  let shed := if x.running then maskOf ((bitsOf 8 x.enabled.toNat).filter fun p => !x.switching.any (· = p)) else 0
  at' 24 8 (255 - x.enabled.toNat) + at' 16 8 x.suspect.toNat + at' 8 8 shed + at' 0 8 x.enabled.toNat

/-- TARGET of a regulator, in 0.1 mV. -/
def Vr.targetField (x : Vr) : Nat := if x.running then clampTo 0 0xFFFF (x.target / 100).toNat else 0

/-- Registers of regulator `v` at offset `x`. A core's set-point reads 0 before an image is loaded. -/
def State.readVr (s : State) (v x : Nat) : Nat :=
  let o := vrBase v + x
  if x = 0 ∨ x = 4 then (if x = 0 ∧ 256 ≤ v then s.regN o &&& 0xFFFFFFEE else s.regN o)
  else if x = 8 then s.vrStatus v
  else if x = 0xC then s.vrPhase v
  else if x = 0x10 then
    at' 16 16 (s.vr v).targetField + (if 256 ≤ v then fld (s.regN o) 0 8 else if s.boot.tiers = 0 then 0 else at' 0 8 (s.setCode v))
  else if x = 0x14 then at' 24 8 (min 0xFF (s.vr v).hiccupTot) + min 0xFFFFFF (s.vr v).undershoots
  else if x = 0x18 then
    ((List.range 4).map fun k => (tabGet stageDefault (s.vr v).stage k).toNat * 256 ^ k).foldl (· + ·) 0
  else if x = 0x1C then
    ((List.range 8).map fun p => toTwos 4 (tabGet trimDefault (s.vr v).trim p) * 16 ^ p).foldl (· + ·) 0
  else 0

def State.readLpe (s : State) (r x : Nat) : Nat :=
  let o := lpeReg r x
  if x < 0x1C then s.regN o
  else if 0x100 ≤ x ∧ x < 0x140 then s.allowView (16 * r + (x - 0x100) / 4)
  else if 0x140 ≤ x ∧ x < 0x180 then s.marginView (16 * r + (x - 0x140) / 4)
  else if x = 0x180 then at' 31 1 (b2n (s.selected r).isSome) + s.regN o
  else if x = 0x184 then
    match s.selected r with
    | some e => at' 16 16 e.peak + at' 0 16 e.mean
    | none => 0
  else 0

def State.readTlm (s : State) (r x : Nat) : Nat :=
  let o := tlmReg r x
  if x = 0 then at' 4 1 (b2n (s.refUsable r)) + fld (s.regN o) 0 2
  else if 0x40 ≤ x ∧ x < 0xC0 then (if x % 16 = 12 then 0 else s.regN o)
  else if x = 0xC4 ∨ x = 0xC8 ∨ x = 0xCC then s.regN o
  else if 0x100 ≤ x ∧ x < 0x1A0 then s.regN o
  else if 0x400 ≤ x ∧ x < 0xC00 ∧ x % 0x400 < 0x280 ∧ 8 ≤ x % 16 then s.regN o
  else if 0xC00 ≤ x ∧ x < 0xC10 then s.regN o
  else if 0xC40 ≤ x ∧ x < 0xC80 then s.regN o
  else 0

def State.readThm (s : State) (r x : Nat) : Nat :=
  if x < 0x100 then s.sensorView (64 * r + x / 4)
  else if x < 0x108 then s.sensorView (1024 + 2 * r + (x - 0x100) / 4)
  else if 0x200 ≤ x ∧ x < 0x240 then s.coreTView (16 * r + (x - 0x200) / 4)
  else if x = 0x240 then s.regionTView r
  else 0

def chanCode : ChanState → Nat
  | .off => 0 | .idle => 1 | .running => 2 | .parked => 3 | .halted => 4 | .draining => 5

/-- DMA_CH_OWNER of a channel: a doorbell of the side-band or of the keeper shows neither a host tag nor a core. -/
def ownerView : Option Ringer → Nat
  | none => 0
  | some (.job c _) => at' 31 1 1 + c.val
  | some (.host t) => at' 31 1 1 + at' 30 1 1 + at' 8 3 t.val
  | some .side => at' 31 1 1
  | some (.keeper _) => at' 31 1 1

def State.readDma (s : State) (r x : Nat) : Nat :=
  if x < 0x400 then
    let k := x / 0x20
    let y := s.chan r k
    match x % 0x20 with
    | 0x00 => y.alloc
    | 0x04 => at' 29 3 (chanCode y.state) + at' 28 1 (b2n y.recheck) + at' 27 1 (b2n (s.keeperHolds r k)) + at' 20 4 y.cause +
        at' 0 9 y.writes.length
    | 0x08 | 0x0C => s.regN (dmaBase r + x)
    | 0x10 => y.cur % 2 ^ 32
    | 0x14 => y.cur / 2 ^ 32
    | 0x18 => ownerView y.owner
    | 0x1C => y.done.toNat
    | _ => 0
  else if x = 0x404 then at' 8 8 (s.basinFree r) + at' 0 8 (s.allocated r)
  else 0

def State.readSyn (s : State) (r x : Nat) : Nat :=
  if x < 0x4000 then (s.counter (4096 * r + x / 4)).toNat
  else if 0x8000 ≤ x ∧ x < 0x8020 then s.regN (synBase r + x)
  else 0

/-- TIER_CH_STATUS of core `c`. -/
def State.columnView (s : State) (c : Nat) : Nat :=
  let x := s.column c
  let owed := match x.active with | some q => (x.tier q.tier).owed | none => 0
  at' 28 4 x.failStep + at' 23 5 x.failPos + at' 22 1 (b2n (x.hot || x.tempLost)) + at' 21 1 (b2n x.tempLost) +
    at' 20 1 (b2n x.active.isSome) + at' 16 4 (min 8 owed) + at' 11 5 x.queue.length + at' 0 8 x.temp.toNat

def State.readTier (s : State) (r x : Nat) : Nat :=
  if x = 0 then s.regN (regionBase r + 0xE0000)
  else if x = 4 then maskOf ((List.range 16).filter fun j => (s.column (16 * r + j)).passed)
  else if 0x100 ≤ x ∧ x < 0x140 then s.columnView (16 * r + (x - 0x100) / 4)
  else if 0x200 ≤ x ∧ x < 0x240 then s.regN (regionBase r + 0xE0000 + x)
  else 0

def State.readRegion (s : State) (r x : Nat) : Nat :=
  if x < 0x1000 then s.readVr (16 * r + x / 0x100) (x % 0x100)
  else if x = 0x1000 ∨ x = 0x20020 then s.regN (regionBase r + x)
  else if 0x20000 ≤ x ∧ x < 0x20020 then s.readVr (256 + r) (x - 0x20000)
  else if 0x40000 ≤ x ∧ x < 0x41000 then s.readLpe r (x - 0x40000)
  else if 0x60000 ≤ x ∧ x < 0x61000 then s.readTlm r (x - 0x60000)
  else if 0x80000 ≤ x ∧ x < 0x81000 then s.readThm r (x - 0x80000)
  else if 0xA0000 ≤ x ∧ x < 0xA1000 then s.readDma r (x - 0xA0000)
  else if 0xC0000 ≤ x ∧ x < 0xC9000 then s.readSyn r (x - 0xC0000)
  else if 0xE0000 ≤ x ∧ x < 0xE1000 then s.readTier r (x - 0xE0000)
  else 0

def State.readPgk (s : State) (o : Nat) : Nat :=
  if o < 0x1800400 then
    let p := (o - 0x1800000) / 0x80
    let k := s.keeper p
    let x := o % 0x80
    if x = 4 then
      at' 4 1 (b2n k.callBusy) + at' 3 1 (b2n k.cfgErr) + at' 2 1 (b2n k.broken) + at' 1 1 (b2n k.scanning) +
        at' 0 1 (b2n k.ready)
    else if x = 0x20 then k.freeCount
    else if x < 0x2C ∨ 0x30 ≤ x ∧ x < 0x40 then s.regN o
    else 0
  else if 0x1801000 ≤ o ∧ o < 0x1801200 ∧ o % 0x20 < 0x14 then s.regN o
  else 0

def linkCode : LinkState → Nat
  | .down => 0 | .init => 1 | .up => 2 | .failed => 3

def paceView (p : Pace) : Nat := at' 16 11 p.f + at' 10 6 p.period + at' 0 4 p.reason

def State.readPeer (s : State) (o : Nat) : Nat :=
  if 0x1C00400 ≤ o then 0
  else
    let n := (o - 0x1C00000) / 0x100
    let y := s.peer n
    let x := o % 0x100
    if x = 4 then
      at' 30 2 (linkCode y.link) + at' 29 1 (b2n (bitOf s.pins.linkUp.toNat n)) + at' 16 8 y.major + at' 0 13 (min 4096 y.dataCred)
    else if x = 0 ∨ x = 0x38 ∨ 8 ≤ x ∧ x < 0x1C then s.regN o
    else if x = 0x1C then paceView y.tx
    else if x = 0x20 then at' 31 1 (b2n y.inForce) + paceView y.rx
    else 0

/-- SBD_STATUS. -/
def State.sideStatus (s : State) : Nat :=
  at' 31 1 (b2n s.side.i3c) + at' 8 8 s.side.eid.toNat + at' 0 7 s.side.da.toNat

def State.readBoot (s : State) (o : Nat) : Nat :=
  let x := o - 0x1E00000
  if x = 0 then s.bootView
  else if x = 4 then s.regN o
  else if x = 0x18 then s.updStat
  else if 0x8000 ≤ x ∧ x < 0x8030 then fld s.nvm.keyHash.toNat (8 * (x - 0x8000)) 32
  else if x = 0x8030 ∨ x = 0x8034 then fld s.nvm.pid.toNat (8 * (x - 0x8030)) 32
  else if 0x8040 ≤ x ∧ x < 0x8060 then fld s.nvm.coreOut.toNat (8 * (x - 0x8040)) 32
  else if x = 0x8060 then s.fuseView
  else if x = 0x8064 then s.nvm.fuseData.toNat
  else if x = 0xC000 then s.sideStatus
  else if x = 0xC004 then s.regN o
  else 0

def State.readTst (s : State) (o : Nat) : Nat :=
  let x := o - 0x1F00000
  if x = 4 then s.tstStat
  else if x = 0x80 then s.perturb.forced.toNat
  else if 8 ≤ x ∧ x < 0x80 then s.regN o
  else 0

/-- CORE_ registers of core `c` at offset `x`. -/
def State.readCore (s : State) (c x : Nat) : Nat :=
  let y := s.core c
  let q := y.seq
  let flags := fun (h : Nat) => maskOf ((List.range 32).filter fun i => y.flag (h + i) = 0)
  let busy := fun (h : Nat) => maskOf ((List.range 32).filter fun i => !decide (y.slot (h + i) = .idle))
  match x with
  | 0x08 => at' 31 1 (b2n q.bound) + at' 16 4 q.group +
      at' 0 16 (q.members.toNat - if q.bound then 0 else q.members.toNat / 2 ^ (c % 16) % 2 * 2 ^ (c % 16))
  | 0x10 => flags 0
  | 0x14 => flags 32
  | 0x18 => at' 4 4 q.cause + at' 2 1 (b2n q.stopped) + at' 1 1 (b2n q.ended) + at' 0 1 (b2n q.bound)
  | 0x1C => q.base
  | 0x20 => q.len
  | 0x24 => q.next
  | 0x28 => busy 0
  | 0x2C => busy 32
  | 0x30 => y.arith.toNat
  | 0x34 => s.regN (coreRegBase c + 0x34)
  | _ => 0

/-- What a 32-bit read of `o` returns, counter pairs apart; a vacant offset reads zero (R11). -/
def State.readPlain (s : State) (o : Nat) : Nat :=
  if o < 0x100000 then s.readBlk o
  else if o < 0x200000 then s.readPart o
  else if o < 0x300000 then s.readEvq o
  else if o < 0x400000 then s.readFlt o
  else if o < 0x800000 then s.readPwr o
  else if o < 0x1800000 then s.readRegion ((o - 0x800000) / 0x100000) ((o - 0x800000) % 0x100000)
  else if o < 0x1C00000 then s.readPgk o
  else if o < 0x1E00000 then s.readPeer o
  else if o < 0x1F00000 then s.readBoot o
  else if o < 0x2000000 then s.readTst o
  else s.readCore ((o - 0x2000000) / 0x20000) (o % 0x20000)

/-- A snapshot bank is read by its own path alone: bank 0 by the host, bank 1 by the side-band. -/
def bankRefused (p : Path) (o : Nat) : Bool :=
  if 0x800000 ≤ o ∧ o < 0x1800000 then
    let x := (o - 0x800000) % 0x100000
    match p with
    | .side => decide (0x60400 ≤ x) && decide (x < 0x60680)
    | .host _ => decide (0x60800 ≤ x) && decide (x < 0x60A80)
  else false

/-- The counter whose SYN_CNT register stands at an offset. -/
def counterAt (o : Nat) : Option Nat :=
  if 0x800000 ≤ o ∧ o < 0x1800000 then
    let x := (o - 0x800000) % 0x100000
    if 0xC0000 ≤ x ∧ x < 0xC4000 ∧ x % 4 = 0 then some (4096 * ((o - 0x800000) / 0x100000) + (x - 0xC0000) / 4) else none
  else none

/-- A 32-bit read on a path: an RLH half loads the path's shadow, an RSH half returns it (R15). -/
def State.readReg (s : State) (p : Path) (o : Nat) : Nat × State :=
  match s.pairAt o with
  | some v => (v % 2 ^ 32, s.setShadows (tabSet shadowDefault s.shadows (shadowAt p o) (w32 (v / 2 ^ 32))))
  | none =>
    if o % 8 = 4 ∧ (s.pairAt (o - 4)).isSome then ((tabGet shadowDefault s.shadows (shadowAt p (o - 4))).toNat, s)
    else match counterAt o with
      | some k => let t := s.counterRead k; ((t.counter k).toNat, t)
      | none => (s.readPlain o, s)

/-! ## Who may reach a register (R447, R451, R453, R463) -/

/-- Tags that an access admits. -/
inductive Admit where
  | any
  /-- any tag whose partition is enabled -/
  | enabled
  | part (p : Nat)
  | none
  deriving DecidableEq, Repr

def admitOwner : Option Nat → Admit
  | some p => .part p
  | none => .none

def State.admitPart (s : State) (o : Nat) (write : Bool) : Admit :=
  let _ := s
  if o < 0x100800 then .part ((o - 0x100000) / 0x100)
  else if o < 0x101004 then .none
  else if o = 0x102004 && !write then .any
  else .enabled

def State.admitPwr (s : State) (o : Nat) (write : Bool) : Admit :=
  if 0x401000 ≤ o ∧ o < 0x401040 ∧ write then admitOwner (s.regionOwner ((o - 0x401000) / 4))
  else if 0x403100 ≤ o ∧ o < 0x403200 then
    admitOwner ((List.range 8).find? fun p => s.ownsSlot p ((o - 0x403100) / 8))
  else if 0x404000 ≤ o ∧ o < 0x404040 ∧ (!write ∨ o = 0x404030) then .any
  else .enabled

/-- Tags admitted to the register at `o`. -/
def State.admittedTags (s : State) (o : Nat) (write : Bool) : Admit :=
  if o < 0x100000 then .any
  else if o < 0x200000 then s.admitPart o write
  else if o < 0x300000 then
    if 0x201000 ≤ o ∧ o < 0x201800 then .part ((o - 0x201000) / 0x100) else if write then .enabled else .any
  else if o < 0x400000 then (if write then .enabled else .any)
  else if o < 0x800000 then s.admitPwr o write
  else if o < 0x1800000 then admitOwner (s.regionOwner ((o - 0x800000) / 0x100000))
  else if o < 0x1C00000 then
    if o < 0x1800400 then .part ((o - 0x1800000) / 0x80)
    else if 0x1801000 ≤ o ∧ o < 0x1801200 then admitOwner (s.regionOwner ((o - 0x1801000) / 0x20))
    else .enabled
  else if o < 0x1E00000 then (if o < 0x1C00400 then .part (s.portOwner ((o - 0x1C00000) / 0x100)) else .enabled)
  else if o < 0x1F00000 then (if write || decide (0x1E0C000 ≤ o) then .enabled else .any)
  else if o < 0x2000000 then (if write then .enabled else .any)
  else admitOwner (s.regionOwner ((o - 0x2000000) / 0x200000))

/-- Tag `t` is admitted; a partition whose EN is 0 only where any tag is (R451). -/
def State.admits (s : State) (t o : Nat) (write : Bool) : Bool :=
  match s.admittedTags o write with
  | .any => true
  | .enabled => s.partEn t
  | .part p => decide (p = t) && s.partEn t
  | .none => false

/-- The doorbells of R57: launch, stop and DMA. -/
def isDoorbell (o : Nat) : Bool :=
  (decide (0x100000 ≤ o) && decide (o < 0x100800) && (decide (o % 0x100 = 0x58) || decide (o % 0x100 = 0x5C))) ||
  (decide (0x800000 ≤ o) && decide (o < 0x1800000) && decide ((o - 0x800000) % 0x100000 = 0xA0400))

def isBlkFlt (o : Nat) : Bool := decide (o < 0x100000) || (decide (0x300000 ≤ o) && decide (o < 0x400000))

/-- The block state admits a host access (Table — Host access by block state). `reg`: the register's offset, none for
memory. -/
def State.stateAdmits (s : State) (reg : Option Nat) (write : Bool) : Bool :=
  let b := s.blockState
  match reg with
  | none => b = 4 || b = 8 || b = 7
  | some o =>
    let bell := write && isDoorbell o
    if b = 4 || b = 8 || b = 7 then true
    else if b = 1 || b = 3 then isBlkFlt o
    else if b = 2 then isBlkFlt o || !write
    else if b = 5 then !bell
    else if b = 6 then !write
    else false

/-- In GRAVE the side-band writes the always-on registers alone (R463). -/
def alwaysOnReg (o : Nat) : Bool :=
  decide (o < 0x100000) || (decide (0x200000 ≤ o) && decide (o < 0x800000)) || (decide (0x1E00000 ≤ o) && decide (o < 0x1F00000))

/-! ## Writes, group by group -/

/-- A write that its register's rule may refuse. -/
def State.tryWrite (s : State) (t : Option State) : State × Reply :=
  match t with
  | some x => (x, .ok)
  | none => (s, .err 5)

/-- A write that may have to be served in a later beat. -/
def State.laterBeat (s : State) (t : Option State) : State × Reply :=
  match t with
  | some x => (x, .ok)
  | none => (s, .retry)

def isSide : Path → Bool
  | .side => true
  | .host _ => false

def State.writePart (s : State) (q : Request) (o v : Nat) : State × Reply :=
  if o < 0x100800 then
    let p := (o - 0x100000) / 0x100
    match o % 0x100 with
    | 0x50 => (s.putReg o (v / 32 * 32), .ok)
    | 0x54 => (s.putReg o (v % 65536), .ok)
    | 0x58 => if bitOf v 0 then s.startLaunch q p else (s, .ok)
    | 0x5C => (s.partStop p (v % 65536), .ok)
    | _ => (s, .ok)
  else if o = 0x101000 then
    if s.commit.busy then (s, .err 5) else if bitOf v 31 then s.tryWrite (s.writeCommit (bitOf v 30)) else (s, .ok)
  else (s, .ok)

/-- EVQ_IDLE. -/
def State.writeIdle (s : State) (v : Nat) : State × Reply :=
  let a := if bitOf v 31 then s.enterIdle else (s, true)
  let t := if bitOf v 30 && decide (s.blockState = 8) then a.1.wakeCause 5 0 true else a.1
  (t, if a.2 then .ok else .err 5)

/-- A register of the global EVQ_ and OWL_ registers, at window offset `o`; the rest of the range is vacant (R11, R494). -/
def evqGlobal (o : Nat) : Bool := decide (0x200000 ≤ o) && decide (o < 0x200010) || decide (0x200100 ≤ o) && decide (o < 0x200180)

def State.writeEvq (s : State) (q : Request) (o v : Nat) : State × Reply :=
  if o < 0x201000 then
    if !isSide q.path then (s, if evqGlobal o then .err 5 else .ok)
    else if o = 0x200000 then (s.putReg o (v % 2), .ok)
    else if o = 0x200004 then s.writeIdle v
    else if 0x200100 ≤ o ∧ o < 0x200180 then
      (if s.blockState = 8 then (s, .err 5) else (s.putReg o (v &&& 0x800001FF), .ok))
    else (s, .ok)
  else if o < 0x201800 then
    let p := (o - 0x201000) / 0x100
    let x := o % 0x100
    if x = 0 ∨ x = 4 then s.tryWrite (s.writeRing p x v)
    else if x = 8 then s.tryWrite (s.writeEvqCfg p v)
    else if x = 0x10 then s.tryWrite (s.writeTail p v)
    else if x = 0x14 then
      (if bitOf (s.clears o v) 26 then s.modEvq p fun y => { y with msgErr := false } else s, .ok)
    else if x = 0x18 then (s.putReg o (v / 4 * 4), .ok)
    else if x = 0x1C then (s.putReg o (v % 65536), .ok)
    else if x = 0x20 then (s.putReg o v, .ok)
    else if 0x40 ≤ x ∧ x < 0x80 then (s.withdraw p ((x - 0x40) / 4) v, .ok)
    else (s, .ok)
  else (s, .ok)

/-- The path may clear sticky bits and HELD (R421). -/
def State.mayClear (s : State) (p : Path) : Bool :=
  match p with
  | .side => true
  | .host t => bitOf s.faults.one.clrTags.toNat t

def State.writeFlt (s : State) (q : Request) (o v : Nat) : State × Reply :=
  let x := o - 0x300000
  if x < 0x40 then (if s.mayClear q.path then s.laterBeat (s.writeSticky (x / 4) v) else (s, .err 5))
  else if x = 0x88 then
    if !s.mayClear q.path then (s, .err 5)
    else
      let t := s.clearHeld v
      (if isSide q.path then t.writePinCfg v else t, .ok)
  else if x = 0x8C then (if isSide q.path then s.tryWrite (s.writeInj v) else (s, .err 5))
  else (s, .ok)

def State.writePwr (s : State) (q : Request) (o v : Nat) : State × Reply :=
  let x := o - 0x400000
  if x = 0xF00 then
    if isSide q.path then (if bitOf v 0 then s.putReg o 1 else s, .ok) else (s, .err 5)
  else if x = 0xF04 then (if isSide q.path then (s.putReg o v, .ok) else (s, .err 5))
  else if 0x1000 ≤ x ∧ x < 0x1040 then s.tryWrite (s.writeCoreReq ((x - 0x1000) / 4) v)
  else if x = 0x3200 then
    let k := fld v 0 5
    match q.path with
    | .side => (s.clearSlot k, .ok)
    | .host t => if s.ownsSlot t k then (s.clearSlot k, .ok) else (s, .err 5)
  else if 0x4010 ≤ x ∧ x < 0x4020 then
    (if bitOf (s.clears o v) 31 then s.clearSuspect (1056 + (x - 0x4010) / 4) else s, .ok)
  else if x = 0x4030 then s.tryWrite (s.writeCool v)
  else (s, .ok)

/-- The doorbell of channel `k` from the host or the side-band (R257, R258). -/
def State.ring (s : State) (q : Request) (r k : Nat) : State × Reply :=
  let who : Ringer := match q.path with
    | .host t => .host t
    | .side => .side
  if s.bellRefused r k then (s.bellRefusal r k none q.tag, .err 5)
  else (s.takeBell r k who, .ok)

def State.writeDma (s : State) (q : Request) (r x v : Nat) : State × Reply :=
  if x < 0x400 then
    let k := x / 0x20
    match x % 0x20 with
    | 0x00 =>
      if !bitOf v 31 then s.tryWrite (s.writeAlloc r k (fld v 0 7))
      else if s.keeperHolds r k then (s.bellRefusal r k none q.tag, .err 5)
      else (s.abortChan ⟨r % 16, Nat.mod_lt _ (by decide)⟩ ⟨k % 32, Nat.mod_lt _ (by decide)⟩, .ok)
    | 0x08 | 0x0C =>
      if (s.chan r k).state = .off || (s.chan r k).state = .idle then
        (s.putReg (dmaBase r + x) (if x % 0x20 = 8 then v / 32 * 32 else v % 65536), .ok)
      else (s, .err 5)
    | _ => (s, .ok)
  else if x = 0x400 then s.ring q r (fld v 0 5)
  else (s, .ok)

def State.writeSyn (s : State) (q : Request) (r x v : Nat) : State × Reply :=
  let o := synBase r + x
  if x < 0x4000 then s.laterBeat (s.writeCounter (4096 * r + x / 4) (w32 v))
  else if x < 0x8000 then (s.writeAdd (4096 * r + (x - 0x4000) / 4) (w32 v) q.path q.tid, .later)
  else if x = 0x8000 then
    if (coresOf r).any fun c => (s.core c).seq.bound then (s, .err 5) else (s.putReg o (v &&& 0x80FFFFFF), .ok)
  else if x = 0x8004 then s.laterBeat (s.writeHwatch ⟨r % 16, Nat.mod_lt _ (by decide)⟩ v)
  else if x = 0x8008 then (s.putReg o v, .ok)
  else (s, .ok)

/-- Registers of a region that no section of the image loads. -/
def State.writeRegion (s : State) (q : Request) (r x v : Nat) : State × Reply :=
  let o := regionBase r + x
  if x = 0x600C0 then s.tryWrite (s.writeSpot r v)
  else if x = 0x600C8 ∨ x = 0x600CC then (s.putReg o (s.regN o - (s.regN o &&& s.clears o v)), .ok)
  else if x = 0x600D0 then (s.writeSnap r (if isSide q.path then 1 else 0) v, .ok)
  else if 0x80000 ≤ x ∧ x < 0x80108 then
    let n := if x < 0x80100 then 64 * r + (x - 0x80000) / 4 else 1024 + 2 * r + (x - 0x80100) / 4
    (if bitOf (s.clears o v) 31 then s.clearSuspect n else s, .ok)
  else if 0xA0000 ≤ x ∧ x < 0xA1000 then s.writeDma q r (x - 0xA0000) v
  else if 0xC0000 ≤ x ∧ x < 0xC9000 then s.writeSyn q r (x - 0xC0000) v
  else (s, .ok)

def State.writePgk (s : State) (q : Request) (o v : Nat) : State × Reply :=
  if o < 0x1800400 then
    let n := (o - 0x1800000) / 0x80
    let p : PartId := ⟨n % 8, Nat.mod_lt _ (by decide)⟩
    let fixed := s.pgkEn n || (s.keeper n).scanning
    let put := fun (m : Nat) => if fixed then (s, Reply.err 5) else (s.putReg o (v &&& m), .ok)
    match o % 0x80 with
    | 0x00 => s.tryWrite (s.writePgkCtrl n v)
    | 0x08 | 0x10 | 0x18 => put 0xFFFFFFFF
    | 0x0C | 0x14 => put 0xFFFF
    | 0x1C => put 0x1FF
    | 0x28 => (s.putReg o v, .ok)
    | 0x2C => s.tryWrite (s.writePgkCall p v q.path)
    | _ => (s, .ok)
  else if 0x1801000 ≤ o ∧ o < 0x1801200 then
    let r := (o - 0x1801000) / 0x20
    match o % 0x20 with
    | 0x00 => if s.scoutEn r then (s, .err 5) else (s.putReg o v, .ok)
    | 0x04 => if s.scoutEn r then (s, .err 5) else (s.putReg o (v % 65536), .ok)
    | 0x08 => (s.writeScout r v, .ok)
    | _ => (s, .ok)
  else (s, .ok)

/-- A register of the BOOT_ and FUSE_ groups, whose rule refuses host writes (R485), or SBD_PEN; the read-only SBD_STATUS and the vacant
offsets ignore them (R11, R12). -/
def bootGuarded (o : Nat) : Bool :=
  let x := o - 0x1E00000
  decide (x < 0x0C) || decide (0x10 ≤ x) && decide (x < 0x1C) || decide (0x8000 ≤ x) && decide (x < 0x8038) ||
    decide (0x8040 ≤ x) && decide (x < 0x8068) || decide (0xC004 ≤ x) && decide (x < 0xC008)

def State.writeBoot (s : State) (q : Request) (o v : Nat) : State × Reply :=
  if !isSide q.path then (s, if bootGuarded o then .err 5 else .ok)
  else
    match o - 0x1E00000 with
    | 0x08 => s.tryWrite (s.writeBootCtrl v)
    | 0x10 => s.tryWrite (s.writeUpdCtrl v)
    | 0x14 => s.tryWrite (s.updateWord v)
    | 0x8060 => s.tryWrite (s.writeFuse v)
    | 0x8064 => (s.modNvm fun n => { n with fuseData := w32 v }, .ok)
    | _ => (s, .ok)

def State.writeTstReg (s : State) (q : Request) (o v : Nat) : State × Reply :=
  let x := o - 0x1F00000
  if !isSide q.path then (s, if x < 0x84 then .err 5 else .ok)
  else if x = 0 then s.writeUnlock v
  else if 8 ≤ x ∧ x < 0x80 then s.tryWrite (s.writeTst x v)
  else (s, .ok)

def State.writeCoreReg (s : State) (o v : Nat) : State × Reply :=
  if o % 0x20000 = 0x30 then
    (s.modCore ((o - 0x2000000) / 0x20000) fun x => { x with arith := x.arith &&& ~~~(BitVec.ofNat 5 (s.clears o v)) }, .ok)
  else (s, .ok)

/-- A register with image-loaded fields accepts a host write of them from nobody after CONFIG (R475), the host port being open
only then; LPE_LEARN_SEL, and HELD of ERR_PIN_CTRL, are the exceptions. Read-only and reserved registers among them ignore it. -/
def hostBarred (o : Nat) : Bool :=
  imageLoads o && !(decide (o = 0x300088)) && !(decide (0x401140 ≤ o) && decide (o < 0x401180)) &&
    !(decide (0x301000 ≤ o) && decide (o < 0x301800) && reservedSource ((o - 0x301000) / 4)) &&
    !(decide (0x800000 ≤ o) && decide (o < 0x1800000) && decide ((o - 0x800000) % 0x100000 = 0x40180))

/-- A 32-bit write that block state and ownership admit (R12, R475, and each register's own rule). -/
def State.writeReg (s : State) (q : Request) (o v : Nat) : State × Reply :=
  if !isSide q.path && hostBarred o then (s, .err 5)
  else if imageLoads o && !decide (o = 0x300088) then s.tryWrite (s.writeConfig o v false)
  else if o < 0x100000 then (s, .ok)
  else if o < 0x200000 then s.writePart q o v
  else if o < 0x300000 then s.writeEvq q o v
  else if o < 0x400000 then s.writeFlt q o v
  else if o < 0x800000 then s.writePwr q o v
  else if o < 0x1800000 then s.writeRegion q ((o - 0x800000) / 0x100000) ((o - 0x800000) % 0x100000) v
  else if o < 0x1C00000 then s.writePgk q o v
  else if o < 0x1E00000 then
    (if o < 0x1C00400 then s.tryWrite (s.writePeer q.path ((o - 0x1C00000) / 0x100) (o % 0x100) v false) else (s, .ok))
  else if o < 0x1F00000 then s.writeBoot q o v
  else if o < 0x2000000 then s.writeTstReg q o v
  else s.writeCoreReg o v

/-! ## The side-band's accesses (R15, R462, R463) -/

/-- The side-band runs (R41, R468 step 2). -/
def State.sideOpen (s : State) : Bool := s.locked

/-- A side-band write; its answer, if the message has one, follows. -/
def State.sideWrite (s : State) (tid : Option Nat) (o v : Nat) : State :=
  let q : Request := ⟨.side, tid⟩
  if o % 4 ≠ 0 then s.answer q (.err 2)
  else if windowSize ≤ o then s.answer q (.err 3)
  else if s.blockState = 6 && !alwaysOnReg o then s.answer q (.err 1)
  else
    let r := s.writeReg q o (v % 2 ^ 32)
    match r.2 with
    | .later => r.1
    | .retry => s.hold { req := q, read := false, addr := windowBase + o, len := 4, data := leBytes 4 v, why := .wait }
    | x => r.1.answer q x

end Sys2Proof.Machine
end

