-- ==== Sys2Proof/Machine/Host.lean ====
section
/-! DEFINITION. The host port: inbound transactions in the order of Table — Host error causes, those that wait, and the
bridge's answers to outbound transactions (R57, R452 to R455).

Marks: DEDUCED (log entry 39), DEDUCED (log entry 52). -/

namespace Sys2Proof.Machine

def hostErr : Nat := 0x102004

/-- A refusal is counted in HST_ERR; one for ownership is an event of source 305, of the tag's partition. -/
def State.countRefusal (s : State) (tag cause : Nat) : State :=
  if cause = 2 then s.addField hostErr 8 8 1
  else if cause = 3 then s.addField hostErr 16 8 1
  else if cause = 4 then
    (s.addField hostErr 24 8 1).raise { src := 305, locs := [], job := none, tag := some tag }
  else s

def reqTag (q : Request) : Nat := q.tag.getD 0

/-- ERR with a cause. -/
def State.hostRefuse (s : State) (q : Request) (cause : Nat) : State :=
  (s.countRefusal (reqTag q) cause).answer q (.err cause)

/-- How the taking of a transaction ends: with this state, or it waits. -/
inductive Taken where
  | done (s : State)
  | wait

/-! ## Registers -/

/-- Shape of a register access (R9, R495): 4 bytes aligned, or 8 bytes at a counter pair. -/
def State.regShape (s : State) (o len : Nat) : Bool :=
  (decide (len = 4) && decide (o % 4 = 0)) || (decide (len = 8) && decide (o % 8 = 0) && (s.pairAt o).isSome)

def State.takeRegister (s : State) (h : HeldTx) : State :=
  let o := h.addr - windowBase
  if !s.regShape o h.len then s.hostRefuse h.req 2
  else if !s.admits (reqTag h.req) o (!h.read) then s.hostRefuse h.req 4
  else if h.read then
    if bankRefused h.req.path o then s.hostRefuse h.req 5
    else if h.len = 8 then s.answerRead h.req (leBytes 8 ((s.pairAt o).getD 0))
    else
      let r := s.readReg h.req.path o
      r.2.answerRead h.req (leBytes 4 r.1)
  else if h.len = 8 then s.answer h.req .ok
  else
    let r := s.writeReg h.req o (bytesLe h.data)
    match r.2 with
    | .later => r.1
    | .retry => s.hold { h with why := .wait }
    | .err c => r.1.hostRefuse h.req c
    | .ok => r.1.answer h.req .ok

/-! ## Memory -/

/-- The access touches an array that belongs to the page keeper (R193). -/
def State.keeperOwned (s : State) (a n : Nat) : Bool :=
  (List.range 8).any fun p => s.hitsEntries p a n || s.hitsSummaries p a n

/-- A read or write of core stores and columns. -/
def State.takeMemory (s : State) (h : HeldTx) (l : List Piece) : Taken :=
  let tag := reqTag h.req
  if s.keeperOwned h.addr h.len then .done (s.hostRefuse h.req 5)
  else if !h.read && l.any (fun q => match q.1 with | .mem a => s.hitsSchedule a q.2 | _ => false) then
    .done (s.hostRefuse h.req 5)
  else if (if h.read then s.readWaits l else s.waitsFor l) then .wait
  else if h.read then
    let r := s.readPieces none (some tag) l
    .done (if r.2.1 then r.2.2.hostRefuse h.req 6 else r.2.2.answerRead h.req r.1)
  else
    let w := s.writePieces none (some tag) l h.data
    .done (if w.2 then w.1.hostRefuse h.req 6 else w.1.answer h.req .ok)

/-- A write to a tier command port is complete when its sequences are (R177, R180); a read returns zero. -/
def State.takePort (s : State) (h : HeldTx) (c : Nat) : State :=
  if h.read then s.answerRead h.req (List.replicate h.len 0)
  else
    let r := s.nbArrive (reqTag h.req) c (h.addr % 4096) none h.data
    if (r.1.column c).portDone r.2 then
      (if (r.1.column c).portFailed r.2 then r.1.hostRefuse h.req 5 else r.1.answer h.req .ok)
    else r.1.hold { h with why := .port c r.2 }

/-- An access to a peer window; the port carries whole 16-byte units alone (R273). -/
def State.takePeer (s : State) (h : HeldTx) (n : Nat) : State :=
  if !s.linkUp n || decide (h.addr % 16 ≠ 0) || decide (h.len % 16 ≠ 0) then s.hostRefuse h.req 5
  else
    let tag : PartId := ⟨reqTag h.req % 8, Nat.mod_lt _ (by decide)⟩
    let who : Issuer := .host tag (h.req.tid.getD 0)
    if h.read then s.peerRead n h.addr h.len who else s.peerWrite n h.addr h.data who

/-- A memory access, by where its address leads: the block takes no transaction across a 4 KiB boundary, so one place. -/
def State.takeAddress (s : State) (h : HeldTx) : Taken :=
  if 0x80000000000 ≤ h.addr ∧ h.addr < 0x100000000000 then .done (s.hostRefuse h.req 3)
  else
    let l := s.locateAll (reqTag h.req) h.addr h.len
    match (l.head?.map (·.1)).getD .outside with
    | .outside => .done ((s.raise { src := 279, locs := [], job := none, tag := some (reqTag h.req) }).hostRefuse h.req 3)
    | .host | .regs => .done (s.hostRefuse h.req 3)
    | .notOwned => .done (s.hostRefuse h.req 4)
    | .unavailable => .done (s.hostRefuse h.req 5)
    | .peer n => .done (s.takePeer h n)
    | .port c => .done (s.takePort h c)
    | .mem _ => s.takeMemory h l

/-! ## Order and waiting (R454, R443) -/

def regOf (a : Nat) : Option Nat := if windowBase ≤ a ∧ a < windowBase + windowSize then some (a - windowBase) else none

/-- A write of the tag is not yet complete. -/
def State.writeOpen (s : State) (tag : PartId) : Bool :=
  s.host.held.any (fun h => !h.read && decide (h.req.path = .host tag)) ||
  (List.range 4).any (fun n => (s.peer n).accesses.any fun a =>
    !a.read && (match a.issuer with | .host t _ => decide (t = tag) | _ => false)) ||
  s.sync.packets.any fun k => match k with
    | .add _ _ _ (.host (.host t) _) => decide (t = tag)
    | _ => false

/-- An earlier transaction of the tag that waits meets these bytes. -/
def State.behind (s : State) (h : HeldTx) : Bool :=
  s.host.held.any fun g => g.why = .wait && decide (g.req.path = h.req.path) && decide (g.addr < h.addr + h.len) &&
    decide (h.addr < g.addr + g.len)

def State.mustWait (s : State) (h : HeldTx) : Bool :=
  s.behind h || (match h.req.path with
    | .host tag => !h.read && (regOf h.addr).isSome && s.writeOpen tag
    | .side => false)

/-- A read that a host makes in IDLE without waking the block (Table — Wake causes). -/
def quietRead (h : HeldTx) : Bool :=
  h.read && match regOf h.addr with
    | some o => decide (o < 0x100000) || (decide (0x200000 ≤ o) && decide (o < 0x800000))
    | none => false

/-- The block state does not admit the transaction, or a commit in progress changes its partition (R57, R465). -/
def State.hostShut (s : State) (h : HeldTx) : Bool :=
  (s.commit.busy && s.commit.parts.any (· = reqTag h.req)) || !s.stateAdmits (regOf h.addr) (!h.read)

/-- A well-formed transaction is refused by the block state, takes effect, or waits. -/
def State.hostArrive (s : State) (h : HeldTx) : State :=
  if s.hostShut h then s.hostRefuse h.req 1
  else if s.boot.base = .idle && s.blockState = 8 && !quietRead h then
    s.hold { h with why := .wait }
  else if s.mustWait h then s.hold { h with why := .wait }
  else match regOf h.addr with
    | some _ => s.takeRegister h
    | none => match s.takeAddress h with
      | .done t => t
      | .wait => s.hold { h with why := .wait }

/-- A transaction of the host arrives: in IDLE, and while the block enters it, it is a wake cause unless it is a quiet read (R444, R446). -/
def State.hostTake (s : State) (h : HeldTx) : State :=
  if quietRead h then s.hostArrive h else s.wokenBy (s.hostArrive h) 3

/-- Transactions that wait are tried again in order; port writes whose sequences have completed are answered; outbound transactions
that wait for a place are sent. -/
def State.serveHost (s : State) : State :=
  let ready := fun (h : HeldTx) => match h.why with
    | .port c n => (s.column c).portDone n
    | _ => false
  let done := s.host.held.filter ready
  let t := s.modHost fun x => { x with held := x.held.filter fun h => !ready h }
  let t := State.each done (fun h u => match h.why with
    | .port c n => if (u.column c).portFailed n then u.hostRefuse h.req 5 else u.answer h.req .ok
    | _ => u) t
  let t := t.pumpHost
  let due := fun (h : HeldTx) => h.why = .wait && (isSide h.req.path || decide (t.blockState ≠ 8))
  let ws := t.host.held.filter due
  State.each ws (fun h u =>
    if isSide h.req.path then u.sideWrite h.req.tid (h.addr - windowBase) (bytesLe h.data) else u.hostArrive h)
    (t.modHost fun x => { x with held := x.held.filter fun h => !due h })

/-! ## Inbound commands -/

/-- Inbound transactions that await a response: those that wait, those that a peer port carries, and additions on their way. -/
def State.openInbound (s : State) : Nat :=
  let sent := fun (a : PeerAccess) => a.reply.isNone && match a.issuer with | .host _ _ => true | _ => false
  let added := fun (k : Packet) => match k with | .add _ _ _ (.host (.host _) (some _)) => true | _ => false
  s.host.held.length + (List.range 4).foldl (fun n k => n + ((s.peer k).accesses.filter sent).length) 0 +
    (s.sync.packets.filter added).length

/-- The bridge can send: HP_IN_READY is high (R57, R454, R514). -/
def State.hostReady (s : State) : Bool := s.hostOpen && decide (s.openInbound < 1024)

/-- The header breaks R452. -/
def headerMalformed (h : HostHeader) (opc : BitVec 8) : Bool :=
  h.opc ≠ opc || decide (8 ≤ h.tag.toNat) || decide (1024 ≤ h.tid.toNat) || h.len = 0 ||
    decide (4096 < h.addr.toNat % 4096 + h.len.toNat)

/-- A transaction with its header: cause 1 comes before the shape. -/
def State.hostInbound (s : State) (hdr : HostHeader) (opc : BitVec 8) (data : List Byte) : State :=
  let tag : PartId := ⟨hdr.tag.toNat % 8, Nat.mod_lt _ (by decide)⟩
  let q : Request := ⟨.host tag, some (hdr.tid.toNat % 1024)⟩
  let read := decide (opc = 1)
  let h : HeldTx := { req := q, read := read, addr := hdr.addr.toNat, len := hdr.len.toNat, data := data, why := .wait }
  if !s.hostReady then s
  else if (headerMalformed hdr opc || (!read && decide (data.length ≠ h.len))) && !s.hostShut h then
    s.wokenBy (s.hostRefuse q 2) 3
  else s.hostTake h

/-- HOST_RD (R452). -/
def execHostRd (hdr : HostHeader) (s : State) : Host.Outcome State Fault Refusal := .next (s.hostInbound hdr 1 [])

/-- HOST_WR (R452). -/
def execHostWr (hdr : HostHeader) (data : List Byte) (s : State) : Host.Outcome State Fault Refusal :=
  .next (s.hostInbound hdr 2 data)

/-- A register write of one of the nine paths without a message of its own: the command names the register access alone. -/
def State.pathWrite (s : State) (p : Path) (o v : Nat) : State :=
  match p with
  | .side => if s.sideOpen then s.sideWrite none o v else s
  | .host _ =>
    if !s.hostReady then s
    else s.hostTake { req := ⟨p, none⟩, read := false, addr := windowBase + o, len := 4, data := leBytes 4 (v % 2 ^ 32), why := .wait }

/-! ## Outbound answers (R455) -/

/-- The outbound transaction of a TID that awaits its answer. -/
def State.outWaiting (s : State) (tid : Nat) : Option Outbound :=
  s.host.outbound.find? fun o => o.tid = tid && o.isOpen

/-- An outbound answer, and what follows where no engine waits for it: an interrupt message that failed sets MSG_ERR (R440), and
the write of a record that has been taken back is done with. A transaction that waited for a place is sent. -/
def State.outAnswer (s : State) (o : Outbound) (r : Option (List Byte)) : State :=
  let t := s.modHost fun x =>
    { x with outbound := x.outbound.map fun y => if y.id = o.id && y.reply.isNone then { y with reply := some r } else y }
  (match o.issuer with
  | .message p => (if r.isNone then t.messageError p else t).dropOutbound o.id
  | .event p _ => if (t.evq p).recs.any (fun e => e.tid = some o.id) then t else t.dropOutbound o.id
  | who => t.forgetAccess who).pumpHost

/-- HST_ERR.OUT. -/
def State.countOut (s : State) : State := s.addField hostErr 0 8 1

/-- CPL (R452): the data of an outbound read; an answer to no transaction that awaits one is late. -/
def execCpl (tid : BitVec 10) (data : List Byte) (s : State) : Host.Outcome State Fault Refusal :=
  .next (if !s.hostOpen then s
    else match s.outWaiting tid.toNat with
      | some o =>
        if o.read && decide (data.length = o.len) then s.outAnswer o (some data) else s.addField hostErr 8 8 1
      | none => s.countOut)

/-- WRSP (R452). -/
def execWrsp (tid : BitVec 10) (s : State) : Host.Outcome State Fault Refusal :=
  .next (if !s.hostOpen then s
    else match s.outWaiting tid.toNat with
      | some o => if o.read then s.addField hostErr 8 8 1 else s.outAnswer o (some [])
      | none => s.countOut)

/-- ERR from the bridge (R455). -/
def execErr (tid : BitVec 10) (cause : BitVec 8) (s : State) : Host.Outcome State Fault Refusal :=
  let _ := cause
  .next (if !s.hostOpen then s
    else match s.outWaiting tid.toNat with
      | some o => (s.outAnswer o none).countOut
      | none => s.countOut)

/-- HOST_TIMEOUT (R455). -/
def execHostTimeout (tid : BitVec 10) (s : State) : Host.Outcome State Fault Refusal :=
  .next (match s.outWaiting tid.toNat with
    | some o =>
      if o.sentAt.getD 0 + 2000 * fld (s.regN 0x102000) 0 16 ≤ s.now then (s.outAnswer o none).countOut else s
    | none => s)

end Sys2Proof.Machine
end

