-- ==== Sys2Proof/Machine/Alert.lean ====
section
/-! DEFINITION. A tier command alerted three times: the access it serves ends in error (chapter 06, R176).

Marks: DESIGN CHOICE (log entry 63). -/

namespace Sys2Proof.Machine

/-- An access that the controller of a column serves. -/
inductive ColumnAccess where
  | sequence
  | op (core id : Nat)
  | dmaRead (r : RegionId) (k : ChanId)
  | dmaWrite (r : RegionId) (k : ChanId) (id : Nat)
  /-- the first transaction of the host that waits for this column -/
  | host
  /-- the oldest message that waits at a peer port -/
  | peer (n : PortId)
  deriving DecidableEq, Repr

/-- A byte of the pieces lies in the column of core `c`. -/
def touchesColumn (c : Nat) (l : List Piece) : Bool :=
  l.any fun q => match q.1 with | .mem a => decide (a < storeBase) && decide (colCore a = c) | _ => false

/-- A transaction of the host waits for the column of core `c`. -/
def State.heldAt (s : State) (c : Nat) (h : HeldTx) : Bool :=
  h.why = .wait && touchesColumn c (s.locateAll (reqTag h.req) h.addr h.len)

/-- The oldest message that waits at port `n` reaches the column of core `c`. -/
def State.peerAt (s : State) (c n : Nat) : Bool :=
  match (s.peer n).buffered with
  | .peerWr _ _ len addr _ :: _ => touchesColumn c (s.locateAll (s.portOwner n) addr.toNat len.toNat)
  | .peerRd _ _ len addr :: _ => touchesColumn c (s.locateAll (s.portOwner n) addr.toNat len.toNat)
  | _ => false

/-- Accesses of a DMA channel outstanding at the column of core `c`. -/
def State.channelAt (s : State) (c : Nat) (r : RegionId) (k : ChanId) : List ColumnAccess :=
  let x := s.chan r k
  match s.regionOwner r with
  | none => []
  | some p =>
    (match x.running with
      | some q => match q.segs with
        | g :: _ => if x.readReady && touchesColumn c (s.locateAll p g.src (min 4096 g.len)) then [.dmaRead r k] else []
        | [] => []
      | none => []) ++
    (x.writes.filter fun w => touchesColumn c (s.writeAt r w.2)).map fun w => .dmaWrite r k w.1

/-- Every access outstanding at the column of core `c`. -/
def State.accessesAt (s : State) (c : Nat) : List ColumnAccess :=
  (if (s.column c).active.isSome then [.sequence] else []) ++
  (s.cores.flatMap fun e => (e.2.ops.filter fun o => !o.refused && touchesColumn c (s.opPieces o)).map fun o => .op e.1 o.id) ++
  ((List.finRange 16).flatMap fun r => (List.finRange 32).flatMap fun k => s.channelAt c r k) ++
  (if s.host.held.any (s.heldAt c) then [.host] else []) ++
  ((List.finRange 4).filter fun (n : PortId) => s.peerAt c n.val).map ColumnAccess.peer

/-- An uncorrectable tier error at the column of core `c`, of a job or a tag. -/
def State.tierError (s : State) (c : Nat) (job : Option (PartId × Fin 16)) (tag : Option Nat) : State :=
  s.raise { src := 285, locs := [c], job := job, tag := tag }

/-- An access ends in error as an uncorrectable tier error (R157). -/
def State.endInError (s : State) (c : Nat) (a : ColumnAccess) : State :=
  match a with
  | .sequence =>
    let job := ((s.column c).active.map (·.job)).getD none
    ((s.abandonSequence c false).drive c (((s.column c).active.map NbRecord.tier).getD 0) .nba).tierError c job none
  | .op core id =>
    match (s.core core).op id with
    | some o => ((s.completeOp core id).dropAccesses (opIssuer core id)).tierError c (s.opJob core o) none
    | none => s
  | .dmaRead r k =>
    let x := s.chan r k
    ((s.dropAccesses (.dma r k ((x.running.bind (·.reading)).getD 0))).dmaFail r k 3).tierError c (s.ringerJob x.attr)
      (s.ringerTag x.attr)
  | .dmaWrite r k id =>
    let a := (s.chan r k).attrOf id
    let t := (s.dropAccesses (.dma r k id)).modChan r k fun y => { y with writes := y.writes.filter fun v => !(v.1 = id), delayed := y.delayed.filter fun e => !(e.1 = id) }
    (t.failDescriptor r k id 4).tierError c (s.ringerJob a) (s.ringerTag a)
  | .host =>
    match s.host.held.find? (s.heldAt c) with
    | some h =>
      ((s.modHost fun x => { x with held := x.held.erase h }).hostRefuse h.req 6).tierError c none h.req.tag
    | none => s
  | .peer n =>
    match (s.peer n).buffered with
    | .peerWr _ tid len _ _ :: rest =>
      ((((s.modPeer n fun x => { x with buffered := rest }).owe n 1 (flitsOf len.toNat)).peerNack n tid.toNat 4).tierError c
        none none)
    | .peerRd _ tid _ _ :: rest =>
      ((((s.modPeer n fun x => { x with buffered := rest }).owe n 1 0).peerNack n tid.toNat 4).tierError c none none)
    | _ => s

/-- The access of a command alerted three times ends in error. Which of the accesses at the column the command served is a free
choice; a command of none, a refresh for one, leaves the source alone. -/
def State.failAccess (s : State) (c : Nat) : State :=
  match s.accessesAt c with
  | [] => s.tierError c none none
  | a :: l => (s.drawn).endInError c ((a :: l).getD (Config.freeNat s.draws % (l.length + 1)) a)

/-- VC_ALERT (R176): the command is retried up to twice, a third alert ends its access; at any other time it is a thermal event. -/
def execVcAlert (col : CoreId) (onCommand : Bool) (s : State) : Host.Outcome State Fault Refusal :=
  .next (if !onCommand then s.raiseCore 290 col none
    else
      let x := s.column col
      if x.retries < 2 then
        (s.modColumn col fun y => { y with retries := x.retries + 1, alert := false }).raiseCore 289 col none
      else (s.modColumn col fun y => { y with retries := 0, alert := false }).failAccess col)

end Sys2Proof.Machine
end

