-- ==== Sys2Proof/Machine/RegisterRows.lean ====
section
/-! DEFINITION. The commands that are one write of one register on the host port or the side-band. Each follows the path's
own checks and the register's rule (Regs.lean), as the same write made with HOST_WR or WRITE32 does.

Marks: DESIGN CHOICE (log entry 53). -/

namespace Sys2Proof.Machine

/-- SYN_CNT_WRITE: a direct write of a counter (R233). -/
def execSynCntWrite (path : Path) (counter : Fin 65536) (value : BitVec 32) (s : State) :
    Host.Outcome State Fault Refusal :=
  .next (s.pathWrite path (synBase (counter.val / 4096) + 4 * (counter.val % 4096)) value.toNat)

/-- SYN_ADD_WRITE: a signal from outside the cores (R228). -/
def execSynAddWrite (path : Path) (counter : Fin 65536) (amount : BitVec 32) (s : State) :
    Host.Outcome State Fault Refusal :=
  .next (s.pathWrite path (synBase (counter.val / 4096) + 0x4000 + 4 * (counter.val % 4096)) amount.toNat)

/-- HOST_WATCH_ARM: SYN_HWATCH with its arm bit (R243). -/
def execHostWatchArm (path : Path) (region : RegionId) (counter : BitVec 12) (s : State) :
    Host.Outcome State Fault Refusal :=
  .next (s.pathWrite path (synBase region.val + 0x8004) (2 ^ 31 + counter.toNat))

/-- HOST_WATCH_CANCEL: SYN_HWATCH without its arm bit (R243). -/
def execHostWatchCancel (path : Path) (region : RegionId) (counter : BitVec 12) (s : State) :
    Host.Outcome State Fault Refusal :=
  .next (s.pathWrite path (synBase region.val + 0x8004) counter.toNat)

/-- DMA_DBELL: the doorbell register of a region (R258). -/
def execDmaDbell (path : Path) (region : RegionId) (chan : ChanId) (s : State) :
    Host.Outcome State Fault Refusal :=
  .next (s.pathWrite path (dmaBase region.val + 0x400) chan.val)

/-- DMA_ABORT: ABORT of DMA_CH_CTRL (R268). -/
def execDmaAbort (path : Path) (region : RegionId) (chan : ChanId) (s : State) :
    Host.Outcome State Fault Refusal :=
  .next (s.pathWrite path (dmaReg region.val chan.val 0) (2 ^ 31))

/-- DMA_ALLOC_WRITE: ALLOC of DMA_CH_CTRL (R249). -/
def execDmaAllocWrite (path : Path) (region : RegionId) (chan : ChanId) (alloc : BitVec 7) (s : State) :
    Host.Outcome State Fault Refusal :=
  .next (s.pathWrite path (dmaReg region.val chan.val 0) alloc.toNat)

/-- PGK_CALL_PIN: PGK_CALL with PIN (R208). -/
def execPgkCallPin (path : Path) (part : PartId) (n : BitVec 16) (s : State) :
    Host.Outcome State Fault Refusal :=
  .next (s.pathWrite path (pgkReg part.val 0x2C) (n.toNat * 65536))

/-- PGK_CALL_UNPIN: PGK_CALL with UNPIN (R208). -/
def execPgkCallUnpin (path : Path) (part : PartId) (n : BitVec 16) (s : State) :
    Host.Outcome State Fault Refusal :=
  .next (s.pathWrite path (pgkReg part.val 0x2C) (n.toNat * 65536 + 1))

/-- PGK_CALL_SHARE: PGK_CALL with SHARE (R208). -/
def execPgkCallShare (path : Path) (part : PartId) (n : BitVec 16) (s : State) :
    Host.Outcome State Fault Refusal :=
  .next (s.pathWrite path (pgkReg part.val 0x2C) (n.toNat * 65536 + 2))

/-- PGK_CALL_WRITE_INTENT: PGK_CALL with WRITE_INTENT (R208). -/
def execPgkCallWriteIntent (path : Path) (part : PartId) (s : State) :
    Host.Outcome State Fault Refusal :=
  .next (s.pathWrite path (pgkReg part.val 0x2C) 3)

/-- PGK_CALL_FREE: PGK_CALL with FREE (R208). -/
def execPgkCallFree (path : Path) (part : PartId) (s : State) :
    Host.Outcome State Fault Refusal :=
  .next (s.pathWrite path (pgkReg part.val 0x2C) 4)

/-- QUERY: PGK_CALL with QUERY (R208). -/
def execQuery (path : Path) (part : PartId) (s : State) :
    Host.Outcome State Fault Refusal :=
  .next (s.pathWrite path (pgkReg part.val 0x2C) 7)

/-- PGK_ENABLE: PGK_CTRL with EN set (R209). -/
def execPgkEnable (path : Path) (part : PartId) (keep : Bool) (psize : BitVec 2) (s : State) :
    Host.Outcome State Fault Refusal :=
  .next (s.pathWrite path (pgkReg part.val 0) (1 + 2 * psize.toNat + 8 * b2n keep))

/-- PGK_DISABLE: PGK_CTRL with EN cleared, its other fields as they are (R210). -/
def execPgkDisable (path : Path) (part : PartId) (s : State) :
    Host.Outcome State Fault Refusal :=
  .next (s.pathWrite path (pgkReg part.val 0) (setFld (s.regN (pgkReg part.val 0)) 0 1 0))

/-- SCOUT_ENABLE: SCT_CTRL with EN set (R215). -/
def execScoutEnable (path : Path) (region : RegionId) (size : BitVec 13) (ctr : BitVec 16) (s : State) :
    Host.Outcome State Fault Refusal :=
  .next (s.pathWrite path (sctReg region.val 8) (2 ^ 31 + size.toNat * 65536 + ctr.toNat))

/-- PEER_ENABLE: PEER_CTRL with EN set, PART as it is (R277). -/
def execPeerEnable (path : Path) (port : PortId) (s : State) :
    Host.Outcome State Fault Refusal :=
  .next (s.pathWrite path (peerBase port.val) (setFld (s.regN (peerBase port.val)) 31 1 1))

/-- PEER_DISABLE: PEER_CTRL with EN cleared, PART as it is (R278). -/
def execPeerDisable (path : Path) (port : PortId) (s : State) :
    Host.Outcome State Fault Refusal :=
  .next (s.pathWrite path (peerBase port.val) (setFld (s.regN (peerBase port.val)) 31 1 0))

/-- LOOP_OPEN: LPE_CTRL with OPEN set (R352). -/
def execLoopOpen (path : Path) (region : RegionId) (value : BitVec 32) (s : State) :
    Host.Outcome State Fault Refusal :=
  .next (s.pathWrite path (lpeReg region.val 0) (setFld value.toNat 31 1 1))

/-- LOOP_CLOSE: LPE_CTRL with OPEN cleared (R354). -/
def execLoopClose (path : Path) (region : RegionId) (value : BitVec 32) (s : State) :
    Host.Outcome State Fault Refusal :=
  .next (s.pathWrite path (lpeReg region.val 0) (setFld value.toNat 31 1 0))

/-- CAP_WRITE: a cap register (R359). -/
def execCapWrite (path : Path) (window : Fin 3) (value : BitVec 32) (s : State) :
    Host.Outcome State Fault Refusal :=
  .next (s.pathWrite path (capReg window.val) value.toNat)

/-- FLOOR_WRITE: a floor register (R359). -/
def execFloorWrite (path : Path) (part : PartId) (value : BitVec 32) (s : State) :
    Host.Outcome State Fault Refusal :=
  .next (s.pathWrite path (floorReg part.val) value.toNat)

/-- CORE_POWER_REQUEST: PWR_CORE_REQ (R298). -/
def execCorePowerRequest (path : Path) (region : RegionId) (value : BitVec 32) (s : State) :
    Host.Outcome State Fault Refusal :=
  .next (s.pathWrite path (0x401000 + 4 * region.val) value.toNat)

/-- TLM_SPOT: TLM_SPOT (R379). -/
def execTlmSpot (path : Path) (region : RegionId) (input : BitVec 6) (conv : Fin 8) (s : State) :
    Host.Outcome State Fault Refusal :=
  .next (s.pathWrite path (tlmReg region.val 0xC0) (input.toNat * 256 + conv.val))

/-- TLM_SNAP: TLM_SNAP (R382). -/
def execTlmSnap (path : Path) (region : RegionId) (rstMm : Bool) (s : State) :
    Host.Outcome State Fault Refusal :=
  .next (s.pathWrite path (tlmReg region.val 0xD0) (1 + 2 * b2n rstMm))

/-- JOB_ENERGY_CLEAR: PWR_ENERGY_CLR (R388). -/
def execJobEnergyClear (path : Path) (slot : Fin 32) (s : State) :
    Host.Outcome State Fault Refusal :=
  .next (s.pathWrite path 0x403200 slot.val)

/-- SENSOR_SUSPECT_CLEAR: SUSPECT of a sensor's register (R394). -/
def execSensorSuspectClear (path : Path) (sensor : SensorId) (s : State) :
    Host.Outcome State Fault Refusal :=
  .next (s.pathWrite path (sensorReg sensor.val) (2 ^ 31))

/-- RESUME: RESUME of PWR_COOLANT (R401). -/
def execResume (path : Path) (s : State) :
    Host.Outcome State Fault Refusal :=
  .next (s.pathWrite path coolReg (2 ^ 31))

/-- FAULT_CLEAR: a write of a sticky register (R413). -/
def execFaultClear (path : Path) (k : Fin 16) (value : BitVec 32) (s : State) :
    Host.Outcome State Fault Refusal :=
  .next (s.pathWrite path (0x300000 + 4 * k.val) value.toNat)

/-- FAULT_INJECT_ARM: FLT_INJ with ARM set (R416). -/
def execFaultInjectArm (path : Path) (value : BitVec 32) (s : State) :
    Host.Outcome State Fault Refusal :=
  .next (s.pathWrite path 0x30008C (setFld value.toNat 31 1 1))

/-- ERR_HELD_CLEAR: ERR_PIN_CTRL with HELD set and the path's own fields as they are (R417). -/
def execErrHeldClear (path : Path) (s : State) :
    Host.Outcome State Fault Refusal :=
  .next (s.pathWrite path pinReg (setFld (if isSide path then s.pinView else 0) 31 1 1))

/-- EVENT_WITHDRAW: a write of a pending register (R428). -/
def execEventWithdraw (path : Path) (part : PartId) (k : Fin 16) (value : BitVec 32) (s : State) :
    Host.Outcome State Fault Refusal :=
  .next (s.pathWrite path (evqBase part.val + 0x40 + 4 * k.val) value.toNat)

/-- EVQ_TAIL_WRITE: EVQ_TAIL (R436). -/
def execEvqTailWrite (path : Path) (part : PartId) (value : BitVec 32) (s : State) :
    Host.Outcome State Fault Refusal :=
  .next (s.pathWrite path (evqBase part.val + 0x10) value.toNat)

/-- EVQ_ENABLE: EVQ_CFG with EN set (R435). -/
def execEvqEnable (path : Path) (part : PartId) (value : BitVec 32) (s : State) :
    Host.Outcome State Fault Refusal :=
  .next (s.pathWrite path (evqBase part.val + 8) (setFld value.toNat 31 1 1))

/-- EVQ_DISABLE: EVQ_CFG with EN cleared (R435). -/
def execEvqDisable (path : Path) (part : PartId) (value : BitVec 32) (s : State) :
    Host.Outcome State Fault Refusal :=
  .next (s.pathWrite path (evqBase part.val + 8) (setFld value.toNat 31 1 0))

/-- IDLE_ENTER: ENTER of EVQ_IDLE (R441). -/
def execIdleEnter (path : Path) (s : State) :
    Host.Outcome State Fault Refusal :=
  .next (s.pathWrite path 0x200004 (2 ^ 31))

/-- IDLE_WAKE: WAKE of EVQ_IDLE (R444). -/
def execIdleWake (path : Path) (s : State) :
    Host.Outcome State Fault Refusal :=
  .next (s.pathWrite path 0x200004 (2 ^ 30))

/-- LAUNCH: PART_LAUNCH_GO (R457). -/
def execLaunch (path : Path) (part : PartId) (s : State) :
    Host.Outcome State Fault Refusal :=
  .next (s.pathWrite path (partBase part.val + 0x58) 1)

/-- PART_STOP: PART_STOP (R458). -/
def execPartStop (path : Path) (part : PartId) (mask : BitVec 16) (s : State) :
    Host.Outcome State Fault Refusal :=
  .next (s.pathWrite path (partBase part.val + 0x5C) mask.toNat)

/-- PARTITION_COMMIT: PART_COMMIT (R464). -/
def execPartitionCommit (path : Path) (scrub : Bool) (s : State) :
    Host.Outcome State Fault Refusal :=
  .next (s.pathWrite path 0x101000 (2 ^ 31 + 2 ^ 30 * b2n scrub))

/-- EPOCH_ARM: EPOCH_ARM (R80). -/
def execEpochArm (path : Path) (s : State) :
    Host.Outcome State Fault Refusal :=
  .next (s.pathWrite path 0x400F00 1)

/-- HOLD: HOLD of BOOT_CTRL (R479). -/
def execHold (path : Path) (s : State) :
    Host.Outcome State Fault Refusal :=
  .next (s.pathWrite path 0x1E00008 (2 ^ 31))

/-- REBOOT: REBOOT of BOOT_CTRL (R479). -/
def execReboot (path : Path) (s : State) :
    Host.Outcome State Fault Refusal :=
  .next (s.pathWrite path 0x1E00008 (2 ^ 30))

/-- DPD: DPD of BOOT_CTRL (R483). -/
def execDpd (path : Path) (s : State) :
    Host.Outcome State Fault Refusal :=
  .next (s.pathWrite path 0x1E00008 (2 ^ 29))

/-- START: START of UPD_CTRL (R480). -/
def execStart (path : Path) (len : BitVec 19) (s : State) :
    Host.Outcome State Fault Refusal :=
  .next (s.pathWrite path 0x1E00010 (2 ^ 31 + len.toNat))

/-- UPDATE_DATA: UPD_DATA (R480). -/
def execUpdateData (path : Path) (data : BitVec 32) (s : State) :
    Host.Outcome State Fault Refusal :=
  .next (s.pathWrite path 0x1E00014 data.toNat)

/-- FINISH: FINISH of UPD_CTRL (R480). -/
def execFinish (path : Path) (s : State) :
    Host.Outcome State Fault Refusal :=
  .next (s.pathWrite path 0x1E00010 (2 ^ 30))

/-- ABORT: ABORT of UPD_CTRL (R481). -/
def execAbort (path : Path) (s : State) :
    Host.Outcome State Fault Refusal :=
  .next (s.pathWrite path 0x1E00010 (2 ^ 29))

/-- FUSE_PROGRAM: FUSE_PROG (R482). -/
def execFuseProgram (path : Path) (word : BitVec 4) (s : State) :
    Host.Outcome State Fault Refusal :=
  .next (s.pathWrite path 0x1E08060 (2 ^ 31 + word.toNat))

/-- TST_UNLOCK: TST_UNLOCK with one word of the sequence (R486). -/
def execTstUnlock (path : Path) (key : BitVec 32) (s : State) :
    Host.Outcome State Fault Refusal :=
  .next (s.pathWrite path 0x1F00000 key.toNat)

/-- TST_LOCK: TST_UNLOCK with zero (R488). -/
def execTstLock (path : Path) (s : State) :
    Host.Outcome State Fault Refusal :=
  .next (s.pathWrite path 0x1F00000 0)

/-- REGISTER_WRITE: any register of the window (R12). -/
def execRegisterWrite (path : Path) (offset : BitVec 32) (value : BitVec 32) (s : State) :
    Host.Outcome State Fault Refusal :=
  .next (s.pathWrite path offset.toNat value.toNat)

end Sys2Proof.Machine
end

