-- ==== Sys2Proof/Machine/Side.lean ====
section
/-! DEFINITION. The side-band target: common commands, MCTP control, PLDM and register access messages (R65, R459 to R463,
R509). Codes and layouts of messages that R459 to R461 take from their standards are PRESUMED from those (log entry 31).

Marks: PRESUMED (log entry 31), DEDUCED (log entry 51). -/

namespace Sys2Proof.Machine

/-- The target runs. -/
def State.onSide (s : State) (f : State → State) : State := if s.sideOpen then f s else s

def State.modSide (s : State) (f : Sideband → Sideband) : State := s.setSide (f s.side)

/-- `n` free bytes: what the spec does not state of an answer. -/
def State.freeBytes (s : State) (n : Nat) : List Byte := (List.range n).map fun i => Config.freeByte s.draws i

/-! ## Common commands (R459): each comes from an I3C controller, so the target serves as an I3C target from then on (R65) -/

def State.ccc (s : State) (f : State → State) : State :=
  s.onSide fun t => f (t.modSide fun x => { x with i3c := true })

/-- Provisional ID, most significant byte first. -/
def State.pidBytes (s : State) : List Byte := (leBytes 6 s.nvm.pid.toNat).reverse

def wordBytes (v : BitVec 16) : List Byte := (leBytes 2 v.toNat).reverse

/-- ENTDAA (R459): a target without a dynamic address takes part, and takes the address. -/
def execEntdaa (addr : BitVec 7) (s : State) : Host.Outcome State Fault Refusal :=
  .next (s.ccc fun t =>
    if t.side.da = 0 then (t.modSide fun x => { x with da := addr }).send (.bus 0 (t.pidBytes ++ [0x06, 0xCC])) else t)

/-- SETDASA (R459), sent to the static address 0x3A (R65): a target that has a dynamic address does not answer at its static one. -/
def execSetdasa (addr : BitVec 7) (s : State) : Host.Outcome State Fault Refusal :=
  .next (s.ccc fun t => if t.side.da = 0 then t.modSide fun x => { x with da := addr } else t.sideSend .nak)

/-- RSTDAA: the dynamic address alone is removed (R509). -/
def execRstdaa (s : State) : Host.Outcome State Fault Refusal :=
  .next (s.ccc fun t => t.modSide fun x => { x with da := 0 })

/-- ENEC (R459). -/
def execEnec (s : State) : Host.Outcome State Fault Refusal :=
  .next (s.ccc fun t => t.modSide fun x => { x with ibiOn := true })

/-- DISEC (R459). -/
def execDisec (s : State) : Host.Outcome State Fault Refusal :=
  .next (s.ccc fun t => t.modSide fun x => { x with ibiOn := false })

/-- GETPID (R459). -/
def execGetpid (s : State) : Host.Outcome State Fault Refusal := .next (s.ccc fun t => t.sideSend (.bus 0 t.pidBytes))

/-- GETBCR (R459). -/
def execGetbcr (s : State) : Host.Outcome State Fault Refusal := .next (s.ccc fun t => t.sideSend (.bus 0 [0x06]))

/-- GETDCR (R459). -/
def execGetdcr (s : State) : Host.Outcome State Fault Refusal := .next (s.ccc fun t => t.sideSend (.bus 0 [0xCC]))

/-- GETSTATUS (R459): the spec does not state the content of the status word. -/
def execGetstatus (s : State) : Host.Outcome State Fault Refusal :=
  .next (s.ccc fun t => (t.sideSend (.bus 0 (t.freeBytes 2))).drawn)

/-- GETMRL (R459): the length, then the one mandatory byte of an in-band interrupt's payload. -/
def execGetmrl (s : State) : Host.Outcome State Fault Refusal :=
  .next (s.ccc fun t => t.sideSend (.bus 0 (wordBytes t.side.mrl ++ [1])))

/-- SETMRL (R459). -/
def execSetmrl (len : BitVec 16) (s : State) : Host.Outcome State Fault Refusal :=
  .next (s.ccc fun t => t.modSide fun x => { x with mrl := len })

/-- GETMWL (R459). -/
def execGetmwl (s : State) : Host.Outcome State Fault Refusal :=
  .next (s.ccc fun t => t.sideSend (.bus 0 (wordBytes t.side.mwl)))

/-- SETMWL (R459). -/
def execSetmwl (len : BitVec 16) (s : State) : Host.Outcome State Fault Refusal :=
  .next (s.ccc fun t => t.modSide fun x => { x with mwl := len })

/-- CCC_UNSUPPORTED (R459). -/
def execCccUnsupported (code : BitVec 8) (s : State) : Host.Outcome State Fault Refusal :=
  let _ := code
  .next (s.ccc fun t => t.sideSend .nak)

/-- IBI (R459): only while enabled and while a response waits; on I3C alone, at a dynamic address. -/
def execIbi (s : State) : Host.Outcome State Fault Refusal :=
  .next (s.onSide fun t =>
    if t.side.i3c && decide (t.side.da ≠ 0) && t.side.ibiOn && decide (0 < t.side.waiting) then
      (t.modSide fun x => { x with waiting := x.waiting - 1 }).sideSend .ibi
    else t)

/-! ## MCTP control (R460) -/

/-- A response of an MCTP message. -/
def State.respond (s : State) (code : Nat) (data : List Byte) : State := s.sideAnswer (.bus code data)

/-- SET_ENDPOINT_ID (R460): the null and the broadcast ID are no endpoint's. -/
def execSetEndpointId (eid : BitVec 8) (s : State) : Host.Outcome State Fault Refusal :=
  .next (s.onSide fun t =>
    if eid = 0 ∨ eid = 0xFF then t.respond 2 []
    else (t.modSide fun x => { x with eid := eid }).respond 0 [0, eid, 0])

/-- GET_ENDPOINT_ID (R460). -/
def execGetEndpointId (s : State) : Host.Outcome State Fault Refusal :=
  .next (s.onSide fun t => t.respond 0 [t.side.eid, 0, 0])

/-- GET_MCTP_VERSION_SUPPORT (R460): one version, which the spec does not state. -/
def execGetMctpVersionSupport (s : State) : Host.Outcome State Fault Refusal :=
  .next (s.onSide fun t => (t.respond 0 (1 :: t.freeBytes 4)).drawn)

/-- GET_MESSAGE_TYPE_SUPPORT (R460): the three message types. -/
def execGetMessageTypeSupport (s : State) : Host.Outcome State Fault Refusal :=
  .next (s.onSide fun t => t.respond 0 [3, 0x00, 0x01, 0x7F])

/-! ## PLDM (R461) -/

/-- GETTID (R461). -/
def execGetTid (s : State) : Host.Outcome State Fault Refusal := .next (s.onSide fun t => t.respond 0 [t.side.tid])

def pldmType (type : BitVec 8) : Bool := type = 0 || type = 2

/-- GETPLDMVERSION (R461): of types 0 and 2; the spec states no version. -/
def execGetPldmVersion (type : BitVec 8) (s : State) : Host.Outcome State Fault Refusal :=
  .next (s.onSide fun t => if pldmType type then (t.respond 0 (t.freeBytes 4)).drawn else t.respond 0x83 [])

/-- GETPLDMTYPES (R461): types 0 and 2. -/
def execGetPldmTypes (s : State) : Host.Outcome State Fault Refusal :=
  .next (s.onSide fun t => t.respond 0 (leBytes 8 (2 ^ 0 + 2 ^ 2)))

/-- Commands of a PLDM type, one bit each. -/
def pldmCommands (type : BitVec 8) : Nat :=
  if type = 0 then 2 ^ 0x02 + 2 ^ 0x03 + 2 ^ 0x04 + 2 ^ 0x05
  else 2 ^ 0x11 + 2 ^ 0x21 + 2 ^ 0x50 + 2 ^ 0x51

/-- GETPLDMCOMMANDS (R461). -/
def execGetPldmCommands (type : BitVec 8) (s : State) : Host.Outcome State Fault Refusal :=
  .next (s.onSide fun t =>
    if pldmType type then t.respond 0 (leBytes 32 (pldmCommands type)) else t.respond 0x83 [])

/-- GETPDRREPOSITORYINFO (R461): available, seven records; dates and sizes are not stated. -/
def execGetPdrRepositoryInfo (s : State) : Host.Outcome State Fault Refusal :=
  .next (s.onSide fun t => (t.respond 0 (0 :: t.freeBytes 26 ++ leBytes 4 7 ++ (List.range 9).map fun i =>
    Config.freeByte t.draws (26 + i))).drawn)

/-- GETPDR (R461): the record of sensor n has handle n, and 0 names the first; its next handle and sensor are fixed here and the
rest of the record is free. -/
def execGetPdr (handle : BitVec 32) (s : State) : Host.Outcome State Fault Refusal :=
  .next (s.onSide fun t =>
    let h := if handle = 0 then 1 else handle.toNat
    if 7 < h then t.respond 0x82 []
    else (t.respond 0 (leBytes 4 (if h = 7 then 0 else h + 1) ++ leBytes 2 h ++ t.freeBytes 26)).drawn)

/-- Mean power in W of an energy of the last 1 ms window in 2^-16 µJ. -/
def windowWatts (e : Nat) : Nat := e / 65536 / 1000

/-- Least VPIL_g mean of the last window, in mV. -/
def State.leastVpil (s : State) : Nat :=
  (List.range 16).foldl (fun m r => min m (fld (s.regN (tlmReg r 0xC04)) 0 16)) 0xFFFF / 10

/-- GETSENSORREADING (R461): the numeric sensors of Table — PLDM sensors, the temperature in steps of 0.125 °C. Before anything is
measured a temperature is free. -/
def execGetSensorReading (id : BitVec 16) (s : State) : Host.Outcome State Fault Refusal :=
  .next (s.onSide fun t =>
    match id.toNat with
    | 1 =>
      match maxOf t.temperatures with
      | some v => t.respond 0 (leBytes 4 (toTwos 32 v))
      | none => (t.respond 0 (t.freeBytes 4)).drawn
    | 2 => t.respond 0 (leBytes 4 (windowWatts t.power.winOut))
    | 3 => t.respond 0 (leBytes 4 (windowWatts t.power.winIn))
    | 4 => t.respond 0 (leBytes 4 t.leastVpil)
    | _ => t.respond 0x80 [])

/-- GETSTATESENSORREADINGS (R461): the state sensors. -/
def execGetStateSensorReadings (id : BitVec 16) (s : State) : Host.Outcome State Fault Refusal :=
  .next (s.onSide fun t =>
    match id.toNat with
    | 5 => t.respond 0 (leBytes 1 t.blockState)
    | 6 => t.respond 0 (leBytes 1 (fld t.fltStatus 28 3))
    | 7 => t.respond 0 (leBytes 1 (b2n t.pins.coolantOk))
    | _ => t.respond 0x80 [])

/-- PLDM_UNSUPPORTED (R461): ERROR_UNSUPPORTED_PLDM_CMD. -/
def execPldmUnsupported (type : BitVec 6) (cmd : BitVec 8) (s : State) : Host.Outcome State Fault Refusal :=
  let _ := type
  let _ := cmd
  .next (s.onSide fun t => t.respond 5 [])

/-! ## Register access (R462, R463, R15) -/

/-- The message carries the enterprise number of SBD_PEN; any other is discarded. -/
def State.ownPen (s : State) (pen : BitVec 32) : Bool := pen = s.reg 0x1E0C004

def sideRequest : Request := ⟨.side, some 0⟩

/-- Cause that refuses a side-band read of a register: not 4-byte aligned, outside the window, or another path's bank. -/
def sideReadCause (o : Nat) : Option Nat :=
  if o % 4 ≠ 0 then some 2
  else if windowSize ≤ o then some 3
  else if bankRefused .side o then some 5
  else none

/-- A 32-bit read: a low half loads the side-band's shadow. -/
def State.sideRead (s : State) (o : Nat) : State :=
  match sideReadCause o with
  | some c => s.answer sideRequest (.err c)
  | none =>
    let r := s.readReg .side o
    r.2.answerRead sideRequest (leBytes 4 r.1)

/-- A read of a counter pair, both halves from one beat. -/
def State.sideReadPair (s : State) (o : Nat) : State :=
  if windowSize ≤ o then s.answer sideRequest (.err 3)
  else if bankRefused .side o then s.answer sideRequest (.err 5)
  else
    match s.pairAt o with
    | some v => s.answerRead sideRequest (leBytes 8 v)
    | none => s.answer sideRequest (.err 2)

/-- READ32 (R462). -/
def execRead32 (pen offset : BitVec 32) (s : State) : Host.Outcome State Fault Refusal :=
  .next (s.onSide fun t => if t.ownPen pen then t.sideRead offset.toNat else t)

/-- WRITE32 (R462). -/
def execWrite32 (pen offset value : BitVec 32) (s : State) : Host.Outcome State Fault Refusal :=
  .next (s.onSide fun t => if t.ownPen pen then t.sideWrite (some 0) offset.toNat value.toNat else t)

/-- READ64 (R462). -/
def execRead64 (pen offset : BitVec 32) (s : State) : Host.Outcome State Fault Refusal :=
  .next (s.onSide fun t => if t.ownPen pen then t.sideReadPair offset.toNat else t)

/-- READ_LO (R462). -/
def execReadLo (pen offset : BitVec 32) (s : State) : Host.Outcome State Fault Refusal :=
  .next (s.onSide fun t => if t.ownPen pen then t.sideRead offset.toNat else t)

end Sys2Proof.Machine
end

