-- ==== Sys2Proof/Machine/Beat.lean ====
section
/-! DEFINITION. The block beat: the one command by which time passes (R20, R79), and the sluice's holds (R19 to R22, R88, R347 to
R349, R387, R489). A beat's holds are decided as it begins; SLUICE_HOLD takes and counts one, and what the sender has not
given by the end of the beat is taken then (log entry 32).

Marks: DESIGN CHOICE (log entry 10), DESIGN CHOICE (log entry 12), DESIGN CHOICE (log entry 32). -/

namespace Sys2Proof.Machine

/-! ## Holds -/

def holdDefault (_ : Nat) : BitVec 64 := 0

/-- One held beat is counted against its reason (R387). -/
def Core.countHold (x : Core) : Core :=
  if x.seq.owed && x.seq.bound then
    { x with
      holds := tabSet holdDefault x.holds x.seq.why.1 (tabGet holdDefault x.holds x.seq.why.1 + 1)
      seq := { x.seq with owed := false, heldNow := x.seq.heldNow + 1 } }
  else x

/-- The hold of core `c` is taken: its sluice register falls by 1,024, and it and the members of its group that it holds
count the beat (R347, R88). -/
def State.takeHold (s : State) (c : Nat) : State :=
  let t := s.modCore c fun x =>
    { x with power := { x.power with acc := if 1024 ≤ x.power.acc then x.power.acc - 1024 else x.power.acc, taken := true } }
  State.each (c :: t.groupOf c) (fun d u => u.modCore d Core.countHold) t

/-- The hold of core `c` has still to be taken. -/
def State.holdPending (s : State) (c : Nat) : Bool :=
  let x := s.core c
  x.seq.held && (decide (1024 ≤ x.power.acc) || (x.seq.owed && x.seq.bound))

/-- SLUICE_HOLD (R347). -/
def execSluiceHold (core : CoreId) (s : State) : Host.Outcome State Fault Refusal :=
  .next (if s.loopsApplied && s.holdPending core then s.takeHold core else s)

/-! ## The end of a beat -/

/-- A bundle that the core would issue in this beat and that breaks a rule, or lies past the region's end (R102 to R104), and an
uncorrectable word in its fetch. -/
def State.issueErrors (s : State) (c : Nat) : State :=
  if s.mayIssue c && decide ((s.core c).seq.slots = 0) then
    let t := s.settle c
    if !(t.core c).seq.bound then t
    else if t.bundleCause c = 5 then t.scheduleError c 5
    else if t.bundleBad c then t.fetchCount c
    else if t.bundleCause c ≠ 0 then t.bundleError c
    else s
  else s

/-- The core spends this beat waiting: it runs, issued nothing, and neither it nor its group is held (R74, R88). -/
def State.waits (s : State) (c : Nat) : Bool :=
  let q := (s.core c).seq
  q.bound && !q.issued && !q.held && (s.groupOf c).all fun d => !(s.core d).seq.held

/-- A counter pair of the register file advances. -/
def State.addPair (s : State) (o n : Nat) : State :=
  let v := s.regPair o + n
  (s.putReg o (v % 2 ^ 32)).putReg (o + 4) (v / 2 ^ 32)

/-- R283. -/
def State.countPace (s : State) (n : Nat) : State :=
  if (s.peer n).inForce then
    let p := s.portOwner n
    let k := ((List.range 256).filter fun c => s.ownsRegion p (regionOf c) && s.waits c).length
    (s.addPair (peerBase n + 0x28) 1).addPair (peerBase n + 0x30) k
  else s

/-- Deadlock timers (R244, R245). -/
def State.timeJobs (s : State) : State :=
  let quiet := s.jobs.map fun e => (e.1, match jobId (e.1 / 16) (e.1 % 16) with
    | some j => s.jobQuiet j
    | none => false)
  s.setJobs (tabMap (fun _ => Job.initial) (fun k x =>
    { x with quiet := if x.state = .running && quiet.any (fun e => e = (k, true)) then satInc x.quiet 200000 else 0
             loud := false }) s.jobs)

/-- The core has to issue in this beat, and has not: a beat that is neither held nor a wait beat is an issued beat. A group may
begin in a later beat than the launch, all its members in one (R72). -/
def State.mustIssue (s : State) (c : Nat) : Bool :=
  let q := (s.core c).seq
  s.mayIssue c &&
    (decide (q.slots ≠ 0) ||
      ((decide (q.beat ≠ 0) || (s.groupOf c).any fun d => decide ((s.core d).seq.beat ≠ 0)) &&
        (let t := s.settle c
         (t.core c).seq.bound && t.bundleCause c = 0 && !t.bundleBad c && !t.stalled c)))

/-- The beat is complete: its loop sample and its loop outputs have been taken (R342, R343), and every core that issues in it
has issued. -/
def State.beatDone (s : State) : Bool :=
  s.loopsApplied && (decide (s.now % 2000 ≠ 0) || decide (s.now = 0) || decide (s.power.sampled = s.now + 1)) &&
    s.cores.all fun e => !(e.2.seq.bound && s.mustIssue e.1)

def State.endBeat (s : State) : State :=
  let cs := (List.range 256).filter fun c => (s.core c).seq.bound
  let t := State.each cs (fun c u => u.issueErrors c) s
  let t := (t.markFences).fireInjection
  let t := State.each (List.range 256) (fun c u => if u.holdPending c then u.takeHold c else u) t
  (State.each (List.range 4) (fun n u => u.countPace n) t).timeJobs

/-! ## The beginning of a beat -/

/-- The beat begins at core `c`: its sluice register advances, and its hold of the beat is decided. -/
def State.decideHold (s : State) (c : Nat) : State :=
  (s.modCore c fun x =>
    { x with
      power := { x.power with adv := 0, taken := false, clampNow := decide (0 < x.power.clampLeft), clampLeft := x.power.clampLeft - 1 }
      seq := { x.seq with issued := false, resumed := false } }).judgeHold c

def State.beginBeat (s : State) : State :=
  let t := (((s.setBeat (s.beat + 1)).setMarks []).finishLock).stepLfsr
  let t := State.each t.clocked (fun c u => u.decideHold c) t
  State.each ((List.range 256).filter fun c => (t.core c).seq.bound) (fun c u => u.shareHold c) t

/-- What the block does of itself in each beat: the mark of an epoch edge (R80), keeper copies that can start (R198), the edges of R396, conditions that persist, the end of SAFE, of a REBOOT and of power-ups, an
armed injection, the comparison of the collector's copies (R407, R414, R418, R419). -/
def State.watch (s : State) : State :=
  let s := (s.markEdge).startCopies
  let t := (((s.countGood).reraise).thermEdges).compareCopies
  (((t.endReboot).leaveSafe).lateWake).afterUps

/-- BLOCK_BEAT (R79): while the reference runs, once the beat is complete. -/
def execBlockBeat (s : State) : Host.Outcome State Fault Refusal :=
  .next (if s.pins.refclk && s.locked && s.beatDone then ((((s.endBeat).beginBeat).watch).servePeers).serveHost else s)

end Sys2Proof.Machine
end

