-- ==== Sys2Proof/Machine/MatrixSlot.lean ====
section
/-! DEFINITION. The M slot: MNOP, MMA, MOUT, MCLR, and the landing of MMA contributions (R106 to R111, R127 to R137).

Marks: DEDUCED (log entry 19). -/

namespace Sys2Proof.Machine

/-- Element `e` of a packed row of elements of format `code` (R97, R107). -/
def elemRaw (code : Nat) (row : List Byte) (e : Nat) : Nat :=
  if code = 0 then
    let b := (row.getD (e / 2) 0).toNat
    if e % 2 = 0 then b % 16 else b / 16
  else if code < 6 then (row.getD e 0).toNat
  else (row.getD (2 * e) 0).toNat + 256 * (row.getD (2 * e + 1) 0).toNat

/-- Bytes of K activation elements (R108). -/
def asz (af k : Nat) : Nat := if af = 0 then k / 2 else if af < 6 then k else 2 * k

/-- Products of one row: element pairs k with their scales (R108, R128). -/
def rowProducts (tf af k koff : Nat) (tile tscale act ascale : List Byte) : List Product :=
  (List.range k).map fun i =>
    let e := koff + i
    let sa := if tf < 6 then (tscale.getD (e / 32) 0).toNat else 127
    let sb := if af < 6 then (ascale.getD (i / 32) 0).toNat else 127
    productOf (elemValue tf (elemRaw tf tile e)) (elemValue af (elemRaw af act i)) sa sb

/-- The landing of an MMA: its products read at its issue beat (R108, R109, R132). -/
def mmaLandingOf (s : State) (c w : Nat) : Landing :=
  let f := mmaForm w
  let x := s.core c
  let k := (mmaK f.tf f.af).getD 0
  let idx := ((s.readS c f.sj).toNat + f.segi) % 1024
  let va := s.readV c f.va
  let vs := s.readV c f.vs
  let n := asz f.af k
  let act := (va.drop (idx % (1024 / n) * n)).take n
  let ssz := k / 32
  let ascale := if 6 ≤ f.af ∨ ssz = 0 then [] else (vs.drop (idx % (1024 / ssz) * ssz)).take ssz
  let koff := if k = 16 then 16 * f.tk else 64 * f.tk
  { acc := f.ad, clr := f.clr, window := decide (6 ≤ f.tf), group := idx / 4, rows := f.rows,
    prods := (List.range f.rows).map fun r =>
      rowProducts f.tf f.af k koff (memRead x.regs.t (8704 * f.tt + 64 * r) 64)
        (memRead x.regs.t (8704 * f.tt + 8192 + 4 * r) 4) act ascale }

/-- Rows of a set written out to bytes of Vd, with the CORE_ARITH bits (R111, R136). -/
def moutBytes (a : AccSet) (fmt : Nat) : List Byte × BitVec 5 :=
  let f := outFmt fmt
  let b := a.closed
  (List.range 128).foldl (fun (o : List Byte × BitVec 5) r =>
    let x := b.row r
    let v := writeOut f x.nan x.pinf x.ninf x.range x.sum.toInt 128
    (o.1 ++ leBytes (f.width / 8) v.1, o.2 ||| v.2)) ([], 0)

def mmaEffect (c w : Nat) (s : State) : State := s.stage c 6 (.land (mmaLandingOf s c w)) 0

def moutEffect (c w : Nat) (s : State) : State :=
  let f := moutForm w
  let r := moutBytes ((s.core c).accSet f.ad) f.fmt
  let t := s.stage c 4 (.vec f.vd (f.pos * 128 * ((outFmt f.fmt).width / 8)) r.1) r.2
  if f.clr then t.stage c 1 (.accClear f.ad) 0 else t

def mclrEffect (c w : Nat) (s : State) : State := s.stage c 1 (.accClear (fld w 52 4)) 0

/-- MNOP (R99): nothing. -/
def execMnop (core : CoreId) (s : State) : Host.Outcome State Fault Refusal :=
  .next (s.issueSlot core .m 0x00 fun _ t => t)

/-- MMA (R106 to R110): the products land in Ad six core beats later. -/
def execMma (core : CoreId) (s : State) : Host.Outcome State Fault Refusal :=
  .next (s.issueSlot core .m 0x01 (mmaEffect core))

/-- MOUT (R111): Ad rounded once to Vd, four core beats later. -/
def execMout (core : CoreId) (s : State) : Host.Outcome State Fault Refusal :=
  .next (s.issueSlot core .m 0x02 (moutEffect core))

/-- MCLR (R109): Ad cleared one core beat later. -/
def execMclr (core : CoreId) (s : State) : Host.Outcome State Fault Refusal :=
  .next (s.issueSlot core .m 0x03 (mclrEffect core))

def Result.isLanding : Result → Bool
  | .land _ => true
  | .accClear _ => true
  | _ => false

/-- MMA_LANDING (R109, R129 to R135): the contributions and clears due at the core's beat land. -/
def execMmaLanding (core : CoreId) (s : State) : Host.Outcome State Fault Refusal :=
  .next (s.commitDue core Result.isLanding)

/-- FIXED_RESULT_VISIBLE (R76, R77, R510): every fixed-latency result due at the core's beat is visible. -/
def execFixedResultVisible (core : CoreId) (s : State) : Host.Outcome State Fault Refusal :=
  .next (s.commitDue core fun _ => true)

end Sys2Proof.Machine
end

