-- ==== Sys2Proof/Machine/VectorSlot.lean ====
section
/-! DEFINITION. The V slot: vector arithmetic, logic, moves, conversions, the normaliser and exact sums (R112, R125, R126,
R138 to R146, R511).

Marks: PRESUMED (log entry 4), DEDUCED (log entry 6), DESIGN CHOICE (log entry 61). -/

namespace Sys2Proof.Machine

/-- 32-bit lanes of the bytes of a register (R97). -/
def lanesOf : List Byte → List Nat
  | a :: b :: c :: d :: t => bytesLe [a, b, c, d] :: lanesOf t
  | _ => []

def laneBytes (l : List Nat) : List Byte := l.flatMap (leBytes 4)

def State.lanes (s : State) (c r : Nat) : List Nat := lanesOf (s.readV c r)

/-- Vd = f lanes, `latency` core beats later. -/
def vLanes (latency c w : Nat) (f : State → List Nat) (s : State) : State :=
  s.stage c latency (.vec (vVd w) 0 (laneBytes (f s))) 0

def vUnary (latency : Nat) (f : Nat → Nat) (c w : Nat) (s : State) : State :=
  vLanes latency c w (fun t => (t.lanes c (vVa w)).map f) s

def vBinary (latency : Nat) (f : Nat → Nat → Nat) (c w : Nat) (s : State) : State :=
  vLanes latency c w (fun t => List.zipWith f (t.lanes c (vVa w)) (t.lanes c (vVb w))) s

def vTernary (latency : Nat) (f : Nat → Nat → Nat → Nat) (c w : Nat) (s : State) : State :=
  vLanes latency c w (fun t =>
    List.zipWith (fun p z => f p.1 p.2 z) (List.zip (t.lanes c (vVa w)) (t.lanes c (vVb w))) (t.lanes c (vVc w))) s

/-- Elements of a width packed from byte 0 upward (R97). -/
def packBits (width : Nat) (l : List Nat) : List Byte :=
  if width = 16 then l.flatMap (leBytes 2)
  else if width = 8 then l.map (BitVec.ofNat 8)
  else
    (List.range (l.length / 2)).map fun i => BitVec.ofNat 8 (l.getD (2 * i) 0 % 16 + 16 * (l.getD (2 * i + 1) 0 % 16))

def unpack16 : List Byte → List Nat
  | a :: b :: t => (a.toNat + 256 * b.toNat) :: unpack16 t
  | _ => []

def chunks32 : Nat → List Nat → List (List Nat)
  | 0, _ => []
  | n + 1, l => l.take 32 :: chunks32 n (l.drop 32)

def cvtFmt (func : Nat) : Fmt :=
  match func % 4 with
  | 0 => fmtBf16 | 1 => fmtFp16 | 2 => fmtE4M3 | _ => fmtE5M2

/-- VCVT by FUNC: the results it stages (R138, R139, R511). With FUNC 8 to 13, Vc = Vd and block 0, elements and scales name the
same bytes 0 to 7 at one core beat, and R77 does not order two results of one slot; the model keeps the scales (log entry 61). -/
def vcvtEffect (c w : Nat) (s : State) : State :=
  let func := vFunc w
  let width := cvtWidth func
  let size := 32 * width
  let off := fld w 20 4 * size
  if func < 4 then
    let r := (s.lanes c (vVa w)).map (narrow (cvtFmt func))
    s.stage c 3 (.vec (vVd w) off (packBits width (r.map (·.1)))) (if r.any (·.2) then arOutSat else 0)
  else if func < 8 then
    let bs := ((s.readV c (vVa w)).drop off).take size
    let codes := if width = 16 then unpack16 bs else bs.map (·.toNat)
    s.stage c 3 (.vec (vVd w) 0 (laneBytes (codes.map (widen (cvtFmt func))))) 0
  else
    let bl := (chunks32 8 (s.lanes c (vVa w))).map (mxBlock (func - 8))
    let sat : BitVec 5 := if bl.any (fun b => b.2.2) then arOutSat else 0
    (s.stage c 3 (.vec (vVd w) off (packBits width (bl.flatMap fun b => b.2.1))) sat).stage c 3
      (.vec (vVc w) 0 (bl.map fun b => BitVec.ofNat 8 b.1)) 0

/-- VRMAX: the maximum lane (R126). -/
def vrmaxEffect (c w : Nat) (s : State) : State :=
  let l := s.lanes c (vVa w)
  s.stage c 6 (.scalar (fld w 50 5) (BitVec.ofNat 64 (l.tail.foldl fpMax (l.headD 0)))) 0

/-- The exact sum of the finite lanes in units of 2^-149 (R141). -/
def laneSum (l : List Nat) : Int := l.foldl (fun t c => t + (fpVal c).int) 0

def vxaddEffect (c w : Nat) (s : State) : State :=
  let l := s.lanes c (vVa w)
  let v := l.map fpVal
  s.stage c 6 (.xAdd (fld w 20 2) (laneSum l) (v.any Val.isNan) (v.any fun x => x = .inf false)
    (v.any fun x => x = .inf true)) 0

/-- VXRD (R136, R142): the clear takes effect on the state seen at the issue beat. -/
def vxrdEffect (c w : Nat) (s : State) : State :=
  let x := (s.core c).xReg (fld w 20 2)
  let r := writeOut fmtFp32 x.nan x.pinf x.ninf x.xrange x.sum.toInt 149
  let t := s.stage c 4 (.scalar (fld w 50 5) (BitVec.ofNat 64 r.1)) r.2
  if bitOf w 27 then t.modCore c fun y => y.putX (fld w 20 2) XReg.zero else t

/-- One lane of VNSCL by the first case of R143 that applies. -/
def nsclLane (x : XReg) (a : Nat) : Nat :=
  if x.nan || (x.pinf && x.ninf) then fp32Nan
  else if x.pinf || x.ninf then fpDivInf a x.ninf
  else if x.xrange then fpDivBy a (decide (x.sum.toInt < 0)) ((2 ^ 24 - 1) * 2 ^ 253)
  else if x.sum = 0 then 0
  else fpDivBy a (decide (x.sum.toInt < 0)) x.sum.toInt.natAbs

def vnsclEffect (c w : Nat) (s : State) : State :=
  let x := (s.core c).xReg (fld w 20 2)
  let masked := !(x.nan || x.pinf || x.ninf || x.xrange) && decide (x.sum = 0)
  s.stage c 8 (.vec (vVd w) 0 (laneBytes ((s.lanes c (vVa w)).map (nsclLane x)))) (if masked then arMaskedRow else 0)

def vgetEffect (c w : Nat) (s : State) : State :=
  s.stage c 2 (.scalar (fld w 50 5) (BitVec.ofNat 64 ((s.lanes c (vVa w)).getD (vImm w) 0))) 0

def vrotEffect (c w : Nat) (s : State) : State :=
  vLanes 2 c w (fun t =>
    let l := t.lanes c (vVa w)
    (List.range 256).map fun i => l.getD ((i + vImm w) % 256) 0) s

def vbcstEffect (c w : Nat) (s : State) : State :=
  vLanes 2 c w (fun t => List.replicate 256 ((t.readS c (vSs w)).toNat % 2 ^ 32)) s

def vcmpEffect (c w : Nat) (s : State) : State :=
  vBinary 2 (fun a b => if fpCmp (vFunc w) a b then 0xFFFFFFFF else 0) c w s

/-- VNOP (R112): nothing. -/
def execVnop (core : CoreId) (s : State) : Host.Outcome State Fault Refusal :=
  .next (s.issueSlot core .v 0x00 fun _ t => t)

/-- VADD (R112): Vd = Va + Vb, latency 3. -/
def execVadd (core : CoreId) (s : State) : Host.Outcome State Fault Refusal :=
  .next (s.issueSlot core .v 0x01 (vBinary 3 fpAdd core))

/-- VSUB (R112): Vd = Va − Vb, latency 3. -/
def execVsub (core : CoreId) (s : State) : Host.Outcome State Fault Refusal :=
  .next (s.issueSlot core .v 0x02 (vBinary 3 fpSub core))

/-- VMUL (R112): Vd = Va × Vb, latency 3. -/
def execVmul (core : CoreId) (s : State) : Host.Outcome State Fault Refusal :=
  .next (s.issueSlot core .v 0x03 (vBinary 3 fpMul core))

/-- VFMA (R112): Vd = Va × Vb + Vc, one rounding, latency 4. -/
def execVfma (core : CoreId) (s : State) : Host.Outcome State Fault Refusal :=
  .next (s.issueSlot core .v 0x04 (vTernary 4 fpFma core))

/-- VMAX (R126): latency 2. -/
def execVmax (core : CoreId) (s : State) : Host.Outcome State Fault Refusal :=
  .next (s.issueSlot core .v 0x05 (vBinary 2 fpMax core))

/-- VMIN (R126): latency 2. -/
def execVmin (core : CoreId) (s : State) : Host.Outcome State Fault Refusal :=
  .next (s.issueSlot core .v 0x06 (vBinary 2 fpMin core))

/-- VCMP (R126): all ones where the condition of FUNC holds, else zero, latency 2. -/
def execVcmp (core : CoreId) (s : State) : Host.Outcome State Fault Refusal :=
  .next (s.issueSlot core .v 0x07 (vcmpEffect core))

/-- VSEL (R112): Va where the Vc lane is nonzero, else Vb, latency 2. -/
def execVsel (core : CoreId) (s : State) : Host.Outcome State Fault Refusal :=
  .next (s.issueSlot core .v 0x08 (vTernary 2 (fun a b z => if z = 0 then b else a) core))

/-- VAND (R112): latency 1. -/
def execVand (core : CoreId) (s : State) : Host.Outcome State Fault Refusal :=
  .next (s.issueSlot core .v 0x09 (vBinary 1 Nat.land core))

/-- VOR (R112): latency 1. -/
def execVor (core : CoreId) (s : State) : Host.Outcome State Fault Refusal :=
  .next (s.issueSlot core .v 0x0A (vBinary 1 Nat.lor core))

/-- VXOR (R112): latency 1. -/
def execVxor (core : CoreId) (s : State) : Host.Outcome State Fault Refusal :=
  .next (s.issueSlot core .v 0x0B (vBinary 1 Nat.xor core))

/-- VMOV (R112): Vd = Va, latency 1. -/
def execVmov (core : CoreId) (s : State) : Host.Outcome State Fault Refusal :=
  .next (s.issueSlot core .v 0x0C (vUnary 1 id core))

/-- VBCST (R112): every lane of Vd = S[Ss][31:0], latency 2. -/
def execVbcst (core : CoreId) (s : State) : Host.Outcome State Fault Refusal :=
  .next (s.issueSlot core .v 0x0D (vbcstEffect core))

/-- VGET (R112): S[Vd[4:0]] = lane IMM8 of Va, latency 2. -/
def execVget (core : CoreId) (s : State) : Host.Outcome State Fault Refusal :=
  .next (s.issueSlot core .v 0x0E (vgetEffect core))

/-- VROT (R112): lane i of Vd = lane (i + IMM8) mod 256 of Va, latency 2. -/
def execVrot (core : CoreId) (s : State) : Host.Outcome State Fault Refusal :=
  .next (s.issueSlot core .v 0x0F (vrotEffect core))

/-- VEXP2: 2^Va correctly rounded, latency 8 (R145). -/
def execVexp2 (core : CoreId) (s : State) : Host.Outcome State Fault Refusal :=
  .next (s.issueSlot core .v 0x10 (vUnary 8 fpExp2 core))

/-- VRCP: 1 / Va correctly rounded, latency 8 (R145). -/
def execVrcp (core : CoreId) (s : State) : Host.Outcome State Fault Refusal :=
  .next (s.issueSlot core .v 0x11 (vUnary 8 fpRcp core))

/-- VRSQ: 1 / √Va correctly rounded, latency 8 (R145). -/
def execVrsq (core : CoreId) (s : State) : Host.Outcome State Fault Refusal :=
  .next (s.issueSlot core .v 0x12 (vUnary 8 fpRsq core))

/-- VCVT (R138, R139, R511), latency 3. -/
def execVcvt (core : CoreId) (s : State) : Host.Outcome State Fault Refusal :=
  .next (s.issueSlot core .v 0x13 (vcvtEffect core))

/-- VRMAX (R126): S[Vd[4:0]] = maximum lane of Va, latency 6. -/
def execVrmax (core : CoreId) (s : State) : Host.Outcome State Fault Refusal :=
  .next (s.issueSlot core .v 0x14 (vrmaxEffect core))

/-- VXADD: X += the exact sum of Va's lanes, latency 6 (R141). -/
def execVxadd (core : CoreId) (s : State) : Host.Outcome State Fault Refusal :=
  .next (s.issueSlot core .v 0x15 (vxaddEffect core))

/-- VXRD: S[Vd[4:0]] = X rounded to FP32, latency 4 (R142). -/
def execVxrd (core : CoreId) (s : State) : Host.Outcome State Fault Refusal :=
  .next (s.issueSlot core .v 0x16 (vxrdEffect core))

/-- VNSCL: Vd = Va / X correctly rounded, latency 8 (R143). -/
def execVnscl (core : CoreId) (s : State) : Host.Outcome State Fault Refusal :=
  .next (s.issueSlot core .v 0x17 (vnsclEffect core))

end Sys2Proof.Machine
end

