-- ==== Sys2Proof/Machine/Dispatch.lean ====
section
/-! DEFINITION. The commands of the opcode table and their meanings, one arm each. -/

namespace Sys2Proof.Machine

def exec (i : Instr) (s : State) : Host.Outcome State Fault Refusal :=
  match i with
  | .mnop core => Sys2Proof.Machine.execMnop core s
  | .mma core => Sys2Proof.Machine.execMma core s
  | .mout core => Sys2Proof.Machine.execMout core s
  | .mclr core => Sys2Proof.Machine.execMclr core s
  | .mmaLanding core => Sys2Proof.Machine.execMmaLanding core s
  | .fixedResultVisible core => Sys2Proof.Machine.execFixedResultVisible core s
  | .vnop core => Sys2Proof.Machine.execVnop core s
  | .vadd core => Sys2Proof.Machine.execVadd core s
  | .vsub core => Sys2Proof.Machine.execVsub core s
  | .vmul core => Sys2Proof.Machine.execVmul core s
  | .vfma core => Sys2Proof.Machine.execVfma core s
  | .vmax core => Sys2Proof.Machine.execVmax core s
  | .vmin core => Sys2Proof.Machine.execVmin core s
  | .vcmp core => Sys2Proof.Machine.execVcmp core s
  | .vsel core => Sys2Proof.Machine.execVsel core s
  | .vand core => Sys2Proof.Machine.execVand core s
  | .vor core => Sys2Proof.Machine.execVor core s
  | .vxor core => Sys2Proof.Machine.execVxor core s
  | .vmov core => Sys2Proof.Machine.execVmov core s
  | .vbcst core => Sys2Proof.Machine.execVbcst core s
  | .vget core => Sys2Proof.Machine.execVget core s
  | .vrot core => Sys2Proof.Machine.execVrot core s
  | .vexp2 core => Sys2Proof.Machine.execVexp2 core s
  | .vrcp core => Sys2Proof.Machine.execVrcp core s
  | .vrsq core => Sys2Proof.Machine.execVrsq core s
  | .vcvt core => Sys2Proof.Machine.execVcvt core s
  | .vrmax core => Sys2Proof.Machine.execVrmax core s
  | .vxadd core => Sys2Proof.Machine.execVxadd core s
  | .vxrd core => Sys2Proof.Machine.execVxrd core s
  | .vnscl core => Sys2Proof.Machine.execVnscl core s
  | .lnop core => Sys2Proof.Machine.execLnop core s
  | .ldv core => Sys2Proof.Machine.execLdv core s
  | .stv core => Sys2Proof.Machine.execStv core s
  | .lds core => Sys2Proof.Machine.execLds core s
  | .sts core => Sys2Proof.Machine.execSts core s
  | .ldt core => Sys2Proof.Machine.execLdt core s
  | .vld core => Sys2Proof.Machine.execVld core s
  | .vst core => Sys2Proof.Machine.execVst core s
  | .vldv core => Sys2Proof.Machine.execVldv core s
  | .gst core => Sys2Proof.Machine.execGst core s
  | .groupStoreLanding core => Sys2Proof.Machine.execGroupStoreLanding core s
  | .fence core => Sys2Proof.Machine.execFence core s
  | .pin core => Sys2Proof.Machine.execPin core s
  | .unpin core => Sys2Proof.Machine.execUnpin core s
  | .share core => Sys2Proof.Machine.execShare core s
  | .writeIntent core => Sys2Proof.Machine.execWriteIntent core s
  | .free core => Sys2Proof.Machine.execFree core s
  | .dbell core => Sys2Proof.Machine.execDbell core s
  | .cnop core => Sys2Proof.Machine.execCnop core s
  | .wait core => Sys2Proof.Machine.execWait core s
  | .waitResume core => Sys2Proof.Machine.execWaitResume core s
  | .watch core => Sys2Proof.Machine.execWatch core s
  | .signal core => Sys2Proof.Machine.execSignal core s
  | .signalF core => Sys2Proof.Machine.execSignalF core s
  | .br core => Sys2Proof.Machine.execBr core s
  | .brz core => Sys2Proof.Machine.execBrz core s
  | .brnz core => Sys2Proof.Machine.execBrnz core s
  | .brdec core => Sys2Proof.Machine.execBrdec core s
  | .endSched core => Sys2Proof.Machine.execEndSched core s
  | .phase core => Sys2Proof.Machine.execPhase core s
  | .hint core => Sys2Proof.Machine.execHint core s
  | .sadd core => Sys2Proof.Machine.execSadd core s
  | .ssub core => Sys2Proof.Machine.execSsub core s
  | .smul core => Sys2Proof.Machine.execSmul core s
  | .sand core => Sys2Proof.Machine.execSand core s
  | .sor core => Sys2Proof.Machine.execSor core s
  | .sxor core => Sys2Proof.Machine.execSxor core s
  | .sshl core => Sys2Proof.Machine.execSshl core s
  | .sshr core => Sys2Proof.Machine.execSshr core s
  | .ssra core => Sys2Proof.Machine.execSsra core s
  | .slt core => Sys2Proof.Machine.execSlt core s
  | .sltu core => Sys2Proof.Machine.execSltu core s
  | .smovhi core => Sys2Proof.Machine.execSmovhi core s
  | .loadComplete core op => Sys2Proof.Machine.execLoadComplete core op s
  | .storeComplete core op => Sys2Proof.Machine.execStoreComplete core op s
  | .fenceComplete core op => Sys2Proof.Machine.execFenceComplete core op s
  | .pgkCallComplete call => Sys2Proof.Machine.execPgkCallComplete call s
  | .pageCopyComplete call => Sys2Proof.Machine.execPageCopyComplete call s
  | .sluiceHold core => Sys2Proof.Machine.execSluiceHold core s
  | .outboxRelease core => Sys2Proof.Machine.execOutboxRelease core s
  | .signalArrival counter => Sys2Proof.Machine.execSignalArrival counter s
  | .watchRegistrationArrival counter => Sys2Proof.Machine.execWatchRegistrationArrival counter s
  | .watchCancelArrival counter => Sys2Proof.Machine.execWatchCancelArrival counter s
  | .notificationArrival core slot => Sys2Proof.Machine.execNotificationArrival core slot s
  | .synCntWrite path counter value => Sys2Proof.Machine.execSynCntWrite path counter value s
  | .synAddWrite path counter amount => Sys2Proof.Machine.execSynAddWrite path counter amount s
  | .hostWatchArm path region counter => Sys2Proof.Machine.execHostWatchArm path region counter s
  | .hostWatchCancel path region counter => Sys2Proof.Machine.execHostWatchCancel path region counter s
  | .deadlock part job => Sys2Proof.Machine.execDeadlock part job s
  | .dmaDbell path region chan => Sys2Proof.Machine.execDmaDbell path region chan s
  | .descriptorFetch region chan => Sys2Proof.Machine.execDescriptorFetch region chan s
  | .dmaReadReturn region chan => Sys2Proof.Machine.execDmaReadReturn region chan s
  | .dmaWriteResponse region chan => Sys2Proof.Machine.execDmaWriteResponse region chan s
  | .descriptorComplete region chan => Sys2Proof.Machine.execDescriptorComplete region chan s
  | .descriptorError region chan => Sys2Proof.Machine.execDescriptorError region chan s
  | .dmaAbort path region chan => Sys2Proof.Machine.execDmaAbort path region chan s
  | .dmaDrainEnd region chan => Sys2Proof.Machine.execDmaDrainEnd region chan s
  | .dmaAllocWrite path region chan alloc => Sys2Proof.Machine.execDmaAllocWrite path region chan alloc s
  | .pgkCallPin path part n => Sys2Proof.Machine.execPgkCallPin path part n s
  | .pgkCallUnpin path part n => Sys2Proof.Machine.execPgkCallUnpin path part n s
  | .pgkCallShare path part n => Sys2Proof.Machine.execPgkCallShare path part n s
  | .pgkCallWriteIntent path part => Sys2Proof.Machine.execPgkCallWriteIntent path part s
  | .pgkCallFree path part => Sys2Proof.Machine.execPgkCallFree path part s
  | .query path part => Sys2Proof.Machine.execQuery path part s
  | .pgkEnable path part keep psize => Sys2Proof.Machine.execPgkEnable path part keep psize s
  | .pgkScanDone part => Sys2Proof.Machine.execPgkScanDone part s
  | .pgkDisable path part => Sys2Proof.Machine.execPgkDisable path part s
  | .pgkDisableDone part => Sys2Proof.Machine.execPgkDisableDone part s
  | .scoutRequest region => Sys2Proof.Machine.execScoutRequest region s
  | .scoutDone region => Sys2Proof.Machine.execScoutDone region s
  | .scoutEnable path region size ctr => Sys2Proof.Machine.execScoutEnable path region size ctr s
  | .nbRecordWrite path col data => Sys2Proof.Machine.execNbRecordWrite path col data s
  | .nbSequenceStart col => Sys2Proof.Machine.execNbSequenceStart col s
  | .nbSliceEnd col => Sys2Proof.Machine.execNbSliceEnd col s
  | .nbOverrun col => Sys2Proof.Machine.execNbOverrun col s
  | .nbSequenceDone col => Sys2Proof.Machine.execNbSequenceDone col s
  | .act col pos bank row => Sys2Proof.Machine.execAct col pos bank row s
  | .rd col pos bank burst auto => Sys2Proof.Machine.execRd col pos bank burst auto s
  | .wr col pos bank burst auto sent => Sys2Proof.Machine.execWr col pos bank burst auto sent s
  | .pre col pos bank all => Sys2Proof.Machine.execPre col pos bank all s
  | .ref col pos => Sys2Proof.Machine.execRef col pos s
  | .sre col pos => Sys2Proof.Machine.execSre col pos s
  | .srx col pos => Sys2Proof.Machine.execSrx col pos s
  | .mrr col pos reg => Sys2Proof.Machine.execMrr col pos reg s
  | .mrw col pos reg value => Sys2Proof.Machine.execMrw col pos reg value s
  | .nbl col pos k value => Sys2Proof.Machine.execNbl col pos k value s
  | .nbgo col pos units => Sys2Proof.Machine.execNbgo col pos units s
  | .nbs col pos => Sys2Proof.Machine.execNbs col pos s
  | .nba col pos => Sys2Proof.Machine.execNba col pos s
  | .tierCommandReject col packet => Sys2Proof.Machine.execTierCommandReject col packet s
  | .vcAlert col onCommand => Sys2Proof.Machine.execVcAlert col onCommand s
  | .refreshDue col tier => Sys2Proof.Machine.execRefreshDue col tier s
  | .tierTempFrame col temp => Sys2Proof.Machine.execTierTempFrame col temp s
  | .columnCool col => Sys2Proof.Machine.execColumnCool col s
  | .tierTempLost col => Sys2Proof.Machine.execTierTempLost col s
  | .hostRd hdr => Sys2Proof.Machine.execHostRd hdr s
  | .hostWr hdr data => Sys2Proof.Machine.execHostWr hdr data s
  | .cpl tid data => Sys2Proof.Machine.execCpl tid data s
  | .wrsp tid => Sys2Proof.Machine.execWrsp tid s
  | .err tid cause => Sys2Proof.Machine.execErr tid cause s
  | .hostTimeout tid => Sys2Proof.Machine.execHostTimeout tid s
  | .peerWr port tid len addr data => Sys2Proof.Machine.execPeerWr port tid len addr data s
  | .peerRd port tid len addr => Sys2Proof.Machine.execPeerRd port tid len addr s
  | .peerSig port tid amount counter => Sys2Proof.Machine.execPeerSig port tid amount counter s
  | .ack port tid => Sys2Proof.Machine.execAck port tid s
  | .nack port tid cause => Sys2Proof.Machine.execNack port tid cause s
  | .rdata port tid len data => Sys2Proof.Machine.execRdata port tid len data s
  | .crd port req data => Sys2Proof.Machine.execCrd port req data s
  | .pace port f reason period seq => Sys2Proof.Machine.execPace port f reason period seq s
  | .init port blockId req data => Sys2Proof.Machine.execInit port blockId req data s
  | .peerMessageMalformed port tid => Sys2Proof.Machine.execPeerMessageMalformed port tid s
  | .peerLinkUp port => Sys2Proof.Machine.execPeerLinkUp port s
  | .peerLinkDown port => Sys2Proof.Machine.execPeerLinkDown port s
  | .peerInitTimeout port => Sys2Proof.Machine.execPeerInitTimeout port s
  | .peerAccessTimeout port tid => Sys2Proof.Machine.execPeerAccessTimeout port tid s
  | .creditReturnDue port => Sys2Proof.Machine.execCreditReturnDue port s
  | .pacePeriodEnd port => Sys2Proof.Machine.execPacePeriodEnd port s
  | .paceExpire port => Sys2Proof.Machine.execPaceExpire port s
  | .peerEnable path port => Sys2Proof.Machine.execPeerEnable path port s
  | .peerDisable path port => Sys2Proof.Machine.execPeerDisable path port s
  | .loopSample => Sys2Proof.Machine.execLoopSample s
  | .loopApply => Sys2Proof.Machine.execLoopApply s
  | .loopOpen path region value => Sys2Proof.Machine.execLoopOpen path region value s
  | .loopClose path region value => Sys2Proof.Machine.execLoopClose path region value s
  | .loopOpenExpired region => Sys2Proof.Machine.execLoopOpenExpired region s
  | .capWrite path window value => Sys2Proof.Machine.execCapWrite path window value s
  | .floorWrite path part value => Sys2Proof.Machine.execFloorWrite path part value s
  | .hintPrepStart core phase => Sys2Proof.Machine.execHintPrepStart core phase s
  | .hintPrepEnd core phase => Sys2Proof.Machine.execHintPrepEnd core phase s
  | .marginTrim core passAt passBelow roscPct => Sys2Proof.Machine.execMarginTrim core passAt passBelow roscPct s
  | .pwmPeriod vr inp => Sys2Proof.Machine.execPwmPeriod vr inp s
  | .phaseBalance vr mA => Sys2Proof.Machine.execPhaseBalance vr mA s
  | .phaseSuspect vr ph => Sys2Proof.Machine.execPhaseSuspect vr ph s
  | .phaseDisable vr ph => Sys2Proof.Machine.execPhaseDisable vr ph s
  | .shedStep vr meanMA => Sys2Proof.Machine.execShedStep vr meanMA s
  | .addBack vr => Sys2Proof.Machine.execAddBack vr s
  | .undershootTrip trip => Sys2Proof.Machine.execUndershootTrip trip s
  | .shedSuspendEnd vr => Sys2Proof.Machine.execShedSuspendEnd vr s
  | .hiccup vr => Sys2Proof.Machine.execHiccup vr s
  | .hiccupEnd vr => Sys2Proof.Machine.execHiccupEnd vr s
  | .stageWarning vr stage temp => Sys2Proof.Machine.execStageWarning vr stage temp s
  | .stageShutdown vr stage temp => Sys2Proof.Machine.execStageShutdown vr stage temp s
  | .senseExclude core sensor => Sys2Proof.Machine.execSenseExclude core sensor s
  | .senseRemoteFallback core => Sys2Proof.Machine.execSenseRemoteFallback core s
  | .brownOut core => Sys2Proof.Machine.execBrownOut core s
  | .tieClose core => Sys2Proof.Machine.execTieClose core s
  | .corePowerRequest path region value => Sys2Proof.Machine.execCorePowerRequest path region value s
  | .retainComplete core => Sys2Proof.Machine.execRetainComplete core s
  | .powerUpGrant region => Sys2Proof.Machine.execPowerUpGrant region s
  | .inrushForce region => Sys2Proof.Machine.execInrushForce region s
  | .rampEnd region => Sys2Proof.Machine.execRampEnd region s
  | .rampTimeout vr => Sys2Proof.Machine.execRampTimeout vr s
  | .retentionFault region => Sys2Proof.Machine.execRetentionFault region s
  | .adcConversion region conv code ovr => Sys2Proof.Machine.execAdcConversion region conv code ovr s
  | .tlmSpot path region input conv => Sys2Proof.Machine.execTlmSpot path region input conv s
  | .tlmSnap path region rstMm => Sys2Proof.Machine.execTlmSnap path region rstMm s
  | .refSettle vref => Sys2Proof.Machine.execRefSettle vref s
  | .tlmRefTimeout region => Sys2Proof.Machine.execTlmRefTimeout region s
  | .tlmStale region chan => Sys2Proof.Machine.execTlmStale region chan s
  | .telemetryWindowEnd => Sys2Proof.Machine.execTelemetryWindowEnd s
  | .jobEnergyClear path slot => Sys2Proof.Machine.execJobEnergyClear path slot s
  | .sensorConversion sensor reading => Sys2Proof.Machine.execSensorConversion sensor reading s
  | .sensorSuspectClear path sensor => Sys2Proof.Machine.execSensorSuspectClear path sensor s
  | .coolantOkFall => Sys2Proof.Machine.execCoolantOkFall s
  | .coolantLoss => Sys2Proof.Machine.execCoolantLoss s
  | .coolantOkRise => Sys2Proof.Machine.execCoolantOkRise s
  | .coolantRecoverOk => Sys2Proof.Machine.execCoolantRecoverOk s
  | .resume path => Sys2Proof.Machine.execResume path s
  | .faultEvent src loc job tag => Sys2Proof.Machine.execFaultEvent src loc job tag s
  | .brokenWire src loc reading => Sys2Proof.Machine.execBrokenWire src loc reading s
  | .collectorMismatch => Sys2Proof.Machine.execCollectorMismatch s
  | .faultWindowClose src => Sys2Proof.Machine.execFaultWindowClose src s
  | .faultClear path k value => Sys2Proof.Machine.execFaultClear path k value s
  | .faultInjectArm path value => Sys2Proof.Machine.execFaultInjectArm path value s
  | .errPulseEnd => Sys2Proof.Machine.execErrPulseEnd s
  | .errHeldClear path => Sys2Proof.Machine.execErrHeldClear path s
  | .eventArrival part src cls => Sys2Proof.Machine.execEventArrival part src cls s
  | .eventWithdraw path part k value => Sys2Proof.Machine.execEventWithdraw path part k value s
  | .recordSelect part => Sys2Proof.Machine.execRecordSelect part s
  | .recordWrite part => Sys2Proof.Machine.execRecordWrite part s
  | .recordComplete part ok => Sys2Proof.Machine.execRecordComplete part ok s
  | .messageSend part => Sys2Proof.Machine.execMessageSend part s
  | .evqTailWrite path part value => Sys2Proof.Machine.execEvqTailWrite path part value s
  | .evqEnable path part value => Sys2Proof.Machine.execEvqEnable path part value s
  | .evqDisable path part value => Sys2Proof.Machine.execEvqDisable path part value s
  | .idleEnter path => Sys2Proof.Machine.execIdleEnter path s
  | .idleReached => Sys2Proof.Machine.execIdleReached s
  | .idleWake path => Sys2Proof.Machine.execIdleWake path s
  | .launch path part => Sys2Proof.Machine.execLaunch path part s
  | .jobStart part job => Sys2Proof.Machine.execJobStart part job s
  | .partStop path part mask => Sys2Proof.Machine.execPartStop path part mask s
  | .partitionCommit path scrub => Sys2Proof.Machine.execPartitionCommit path scrub s
  | .commitApply => Sys2Proof.Machine.execCommitApply s
  | .entdaa addr => Sys2Proof.Machine.execEntdaa addr s
  | .setdasa addr => Sys2Proof.Machine.execSetdasa addr s
  | .rstdaa => Sys2Proof.Machine.execRstdaa s
  | .enec => Sys2Proof.Machine.execEnec s
  | .disec => Sys2Proof.Machine.execDisec s
  | .getpid => Sys2Proof.Machine.execGetpid s
  | .getbcr => Sys2Proof.Machine.execGetbcr s
  | .getdcr => Sys2Proof.Machine.execGetdcr s
  | .getstatus => Sys2Proof.Machine.execGetstatus s
  | .getmrl => Sys2Proof.Machine.execGetmrl s
  | .setmrl len => Sys2Proof.Machine.execSetmrl len s
  | .getmwl => Sys2Proof.Machine.execGetmwl s
  | .setmwl len => Sys2Proof.Machine.execSetmwl len s
  | .cccUnsupported code => Sys2Proof.Machine.execCccUnsupported code s
  | .ibi => Sys2Proof.Machine.execIbi s
  | .setEndpointId eid => Sys2Proof.Machine.execSetEndpointId eid s
  | .getEndpointId => Sys2Proof.Machine.execGetEndpointId s
  | .getMctpVersionSupport => Sys2Proof.Machine.execGetMctpVersionSupport s
  | .getMessageTypeSupport => Sys2Proof.Machine.execGetMessageTypeSupport s
  | .getTid => Sys2Proof.Machine.execGetTid s
  | .getPldmVersion ty => Sys2Proof.Machine.execGetPldmVersion ty s
  | .getPldmTypes => Sys2Proof.Machine.execGetPldmTypes s
  | .getPldmCommands ty => Sys2Proof.Machine.execGetPldmCommands ty s
  | .getPdrRepositoryInfo => Sys2Proof.Machine.execGetPdrRepositoryInfo s
  | .getPdr handle => Sys2Proof.Machine.execGetPdr handle s
  | .getSensorReading id => Sys2Proof.Machine.execGetSensorReading id s
  | .getStateSensorReadings id => Sys2Proof.Machine.execGetStateSensorReadings id s
  | .pldmUnsupported ty cmd => Sys2Proof.Machine.execPldmUnsupported ty cmd s
  | .read32 pen offset => Sys2Proof.Machine.execRead32 pen offset s
  | .write32 pen offset value => Sys2Proof.Machine.execWrite32 pen offset value s
  | .read64 pen offset => Sys2Proof.Machine.execRead64 pen offset s
  | .readLo pen offset => Sys2Proof.Machine.execReadLo pen offset s
  | .stbyOkAssert => Sys2Proof.Machine.execStbyOkAssert s
  | .pillarOkAssert => Sys2Proof.Machine.execPillarOkAssert s
  | .pwrGoodAssert => Sys2Proof.Machine.execPwrGoodAssert s
  | .rstNRelease => Sys2Proof.Machine.execRstNRelease s
  | .rstNAssert => Sys2Proof.Machine.execRstNAssert s
  | .supplyLoss pillar pwrGood => Sys2Proof.Machine.execSupplyLoss pillar pwrGood s
  | .powerCycle => Sys2Proof.Machine.execPowerCycle s
  | .vstbyLow => Sys2Proof.Machine.execVstbyLow s
  | .pillarVoltageFault region => Sys2Proof.Machine.execPillarVoltageFault region s
  | .refclkLost => Sys2Proof.Machine.execRefclkLost s
  | .epochEdge => Sys2Proof.Machine.execEpochEdge s
  | .epochEarly => Sys2Proof.Machine.execEpochEarly s
  | .epochLost => Sys2Proof.Machine.execEpochLost s
  | .epochArm path => Sys2Proof.Machine.execEpochArm path s
  | .imageReadComplete image => Sys2Proof.Machine.execImageReadComplete image s
  | .imageVerifyComplete => Sys2Proof.Machine.execImageVerifyComplete s
  | .trainingComplete fails => Sys2Proof.Machine.execTrainingComplete fails s
  | .hold path => Sys2Proof.Machine.execHold path s
  | .reboot path => Sys2Proof.Machine.execReboot path s
  | .dpd path => Sys2Proof.Machine.execDpd path s
  | .dpdReturn => Sys2Proof.Machine.execDpdReturn s
  | .start path len => Sys2Proof.Machine.execStart path len s
  | .updateData path data => Sys2Proof.Machine.execUpdateData path data s
  | .finish path => Sys2Proof.Machine.execFinish path s
  | .abort path => Sys2Proof.Machine.execAbort path s
  | .flashOperationDone ok => Sys2Proof.Machine.execFlashOperationDone ok s
  | .flashTimeout => Sys2Proof.Machine.execFlashTimeout s
  | .fuseProgram path word => Sys2Proof.Machine.execFuseProgram path word s
  | .fuseProgramDone ok => Sys2Proof.Machine.execFuseProgramDone ok s
  | .tstUnlock path key => Sys2Proof.Machine.execTstUnlock path key s
  | .tstLock path => Sys2Proof.Machine.execTstLock path s
  | .registerWrite path offset value => Sys2Proof.Machine.execRegisterWrite path offset value s
  | .blockBeat => Sys2Proof.Machine.execBlockBeat s
  | .referenceClockReturn => Sys2Proof.Machine.execReferenceClockReturn s
  | .referenceLock => Sys2Proof.Machine.execReferenceLock s
  | .minimumIntervalEnd input => Sys2Proof.Machine.execMinimumIntervalEnd input s
  | .sfdpReadComplete signature has144 => Sys2Proof.Machine.execSfdpReadComplete signature has144 s
  | .coreStoreReady core => Sys2Proof.Machine.execCoreStoreReady core s
  | .otWarnClear vr => Sys2Proof.Machine.execOtWarnClear vr s

end Sys2Proof.Machine
end

