-- ==== Sys2Proof/Safety.lean ====
section
/-! DEFINITION. What a safe run is, and the words in which the statements of Certificates/ speak of issuing a slot and of writing a
register. The model has no fault, and a refusal would be a command without a meaning, so a run is safe as long as no command is
refused. -/

namespace Sys2Proof

/-- The step gives a next state. -/
def SafeStep (s : Machine.State) : Prop := ∃ t, Machine.step s = .next t

/-- Every one of the next `n` steps gives a next state. -/
def SafeRun : Nat → Machine.State → Prop
  | 0, _ => True
  | n + 1, s => ∃ t, Machine.step s = .next t ∧ SafeRun n t

end Sys2Proof

namespace Sys2Proof.Machine

/-! ## Slots -/

/-- The state in which a slot of core `c` takes its operands: the results due by its core beat are in effect (R76), the fetch is
counted (R515), and words of outstanding loads that come early have reached their destinations (R78). -/
def State.atIssue (s : State) (c : Nat) : State := ((s.settle c).fetchCount c).landEarly c

/-- Bits [55:0] of the slot's word of the bundle at CORE_NEXT. -/
def State.slotBits (s : State) (c : Nat) (i : SlotName) : Nat := (s.settle c).slotWord c i % 2 ^ 56

/-- The slot has issued with the effect that leads to `t`. -/
def State.issuedBy (c : Nat) (i : SlotName) (t : State) : State := t.markSlot c i

/-- The slot commands of core `c` with their slot and operation (R99, R112, R113, R117). -/
def slotRows (c : CoreId) : List (Instr × SlotName × Nat) :=
  [(.mnop c, .m, 0x00), (.mma c, .m, 0x01), (.mout c, .m, 0x02), (.mclr c, .m, 0x03), (.vnop c, .v, 0x00),
    (.vadd c, .v, 0x01), (.vsub c, .v, 0x02), (.vmul c, .v, 0x03), (.vfma c, .v, 0x04), (.vmax c, .v, 0x05),
    (.vmin c, .v, 0x06), (.vcmp c, .v, 0x07), (.vsel c, .v, 0x08), (.vand c, .v, 0x09), (.vor c, .v, 0x0A),
    (.vxor c, .v, 0x0B), (.vmov c, .v, 0x0C), (.vbcst c, .v, 0x0D), (.vget c, .v, 0x0E), (.vrot c, .v, 0x0F),
    (.vexp2 c, .v, 0x10), (.vrcp c, .v, 0x11), (.vrsq c, .v, 0x12), (.vcvt c, .v, 0x13), (.vrmax c, .v, 0x14),
    (.vxadd c, .v, 0x15), (.vxrd c, .v, 0x16), (.vnscl c, .v, 0x17), (.lnop c, .l, 0x00), (.ldv c, .l, 0x01),
    (.stv c, .l, 0x02), (.lds c, .l, 0x03), (.sts c, .l, 0x04), (.ldt c, .l, 0x05), (.vld c, .l, 0x08),
    (.vst c, .l, 0x09), (.vldv c, .l, 0x0A), (.gst c, .l, 0x0C), (.fence c, .l, 0x10), (.pin c, .l, 0x11),
    (.unpin c, .l, 0x11), (.share c, .l, 0x11), (.writeIntent c, .l, 0x11), (.free c, .l, 0x11), (.dbell c, .l, 0x12),
    (.cnop c, .c, 0x00), (.wait c, .c, 0x01), (.watch c, .c, 0x02), (.signal c, .c, 0x03), (.signalF c, .c, 0x04),
    (.br c, .c, 0x08), (.brz c, .c, 0x09), (.brnz c, .c, 0x0A), (.brdec c, .c, 0x0B), (.endSched c, .c, 0x0F),
    (.phase c, .c, 0x10), (.hint c, .c, 0x11), (.sadd c, .c, 0x20), (.ssub c, .c, 0x21), (.smul c, .c, 0x22),
    (.sand c, .c, 0x23), (.sor c, .c, 0x24), (.sxor c, .c, 0x25), (.sshl c, .c, 0x26), (.sshr c, .c, 0x27),
    (.ssra c, .c, 0x28), (.slt c, .c, 0x29), (.sltu c, .c, 0x2A), (.smovhi c, .c, 0x2B)]

/-- Operations whose effect at issue is a staged result, a change of the core's own control, or nothing. -/
def stagingOnly (i : SlotName) (op : Nat) : Bool :=
  match i with
  | .m => true
  | .v => true
  | .l => op = 0x00 || op = 0x02 || op = 0x04
  | .c => op = 0x00 || (decide (0x08 ≤ op) && decide (op ≤ 0x0B)) || decide (0x20 ≤ op)

/-- The table of cores has its canonical form. -/
def State.coresWf (s : State) : Bool := tabWf (fun _ => Core.initial) s.cores

/-- Memory and the tables of the state have their canonical form: entries in rising order, none equal to what an unlisted one reads. -/
def State.tablesWf (s : State) : Bool :=
  s.mem.wf && s.coresWf && tabWf checkDefault s.check && tabWf counterDefault s.sync.counters &&
    tabWf (fun _ => Channel.initial) s.dma && tabWf (fun _ => Peer.initial) s.peers

/-! ## Writes of registers -/

/-- A host write of the register at `o` for tag `t`, made by a command that carries no transaction of its own. -/
def hostWriteAt (t : PartId) (o : Nat) : HeldTx :=
  { req := ⟨.host t, none⟩, read := false, addr := windowBase + o, len := 4, data := [], why := .wait }

/-- The path reaches the register at `o` now with a write: the port is open, the block state and any commit admit it, it is no wake
cause, it waits behind no other access, and the tag owns the register (R9, R57, R443, R453, R454, R463, R465). -/
def State.pathAdmits (s : State) (p : Path) (o : Nat) : Bool :=
  decide (o % 4 = 0) && decide (o < windowSize) &&
  match p with
  | .side => s.sideOpen && (!(s.blockState = 6) || alwaysOnReg o)
  | .host t =>
    s.hostReady && !s.hostShut (hostWriteAt t o) && s.awake && !s.mustWait (hostWriteAt t o) && s.admits t o true

/-- The block takes the transaction now: the port is open, the block state and any commit admit it, it is no wake cause, and it waits
behind no other (R57, R443, R454, R465, R514). -/
def State.hostTakes (s : State) (h : HeldTx) : Bool :=
  s.hostReady && !s.hostShut h && (quietRead h || s.awake) && !s.mustWait h

/-- The transaction that a header and its data make. -/
def hostTx (h : HostHeader) (read : Bool) (data : List Byte) : HeldTx :=
  { req := ⟨.host ⟨h.tag.toNat % 8, Nat.mod_lt _ (by decide)⟩, some (h.tid.toNat % 1024)⟩, read := read, addr := h.addr.toNat,
    len := h.len.toNat, data := data, why := .wait }

/-- The request of a write made by a command that carries no transaction of its own. -/
def asks (p : Path) : Request := ⟨p, none⟩

end Sys2Proof.Machine
end

