-- ==== Sys2Proof/WellFormed.lean ====
section
/-! DEFINITION. Which commands are well formed: what the spec limits of an operand and the operand's type does not already say.
A command that is not is no message of its sender's protocol; `exec` still answers it, and the statements that need it say so. -/

namespace Sys2Proof

/-- Tier position of a packet: a tier, or 31 for every tier (R175). -/
def wfPosition (pos : BitVec 5) : Bool := decide (pos.toNat ≤ 19) || decide (pos.toNat = 31)

/-- Common commands that R459 names, by their I3C code (broadcast and direct). -/
def supportedCcc : List Nat :=
  [0x00, 0x01, 0x06, 0x07, 0x09, 0x0A, 0x80, 0x81, 0x87, 0x89, 0x8A, 0x8B, 0x8C, 0x8D, 0x8E, 0x8F, 0x90]

/-- PLDM commands that R461 names: type and command. -/
def supportedPldm : List (Nat × Nat) :=
  [(0, 0x02), (0, 0x03), (0, 0x04), (0, 0x05), (2, 0x11), (2, 0x21), (2, 0x50), (2, 0x51)]

/-- Host transaction header: OPC, tag 0 to 7, TID 0 to 1,023, at least one byte, no 4 KiB boundary crossed (R452). -/
def wfHeader (opc : BitVec 8) (h : HostHeader) : Bool :=
  h.opc = opc && decide (h.tag.toNat < 8) && decide (h.tid.toNat < 1024) && decide (h.len ≠ 0) &&
    decide (h.addr.toNat % 4096 + h.len.toNat ≤ 4096)

/-- Offset of a register within the window of 64 MiB (R8). -/
def wfOffset (o : BitVec 32) : Bool := decide (o.toNat < 0x4000000)

def Instr.wf : Instr → Bool
  | .act _ pos _ _ => wfPosition pos
  | .rd _ pos _ _ _ => wfPosition pos
  | .wr _ pos _ _ _ b => wfPosition pos && decide (b.data.length = 1024) && decide (b.checks.length = 128)
  | .pre _ pos _ _ => wfPosition pos
  | .ref _ pos => wfPosition pos
  | .sre _ pos => wfPosition pos
  | .srx _ pos => wfPosition pos
  | .mrr _ pos _ => wfPosition pos
  | .mrw _ pos _ _ => wfPosition pos
  | .nbl _ pos _ _ => wfPosition pos
  | .nbgo _ pos _ => wfPosition pos
  | .nbs _ pos => wfPosition pos
  | .nba _ pos => wfPosition pos
  | .nbRecordWrite _ _ data => decide (data.length % 32 = 0) && decide (0 < data.length)
  | .hostRd h => wfHeader 1 h
  | .hostWr h data => wfHeader 2 h && decide (data.length = h.len.toNat)
  | .phaseBalance _ mA => decide (mA.length = 8)
  | .pwmPeriod vr inp => decide (inp.phases.length = 8) && decide (inp.stages.length = 4) &&
      (decide (256 ≤ vr.val) || decide (inp.sensors.length = 8))
  | .undershootTrip u => decide (u.phases.length = 8) && (decide (256 ≤ u.vr.val) || decide (u.sensors.length = 8))
  | .cccUnsupported code => !supportedCcc.contains code.toNat
  | .pldmUnsupported t c => !supportedPldm.contains (t.toNat, c.toNat)
  | .entdaa a => decide (a ≠ 0)
  | .setdasa a => decide (a ≠ 0)
  | .read32 _ o => wfOffset o
  | .write32 _ o _ => wfOffset o
  | .read64 _ o => wfOffset o
  | .readLo _ o => wfOffset o
  | .registerWrite _ o _ => wfOffset o
  | _ => true

end Sys2Proof
end

