-- ==== Sys2Proof/Certificates/Slice0/Obligations.lean ====
section
/-! DEFINITION. The statements for the provers. Each is about every state, and says for the commands it names that `exec` answers
a next state, and which. Free values are those of Config (log entry 2). -/

open Sys2Proof Sys2Proof.Machine

/-! ## The step -/

/-- The front command runs on the state with the rest of the queue. -/
def Obligations.StepRunsFront : Prop :=
  ∀ (s : State) (c : Instr) (rest : List Instr), s.pending = c :: rest → step s = exec c (s.setPending rest)

/-! ## M, V, L and C slots -/

/-- R106 to R111: products land six core beats later, a write-out is visible after four, a clear after one. -/
def Obligations.MatrixSlotIssues : Prop :=
  ∀ (s : State) (c : CoreId),
    let u := s.atIssue c
    let w := s.slotBits c .m
    let go := fun (t : State) => (.next (State.issuedBy c .m t) : Host.Outcome State Fault Refusal)
    (s.slotReady c .m 0x00 = true → exec (.mnop c) s = go u) ∧
    (s.slotReady c .m 0x01 = true → exec (.mma c) s = go (u.stage c 6 (.land (mmaLandingOf u c w)) 0)) ∧
    (s.slotReady c .m 0x02 = true →
      exec (.mout c) s = go (
        let r := moutBytes ((u.core c).accSet (fld w 52 4)) (fld w 43 3)
        let t := u.stage c 4 (.vec (fld w 46 6) (fld w 40 3 * 128 * ((outFmt (fld w 43 3)).width / 8)) r.1) r.2
        if bitOf w 39 then t.stage c 1 (.accClear (fld w 52 4)) 0 else t)) ∧
    (s.slotReady c .m 0x03 = true → exec (.mclr c) s = go (u.stage c 1 (.accClear (fld w 52 4)) 0))

/-- R112, R126, R138 to R143, R511: the operations of the V slot with their latencies: lanes, conversions, lanes to scalars, the exact sum
and the normaliser. -/
def Obligations.VectorSlotIssues : Prop :=
  (∀ (s : State) (c : CoreId),
    let u := s.atIssue c
    let w := s.slotBits c .v
    let a := u.lanes c (fld w 44 6)
    let b := u.lanes c (fld w 38 6)
    let d := u.lanes c (fld w 32 6)
    let go := fun (latency : Nat) (l : List Nat) =>
      (.next (State.issuedBy c .v (u.stage c latency (.vec (fld w 50 6) 0 (laneBytes l)) 0)) : Host.Outcome State Fault Refusal)
    (s.slotReady c .v 0x00 = true → exec (.vnop c) s = .next (State.issuedBy c .v u)) ∧
    (s.slotReady c .v 0x01 = true → exec (.vadd c) s = go 3 (List.zipWith fpAdd a b)) ∧
    (s.slotReady c .v 0x02 = true → exec (.vsub c) s = go 3 (List.zipWith fpSub a b)) ∧
    (s.slotReady c .v 0x03 = true → exec (.vmul c) s = go 3 (List.zipWith fpMul a b)) ∧
    (s.slotReady c .v 0x04 = true →
      exec (.vfma c) s = go 4 (List.zipWith (fun p z => fpFma p.1 p.2 z) (List.zip a b) d)) ∧
    (s.slotReady c .v 0x05 = true → exec (.vmax c) s = go 2 (List.zipWith fpMax a b)) ∧
    (s.slotReady c .v 0x06 = true → exec (.vmin c) s = go 2 (List.zipWith fpMin a b)) ∧
    (s.slotReady c .v 0x07 = true →
      exec (.vcmp c) s = go 2 (List.zipWith (fun x y => if fpCmp (fld w 28 4) x y then 0xFFFFFFFF else 0) a b)) ∧
    (s.slotReady c .v 0x08 = true →
      exec (.vsel c) s = go 2 (List.zipWith (fun p z => if z = 0 then p.2 else p.1) (List.zip a b) d)) ∧
    (s.slotReady c .v 0x09 = true → exec (.vand c) s = go 1 (List.zipWith Nat.land a b)) ∧
    (s.slotReady c .v 0x0A = true → exec (.vor c) s = go 1 (List.zipWith Nat.lor a b)) ∧
    (s.slotReady c .v 0x0B = true → exec (.vxor c) s = go 1 (List.zipWith Nat.xor a b)) ∧
    (s.slotReady c .v 0x0C = true → exec (.vmov c) s = go 1 a) ∧
    (s.slotReady c .v 0x0D = true →
      exec (.vbcst c) s = go 2 (List.replicate 256 ((u.readS c (fld w 15 5)).toNat % 2 ^ 32))) ∧
    (s.slotReady c .v 0x0F = true →
      exec (.vrot c) s = go 2 ((List.range 256).map fun i => a.getD ((i + fld w 20 8) % 256) 0)) ∧
    (s.slotReady c .v 0x10 = true → exec (.vexp2 c) s = go 8 (a.map fpExp2)) ∧
    (s.slotReady c .v 0x11 = true → exec (.vrcp c) s = go 8 (a.map fpRcp)) ∧
    (s.slotReady c .v 0x12 = true → exec (.vrsq c) s = go 8 (a.map fpRsq))) ∧
  (∀ (s : State) (c : CoreId),
    let u := s.atIssue c
    let w := s.slotBits c .v
    let a := u.lanes c (fld w 44 6)
    let x := (u.core c).xReg (fld w 20 2)
    let go := fun (t : State) => (.next (State.issuedBy c .v t) : Host.Outcome State Fault Refusal)
    (s.slotReady c .v 0x0E = true →
      exec (.vget c) s = go (u.stage c 2 (.scalar (fld w 50 5) (BitVec.ofNat 64 (a.getD (fld w 20 8) 0))) 0)) ∧
    (s.slotReady c .v 0x13 = true → exec (.vcvt c) s = go (vcvtEffect c w u)) ∧
    (s.slotReady c .v 0x14 = true →
      exec (.vrmax c) s = go (u.stage c 6 (.scalar (fld w 50 5) (BitVec.ofNat 64 (a.tail.foldl fpMax (a.headD 0)))) 0)) ∧
    (s.slotReady c .v 0x15 = true →
      exec (.vxadd c) s = go (u.stage c 6 (.xAdd (fld w 20 2) (laneSum a) ((a.map fpVal).any Val.isNan)
        ((a.map fpVal).any fun v => v = .inf false) ((a.map fpVal).any fun v => v = .inf true)) 0)) ∧
    (s.slotReady c .v 0x16 = true →
      exec (.vxrd c) s = go (
        let r := writeOut fmtFp32 x.nan x.pinf x.ninf x.xrange x.sum.toInt 149
        let t := u.stage c 4 (.scalar (fld w 50 5) (BitVec.ofNat 64 r.1)) r.2
        if bitOf w 27 then t.modCore c fun y => y.putX (fld w 20 2) XReg.zero else t)) ∧
    (s.slotReady c .v 0x17 = true →
      exec (.vnscl c) s = go (u.stage c 8 (.vec (fld w 50 6) 0 (laneBytes (a.map (nsclLane x))))
        (if !(x.nan || x.pinf || x.ninf || x.xrange) && decide (x.sum = 0) then arMaskedRow else 0))))

/-- R113: accesses to the own core store. A read that meets an uncorrectable word stages nothing. -/
def Obligations.OwnStoreSlotIssues : Prop :=
  ∀ (s : State) (c : CoreId),
    let u := s.atIssue c
    let w := s.slotBits c .l
    let off := ownOffset (u.core c) w
    let go := fun (t : State) => (.next (State.issuedBy c .l t) : Host.Outcome State Fault Refusal)
    let load := fun (n : Nat) (res : List Byte → Result) =>
      go (let r := u.loadOwn c off n; if r.2.1 then r.2.2 else r.2.2.stage c 4 (res r.1) 0)
    (s.slotReady c .l 0x00 = true → exec (.lnop c) s = go u) ∧
    (s.slotReady c .l 0x01 = true → exec (.ldv c) s = load 1024 (.vec (fld w 50 6) 0)) ∧
    (s.slotReady c .l 0x02 = true → exec (.stv c) s = go (u.stage c 2 (.store off (u.readV c (fld w 50 6))) 0)) ∧
    (s.slotReady c .l 0x03 = true →
      exec (.lds c) s = load 8 (fun bs => .scalar (fld w 50 5) (BitVec.ofNat 64 (bytesLe bs)))) ∧
    (s.slotReady c .l 0x04 = true →
      exec (.sts c) s = go (u.stage c 2 (.store off (leBytes 8 (u.readS c (fld w 50 5)).toNat)) 0)) ∧
    (s.slotReady c .l 0x05 = true →
      exec (.ldt c) s = load (if fld w 50 4 = 8 then 512 else 1024) (.tile (fld w 54 2) (1024 * fld w 50 4)))

/-- R82, R88, R113 to R116, R197, R202: variable-latency operations are issued on their landing flags; a group store is staged in the
member's core; a doorbell reaches its channel; a page-keeper slot counts on its flag and its call reaches the keeper. -/
def Obligations.LongSlotIssues : Prop :=
  (∀ (s : State) (c : CoreId),
    let u := s.atIssue c
    let w := s.slotBits c .l
    let reg := fun (lo : Nat) => ((u.core c).s (fld w lo 5)).toNat
    let go := fun (t : State) => (.next (State.issuedBy c .l t) : Host.Outcome State Fault Refusal)
    (s.slotReady c .l 0x08 = true →
      exec (.vld c) s = go (u.issueLoad c (fld w 50 6) (reg 45) (16 * fld w 24 16)
        (.load (reg 45) (reg 40 % 0x400000) (16 * fld w 24 16)))) ∧
    (s.slotReady c .l 0x09 = true → exec (.vst c) s = go (vstEffect c w u)) ∧
    (s.slotReady c .l 0x0A = true →
      exec (.vldv c) s = go (u.issueLoad c (fld w 50 6) (reg 39) 1024 (.loadV (reg 39) (fld w 44 6)))) ∧
    (s.slotReady c .l 0x0C = true →
      exec (.gst c) s = go (
        let due := (u.core c).seq.beat.toNat + 6
        (u.modCore (16 * (c.val / 16) + fld w 52 4) fun x =>
          { x with staged := x.staged ++
              [{ due := due, order := 0, res := .group c (reg 41 % 0x400000) (u.readV c (fld w 46 6)), arith := 0 }] }).modSeq c
          fun q => { q with gst := due })) ∧
    (s.slotReady c .l 0x10 = true →
      exec (.fence c) s = go (u.newOp c (fld w 50 6) (.fence (u.core c).writesOut (u.core c).seq.gst (u.core c).ownDue) false)) ∧
    (s.slotReady c .l 0x12 = true → exec (.dbell c) s = go (dbellEffect c w u))) ∧
  (∀ (s : State) (c : CoreId) (j : PartId × Fin 16),
    let u := s.atIssue c
    let w := s.slotBits c .l
    let made := fun (op : PgkOp) =>
      (.next (State.issuedBy c .l
        ((u.newOp c (fld w 50 6) (.pgk u.pgk.nextId (fld w 42 5)) false).newCall j.1 op
          (BitVec.ofNat 32 (u.readS c (fld w 37 5)).toNat) ((u.readS c (fld w 32 5)).toNat % 65536)
          (.core c (fld w 50 6) (fld w 42 5) j))) : Host.Outcome State Fault Refusal)
    let sub := fld ((s.settle c).slotWord c .l) 47 3
    s.slotReady c .l 0x11 = true → u.coreJob c = some j →
      (sub = 0 → exec (.pin c) s = made .pin) ∧ (sub = 1 → exec (.unpin c) s = made .unpin) ∧
      (sub = 2 → exec (.share c) s = made .share) ∧ (sub = 3 → exec (.writeIntent c) s = made .writeIntent) ∧
      (sub = 4 → exec (.free c) s = made .free))

/-- R117: the scalar operations of the C slot: Sd one core beat later, three for SMUL. -/
def Obligations.ScalarSlotIssues : Prop :=
  ∀ (s : State) (c : CoreId),
    let u := s.atIssue c
    let w := s.slotBits c .c
    let a := (u.core c).s (fld w 46 5)
    let b := if bitOf w 40 then BitVec.ofInt 64 (signedOf 32 w) else (u.core c).s (fld w 41 5)
    let go := fun (latency : Nat) (v : BitVec 64) =>
      (.next (State.issuedBy c .c (u.stage c latency (.scalar (fld w 51 5) v) 0)) : Host.Outcome State Fault Refusal)
    (s.slotReady c .c 0x00 = true → exec (.cnop c) s = .next (State.issuedBy c .c u)) ∧
    (s.slotReady c .c 0x20 = true → exec (.sadd c) s = go 1 (a + b)) ∧
    (s.slotReady c .c 0x21 = true → exec (.ssub c) s = go 1 (a - b)) ∧
    (s.slotReady c .c 0x22 = true → exec (.smul c) s = go 3 (a * b)) ∧
    (s.slotReady c .c 0x23 = true → exec (.sand c) s = go 1 (a &&& b)) ∧
    (s.slotReady c .c 0x24 = true → exec (.sor c) s = go 1 (a ||| b)) ∧
    (s.slotReady c .c 0x25 = true → exec (.sxor c) s = go 1 (a ^^^ b)) ∧
    (s.slotReady c .c 0x26 = true → exec (.sshl c) s = go 1 (a <<< (b.toNat % 64))) ∧
    (s.slotReady c .c 0x27 = true → exec (.sshr c) s = go 1 (a >>> (b.toNat % 64))) ∧
    (s.slotReady c .c 0x28 = true → exec (.ssra c) s = go 1 (a.sshiftRight (b.toNat % 64))) ∧
    (s.slotReady c .c 0x29 = true → exec (.slt c) s = go 1 (if a.slt b then 1 else 0)) ∧
    (s.slotReady c .c 0x2A = true → exec (.sltu c) s = go 1 (if a.ult b then 1 else 0)) ∧
    (s.slotReady c .c 0x2B = true →
      exec (.smovhi c) s =
        go 1 (BitVec.ofNat 64 (fld w 0 32 * 2 ^ 32 + ((u.core c).s (fld w 51 5)).toNat % 2 ^ 32)))

/-- R101, R118 to R121, R228 to R230, R241, R363: waits, watches, signals, branches, END, phases and hints. -/
def Obligations.ControlSlotIssues : Prop :=
  ∀ (s : State) (c : CoreId),
    let u := s.atIssue c
    let w := s.slotBits c .c
    let go := fun (t : State) => (.next (State.issuedBy c .c t) : Host.Outcome State Fault Refusal)
    let jump := fun (taken : Bool) (t : State) =>
      t.modSeq c fun q => { q with delay := 3, target := if taken then some (fld w 34 17) else none }
    let amount := BitVec.ofNat 32 (if bitOf w 52 then ((u.core c).s (fld w 31 5)).toNat % 2 ^ 32 else fld w 0 16)
    let sent := u.sendSignal c (fld w 53 3) (fld w 36 16) amount (u.coreJob c)
    let fenced := u.modCore c fun y =>
      { y with outbox := y.outbox ++ [{ dest := fld w 53 3, counter := fld w 36 16, amount := amount, job := u.coreJob c,
                                        ops := (u.core c).writesOut, gst := (u.core c).seq.gst,
                                        own := (u.core c).ownDue }] }
    let wait : WaitFor := { watch := bitOf w 55, half := bitOf w 54, mask := BitVec.ofNat 32 w }
    (s.slotReady c .c 0x01 = true →
      exec (.wait c) s = go (if wait.indexes.all ((u.core c).isSet wait.watch true)
        then u.modCore c fun x => x.observe wait else u.modSeq c fun y => { y with waiting := some wait })) ∧
    (s.slotReady c .c 0x02 = true →
      exec (.watch c) s = go (
        let v := BitVec.ofNat 32 (if bitOf w 48 then ((u.core c).s (fld w 27 5)).toNat % 2 ^ 32 else fld w 0 24)
        (u.modCore c fun x => x.putSlot (fld w 50 6) (.armed (fld w 32 16) v (bitOf w 49))).sendSync
          (.register (u.now + 2 + transit (c.val / 16) (fld w 32 16 / 4096)) (fld w 32 16) v (bitOf w 49)
            (.core c (fld w 50 6))))) ∧
    (s.slotReady c .c 0x03 = true → exec (.signal c) s = go (if u.strict c then fenced else sent)) ∧
    (s.slotReady c .c 0x04 = true → exec (.signalF c) s = go fenced) ∧
    (s.slotReady c .c 0x08 = true → exec (.br c) s = go (jump true u)) ∧
    (s.slotReady c .c 0x09 = true → exec (.brz c) s = go (jump ((u.core c).s (fld w 51 5) = 0) u)) ∧
    (s.slotReady c .c 0x0A = true → exec (.brnz c) s = go (jump ((u.core c).s (fld w 51 5) ≠ 0) u)) ∧
    (s.slotReady c .c 0x0B = true →
      exec (.brdec c) s = go (
        let v := (u.core c).s (fld w 51 5) - 1
        jump (v ≠ 0) (u.stage c 1 (.scalar (fld w 51 5) v) 0))) ∧
    (s.slotReady c .c 0x0F = true → exec (.endSched c) s = go (u.modSeq c fun q => { q with ended := true })) ∧
    (s.slotReady c .c 0x10 = true → exec (.phase c) s = go (phaseEffect c w u)) ∧
    (s.slotReady c .c 0x11 = true → exec (.hint c) s = go (hintEffect c w u))

/-- R20, R70, R86, R88, R103, R104: a core that may not issue in this beat issues nothing, whatever slot command names it. A bundle not yet begun
whose words break a rule is a schedule error at issue: none of its slots issues, the first cause is recorded and source 280 is
raised for the core. (A doorbell that a channel refuses is recorded at the channel too, R257; that case is left out here.) -/
def Obligations.CoresThatIssueNothing : Prop :=
  (∀ (s : State) (c : CoreId), s.mayIssue c = false → ∀ r ∈ slotRows c, exec r.1 s = .next s) ∧
  (∀ (s : State) (c : CoreId), s.mayIssue c = true →
    let t := s.settle c
    let q := (t.core c).seq
    let cause := t.bundleCause c
    q.bound = true → q.slots = 0 → cause ≠ 0 → (cause = 5 ∨ t.bundleBad c = false) →
    opcodeOf (t.slotWord c .l) ≠ 0x12 →
    let u := (t.modSeq c fun x => { x with cause := if x.cause = 0 then cause else x.cause }).raiseCore 280 c (t.coreJob c)
    (opcodeOf (t.slotWord c .m) = 0x00 → exec (.mnop c) s = .next u) ∧
    (opcodeOf (t.slotWord c .m) = 0x01 → exec (.mma c) s = .next u) ∧
    (opcodeOf (t.slotWord c .m) = 0x02 → exec (.mout c) s = .next u) ∧
    (opcodeOf (t.slotWord c .m) = 0x03 → exec (.mclr c) s = .next u))

/-- Frame of the slots that only stage a result or nothing (M, V, own-store stores, branches, scalar operations): nothing but the
core's own entry and the count of free values differs from the state the slot took its operands from, and of the core only what
is staged, the progress of its bundle and, for VXRD, the X registers differ. Every byte of memory reads as it did there. -/
def Obligations.StagingSlotsFrame : Prop :=
  ∀ (s t : State) (c : CoreId), s.coresWf = true →
    let u := s.atIssue c
    (u.core c).seq.ended = false →
    ∀ r ∈ slotRows c, stagingOnly r.2.1 r.2.2 = true → s.slotReady c r.2.1 r.2.2 = true → exec r.1 s = .next t →
      (∃ l q x, t = (u.putCore c { u.core c with staged := l, seq := q, regs := { (u.core c).regs with x := x } }).setDraws t.draws ∧
        (r.2 ≠ (.v, 0x16) → x = (u.core c).regs.x)) ∧
      ∀ a, memByte t.mem a = memByte u.mem a

/-! ## Stores, columns and what lands in them -/

/-- R155, R156: the columns of the 64 data bits, the check byte, and what a reader makes of a syndrome: zero is no error, the column of one
bit is that bit flipped, any other is uncorrectable. So every single error of a word's 72 bits is corrected and every double
error is detected. -/
def Obligations.TierCodeCorrectsAndDetects : Prop :=
  (eccColumns.take 56 = (List.range 256).filter (fun b => popCount 8 b = 3) ∧
    eccColumns.drop 56 = [0x1F, 0x2F, 0x37, 0x3B, 0x3D, 0x3E, 0x4F, 0x57]) ∧
  (∀ d : Nat, d < 2 ^ 64 →
    eccEncode d < 256 ∧
    (∀ j, j < 8 → (eccEncode d).testBit j =
      decide (((List.range 64).filter fun i => d.testBit i && (eccColumns.getD i 0).testBit j).length % 2 = 1)) ∧
    ∀ check, check < 256 →
      let syndrome := Nat.xor (eccEncode d) check
      (syndrome = 0 → eccDecode d check = .clean d) ∧
      (∀ i, i < 64 → syndrome = eccColumns.getD i 0 → eccDecode d check = .corrected (Nat.xor d (2 ^ i))) ∧
      (∀ j, j < 8 → syndrome = 2 ^ j → eccDecode d check = .corrected d) ∧
      (syndrome ≠ 0 → syndrome ∉ eccColumns → (∀ j, j < 8 → syndrome ≠ 2 ^ j) → eccDecode d check = .bad)) ∧
  (∀ d : Nat, d < 2 ^ 64 →
    (∀ i, i < 64 → eccDecode (Nat.xor d (2 ^ i)) (eccEncode d) = .corrected d) ∧
    (∀ i, i < 8 → eccDecode d (Nat.xor (eccEncode d) (2 ^ i)) = .corrected d) ∧
    (∀ i j, i < j → j < 64 → eccDecode (Nat.xor (Nat.xor d (2 ^ i)) (2 ^ j)) (eccEncode d) = .bad) ∧
    (∀ i j, i < 64 → j < 8 → eccDecode (Nat.xor d (2 ^ i)) (Nat.xor (eccEncode d) (2 ^ j)) = .bad) ∧
    (∀ i j, i < j → j < 8 → eccDecode d (Nat.xor (Nat.xor (eccEncode d) (2 ^ i)) (2 ^ j)) = .bad))

/-- R152, R154, R187: whatever bytes a write leaves in memory, their words decode clean; every byte outside it reads as before. -/
def Obligations.WrittenWordsDecodeClean : Prop :=
  ∀ (s : State) (a : Nat) (bs : List Byte), s.tablesWf = true → bs ≠ [] →
    let t := s.writeMem a bs
    (∀ i (h : i < bs.length), memByte t.mem (a + i) = bs[i]) ∧
    (∀ x, x < a ∨ a + bs.length ≤ x → memByte t.mem x = memByte s.mem x) ∧
    (∀ k, a / 8 ≤ k → k ≤ (a + bs.length - 1) / 8 → t.readWord k 0 = .clean (bytesLe (memRead t.mem (8 * k) 8)))

/-- R76, R77, R88, R109, R510: a fixed-latency result is invisible before its core beat and visible from it on: with nothing due nothing
changes; one result that is due is in its register. FIXED_RESULT_VISIBLE says so in the block beat in which the core issues that core
beat. A store reaches the core's own store, an MMA's contribution its accumulator set, a group store the member's store; that of a
member that runs nothing, at the core beat of its sender (log entry 29). -/
def Obligations.StagedResultsLand : Prop :=
  (∀ (s : State) (c : CoreId), s.coresWf = true →
    let x := s.core c
    let b := x.seq.beat.toNat
    exec (.fixedResultVisible c) s = .next (if s.atCoreBeat c then s.settle c else s) ∧
    (x.staged.all (fun g => decide (b < g.due)) = true → s.settle c = s) ∧
    ∀ (g : Staged), x.staged = [g] → g.due ≤ b → g.arith = 0 →
      let y := ({ x with staged := [] }).soil g.res
      (∀ r v, g.res = .scalar r v → s.settle c = s.putCore c (y.putS r v)) ∧
      (∀ r off bs, g.res = .vec r off bs →
        s.settle c = s.putCore c { y with regs := { y.regs with v := memWrite y.regs.v (1024 * r + off) bs } }) ∧
      (∀ r off bs, g.res = .tile r off bs →
        s.settle c = s.putCore c { y with regs := { y.regs with t := memWrite y.regs.t (8704 * r + off) bs } }) ∧
      (∀ off bs, g.res = .store off bs → s.settle c = (s.putCore c y).writeStore c off bs) ∧
      (∀ a, g.res = .accClear a → s.settle c = s.putCore c (y.putAcc a AccSet.cleared))) ∧
  (∀ (s : State) (c : CoreId) (g : Staged), s.coresWf = true →
    let x := s.core c
    x.staged = [g] → g.arith = 0 →
    let y := ({ x with staged := [] }).soil g.res
    (∀ l, g.res = .land l → s.atCoreBeat c = true → g.due ≤ x.seq.beat.toNat → ((x.accSet l.acc).land l).2 = false →
      exec (.mmaLanding c) s = .next (s.putCore c (y.putAcc l.acc ((x.accSet l.acc).land l).1))) ∧
    (∀ src off bs, g.res = .group src off bs →
      (if x.seq.bound then s.atCoreBeat c && decide (g.due ≤ x.seq.beat.toNat) && !meetsSchedule x.seq (off % 0x400000) bs.length
        else s.senderDue g) = true →
      exec (.groupStoreLanding c) s = .next ((s.putCore c y).writeStore c off bs)))

/-- R83, R85, R89, R169, R180, R240: a load that is ready, is not refused and reads without an error puts its bytes in the core's store or in
its vector register, and its flag falls; memory outside its destination reads as before. A store that is ready and allowed is
written, a port write ends with the last sequence it queued; a fence ends in a beat after one, later than its issue, at whose end every
write it names is complete. -/
def Obligations.LongOperationsComplete : Prop :=
  (∀ (s : State) (c : CoreId) (id : Nat) (o : Op) (bs : List Byte), (s.core c).op id = some o → s.opReady c o = true →
    o.refused = false → s.hostFailed (opIssuer c o.id) = false → s.failedAccess (opIssuer c o.id) = false →
    anyUnavailable (s.opPieces o) = false → o.dirty = [] → o.early = [] →
    s.readPieces (s.opJob c o) none (s.opPieces o) = (bs, false, s) →
    let v := mergeData (s.opPieces o) bs (s.answerData (opIssuer c o.id))
    let done := fun (t : State) => (t.drawn.completeOp c o.id).dropAccesses (opIssuer c o.id)
    (∀ a dst n, o.kind = .load a dst n → ((s.core c).seq.bound && meetsSchedule (s.core c).seq (dst % 0x400000) v.length) = false →
      exec (.loadComplete c id) s = .next (done (s.writeStore c dst v)) ∧
      (s.mem.wf = true → v.length ≤ 0x400000 → ∀ x, (∀ i, i < v.length → x ≠ storeAddr c (dst % 0x400000 + i)) →
        memByte (done (s.writeStore c dst v)).mem x = memByte s.mem x)) ∧
    (∀ a g, o.kind = .loadV a g →
      let t := s.modCore c fun x => { x with regs := { x.regs with v := memWrite x.regs.v (1024 * g) v } }
      exec (.loadComplete c id) s = .next (done t) ∧ (done t).mem = s.mem)) ∧
  (∀ (s : State) (c : CoreId) (id : Nat) (o : Op), (s.core c).op id = some o →
    (∀ a bs, o.kind = .store a bs → s.opReady c o = true → o.refused = false → s.hostFailed (opIssuer c o.id) = false →
      anyUnavailable (s.opPieces o) = false →
      (s.opPieces o).any (fun q => match q.1 with | .mem x => s.hitsSchedule x q.2 | _ => false) = false →
      exec (.storeComplete c id) s =
        .next (((s.writePieces (s.opJob c o) none (s.opPieces o) bs).1.completeOp c o.id).dropAccesses (opIssuer c o.id))) ∧
    (∀ k num, o.kind = .port k num → (s.column k).portDone num = true → o.refused = false →
      exec (.storeComplete c id) s =
        .next ((s.modColumn k fun x => { x with portErrs := x.portErrs.filter fun e => !(e = num) }).completeOp c o.id)) ∧
    (∀ ops gst own, o.kind = .fence ops gst own →
      (∀ b, o.metAt = some b → b < s.now → exec (.fenceComplete c id) s = .next (s.completeOp c o.id)) ∧
      (o.metAt = none → o.beatAt < s.now → s.fenceDone c ops gst own = true → s.coresWf = true →
        (s.markFences.core c).op id = some { o with metAt := some s.now })))

/-- A piece is written in whole granules outside schedule regions: no read-modify-write (R154, R170). -/
def wholePiece (s : State) (q : Piece) : Bool :=
  match q.1 with
  | .mem x => decide (x % granule x = 0) && decide (q.2 % granule x = 0) && !s.hitsSchedule x q.2
  | _ => true

/-- R154, R170: a write over pieces in whole granules meets no error, and every byte outside them reads as before. One inside one granule
that it does not fill reads the granule first: without an error the granule is written back as read, corrected, and the bytes over
it; where a word is uncorrectable nothing is written. -/
def Obligations.PieceWritesFrame : Prop :=
  (∀ (s : State) (job : Option (PartId × Fin 16)) (tag : Option Nat) (l : List Piece) (bs : List Byte), s.mem.wf = true →
    natSum (l.map (·.2)) = bs.length → l.all (wholePiece s) = true →
    (s.writePieces job tag l bs).2 = false ∧
    ∀ a, (∀ q ∈ l, ∀ x, q.1 = .mem x → a < x ∨ x + q.2 ≤ a) →
      memByte (s.writePieces job tag l bs).1.mem a = memByte s.mem a) ∧
  (∀ (s : State) (a : Nat) (bs : List Byte) (job : Option (PartId × Fin 16)) (tag : Option Nat),
    let g := granule a
    let q := a / g * g
    s.hitsSchedule a bs.length = false → bs ≠ [] → a + bs.length ≤ q + g → bs.length ≠ g →
    let r := s.readMem q g
    let t := r.2.raiseRead q r.1 job tag
    (r.1.bad = false → s.writePiece a bs job tag = ((t.writeMem q r.1.bytes).writeMem a bs, false)) ∧
    (r.1.bad = true → s.writePiece a bs job tag = (t, true)))

/-- R114, R153: a store of the own core store writes its bytes, the offset taken modulo 4 MiB, and every other byte of memory reads as before;
when the zero-write of a powered store ends, every byte of it reads zero and no other byte of memory changes. -/
def Obligations.CoreStoreWritesFrame : Prop :=
  (∀ (s : State) (c : CoreId) (off : Nat) (bs : List Byte), s.mem.wf = true → bs.length ≤ 0x400000 →
    let t := s.writeStore c off bs
    (∀ i (h : i < bs.length), memByte t.mem (storeAddr c (off % 0x400000 + i)) = bs[i]) ∧
    (∀ a, (∀ i, i < bs.length → a ≠ storeAddr c (off % 0x400000 + i)) → memByte t.mem a = memByte s.mem a)) ∧
  (∀ (s : State) (c : CoreId), s.mem.wf = true → s.coresWf = true → (s.core c).power.zeroing = true →
    ∃ t, exec (.coreStoreReady c) s = .next t ∧
      (∀ a, storeAddr c 0 ≤ a → a < storeAddr c 0 + 0x400000 → memByte t.mem a = 0) ∧
      (∀ a, a < storeAddr c 0 ∨ storeAddr c 0 + 0x400000 ≤ a → memByte t.mem a = memByte s.mem a) ∧
      t.core c = { s.core c with power := { (s.core c).power with zeroing := false, storeLost := false } })

/-! ## Sync unit -/

/-- R227, R232, R233, R235: one packet that has reached a counter is taken there: an addition is made, a registration enters its watch, a
cancellation removes one; then every watch on the counter is evaluated. Additions that arrive together are one exact sum; no other
counter changes (the statement is of sums that do not reach 2^32 - 1). -/
def Obligations.CounterPacketsTaken : Prop :=
  (∀ (s : State) (k : Fin 65536) (p : Packet), s.duePackets k = [p] →
    let d := s.setSync { s.sync with
      packets := s.sync.packets.filter fun x => !decide (p = x)
      taken := if p.arrive = s.now then tabSet (fun _ => 0) s.sync.taken k (s.now + 1) else s.sync.taken }
    (∀ b amt o, p = .add b k amt o → exec (.signalArrival k) s = .next ((d.addSum k [(amt, o)]).evaluate k)) ∧
    (∀ b v take who, p = .register b k v take who →
      exec (.watchRegistrationArrival k) s =
        .next ((d.enterWatch { counter := k, v := v, take := take, who := who }).evaluate k)) ∧
    (∀ b who, p = .cancel b k who → exec (.watchCancelArrival k) s = .next ((d.removeWatch k who).evaluate k))) ∧
  (∀ (s : State) (k : Nat) (adds : List (BitVec 32 × Origin)), s.tablesWf = true →
    natSum (adds.map fun a => a.1.toNat) + (s.counter k).toNat ≤ 0xFFFFFFFF →
    ((s.addSum k adds).counter k).toNat = (s.counter k).toNat + natSum (adds.map fun a => a.1.toNat) ∧
    (∀ j, j ≠ k → (s.addSum k adds).counter j = s.counter j) ∧
    (s.addSum k adds).mem = s.mem ∧ (s.addSum k adds).cores = s.cores)

/-- R86, R229, R230, R235, R238, R241, R244 to R247: a watch fires when its counter stands at or above its value, and its notification leaves;
a notification fires its armed slot, and on an idle slot is only counted; the oldest fenced signal leaves once the writes it
names are complete; a WAIT whose flags or slots are all set ends; a running job quiet for 200,000 beats is declared deadlocked. -/
def Obligations.WatchesFireAndWake : Prop :=
  (∀ (s : State) (k : Nat) (c : CoreId) (slot : Nat) (v : BitVec 32) (take : Bool),
    let w : WatchEntry := { counter := k, v := v, take := take, who := .core c slot }
    s.sync.watches = [w] → s.tablesWf = true → bitOf (s.regN 0x1F0003C) (c.val / 16) = false →
    ((s.counter k).toNat < v.toNat → s.evaluate k = s) ∧
    (v.toNat ≤ (s.counter k).toNat →
      (s.evaluate k).sync.watches = [] ∧
      (s.evaluate k).counter k = (if take then s.counter k - v else s.counter k) ∧
      (s.evaluate k).sync.packets = s.sync.packets ++
        [.notify (s.now + 1 + transit (counterRegion k) (c.val / 16)) k (.core c slot)])) ∧
  (∀ (s : State) (c : CoreId) (slot : Fin 64),
    (∀ b k, s.dueNotice c slot = some (.notify b k (.core c slot)) →
      let d := s.setSync { s.sync with packets := dropFirst (.notify b k (.core c slot)) s.sync.packets }
      ((s.core c).slot slot ≠ .idle →
        exec (.notificationArrival c slot) s = .next (d.modCore c fun x => x.putSlot slot .fired)) ∧
      ((s.core c).slot slot = .idle →
        exec (.notificationArrival c slot) s = .next (d.addField (synStats (counterRegion k)) 16 16 1))) ∧
    (∀ f rest, (s.core c).outbox = f :: rest → s.fenceDone c f.ops f.gst f.own = true →
      exec (.outboxRelease c) s =
        .next ((s.modCore c fun x => { x with outbox := rest }).sendSignal c f.dest f.counter f.amount f.job)) ∧
    (∀ q, (s.core c).seq.waiting = some q → (s.core c).seq.bound = true →
      q.indexes.all ((s.core c).isSet q.watch false) = true →
      exec (.waitResume c) s =
        .next ((s.modCore c fun x => x.observe q).modSeq c fun y => { y with waiting := none, resumed := true }))) ∧
  (∀ (s : State) (p : PartId) (j : Fin 16), (s.job p j).state = .running → 200000 ≤ (s.job p j).quiet →
    let rs := (List.range 16).filter fun r => (s.job p j).cores.any fun e => e.core.val / 16 = r
    exec (.deadlock p j) s = .next (
      ((State.each rs (fun r t => t.declare (p, j) r) s).modJob p j fun y => { y with quiet := 0 }).raise
        { src := 294, locs := rs.map (256 + ·), job := some (p, j), tag := none }))

/-- R232: a watch with the value 0 fires in the beat in which it arrives, whatever its counter holds, and with TAKE = 1 nothing is
subtracted: it does not stay in the table, no counter changes, and its watcher is told. The host's watch comes with the write
that arms it (R243), the others with their packets. -/
def Obligations.ZeroWatchFiresOnArrival : Prop :=
  (∀ (s : State) (k : Fin 65536) (b : Nat) (take : Bool) (who : Watcher), s.tablesWf = true → (∀ r, who ≠ .host r) →
    s.duePackets k = [.register b k 0 take who] → s.sync.watches.all (fun w => !decide (w.counter = k)) = true →
    ∃ t, exec (.watchRegistrationArrival k) s = .next t ∧ t.sync.watches = s.sync.watches ∧ (∀ j, t.counter j = s.counter j) ∧
      t.mem = s.mem ∧
      (∀ c slot, who = .core c slot →
        ∃ a, s.now + 1 + transit (counterRegion k) (c.val / 16) ≤ a ∧ .notify a k (.core c slot) ∈ t.sync.packets) ∧
      (∀ r, who = .scout r → ∃ (u : State) (j : Option (PartId × Fin 16)), t = u.modScout r (fun x => { x with fired := x.fired ++ [j] }) ∧
        u.scouts = s.scouts)) ∧
  (∀ (s : State) (p : Path) (r : RegionId) (c : BitVec 12), s.pathAdmits p (synHwatch r) = true →
    s.reg (synHwatchVal r) = 0 → bitOf (s.regN (synHwatch r)) 30 = false →
    s.duePackets (4096 * r.val + c.toNat) = [] → s.hadBeat (4096 * r.val + c.toNat) = false →
    s.sync.watches.all (fun w => !decide (w.counter = 4096 * r.val + c.toNat)) = true →
    ∃ u : State, bitOf (u.regN (synHwatch r)) 30 = true ∧ u.sync.counters = s.sync.counters ∧ u.mem = s.mem ∧
      u.sync.watches = s.sync.watches.filter (fun w => !decide (w.who = .host r)) ∧
      (exec (.hostWatchArm p r c) s = .next u ∨ ∃ q, exec (.hostWatchArm p r c) s = .next (u.arrive q (336 + r) 0)))

/-! ## DMA -/

/-- R7, R252 to R255, R260: a descriptor read returns, in a channel that waits for it or goes on to it now from a descriptor that has
issued its last write. A head off 32 bytes or outside the partition, an uncorrectable word and an illegal field leave their cause; a
read that must wait changes nothing more. A legal flat descriptor whose stretches lie in the partition's data space starts on them,
with nothing read or written yet, and the read of its first slot is issued; one whose stretches do not fails with CAUSE 2. One with
a list goes on to its list. -/
def Obligations.DescriptorIsChecked : Prop :=
  ∀ (s : State) (r : RegionId) (k : ChanId) (p : Nat),
    let z := s.modChan r k Channel.goOn
    let x := z.chan r k
    let t := z.modChan r k fun y => { y with attr := y.owner }
    let a := (t.chan r k).attr
    let g := t.readOwned p x.cur 32 (t.ringerJob a) (t.ringerTag a)
    x.fetchReady = true → x.fetching = some false → z.dmaHeld r = false → t.regionOwner r = some p →
    (x.cur % 32 ≠ 0 → exec (.descriptorFetch r k) s = .next (t.dmaFail r k 2)) ∧
    (x.cur % 32 = 0 →
      (g.1 = .wait → exec (.descriptorFetch r k) s = .next z) ∧
      (g.1 = .refused → exec (.descriptorFetch r k) s = .next (g.2.dmaRefuse r k p x.cur 32)) ∧
      (g.1 = .bad → exec (.descriptorFetch r k) s = .next (g.2.dmaFail r k 3)) ∧
      (∀ bs, g.1 = .bytes bs →
        let w0 := wordAt bs 0
        let n := fld w0 0 32
        let src := fld (wordAt bs 2) 0 48
        let dst := fld (wordAt bs 3) 0 48
        let illegal := illegalDescriptor k w0 (wordAt bs 1) (wordAt bs 2) (wordAt bs 3)
          (g.2.ownsRegion p (counterRegion (fld w0 32 16)))
        let pieces := if n = 0 then [] else g.2.locateAll p src n ++ (if bitOf w0 58 then [] else g.2.locateAll p dst n)
        (illegal = true → exec (.descriptorFetch r k) s = .next (g.2.dmaFail r k 1)) ∧
        (illegal = false → bitOf w0 61 = true ∨ bitOf w0 60 = true → exec (.descriptorFetch r k) s =
          .next (g.2.dmaList r k p w0 (wordAt bs 1) (wordAt bs 2) (wordAt bs 3) (t.ringerJob a) (t.ringerTag a))) ∧
        (illegal = false → bitOf w0 61 = false → bitOf w0 60 = false →
          (allData pieces = false → exec (.descriptorFetch r k) s = .next ((g.2.dmaOutside r k pieces).dmaFail r k 2)) ∧
          (allData pieces = true → exec (.descriptorFetch r k) s = .next (
            (g.2.modChan r k fun y =>
              { y with
                fetching := none
                running := some
                  { word0 := BitVec.ofNat 64 w0, next := fld (wordAt bs 1) 0 48, dst := dst, src := src,
                    segs := if n = 0 then [] else [{ src := src, dst := dst, len := n }], moved := 0, snap := [],
                    crc := 0xFFFFFFFF#32, sum := 0, tail := [], lastEnd := if bitOf w0 58 then dst else dst + n,
                    checked := false, basin := [], reading := none } }).dmaIssueRead r k)))))

/-- R250, R260, R262, R266, R268: data read for a descriptor enters the channel's basin; the oldest write that can answer reaches memory; a
descriptor with every response in adds 1 to its counter where SIG asks for it; one that has failed halts its channel with its
cause; an aborted channel is idle, with CAUSE 7, once its writes have answered. -/
def Obligations.DescriptorsMoveAndEnd : Prop :=
  (∀ (s : State) (r : RegionId) (k : ChanId) (p : Nat), s.regionOwner r = some p →
    let x := s.chan r k
    (∀ q g rest, x.readReady = true → s.dmaHeld r = false → x.running = some q → q.segs = g :: rest →
      let l := s.locateAll p g.src (min 4096 g.len)
      let who := Issuer.dma r k (q.reading.getD 0)
      allData l = true → s.readWaits l = false → s.answered who = true → s.failedAccess who = false →
      ∀ bs, s.readPieces (s.ringerJob x.attr) (s.ringerTag x.attr) l = (bs, false, s) →
        exec (.dmaReadReturn r k) s = .next ((s.dropAccesses who).drawn.dmaLand r k q g (min 4096 g.len)
          (q.asStood s.draws g.src (mergeData l bs (s.answerData who))))) ∧
    (∀ w, x.writes.find? (s.dmaWriteReady r k) = some w → s.failedAccess (.dma r k w.1) = false →
      let a := x.attrOf w.1
      let l := s.writeAt r w.2
      let t := s.modChan r k fun y =>
        { y with writes := y.writes.filter fun v => !(v.1 = w.1), delayed := y.delayed.filter fun e => !(e.1 = w.1) }
      let d := t.writePieces (s.ringerJob a) (s.ringerTag a) l (w.2.flatMap (·.2))
      allData l = true → l ≠ [] → d.2 = false →
        exec (.dmaWriteResponse r k) s = .next ((d.1.dropAccesses (.dma r k w.1)).dmaGo r k))) ∧
  (∀ (s : State) (r : RegionId) (k : ChanId),
    let t := s.dmaGo r k
    let signalled := fun (word0 : BitVec 64) (a : Option Ringer) =>
      let c := fld word0.toNat 32 16
      if bitOf word0.toNat 62 then t.sendSync (.add (t.arriveBeat r (counterRegion c)) c 1 (.dma (t.ringerJob a))) else t
    (∀ f, (t.chan r k).earlierComplete = some f → exec (.descriptorComplete r k) s = .next (
      (signalled f.word0 f.attr).modChan r k fun y => { y with finishing := y.finishing.tail, done := y.done + 1 })) ∧
    (∀ q, (t.chan r k).complete = true → s.dmaHeld r = false → (t.chan r k).running = some q →
      (∀ id, (t.chan r k).attr ≠ some (.keeper id)) →
      exec (.descriptorComplete r k) s = .next ((signalled q.word0 (t.chan r k).attr).modChan r k Channel.advance)) ∧
    (∀ cause, (s.chan r k).failed = some cause →
      let u := (s.modChan r k fun y =>
        { y with state := .halted, cause := cause, failed := none, fetching := none, running := none, recheck := false }).dmaSweep r k
      (cause ≠ 3 → exec (.descriptorError r k) s = .next (u.dmaEvent 296 r k)) ∧
      (cause = 3 → exec (.descriptorError r k) s = .next u)) ∧
    ((s.chan r k).state = .draining → (s.chan r k).writes = [] →
      exec (.dmaDrainEnd r k) s = .next (s.modChan r k fun y => { y with state := .idle, recheck := false, cause := 7 })))

/-- R265: the reshuffle transforms undo each other: plane split and merge; transpose and itself; interleave and deinterleave, whose
places of the f · n elements are inverse permutations. A slot of either puts each of its elements at its place. -/
def Obligations.ReshufflesInvert : Prop :=
  (∀ b : List Byte, b.length = 64 → planeMerge (planeSplit b) = b ∧ planeSplit (planeMerge b) = b) ∧
  (∀ b : List Byte, b.length = 1024 → transpose (transpose b) = b) ∧
  (∀ f n j : Nat, j < f * n →
    deinterleaved f n (interleaved f n j) = j ∧ interleaved f n (deinterleaved f n j) = j ∧
    interleaved f n j < f * n ∧ deinterleaved f n j < f * n) ∧
  (∀ (dst e j : Nat) (place : Nat → Nat) (b : List Byte), 0 < e →
    (placed dst e place j b).length = b.length / e ∧
    ∀ i, i < b.length / e → (dst + e * place (j + i), (b.drop (e * i)).take e) ∈ placed dst e place j b)

/-! ## Page keeper and scout -/

/-- R192, R194, R195, R197: a page entry whose fields fit keeps every field in its 16 bytes. A call on a page of a table that is up answers with
its status; a refused call changes no entry, one that succeeds writes the new counts. -/
def Obligations.PagesAreCounted : Prop :=
  (∀ e : PageEntry, e.addr < 2 ^ 48 → e.next < 2 ^ 32 → e.lease < 2 ^ 16 → e.ref < 2 ^ 16 →
    e.bytes.length = 16 ∧ entryOf e.bytes = e ∧ entryConsistent e.bytes = true) ∧
  (∀ (s t : State) (x : PgkCall) (e : PageEntry), x.down = false → s.tableUp x.part = true →
    x.pn.toNat < (s.table x.part).count → x.copied = false → x.op ≠ .writeIntent →
    s.readEntry x.part x.pn.toNat x.job = (some e, t) →
    let refuse := fun st => (some (callResult st false e.state e.ref x.pn.toNat), e.lease, t)
    let effect := fun (n : PageEntry) =>
      let u := t.updateEntry x.part x.pn.toNat e n x.job
      (u.unbroken x.part (callResult 0 false n.state n.ref x.pn.toNat), n.lease, u)
    (x.op = .pin → s.runCall x =
      if e.ref = 0 then refuse 1 else if 0xFFFF < e.lease + x.n then refuse 4 else effect { e with lease := e.lease + x.n }) ∧
    (x.op = .unpin → s.runCall x = if e.lease < x.n then refuse 3 else effect { e with lease := e.lease - x.n }) ∧
    (x.op = .share → s.runCall x =
      if e.ref = 0 then refuse 1 else if 0xFFFF < e.ref + x.n then refuse 4 else effect { e with ref := e.ref + x.n }) ∧
    (x.op = .free → s.runCall x = if e.ref = 0 then refuse 1 else effect { e with ref := e.ref - 1 }) ∧
    (x.op = .query → s.runCall x = (t.unbroken x.part (callResult 0 false e.state e.ref x.pn.toNat), e.lease, t)))

/-- R83, R195, R198, R206, R209, R210: a call that is not behind another takes effect and its result reaches its caller; a copy whose bytes have
been read takes them to the new page. A scan of a bad configuration or a bad entry fails; one that finds none links the free pages
and sets READY; closing ends when no call of the partition is left. -/
def Obligations.KeeperCallsAndTables : Prop :=
  (∀ (s : State) (id : Nat) (x : PgkCall),
    let u := s.startCopies
    let out := u.runCall x
    (u.call id = some x → x.copying = false → u.callBehind x = false → u.awaitsCopy x = false →
      x.copied = true ∨ u.readWaits (u.callPieces x) = false →
      exec (.pgkCallComplete id) s =
        .next ((((out.2.2.dropCall id).answerCall x out.1 out.2.1).countRefused x.part out.1).startCopies)) ∧
    (∀ (pn : Nat) (r : RegionId) (k : ChanId), s.call id = some x → x.copyTo = some pn → x.copied = false →
      s.readWaits (s.callPieces x) = false → r.val = (s.table x.part).region % 16 → k.val = (s.table x.part).chan % 32 →
      let t := s.dmaGo r k
      let y := t.chan r k
      (y.attr = some (.keeper id) → y.complete = true →
        exec (.pageCopyComplete id) s = .next ((t.modChan r k Channel.advance).endCopy x pn)) ∧
      (y.running = none → y.failed = none → y.writes = [] →
        exec (.pageCopyComplete id) s = .next (s.failCopy x pn))) ∧
    (∀ pn old new, s.readEntry x.part x.pn.toNat x.job = (some old, s) → s.readEntry x.part pn x.job = (some new, s) →
      let t := (s.writeEntry x.part pn { new with next := 0, lease := 0, ref := 1 } x.job).writeEntry x.part x.pn.toNat
        { old with ref := old.ref - 1 } x.job
      (t.keeper x.part).broken = false → s.endCopy x pn = t.modCall x.id fun y => { y with copied := true })) ∧
  (∀ (s : State) (p : PartId),
    let keep := bitOf (s.regN (pgkReg p 0)) 3
    let g := s.regTable p
    let scan := State.scanGo p keep g.count 0 (s.modKeeper p fun x => { x with table := g })
    ((s.keeper p).scanning = true → (s.keeper p).closing = false → s.keeperConfigOk p = false →
      exec (.pgkScanDone p) s = .next (s.scanFail p 0xFFFFFFFF)) ∧
    ((s.keeper p).scanning = true → (s.keeper p).closing = false → s.keeperConfigOk p = true →
      s.readWaits (s.locateAll p g.base (16 * g.count)) = false →
      (∀ pn, scan.1 = .failed pn → exec (.pgkScanDone p) s = .next (scan.2.scanFail p pn)) ∧
      (scan.1 = .broken → exec (.pgkScanDone p) s =
        .next ((scan.2.modKeeper p fun x => { x with scanning := false }).breakTable p none)) ∧
      (scan.1 = .ok → exec (.pgkScanDone p) s = .next (
        (State.linkGo p keep g.count (scan.2.modKeeper p fun x =>
          { x with freeHead := 0xFFFFFFFF#32, freeCount := 0 })).modKeeper p fun x =>
            { x with scanning := false, ready := !x.broken }))) ∧
    ((s.keeper p).closing = true → s.pgk.calls.any (fun x => x.part = p && !x.down) = false →
      exec (.pgkDisableDone p) s = .next (s.modKeeper p fun x => { x with closing := false, ready := false })))

/-- R215 to R219, R221, R222: the engine takes the next slot of its ring when its watch has fired: a stale SEQ skips it and sets source
299; otherwise the request is served with the status of its checks. A request that has a status writes its header and completes; one
whose memory reads without an error is scored, selected and written. -/
def Obligations.ScoutServesRequests : Prop :=
  ∀ (s : State) (r : RegionId) (p : Nat), s.regionOwner r = some p → s.shut = false →
    (∀ job rest bs, (s.scout r).fired = job :: rest → (s.scout r).serving = none →
      let t := s.modScout r fun y => { y with fired := y.fired.tail }
      let seq := t.regN (sctReg r 0xC)
      let g := t.readOwned p (t.addrReg (sctReg r 0) + 64 * (seq % max 1 (t.scoutSize r))) 64 job none
      g.1 = .bytes bs →
      let q : ScoutReq := { words := (List.range 8).map fun k => BitVec.ofNat 64 (wordAt bs k), status := 0, job := job }
      (q.seq ≠ seq → exec (.scoutRequest r) s = .next (
        ((g.2.addField (sctReg r 0x10) 16 16 1).scoutNext r).raise
          { src := 299, locs := [256 + r.val], job := job, tag := none })) ∧
      (q.seq = seq → exec (.scoutRequest r) s =
        .next (g.2.modScout r fun y => { y with serving := some { q with status := g.2.scoutStatus p q } }))) ∧
    (∀ q, (s.scout r).serving = some q → s.waitsFor (s.locateAll p q.out q.outLen) = false → q.status ≠ 0 →
      exec (.scoutDone r) s = .next ((s.scoutHeader p q 0 0 (BitVec.ofNat 8 q.status)).scoutFinish r p q)) ∧
    (∀ q bs cands skipped u, (s.scout r).serving = some q → s.waitsFor (s.locateAll p q.out q.outLen) = false → q.status = 0 →
      s.readWaits (s.scoutPieces p q) = false → s.readOwned p q.qaddr (512 * q.queries) q.job none = (.bytes bs, s) →
      State.scoutScan p q (queryVectors q.queries bs) q.count 0 s = (.ok cands skipped, u) →
      let sel := selectPages q cands
      exec (.scoutDone r) s =
        .next (((u.scoutLists p q sel).scoutHeader p q sel.length skipped 0).scoutFinish r p q))

/-- R220: the selection holds pages of the slice in slice order, without repeats, at most K of them where K covers the forced ones, and
every forced page; no page left out outranks one taken that was not forced. -/
def Obligations.SelectionKeepsForcedAndBest : Prop :=
  ∀ (q : ScoutReq) (l : List Candidate), q.keepFirst + q.keepLast ≤ q.k →
    List.Pairwise (fun a b => a.place < b.place) l → (∀ c ∈ l, c.place < q.count) →
    let sel := selectPages q l
    let forced := fun (c : Candidate) => c.place < q.keepFirst ∨ q.count ≤ c.place + q.keepLast
    sel.length = min q.k l.length ∧ List.Pairwise (fun a b => a.place < b.place) sel ∧ (∀ c ∈ sel, c ∈ l) ∧
    (∀ c ∈ l, forced c → c ∈ sel) ∧
    (∀ a ∈ sel, ∀ b ∈ l, ¬ forced a → b ∉ sel → a.score.lt b.score = false)

/-! ## Tier columns and the near-bank units -/

/-- R174, R175, R182, R183: SRX ends self-refresh in TRAIN; NBL, NBGO, NBS and NBA load, start or resume, report and abandon the sequence of
a working tier. -/
def Obligations.NearBankCommandsAct : Prop :=
  ∀ (s : State) (col : CoreId) (pos : BitVec 5) (t : Nat), s.tiersAt pos.toNat = [t] →
    let u := fun (cmd : TierCmd) => (s.modColumn col fun x => { x with retries := 0 }).drive col pos.toNat cmd
    (s.boot.base = .train → exec (.srx col pos) s = .next ((u .srx).modTier col t fun x => { x with selfRef := false })) ∧
    (((s.column col).tier t).selfRef = false → t < s.boot.wtiers →
      (∀ k value, exec (.nbl col pos k value) s = .next (
        (u (.nbl k.toNat value.toNat)).modTier col t fun x => { x with record := tabSet (fun _ => 0) x.record k.toNat value })) ∧
      (∀ units : BitVec 17, units ≠ 0 →
        let v := u (.nbgo units.toNat)
        let q := v.loadedRecord col t
        (∀ a, (v.column col).active = some a → a.tier = t → ((v.column col).tier t).seqDone = false →
          exec (.nbgo col pos units) s =
            .next (v.goSlice col t (min units.toNat (a.total - (v.column col).unitsDone)) s.now)) ∧
        ((v.column col).active = none → q.wellFormed s.boot.wtiers = true → q.tier = t → exec (.nbgo col pos units) s = .next (
          ((v.modColumn col fun x => { x with nextPort := x.nextPort + 1 }).loadSequence col q).goSlice col t
            (min units.toNat q.total) s.now))) ∧
      exec (.nbs col pos) s = .next ((u .nbs).pinValue col (((u .nbs).column col).tier t).status) ∧
      (((u .nba).column col).active = none →
        exec (.nba col pos) s = .next ((u .nba).modTier col t fun x => { x with running := false })) ∧
      (∀ q, ((u .nba).column col).active = some q → q.tier = t →
        exec (.nba col pos) s = .next ((u .nba).abandonSequence col false)))

/-- R177, R178, R180, R182 to R188: records written to a command port join the column's queue when every one of them is valid; the controller
takes the oldest when no sequence runs; a running slice advances its sequence, one that overruns is abandoned with its source; a
finished one leaves its results in the destination. -/
def Obligations.NearBankSequencesAct : Prop :=
  (∀ (s : State) (col : CoreId),
    (∀ (tag : PartId) data, s.ownsRegion tag (regionOf col) = true → s.shut = false → data ≠ [] → data.length % 32 = 0 →
      let num := (s.column col).nextPort
      let rs : List NbRecord := (recordsOf data).map fun w => { words := w, port := num, job := none }
      rs.all (s.nbValid tag col) = true →
      exec (.nbRecordWrite (.host tag) col data) s =
        .next (s.modColumn col fun x => ({ x with waiting := x.waiting ++ rs, nextPort := num + 1 } : Column).fill)) ∧
    (∀ q rest, (s.column col).active = none → (s.column col).queue = q :: rest →
      ((s.column col).tier q.tier).selfRef = false → ((s.column col).tier q.tier).refUntil ≤ s.now →
      exec (.nbSequenceStart col) s = .next (
        (((s.modColumn col fun x => ({ x with queue := rest } : Column).fill).modColumn col fun x =>
          { x with active := some q, unitsDone := 0, abandon := false }).modTier col q.tier fun t =>
            { t with record := (List.zip (List.range 4) q.words).foldl (fun m w => tabSet (fun _ => 0) m w.1 w.2) [],
                     sliceDone := false, seqDone := false, badWord := false, units := 0 }).startSlice col q))) ∧
  (∀ (s : State) (col : CoreId) (q : NbRecord), (s.column col).active = some q →
    let x := s.column col
    let y := x.tier q.tier
    let u := x.unitsDone + y.slice
    let ended := fun (done : Bool) =>
      ((s.modColumn col fun z => { z with unitsDone := min u q.total }).modTier col q.tier fun z =>
        { z with running := false, sliceDone := true, seqDone := done, units := min u q.total }).readStatus col q.tier
    (y.running = true →
      (y.sliceAt ≤ s.now →
        (s.nbBad col q x.unitsDone (min u q.total) = none → x.abandon = false →
          (q.total ≤ u → exec (.nbSliceEnd col) s = .next (ended true)) ∧
          (u < q.total →
            let t := ended false
            let batch := fld (t.regN (regionBase (col.val / 16) + 0xE0000)) 0 4
            exec (.nbSliceEnd col) s = .next (
              (if batch ≤ ((t.column col).tier q.tier).owed then t.payRefs col q.tier else t).startSlice col q))) ∧
        (s.nbBad col q x.unitsDone (min u q.total) = none → x.abandon = true →
          exec (.nbSliceEnd col) s = .next ((s.abandonSequence col false).drive col q.tier .nba)) ∧
        (∀ a, s.nbBad col q x.unitsDone (min u q.total) = some a →
          exec (.nbSliceEnd col) s = .next (s.nbUncorrectable col q a))) ∧
      (y.sliceAt + s.sliceBeats col q y.slice + 4000 ≤ s.now → exec (.nbOverrun col) s = .next (
        ((s.abandonSequence col false).drive col q.tier .nba).raise
          { src := 288, locs := [col.val], job := q.job, tag := none }))) ∧
    (y.seqDone = true →
      exec (.nbSequenceDone col) s = .next (
        (((s.nbStore col q false).modColumn col fun z =>
          ({ z with active := none, abandon := false, unitsDone := 0 } : Column).fill).modTier col q.tier fun t =>
            { t with running := false, seqDone := false }).payRefs col q.tier)))

/-- R160, R167, R171 to R173, R175, R176: a command at a position that names one tier out of self-refresh reaches that tier and no other.
Alerts, refresh debts, temperature frames, the end of a hot column and the loss of its frames. -/
def Obligations.TierCommandsAct : Prop :=
  (∀ (s : State) (col : CoreId) (pos bank : BitVec 5) (t : Nat), s.tiersAt pos.toNat = [t] → ((s.column col).tier t).selfRef = false →
    let u := fun (cmd : TierCmd) => (s.modColumn col fun x => { x with retries := 0 }).drive col pos.toNat cmd
    (∀ row, exec (.act col pos bank row) s = .next ((u (.act bank.toNat row.toNat)).setRow col t bank.toNat (some row.toNat))) ∧
    (∀ burst auto a,
      let close := fun (v : State) => if auto then v.setRow col t bank.toNat none else v
      let r := u (.rd bank.toNat burst.toNat auto)
      let v := u (.wr bank.toNat burst.toNat auto)
      (r.burstAt col t bank.toNat burst.toNat = .mem a → exec (.rd col pos bank burst auto) s =
        .next (close (r.pinBurst col (memRead r.mem a 1024) (r.checksAt (a / 8) 128)))) ∧
      (v.burstAt col t bank.toNat burst.toNat = .mem a → ∀ data checks : List Byte, data.length = 1024 → checks.length = 128 →
        exec (.wr col pos bank burst auto ⟨data, checks⟩) s =
          .next ((close (v.writeBurst a data checks)).pinBurst col data checks))) ∧
    exec (.pre col pos bank false) s = .next ((u (.pre bank.toNat false)).setRow col t bank.toNat none) ∧
    exec (.pre col pos bank true) s = .next ((u (.pre bank.toNat true)).modTier col t fun x => { x with rows := [] }) ∧
    exec (.ref col pos) s = .next (((u .ref).issueRefs col t 1).modTier col t fun x => { x with owed := x.owed - 1 }) ∧
    exec (.sre col pos) s = .next ((u .sre).modTier col t fun x => { x with selfRef := true, rows := [] }) ∧
    (∀ reg, exec (.mrr col pos reg) s =
      .next ((u (.mrr reg.toNat)).pinValue col ((u (.mrr reg.toNat)).tierMode col t reg.toNat))) ∧
    (∀ reg value, exec (.mrw col pos reg value) s = .next (
      (u (.mrw reg.toNat value.toNat)).modTier col t fun x =>
        { x with mode := tabSet (fun _ => none) x.mode reg.toNat (some value) }))) ∧
  (∀ (s : State) (col : CoreId),
    let x := s.column col
    (∀ w, badPacket w.toNat = true →
      exec (.tierCommandReject col w) s = .next (s.modColumn col fun y => { y with packet := w, alert := true })) ∧
    exec (.vcAlert col false) s = .next (s.raiseCore 290 col none) ∧
    (x.retries < 2 → exec (.vcAlert col true) s =
      .next ((s.modColumn col fun y => { y with retries := x.retries + 1, alert := false }).raiseCore 289 col none)) ∧
    (2 ≤ x.retries → exec (.vcAlert col true) s =
      .next ((s.modColumn col fun y => { y with retries := 0, alert := false }).failAccess col)) ∧
    (∀ t : Fin 20, t.val < s.boot.tiers → x.passed = true → (x.tier t).selfRef = false →
      x.nextRef s.boot.tiers t (x.tier t).refLast ≤ s.now →
      let d := s.modTier col t fun y => { y with refLast := x.nextRef s.boot.tiers t y.refLast }
      (∀ q, x.active = some q → q.tier = t.val →
        exec (.refreshDue col t) s = .next (d.modTier col t fun y => { y with owed := min (y.owed + 1) 8 })) ∧
      ((∀ q, x.active = some q → q.tier ≠ t.val) →
        exec (.refreshDue col t) s = .next ((d.drive col t .ref).issueRefs col t 1))) ∧
    (∀ b : BitVec 8, 85 < b.toNat → exec (.tierTempFrame col b) s = .next (
      (s.modColumn col fun y =>
        { y with temp := b, lastFrame := s.now, hot := true, tempLost := false, coolSince := none }).persistOff 291 (some col))) ∧
    (∀ b : BitVec 8, b.toNat ≤ 85 → x.hot = true → x.coolSince = none → exec (.tierTempFrame col b) s = .next (
      (s.modColumn col fun y =>
        { y with temp := b, lastFrame := s.now, tempLost := false, coolSince := some s.now }).persistOff 291 (some col))) ∧
    (∀ b, x.coolSince = some b → x.hot = true → x.tempLost = false → b + 2000000 ≤ s.now →
      exec (.columnCool col) s = .next (s.modColumn col fun y => { y with hot := false, coolSince := none })) ∧
    (s.serviceOn (col.val / 16) = true → x.tempLost = false → x.lastFrame + 256000 ≤ s.now →
      exec (.tierTempLost col) s = .next (
        ((s.modColumn col fun y => { y with hot := true, tempLost := true, coolSince := none }).persistOn 291
          (some col.val)).raiseCore 291 col none)))

/-! ## Host port -/

/-- R452 to R454: a well-formed transaction that the block takes now reads or writes a register its tag is admitted to, or memory of its
partition that reads without an error, and is answered with CPL or WRSP; a malformed one is answered with ERR cause 2 and a
register of another partition with cause 4. -/
def Obligations.HostTransactionsAct : Prop :=
  ∀ (s : State) (hdr : HostHeader) (data : List Byte),
    let rdx := hostTx hdr true []
    let wrx := hostTx hdr false data
    let tag := hdr.tag.toNat % 8
    let tid := hdr.tid.toNat % 1024
    (s.hostTakes rdx = true → headerMalformed hdr 1 = false →
      (∀ o, regOf hdr.addr.toNat = some o → s.regShape o 4 = true → hdr.len = 4#32 → s.admits tag o false = true →
        bankRefused rdx.req.path o = false →
        exec (.hostRd hdr) s =
          .next ((s.readReg rdx.req.path o).2.send (.cpl tag tid (leBytes 4 (s.readReg rdx.req.path o).1)))) ∧
      (∀ x bs t, regOf hdr.addr.toNat = none → s.locateAll tag hdr.addr.toNat hdr.len.toNat = [(.mem x, hdr.len.toNat)] →
        s.keeperOwned hdr.addr.toNat hdr.len.toNat = false → s.readWaits [(.mem x, hdr.len.toNat)] = false →
        hdr.addr.toNat < 0x80000000000 →
        s.readPieces none (some tag) [(.mem x, hdr.len.toNat)] = (bs, false, t) →
        exec (.hostRd hdr) s = .next (t.send (.cpl tag tid bs)))) ∧
    (s.hostTakes wrx = true → headerMalformed hdr 2 = false → data.length = hdr.len.toNat →
      (∀ o t, regOf hdr.addr.toNat = some o → s.regShape o 4 = true → hdr.len = 4#32 →
        (s.admits tag o true = false →
          exec (.hostWr hdr data) s = .next ((s.countRefusal tag 4).send (.err tag tid 4))) ∧
        (s.admits tag o true = true → s.writeReg wrx.req o (bytesLe data) = (t, .ok) →
          exec (.hostWr hdr data) s = .next (t.send (.wrsp tag tid)))) ∧
      (∀ x t, regOf hdr.addr.toNat = none → s.locateAll tag hdr.addr.toNat hdr.len.toNat = [(.mem x, hdr.len.toNat)] →
        s.keeperOwned hdr.addr.toNat hdr.len.toNat = false → s.waitsFor [(.mem x, hdr.len.toNat)] = false →
        s.hitsSchedule x hdr.len.toNat = false → hdr.addr.toNat < 0x80000000000 →
        s.writePieces none (some tag) [(.mem x, hdr.len.toNat)] data = (t, false) →
        exec (.hostWr hdr data) s = .next (t.send (.wrsp tag tid)))) ∧
    (s.hostReady = true → s.hostShut rdx = false → headerMalformed hdr 1 = true → s.awake = true →
      exec (.hostRd hdr) s = .next ((s.addField hostErr 8 8 1).send (.err tag tid 2)))

/-- R452, R455: at most 1,024 outbound transactions await their responses. An answer goes to the outbound transaction of its TID; one that
no transaction awaits is only counted; a transaction that has waited its timeout ends in error. -/
def Obligations.OutboundAnswersAct : Prop :=
  (∀ s : State, (s.host.outbound.filter Outbound.isOpen).length ≤ 1024 →
    (s.pumpHost.host.outbound.filter Outbound.isOpen).length ≤ 1024) ∧
  (∀ (s : State) (tid : BitVec 10), s.hostOpen = true →
    (∀ o, s.outWaiting tid.toNat = some o →
      (o.read = true → ∀ data, data.length = o.len → exec (.cpl tid data) s = .next (s.outAnswer o (some data))) ∧
      (o.read = false → exec (.wrsp tid) s = .next (s.outAnswer o (some []))) ∧
      (∀ cause, exec (.err tid cause) s = .next ((s.outAnswer o none).addField hostErr 0 8 1)) ∧
      (∀ b, o.sentAt = some b → b + 2000 * fld (s.regN 0x102000) 0 16 ≤ s.now →
        exec (.hostTimeout tid) s = .next ((s.outAnswer o none).addField hostErr 0 8 1))) ∧
    (s.outWaiting tid.toNat = none →
      (∀ data, exec (.cpl tid data) s = .next (s.addField hostErr 0 8 1)) ∧
      exec (.wrsp tid) s = .next (s.addField hostErr 0 8 1) ∧
      (∀ cause, exec (.err tid cause) s = .next (s.addField hostErr 0 8 1))))

/-! ## Peer ports -/

/-- R272, R275, R276: a well-formed access on a port that is UP, by a block neither in IDLE nor shut, acts on tier space inside the import
window and is answered; one outside the window is refused with NACK cause 1 and source 300; a malformed one with cause 3 and
source 301; each returns its credits; a signal becomes an addition. -/
def Obligations.PeerAccessesAct : Prop :=
  ∀ (s : State) (n : PortId) (tid : BitVec 10) (len : BitVec 32) (addr : BitVec 48) (data : List Byte),
    s.linkUp n = true → s.awake = true →
    let l := s.locateAll (s.portOwner n) addr.toNat len.toNat
    let flits := fun (k : Nat) => (k + 63) / 64
    let malformed := fun (t : State) => (t.send (.peerNack n tid.toNat 3)).raiseBlock 301
    (peerShape len.toNat addr.toNat = false ∨ data.length ≠ len.toNat →
      exec (.peerWr n tid len addr data) s = .next (malformed (s.owe n 1 (flits data.length)))) ∧
    (peerShape len.toNat addr.toNat = false → exec (.peerRd n tid len addr) s = .next (malformed (s.owe n 1 0))) ∧
    (peerShape len.toNat addr.toNat = true → data.length = len.toNat → (s.peer n).buffered = [] → s.peerShut = false →
      (s.inWindow n addr.toNat len.toNat = false →
        exec (.peerWr n tid len addr data) s = .next (((s.send (.peerNack n tid.toNat 1)).raiseBlock 300).owe n 1 (flits len.toNat)) ∧
        exec (.peerRd n tid len addr) s = .next (((s.send (.peerNack n tid.toNat 1)).raiseBlock 300).owe n 1 0)) ∧
      (s.inWindow n addr.toNat len.toNat = true → l ≠ [] → allMem l = true → s.touchesEntries addr.toNat len.toNat = false →
        s.waitsFor l = false →
        (∀ t, s.writePieces none none l data = (t, false) → exec (.peerWr n tid len addr data) s =
          .next ((t.peerSend n (.peerAck n tid.toNat)).owe n 1 (flits len.toNat))) ∧
        (s.readWaits l = false → ∀ bs t, s.readPieces none none l = (bs, false, t) →
          exec (.peerRd n tid len addr) s = .next ((t.peerSend n (.peerRdata n tid.toNat bs)).owe n 1 0)))) ∧
    (∀ (amount : BitVec 32) (counter : BitVec 16), s.peerShut = false →
      fld (s.regN (peerBase n + 0x10)) 0 16 ≤ counter.toNat → counter.toNat ≤ fld (s.regN (peerBase n + 0x10)) 16 16 →
      let t := s.owe n 1 0
      exec (.peerSig n tid amount counter) s =
        .next (t.sendSync (.add (t.arriveBeat (portRegion n) (counterRegion counter.toNat)) counter.toNat amount
          (.peer n tid.toNat))))

/-- R273, R274, R279, R280, R444: on a port that is UP an ACK, a NACK or read data ends the access of its TID, a NACK in error and counted; a
credit message adds its credits and lets waiting accesses leave; a malformed message sets source 301; owed credits are sent
back; an access that has waited its timeout ends in error and is counted. -/
def Obligations.PeerAnswersAct : Prop :=
  ∀ (s : State) (n : PortId) (tid : BitVec 10), s.linkUp n = true →
    (∀ a, s.awaiting n tid.toNat = some a →
      (a.read = false → exec (.ack n tid) s = .next (s.endAccess n a (some [])).peerWake) ∧
      (∀ len addr, a.read = true → a.msg = .peerRd n a.tid addr len →
        ∀ (k : BitVec 32) data, k.toNat = len → data.length = len →
          exec (.rdata n tid k data) s = .next (s.endAccess n a (some data)).peerWake) ∧
      (∀ cause : BitVec 8, 1 ≤ cause.toNat → cause.toNat ≤ 4 →
        exec (.nack n tid cause) s = .next ((s.addField (peerBase n + 0x38) 0 12 1).endAccess n a none).peerWake) ∧
      (a.sentAt.getD 0 + 2000 * fld (s.regN (peerBase n + 0x14)) 0 16 ≤ s.now →
        exec (.peerAccessTimeout n tid) s = .next (
          ((s.addField (peerBase n + 0x38) 12 12 1).modPeer n fun x => { x with late := x.late ++ [tid.toNat] }).endAccess
            n a none))) ∧
    (∀ req data : BitVec 16, exec (.crd n req data) s = .next (
      (s.modPeer n fun x => { x with reqCred := x.reqCred + req.toNat, dataCred := x.dataCred + data.toNat }).pump n).peerWake) ∧
    (exec (.peerMessageMalformed n (some tid)) s = .next (((s.send (.peerNack n tid.toNat 3)).raiseBlock 301).peerWake)) ∧
    (exec (.peerMessageMalformed n none) s = .next ((s.raiseBlock 301).peerWake)) ∧
    (0 < (s.peer n).owedReq ∨ 0 < (s.peer n).owedData → exec (.creditReturnDue n) s = .next (
      (s.modPeer n fun y => { y with owedReq := 0, owedData := 0 }).send
        (.peerCrd n (s.peer n).owedReq (s.peer n).owedData)))

/-- R277, R278, R281, R282: a link that rises starts INIT on an enabled port; the partner's INIT of major version 2 brings it UP with its credits;
another version or 1 ms of silence fails it; a link that falls takes it DOWN. Pace notices are in force for twice their period and
are sent at the end of one. -/
def Obligations.PeerLinksAndPace : Prop :=
  (∀ (s : State) (n : PortId),
    let up := s.modPins fun p => { p with linkUp := p.linkUp ||| BitVec.ofNat 4 (2 ^ n.val) }
    let down := s.modPins fun p => { p with linkUp := p.linkUp &&& ~~~(BitVec.ofNat 4 (2 ^ n.val)) }
    (bitOf s.pins.linkUp.toNat n = false → s.peerEn n = true → (s.peer n).link = .down →
      exec (.peerLinkUp n) s = .next (
        (up.modPeer n fun x => { x with link := .init, since := s.now }).send
          (.peerInit n 0x51530201 256 4096))) ∧
    ((s.peer n).link = .up → exec (.peerLinkDown n) s = .next ((down.loseLink n).raiseBlock 302)) ∧
    ((s.peer n).link = .init → ∀ (id : BitVec 32) (req data : BitVec 16),
      (fld id.toNat 8 8 = 2 → exec (.init n id req data) s = .next (
        (s.modPeer n fun x =>
          { x with link := .up, since := s.now, major := 2, reqCred := req.toNat, dataCred := data.toNat,
                   paceAt := s.now, paceBase := s.holdCounts, late := [] }).pump n)) ∧
      (fld id.toNat 8 8 ≠ 2 → exec (.init n id req data) s = .next (
        (s.modPeer n fun x => { x with link := .failed, since := s.now, major := fld id.toNat 8 8 }).raiseBlock 301)) ∧
      ((s.peer n).since + 2000000 ≤ s.now → exec (.peerInitTimeout n) s = .next (
        (s.modPeer n fun x => { x with link := .failed, since := s.now }).raiseBlock 301)))) ∧
  (∀ (s : State) (n : PortId),
    (∀ (f : BitVec 16) (reason period : BitVec 8) (seq : BitVec 32), s.linkUp n = true → s.boot.base ≠ .idle →
      f.toNat ≤ 1024 → reason.toNat ≤ 12 → 1 ≤ period.toNat → period.toNat ≤ 64 →
      ∃ t, exec (.pace n f reason period seq) s = .next t ∧
        (s.tablesWf = true →
          t.peer n = { s.peer n with rx := ⟨f.toNat, period.toNat, reason.toNat, seq.toNat⟩,
                                     inForce := decide (1 ≤ f.toNat), rxBeat := s.now }) ∧
        t.mem = s.mem ∧ t.cores = s.cores ∧ t.regs = s.regs) ∧
    ((s.peer n).inForce = true → (s.peer n).rxBeat + 4000 * (s.peer n).rx.period ≤ s.now →
      exec (.paceExpire n) s = .next (s.modPeer n fun y => { y with inForce := false })) ∧
    (s.linkUp n = true → (s.peer n).paceAt + 2000 * pacePeriod s n ≤ s.now →
      let p := s.partPace n (s.now - (s.peer n).paceAt)
      let t := s.modPeer n fun y => { y with paceAt := s.now, paceBase := s.holdCounts }
      (p.1 = 0 → (s.peer n).tx.f = 0 → exec (.pacePeriodEnd n) s = .next t) ∧
      (1 ≤ p.1 ∨ 1 ≤ (s.peer n).tx.f →
        let seq := ((s.peer n).tx.seq + 1) % 2 ^ 32
        exec (.pacePeriodEnd n) s = .next (
          (t.modPeer n fun y => { y with tx := ⟨p.1, pacePeriod s n, p.2, seq⟩ }).send
            (.peerPace n p.1 p.2 (pacePeriod s n) seq)))))

/-! ## Writes of registers -/

/-- R12, R475: a register write that its path admits and its register's rule takes has that rule's effect and no other; one that the rule
refuses with cause 5 changes what the rule says changes and no other. -/
def Obligations.RegisterWriteFollowsItsRule : Prop :=
  ∀ (s t : State) (p : Path) (o v : BitVec 32), s.pathAdmits p o.toNat = true →
    (s.writeReg (asks p) o.toNat v.toNat = (t, .ok) → exec (.registerWrite p o v) s = .next t) ∧
    (s.writeReg (asks p) o.toNat v.toNat = (t, .err 5) → exec (.registerWrite p o v) s = .next t)

/-- R80, R441, R444, R475, R479 to R483, R486: the rows whose registers belong to the side-band change nothing when a host makes them. -/
def Obligations.SideBandRegistersRefuseHosts : Prop :=
  ∀ (s : State) (t : PartId) (r : RegionId) (w : Fin 3) (p : PartId) (v : BitVec 32) (len : BitVec 19) (k : BitVec 4),
    ∀ row ∈ [(Instr.loopOpen (.host t) r v, lpeReg r 0), (.loopClose (.host t) r v, lpeReg r 0), (.capWrite (.host t) w v, capReg w),
      (.floorWrite (.host t) p v, floorReg p), (.faultInjectArm (.host t) v, 0x30008C), (.idleEnter (.host t), 0x200004),
      (.idleWake (.host t), 0x200004), (.epochArm (.host t), 0x400F00),
      (.hold (.host t), 0x1E00008), (.reboot (.host t), 0x1E00008), (.dpd (.host t), 0x1E00008),
      (.start (.host t) len, 0x1E00010), (.updateData (.host t) v, 0x1E00014), (.finish (.host t), 0x1E00010),
      (.abort (.host t), 0x1E00010), (.fuseProgram (.host t) k, 0x1E08060), (.tstUnlock (.host t) v, 0x1F00000),
      (.tstLock (.host t), 0x1F00000)],
    s.pathAdmits (.host t) row.2 = true → exec row.1 s = .next s

/-- R14, R215, R227, R228, R233, R237, R243, R249, R257, R258, R268, R269: writes of the sync, scout and DMA registers. SYN_CNT is step 2 of a
beat at its counter; where nothing arrives and nothing watches, the counter holds the value and no other changes; where the counter
has been through the beat the write waits. SYN_ADD sends an addition, SYN_HWATCH registers a watch or removes it, SCT_CTRL starts the
engine where its counter and ring fit (log entry 65). An idle channel takes a doorbell, a running one checks again, a parked one
rereads; one that is off, halted or draining, or held by the page keeper, refuses it with CAUSE 5 and source 295. An abort stops a
channel; an allocation is taken by an off or idle channel that the 128 slots of the region cover. -/
def Obligations.EngineRegisterWrites : Prop :=
  (∀ (s : State) (p : Path) (k : Fin 65536) (r : RegionId),
    let cntAt := synBase (k.val / 4096) + 4 * (k.val % 4096)
    let served := fun (u : State) (j : Nat) (ps : List Packet) (v : Option (BitVec 32)) =>
      (u.setSync { u.sync with taken := tabSet (fun _ => 0) u.sync.taken j (s.now + 1) }).counterBeat j ps v
    (∀ v, s.pathAdmits p cntAt = true →
      (s.hadBeat k = false → exec (.synCntWrite p k v) s =
        .next (served (s.caughtUp k) k ((s.caughtUp k).packetsNow k) (some v))) ∧
      (s.hadBeat k = true → exec (.synCntWrite p k v) s = .next (s.hold
        { req := asks p, read := false, addr := windowBase + cntAt, len := 4, data := leBytes 4 v.toNat, why := .wait })) ∧
      (s.hadBeat k = false → s.duePackets k = [] → s.sync.watches.all (fun w => !decide (w.counter = k)) = true →
        s.tablesWf = true →
        ∃ t, exec (.synCntWrite p k v) s = .next t ∧ t.counter k = v ∧ (∀ j, j ≠ k.val → t.counter j = s.counter j) ∧
          t.mem = s.mem ∧ t.cores = s.cores ∧ t.sync.watches = s.sync.watches ∧ t.sync.packets = s.sync.packets)) ∧
    (∀ v, s.pathAdmits p (synBase (k.val / 4096) + 0x4000 + 4 * (k.val % 4096)) = true →
      exec (.synAddWrite p k v) s = .next (s.sendSync (.add (s.now + 2) k v (.host p none)))) ∧
    (∀ c : BitVec 12, s.pathAdmits p (synHwatch r) = true →
      let j := 4096 * r.val + c.toNat
      let t := s.setSync { s.sync with watches := s.sync.watches.filter fun w => !decide (w.who = .host r) }
      let u := (t.putReg (synHwatch r) (2 ^ 31 + c.toNat)).caughtUp j
      (bitOf (s.regN (synHwatch r)) 30 = true →
        exec (.hostWatchArm p r c) s = .next s ∧ exec (.hostWatchCancel p r c) s = .next s) ∧
      (bitOf (s.regN (synHwatch r)) 30 = false →
        exec (.hostWatchCancel p r c) s = .next (t.putReg (synHwatch r) c.toNat) ∧
        (s.hadBeat j = false → exec (.hostWatchArm p r c) s = .next (
          served u j (u.packetsNow j ++ [.register s.now j (u.reg (synHwatchVal r)) false (.host r)]) none)))) ∧
    (∀ (size : BitVec 13) (ctr : BitVec 16), s.pathAdmits p (sctReg r 8) = true →
      let n := clampTo 1 4096 size.toNat
      let ring := s.addrReg (sctReg r 0)
      let fits := decide (counterRegion ctr.toNat = r.val) && decide (ring % 64 = 0) &&
        (match s.regionOwner r with | some q => allMem (s.locateAll q ring (64 * n)) | none => false)
      let put := fun (on : Bool) => s.putReg (sctReg r 8) (at' 31 1 (b2n on) + at' 16 13 n + ctr.toNat)
      (s.scoutEn r = false → fits = true →
        exec (.scoutEnable p r size ctr) s = .next (((put true).putReg (sctReg r 0xC) 0).armScout r)) ∧
      (s.scoutEn r = false → fits = false → exec (.scoutEnable p r size ctr) s = .next (put false)) ∧
      (s.scoutEn r = true → exec (.scoutEnable p r size ctr) s =
        .next (((s.removeWatch (s.scoutCtr r) (.scout r)).putReg (sctReg r 0xC) 0).armScout r)))) ∧
  (∀ (s : State) (p : Path) (r : RegionId) (k : ChanId),
    let who : Ringer := match p with | .host t => .host t | .side => .side
    let x := s.chan r k
    let refused := (s.modChan r k fun y => { y with cause := 5 }).raise
      { src := 295, locs := [256 + r.val], job := none, tag := match p with | .host t => some t.val | .side => none }
    (s.pathAdmits p (dmaBase r + 0x400) = true →
      (s.keeperHolds r k = true ∨ x.state = .off ∨ x.state = .halted ∨ x.state = .draining →
        exec (.dmaDbell p r k) s = .next refused) ∧
      (s.keeperHolds r k = false →
        (x.state = .idle → exec (.dmaDbell p r k) s = .next (s.modChan r k fun y =>
          { y with state := .running, cur := s.dmaHead r k, fetching := some false, owner := some who, running := none,
                   recheck := false, failed := none })) ∧
        (x.state = .running → exec (.dmaDbell p r k) s = .next (s.modChan r k fun y =>
          { y with recheck := true, owner := some who })) ∧
        (x.state = .parked → exec (.dmaDbell p r k) s = .next (s.modChan r k fun y =>
          { y with fetching := some true, owner := some who })))) ∧
    (s.pathAdmits p (dmaReg r k 0) = true →
      (s.keeperHolds r k = true → exec (.dmaAbort p r k) s = .next refused) ∧
      (s.keeperHolds r k = false →
        (x.state = .running ∨ x.state = .parked ∨ x.state = .halted →
          let ended := x.finishing.takeWhile fun f => x.writes.all fun w => decide (f.upTo ≤ w.1)
          let t := State.each ended (fun f u => u.dmaSignal r f.word0 f.attr) s
          let u := match x.complete, x.running with
            | true, some q => t.dmaSignal r q.word0 x.attr
            | _, _ => t
          exec (.dmaAbort p r k) s = .next ((u.modChan r k fun y =>
            { y with state := .draining, fetching := none, running := none, finishing := [], failed := none
                     done := y.done + BitVec.ofNat 32 (ended.length + b2n x.complete) }).dmaSweep r k)) ∧
        (x.state = .off ∨ x.state = .idle ∨ x.state = .draining → exec (.dmaAbort p r k) s = .next s)) ∧
      (∀ n : BitVec 7,
        let fits := n.toNat ≠ 1 ∧ n.toNat ≤ 64 ∧ s.allocated r - x.alloc + n.toNat ≤ 128 ∧ s.keeperHolds r k = false ∧
          (x.state = .off ∨ x.state = .idle)
        (fits → exec (.dmaAllocWrite p r k n) s = .next (s.modChan r k fun y =>
          { y with alloc := n.toNat, state := if n.toNat = 0 then .off else .idle })) ∧
        (¬ fits → exec (.dmaAllocWrite p r k n) s = .next s))))

/-- R208 to R210, R271, R277, R278: a page-keeper call written while none is busy reaches the keeper; a table is enabled from rest and disabled
while enabled, and one that is scanning is given up (log entry 64). PEER_CTRL with PART as it is sets EN, or clears it and takes the
port DOWN. -/
def Obligations.KeeperAndPeerWrites : Prop :=
  (∀ (s : State) (p : Path) (q : PartId),
    let made := fun (op : PgkOp) (n : Nat) =>
      (.next ((s.modKeeper q fun x => { x with callBusy := true }).newCall q op (s.reg (pgkReg q 0x28)) n (.host p)) :
        Host.Outcome State Fault Refusal)
    (s.pathAdmits p (pgkReg q 0x2C) = true → (s.keeper q).callBusy = false →
      (∀ n, exec (.pgkCallPin p q n) s = made .pin n.toNat ∧ exec (.pgkCallUnpin p q n) s = made .unpin n.toNat ∧
        exec (.pgkCallShare p q n) s = made .share n.toNat) ∧
      exec (.pgkCallWriteIntent p q) s = made .writeIntent 0 ∧ exec (.pgkCallFree p q) s = made .free 0 ∧
      exec (.query p q) s = made .query 0) ∧
    (s.pathAdmits p (pgkReg q 0) = true →
      (∀ keep psize, s.pgkEn q = false → (s.keeper q).scanning = false →
        exec (.pgkEnable p q keep psize) s = .next (
          (s.putReg (pgkReg q 0) (1 + 2 * psize.toNat + 8 * b2n keep)).modKeeper q fun x =>
            { x with scanning := true, cfgErr := false, broken := false })) ∧
      (s.pgkEn q = true → exec (.pgkDisable p q) s = .next (
        (s.setPgkEn q false).modKeeper q fun x =>
          { x with closing := x.closing || x.ready || x.broken, scanning := false })))) ∧
  (∀ (s : State) (p : Path) (n : PortId), s.pathAdmits p (peerBase n) = true →
    let off := s.putReg (peerBase n) (s.portOwner n)
    exec (.peerEnable p n) s = .next (s.putReg (peerBase n) (2 ^ 31 + s.portOwner n)) ∧
    ((s.peer n).link = .up → exec (.peerDisable p n) s = .next (off.loseLink n)) ∧
    ((s.peer n).link ≠ .up → exec (.peerDisable p n) s =
      .next (off.modPeer n fun x => { x with link := .down, since := s.now })))

/-- R298, R352, R354, R359, R360, R379, R382, R388, R394, R399, R401: writes of the loop, cap, floor, power request, telemetry, energy slot, sensor
and coolant registers. -/
def Obligations.PowerAndTelemetryWrites : Prop :=
  (∀ (s : State) (r : RegionId) (v : BitVec 32),
    let old := s.regN (lpeReg r 0)
    let alpha := if bitOf old 31 then clampTo 1 8 (fld v.toNat 0 4) else fld old 0 4
    (s.pathAdmits .side (lpeReg r 0) = true →
      exec (.loopOpen .side r v) s = .next (
        (s.putReg (lpeReg r 0) (at' 29 3 (4 + fld v.toNat 29 2) + at' 8 8 (fld old 8 8) + alpha)).modLoop r fun x =>
          { x with openSince := if bitOf old 31 then x.openSince else some s.now }) ∧
      exec (.loopClose .side r v) s = .next (
        (s.putReg (lpeReg r 0) (at' 29 3 (fld v.toNat 29 2) + at' 8 8 (fld old 8 8) + alpha)).modLoop r fun x =>
          { x with openSince := none })) ∧
    (∀ w : Fin 3, s.pathAdmits .side (capReg w) = true →
      let c := clampTo 400 1600 (fld v.toNat 0 11)
      let fits := capsKeep ((List.range 3).map fun k => if k = w.val then c else s.capOf k) ((List.range 8).map s.floorOf)
      (fits = true → exec (.capWrite .side w v) s = .next ((s.putReg (capReg w) c).restartWindow w)) ∧
      (fits = false → exec (.capWrite .side w v) s = .next s)) ∧
    (∀ p : PartId, s.pathAdmits .side (floorReg p) = true →
      let f := fld v.toNat 0 11
      let fits := capsKeep ((List.range 3).map s.capOf) ((List.range 8).map fun k => if k = p.val then f else s.floorOf k)
      (fits = true → f ≤ 1400 → exec (.floorWrite .side p v) s = .next (
        State.each (List.range 3) (fun w t => t.restartWindow w) (s.putReg (floorReg p) f))) ∧
      (fits = false ∨ 1400 < f → exec (.floorWrite .side p v) s = .next s)) ∧
    (∀ p : Path, s.pathAdmits p (0x401000 + 4 * r.val) = true →
      let w := reqWord v.toNat
      let held := (coresOf r).any fun c => s.railOn c && (s.core c).seq.bound && decide (fld w (2 * (c % 16)) 2 ≠ 2)
      let t := s.putReg (0x401000 + 4 * r) w
      (held = false → t.requestsAct = true → exec (.corePowerRequest p r v) s = .next (t.actOnRequest r t.upOpen)) ∧
      (held = false → t.requestsAct = false → exec (.corePowerRequest p r v) s = .next t) ∧
      (held = true → exec (.corePowerRequest p r v) s = .next s))) ∧
  (∀ (s : State) (p : Path) (r : RegionId),
    (∀ (i : BitVec 6) (k : Fin 8), s.pathAdmits p (tlmReg r 0xC0) = true → i.toNat < 39 →
      (s.converting r k = true → exec (.tlmSpot p r i k) s =
        .next (s.putReg (tlmReg r 0xC4) (satInc (s.regN (tlmReg r 0xC4)) 0xFFFFFFFF))) ∧
      (s.converting r k = false → (∀ q, s.slotNow r k = some q → s.now < q.1) →
        exec (.tlmSpot p r i k) s = .next (s.modTlm r fun x => { x with spots := x.spots ++ [(k.val, i.toNat, s.now)] }))) ∧
    (∀ mm, s.pathAdmits p (tlmReg r 0xD0) = true →
      exec (.tlmSnap p r mm) s = .next (s.writeSnap r (if isSide p then 1 else 0) (1 + 2 * b2n mm))) ∧
    (∀ k : Fin 32, s.pathAdmits p 0x403200 = true → (∀ t, p = .host t → s.ownsSlot t k = true) →
      let kept := if s.power.sampled = s.now + 1 then tabGet slotDefault s.power.added k else 0
      exec (.jobEnergyClear p k) s = .next (s.setPower { s.power with slots := tabSet slotDefault s.power.slots k kept })) ∧
    (∀ n : SensorId, s.pathAdmits p (sensorReg n) = true → bitOf (s.clears (sensorReg n) (2 ^ 31)) 31 = true →
      (s.sensor n).suspect = true → (s.sensor n).cut = false → exec (.sensorSuspectClear p n) s =
        .next (s.modSensor n fun x => { x with suspect := false, fresh := false, dev := 0 })) ∧
    (s.pathAdmits p coolReg = true → s.blockState = 7 → s.boot.recoverOk = true → s.boot.coolant = true →
      let t := s.modBoot fun b => { b with coolant := false, resuming := true }
      exec (.resume p) s = .next ((t.setPower { t.power with cool := some t.now }).actOnRequests.afterUps)))

/-- R413, R416, R417, R421, R428, R435, R436, R441, R444: writes of the fault collector and of a partition's event queue; the side-band's entry to
IDLE and wake. -/
def Obligations.FaultAndEventWrites : Prop :=
  (∀ (s : State) (p : Path),
    (∀ (k : Fin 16) v, s.mayClear p = true → s.pathAdmits p (0x300000 + 4 * k) = true →
      let ks := ((bitsOf 32 v.toNat).map fun j => 32 * k.val + j).filter fun j => !reservedSource j
      ks.any (fun j => (s.timed (s.source j)).hasActed s.now) = false →
      exec (.faultClear p k v) s = .next (s.clearSticky ks) ∧
      (s.boot.safe = false → s.pins.refclk = true → s.clearSticky ks =
        State.each ks (fun j t => t.modCopies fun f => f.put j ((t.timed (f.src j)).clear t.now)) s)) ∧
    (∀ v : BitVec 32, s.pathAdmits .side 0x30008C = true → fld v.toNat 29 2 ≠ 3 → kindSource (fld v.toNat 0 9) = true →
      placeOk (fld v.toNat 0 9) (if fld v.toNat 18 9 = 511 then none else some (fld v.toNat 18 9)) = true →
      exec (.faultInjectArm .side v) s = .next (s.modFaults fun f =>
        { f with inj := { arm := true, mode := fld v.toNat 29 2, loc := fld v.toNat 18 9, src := fld v.toNat 0 9, when := s.now } })) ∧
    (∀ t, s.mayClear p = true → s.pathAdmits p pinReg = true → bitOf (tabGet (fun _ => 0#32) s.marks pinReg).toNat 31 = false →
      (p = .host t → exec (.errHeldClear p) s = .next (s.modCopies fun f => { f with held := false })) ∧
      (p = .side → exec (.errHeldClear p) s = .next (
        (s.modCopies fun f => { f with held := false }).writePinCfg (setFld s.pinView 31 1 1))))) ∧
  (∀ (s : State) (p : Path) (q : PartId) (v : BitVec 32),
    let x := s.evq q
    let cfg := fun (t : State) => t.putReg (evqBase q + 8) (at' 16 12 (fld v.toNat 16 12) + at' 8 8 (max 1 (fld v.toNat 8 8)) + fld v.toNat 0 4)
    (∀ k : Fin 16, s.pathAdmits p (evqBase q + 0x40 + 4 * k) = true →
      exec (.eventWithdraw p q k v) s =
        .next (State.each (bitsOf 32 v.toNat) (fun j t => t.withdrawOne q (32 * k + j)) s)) ∧
    (s.pathAdmits p (evqBase q + 0x10) = true → x.en = true → (v - x.tail).toNat ≤ (x.head - x.tail).toNat →
      exec (.evqTailWrite p q v) s = .next (s.modEvq q fun y =>
        { y with tail := v, armed := true, ageStart := if y.head ≠ v then s.now else y.ageStart })) ∧
    (s.pathAdmits p (evqBase q + 8) = true → x.en = false ∨ fld v.toNat 0 4 = fld (s.regN (evqBase q + 8)) 0 4 →
      exec (.evqEnable p q v) s = .next ((cfg s).modEvq q fun y =>
        { y with halt := false, werr := false, cfgErr := !(cfg s).ringGood q, en := (cfg s).ringGood q, offAt := 0 }) ∧
      exec (.evqDisable p q v) s = .next ((cfg s).modEvq q fun y => { y with en := false, halt := false, werr := false, offAt := if y.en then s.now + 1 else y.offAt })) ∧
    (s.pathAdmits .side 0x200004 = true →
      (s.idleRefusal = 0 → s.boot.entering = false → exec (.idleEnter .side) s =
        .next (s.allToRetain.modBoot fun b => { b with entering := true, wakeMet := none })) ∧
      (s.idleRefusal ≠ 0 → exec (.idleEnter .side) s =
        .next (s.putReg 0x200008 (setFld (s.regN 0x200008) 24 4 s.idleRefusal))) ∧
      (s.boot.base = .idle → exec (.idleWake .side) s = .next (s.wakeCause 5 0 true))))

/-- R457, R458, R464, R465: a launch whose record reads and keeps every rule makes its job LOADING and its answer waits; a stop ends the
named jobs; a commit that breaks no rule begins, and one that does records its cause. -/
def Obligations.PartitionWrites : Prop :=
  ∀ (s : State) (p : Path) (q : PartId),
    (∀ hdr bs u t, s.pathAdmits p (launchGo q) = true →
      (List.range 16).any (fun j => (s.job q j).state = .loading) = false →
      s.readWaits (s.locateAll q (s.launchAddr q) 32) = false → s.readRecord q (s.launchAddr q) 32 = (some hdr, u) →
      let w := recordWord hdr 0
      let n := fld w 11 9
      1 ≤ n → n ≤ 256 → s.readWaits (s.locateAll q (s.launchAddr q + 32) (8 * n)) = false → u.readRecord q (s.launchAddr q + 32) (8 * n) = (some bs, t) →
      let ws := (List.range (bs.length / 8)).map (recordWord bs)
      t.launchCause q hdr ws = 0 →
      exec (.launch p q) s = .next (
        (t.modJob q (fld w 0 4) fun _ =>
          { Job.initial with state := .loading, cores := ws.map launchEntry,
                             slot := if bitOf w 4 then some (fld w 5 5) else none, slotClr := bitOf w 10 }).hold
          { req := asks p, read := false, addr := 0x40080000000 + launchGo q, len := 4, data := [], why := .launch q })) ∧
    (∀ mask, s.pathAdmits p (partBase q + 0x5C) = true →
      exec (.partStop p q mask) s = .next (s.partStop q mask.toNat)) ∧
    (∀ scrub, s.pathAdmits .side 0x101000 = true → s.commit.busy = false →
      (s.commitCause = none → exec (.partitionCommit .side scrub) s = .next (s.beginCommit scrub)) ∧
      (∀ c i, s.commitCause = some (c, i) → exec (.partitionCommit .side scrub) s =
        .next (s.setCommit { s.commit with cause := c, part := i })))

/-- R80, R479 to R483, R486 to R488: the side-band arms the epoch, enters HOLD, reboots and enters deep power-down; updates, fuses and the unlock
of perturbation. -/
def Obligations.BootAndUpdateWrites : Prop :=
  (∀ s : State,
    (s.pathAdmits .side 0x400F00 = true → exec (.epochArm .side) s = .next (s.putReg 0x400F00 1)) ∧
    (s.pathAdmits .side 0x1E00008 = true →
      (s.blockState = 4 → s.jobs.any (fun e => e.2.busy) = false →
        s.dma.any (fun e => e.2.state = .running || e.2.state = .draining) = false →
        exec (.hold .side) s = .next (s.modBoot fun b => { b with hold := true })) ∧
      (s.blockState = 2 ∨ s.boot.dpd = true → exec (.reboot .side) s = .next (
        ((s.modPins fun p => { p with rstSeen := false }).modBoot fun b => { b with rebootAt := some s.now }).resetBlock)) ∧
      (s.blockState = 4 ∨ s.blockState = 8 → s.busyReason = 0 → exec (.dpd .side) s = .next (
        s.endService.modBoot fun b => { b with dpd := true, dpdLow := false, step := .waitRelease })))) ∧
  (∀ s : State,
    (∀ len : BitVec 19, s.pathAdmits .side 0x1E00010 = true → s.blockState ∉ [0, 1, 3] → s.nvm.updStatus ≠ 1 →
      len.toNat % 16 = 0 → 448 ≤ len.toNat → len.toNat ≤ 262336 → exec (.start .side len) s = .next (
        (s.modNvm fun n =>
          { n with updStatus := 1, updCheck := 0, updCount := 0, updLen := len.toNat, buffer := [], programmed := 0, job := .idle,
                   finishing := false, erased := 0 }).flashNext)) ∧
    (∀ v : BitVec 32, s.pathAdmits .side 0x1E00014 = true → s.nvm.updStatus = 1 → s.nvm.updCount + 4 ≤ s.nvm.updLen →
      s.nvm.buffer.length + 4 ≤ 4096 → exec (.updateData .side v) s = .next (
        (s.modNvm fun m => { m with buffer := m.buffer ++ leBytes 4 v.toNat, updCount := m.updCount + 4 }).flashNext)) ∧
    (s.pathAdmits .side 0x1E00010 = true → s.nvm.updStatus = 1 →
      (s.nvm.updCount = s.nvm.updLen → s.nvm.finishing = false → exec (.finish .side) s =
        .next ((s.modNvm fun n => { n with finishing := true }).flashNext)) ∧
      exec (.abort .side) s = .next ((s.modNvm Nvm.completeCommand).endUpdate 6)) ∧
    (∀ w : BitVec 4, s.pathAdmits .side 0x1E08060 = true → w.toNat ≤ 12 → s.nvm.fuseStatus ≠ 1 →
      let t := s.modNvm fun n => { n with fuseWord := w.toNat }
      (s.nvm.lock = true → exec (.fuseProgram .side w) s = .next (t.modNvm fun n => { n with fuseStatus := 4 })) ∧
      (s.nvm.lock = false → t.nvmOk = true → exec (.fuseProgram .side w) s =
        .next (t.modNvm fun n => { n with fuseStatus := 1 }))) ∧
    (s.pathAdmits .side 0x1F00000 = true →
      exec (.tstLock .side) s = .next s.lockPerturb ∧
      (s.perturb.unlocked = false →
        (s.perturb.first = none →
          exec (.tstUnlock .side 0x5157) s = .next (s.modPerturb fun p => { p with first := some s.now })) ∧
        (∀ b, s.perturb.first = some b → s.now ≤ b + 2000000 → s.blockState ∈ [2, 4, 8] →
          exec (.tstUnlock .side 0x7E57) s = .next (
            (s.modPerturb fun p =>
              { p with unlocked := true, first := none, lfsr := seeded (s.reg (tstReg 8)) }).raiseBlock 331)))))

/-! ## Loop engines, sluices and power manager -/

/-- Beats of core `c`'s sluice alone: its hold of each beat decided, and taken (R347). -/
def sluiceBeat (c : Nat) (s : State) : State :=
  let t := s.decideHold c
  if 1024 ≤ (t.core c).power.acc then t.takeHold c else t

/-- Beats among the next `n` in which the sluice of core `c` holds. -/
def sluiceHolds (c : Nat) : Nat → State → Nat
  | 0, _ => 0
  | n + 1, s =>
    let t := s.decideHold c
    (if 1024 ≤ (t.core c).power.acc ∧ (t.core c).seq.held = true then 1 else 0) + sluiceHolds c n (sluiceBeat c s)

/-- R21, R22, R88, R347, R387: at a constant allowance A any n consecutive beats contain floor or ceil of n (1,024 - A) / 1,024 held beats. A hold
that is pending is taken by SLUICE_HOLD once the loop outputs of the beat are in force: the register falls by 1,024 where it holds
the beat, and the core and the members of its group count it. -/
def Obligations.SluiceHoldsItsFraction : Prop :=
  (∀ (n : Nat) (s : State) (c : CoreId), s.coresWf = true → (s.core c).power.acc < 1024 →
    let x := n * (1024 - s.allowance c)
    sluiceHolds c n s = x / 1024 ∨ sluiceHolds c n s = (x + 1023) / 1024) ∧
  (∀ (s : State) (c : CoreId),
    (s.loopsApplied = true → s.holdPending c = true → exec (.sluiceHold c) s = .next (s.takeHold c)) ∧
    (s.holdPending c = false → exec (.sluiceHold c) s = .next s) ∧
    (s.coresWf = true → s.groupOf c = [] →
      let x := s.core c
      (s.takeHold c).core c =
        ({ x with power := { x.power with
            acc := if 1024 ≤ x.power.acc then x.power.acc - 1024 else x.power.acc, taken := true } } : Core).countHold))

/-- R345, R350: the allowance of a core is at most every source's value, and is one of them or 1,024, the earliest of those with that value
being the reason. Every loop output falls at once to its law's value and rises by at most four times its RISE coefficient. -/
def Obligations.AllowancesAndOutputs : Prop :=
  (∀ (s : State) (c : Nat),
    (∀ x ∈ s.sources c, s.allowance c ≤ x.2) ∧
    (s.allowance c = 1024 ∨ ∃ before x after, s.sources c = before ++ x :: after ∧ leastSource (s.sources c) = x ∧
      (∀ y ∈ before, x.2 < y.2) ∧ (∀ y ∈ after, x.2 ≤ y.2))) ∧
  (∀ (s : State) (c : Nat) (caps : List Nat),
    let o := (s.core c).power.loops
    let n := s.nextOut c caps
    let kept := fun (prev raw out lo : Nat) =>
      out ≤ raw ∧ (raw ≤ prev → out = raw) ∧ (s.coef (c / 16) lo ≠ 0 → out ≤ max prev (prev + 4 * s.coef (c / 16) lo)) ∧
      (s.coef (c / 16) lo = 0 → out = raw)
    kept o.cap0 (caps.getD 0 1024) n.cap0 24 ∧ kept o.cap1 (caps.getD 1 1024) n.cap1 24 ∧
    kept o.cap2 (caps.getD 2 1024) n.cap2 24 ∧ kept o.cur (s.currentRaw c) n.cur 16 ∧
    kept o.svc (s.serviceRaw (c / 16)) n.svc 16 ∧
    kept o.thm (s.thermalRaw c) n.thm 8 ∧ kept o.pil (s.droopRaw (c / 16) o.pil) n.pil 0)

/-- R284, R342, R343, R346, R354, R367, R369, R370: a loop sample closes the intervals, takes the energies, learns, computes the outputs and the
pace reductions; the outputs come into force 64 beats on, but in a region whose loop is open. An open loop expires after 1 ms;
preparations begin and end; canaries move the margin within its bound. -/
def Obligations.LoopsSampleAndApply : Prop :=
  (∀ s : State,
    (s.now % 2000 = 0 → s.now ≠ 0 → s.power.sampled ≠ s.now + 1 →
      let t := ((State.each (List.range 16) (fun r u => (u.closeIntervals r).judgeVpil r) s).addEnergies).powerSample
      let u := State.each (List.range 256) (fun c v => v.learn c) t
      let w := (((u.computeOutputs).capStats).serviceSample.paceSample).startInterval
      exec .loopSample s = .next (w.setPower { w.power with sampled := s.now + 1 })) ∧
    (s.coresWf = true → s.now % 2000 = 64 → s.power.applied ≠ s.now + 1 →
      ∃ t, exec .loopApply s = .next t ∧ t.power.applied = s.now + 1 ∧ t.mem = s.mem ∧ t.regs = s.regs ∧ t.faults = s.faults ∧
        ∀ c : CoreId,
          (t.core c).regs = (s.core c).regs ∧ (t.core c).seq.beat = (s.core c).seq.beat ∧
          (t.core c).seq.slots = (s.core c).seq.slots ∧
          (t.core c).power.loops = (if s.loopOpen (c / 16) then (s.core c).power.loops else (s.core c).power.next))) ∧
  (∀ s : State,
    (∀ (r : RegionId) b, (s.loop r).openSince = some b → b + 2000000 ≤ s.now →
      let v := s.regN (lpeReg r 0)
      exec (.loopOpenExpired r) s = .next (
        ((s.putReg (lpeReg r 0) (setFld (setFld v 31 1 0) 8 8 (satInc (fld v 8 8) 0xFF))).modLoop r fun x =>
          { x with openSince := none }).raiseRegion 317 r none)) ∧
    (∀ (c : CoreId) (p : BitVec 8),
      let due := fun (h : Hint) => !h.prep && h.pending && decide (h.phase = p.toNat) &&
        decide (h.issued + 2000 * h.lead ≤ s.now + 2000 * fld (s.regN (lpeReg (c.val / 16) 0x10)) 16 4)
      let gone := fun (h : Hint) => decide (h.phase = p.toNat) && h.over s.now
      ((s.core c).hints.any due = true → exec (.hintPrepStart c p) s = .next (
        (s.modCore c fun x => { x with hints := x.hints.map fun h => if due h then { h with prep := true } else h }).setBoost c)) ∧
      ((s.core c).hints.any gone = true → exec (.hintPrepEnd c p) s = .next (
        (State.each ((s.core c).hints.filter fun h => gone h && h.pending) (fun _ t => t.hintExpired c)
          (s.modCore c fun x => { x with hints := x.hints.filter fun h => !gone h })).setBoost c))) ∧
    (∀ (c : CoreId) (below : Bool) (rosc : BitVec 8), s.now % 200000000 = 781250 * c.val → s.powered c = true →
      let p := (s.core c).power
      let dn := fld (s.regN (lpeReg (c.val / 16) 0x14)) 16 8
      let run := if below then p.passRun + 1 else 0
      (95 ≤ rosc.toNat ∨ p.aged = true →
        exec (.marginTrim c true below rosc) s = .next (s.modPower c fun q =>
          { q with rosc := rosc.toNat, aged := q.aged || decide (rosc.toNat < 95),
                   vf := if dn ≤ run && below then q.vf - 1 else q.vf, passRun := if dn ≤ run then 0 else run }) ∧
        (p.vf < s.floorTop c → exec (.marginTrim c false below rosc) s = .next (
          let t := s.modPower c fun q =>
            { q with rosc := rosc.toNat, aged := q.aged || decide (rosc.toNat < 95),
                     vf := min (s.floorTop c) (q.vf + 1), passRun := 0 }
          t.raiseCore 318 c (t.coreJob c))))))

/-! ## Regulators and power states -/

/-- R316, R317, R323 to R328, R330 to R332: at its period boundary, a multiple of 16 beats, a running regulator is judged and forms its next period; one limited
holds its cores; without a disabled phase that is all. It balances its phases every 16 periods, marks a suspect after 64, notes a phase
to be disabled at the next boundary, sheds and adds phases; an undershoot fires every enabled phase. -/
def Obligations.RegulatorsRun : Prop :=
  ∀ (s : State) (v : VrId),
    let x := s.vr v
    (∀ inp, s.now % 16 = 0 → x.periodAt ≠ s.now + 1 →
      let t := (s.observe v inp).startDue v
      let u := t.modVr v fun y => y.judge inp
      let h := if (u.vr v).clamp then u.clampHold (clampCores v) else u
      ((t.vr v).running = false → exec (.pwmPeriod v inp) s = .next t) ∧
      ((t.vr v).running = true → (h.vr v).running = true →
        (∀ p < 8, bitOf (h.vr v).lost.toNat p = false) → (256 ≤ v.val ∨ (h.vr v).state = .run) →
        exec (.pwmPeriod v inp) s = .next (h.modVr v fun y =>
          (if h.hintStands v || h.overShed v || !h.shedEn v then y.addBack h.now else y).period h.now (h.aimUV v)
            (fld (h.vrCtrl v) 8 5) (bitOf (h.vrCtrl v) 2) (bitOf (h.vrCtrl v) 3) inp)) ∧
      ((t.vr v).running = true → exec (.pwmPeriod v inp) s = .next (t.nextPeriod v inp))) ∧
    (x.running = true →
      (∀ ph : Fin 8, bitOf x.enabled.toNat ph = true →
        4 ≤ runOf x.lxsRun ph ∨ 16 ≤ runOf x.senseRun ph ∨
          (x.state = .softStart ∧ 16 ≤ x.starts ∧ bitOf x.followed.toNat ph = false) →
        exec (.phaseDisable v ph) s = .next (s.modVr v fun y => { y with lost := y.lost ||| phaseBit ph })) ∧
      (s.overShed v = true ∨ s.hintStands v = true ∨ s.shedEn v = false →
        exec (.addBack v) s = .next (s.modVr v fun y => y.addBack s.now))) ∧
    (x.state = .run →
      (∀ mA, bitOf (s.vrCtrl v) 3 = true → x.lastBal = 0 ∨ x.lastBal + 256 ≤ s.now →
        let step := fun (t : Tab Int) (p : Nat) =>
          if bitOf x.suspect.toNat p then t
          else
            let n := tabGet trimDefault t p + trimStep x.switching mA p
            tabSet trimDefault t p (if n < -7 then -7 else if 7 < n then 7 else n)
        exec (.phaseBalance v mA) s = .next (s.modVr v fun y => { y with trim := x.switching.foldl step y.trim, lastBal := s.now })) ∧
      (∀ ph : Fin 8, ph.val ∈ x.switching → bitOf x.suspect.toNat ph = false → 64 ≤ runOf x.devRun ph →
        exec (.phaseSuspect v ph) s =
          .next ((s.modVr v fun y => { y with suspect := y.suspect ||| phaseBit ph }).raiseVr 309 v)) ∧
      (∀ mean, s.shedEn v = true → x.enabled = 0xFF → 1 < x.level → x.suspended = none → x.lastStep + 20000 ≤ s.now →
        s.hintStands v = false → mean < x.level / 2 * fld (s.regN (vrBase v + 4)) 0 8 * 100 →
        exec (.shedStep v mean) s =
          .next (s.modVr v fun y =>
            { y with level := y.level / 2, leaving := y.level, busyTo := s.now + 256, lastStep := s.now })) ∧
      (∀ inp : Trip, inp.vr = v →
        let l := sensorsIn inp.sensors (s.excludedOf v)
        let ps := bitsOf 8 x.enabled.toNat
        x.tripped = false → l ≠ [] → Int.ofNat (leastOf l) < x.target - Int.ofNat (20000 + 5000 * fld (s.vrCtrl v) 16 4) →
        exec (.undershootTrip inp) s = .next (s.modVr v fun y =>
          { y with level := 8, leaving := 8, busyTo := s.now, lastStep := s.now, tripped := true
                   tripLim := decide (0 < ps.length) && decide (ps.length ≤ 2 * (ps.filter fun p => (firing x inp p).2).length)
                   fired := ps.foldl (fun t p => tabSet (fun _ => 0) t p (firing x inp p).1) []
                   suspended := some (s.now + 200000), undershoots := satInc y.undershoots 0xFFFFFF }))) ∧
    (∀ b, x.suspended = some b → b ≤ s.now →
      exec (.shedSuspendEnd v) s = .next (s.modVr v fun y => { y with suspended := none }))

/-- R153, R294 to R296, R333 to R336: hiccups and the soft start that ends them, stage readings with their warning and shutdown, lost
sensors, the fall-back to local sense and a brown-out. -/
def Obligations.RegulatorAlarmsAct : Prop :=
  ∀ (s : State) (v : VrId) (c : CoreId),
    let x := s.vr v
    let recent := x.hiccups.filter fun b => decide (s.now < b + 20000000)
    (x.running = true → clampTo 4 64 Config.ocN ≤ x.ocRun →
      let t := (s.modVr v fun y =>
        { y with state := .hiccup, hiccups := recent ++ [s.now], hiccupTot := satInc y.hiccupTot 0xFF, hiccupAt := s.now,
                 ocRun := 0, clamp := false, refUV := 0, startRef := none, pulsed := [], live := false, nearSince := 0 }).raiseVr 311 v
      (recent.length < 7 → exec (.hiccup v) s = .next t) ∧
      (7 ≤ recent.length → exec (.hiccup v) s = .next (t.failVr v false))) ∧
    (x.state = .hiccup → x.hiccupAt + 100000 ≤ s.now →
      let t := s.softStart v (s.setUV v) false
      (256 ≤ v.val ∨ (t.core v).power.storeLost = false ∨ t.railOn v = false → exec (.hiccupEnd v) s = .next t) ∧
      (v.val < 256 → (t.core v).power.storeLost = true → t.railOn v = true →
        exec (.hiccupEnd v) s = .next (t.modPower v fun p => { p with zeroing := true }))) ∧
    (∀ (k : Fin 4) (t : BitVec 8),
      (t.toNat < 110 ∨ x.otWarn = true → exec (.stageWarning v k t) s = .next (s.setStage v k t)) ∧
      (110 ≤ t.toNat → x.otWarn = false → exec (.stageWarning v k t) s =
        .next (((s.setStage v k t).modVr v fun y => { y with otWarn := true }).raiseVr 312 v)) ∧
      (125 ≤ t.toNat → x.state ≠ .off → exec (.stageShutdown v k t) s = .next ((s.setStage v k t).failVr v false))) ∧
    ((∀ k < 4, (tabGet stageDefault x.stage k).toNat ≤ 105) →
      exec (.otWarnClear v) s = .next (s.modVr v fun y => { y with otWarn := false })) ∧
    (∀ k : Fin 8, (s.vr c).running = true → bitOf (s.core c).power.excluded.toNat k = false →
      lasted s.now (runOf (s.vr c).farSince k) 2000 = true →
      let t := s.modPower c fun q => { q with excluded := q.excluded ||| phaseBit k }
      let both := s.remoteFails c = true ∨ (s.core c).power.senseNext = some false
      (popCount 8 (t.core c).power.excluded.toNat ≠ 3 → exec (.senseExclude c k) s = .next t) ∧
      (popCount 8 (t.core c).power.excluded.toNat = 3 → ¬ both → exec (.senseExclude c k) s = .next (
        let u := t.modPower c fun q => { q with senseNext := some true }
        u.raiseCore 308 c (t.coreJob c))) ∧
      (popCount 8 (t.core c).power.excluded.toNat = 3 → both → exec (.senseExclude c k) s =
        .next (t.failVr c (t.railNear c 100000)))) ∧
    ((s.vr c).running = true → (s.core c).power.sense = true → (s.core c).power.senseNext ≠ some false →
      s.remoteFails c = true →
      (popCount 8 (s.core c).power.excluded.toNat < 3 → exec (.senseRemoteFallback c) s =
        .next ((s.modPower c fun q => { q with senseNext := some false }).raiseCore 308 c (s.coreJob c))) ∧
      (3 ≤ popCount 8 (s.core c).power.excluded.toNat → exec (.senseRemoteFallback c) s =
        .next (s.failVr c (s.railNear c 100000)))) ∧
    (s.railOn c = true → (s.core c).power.brownOut = false → lasted s.now (s.vr c).lowSince 100 = true →
      exec (.brownOut c) s = .next (
        ((s.modPower c fun p => { p with brownOut := true }).loseStore c).raiseCore 306 c (s.coreJob c)))

/-- R301 to R305, R311 to R313, R347, R365: a tie closes into a tied pair once the rails are within 10 mV, or at once on a rail that fell, which
then soft-starts; a transit reaches its goal, a power-up is granted or forced with its ceiling, a rail not within 10 mV after 100 µs
fails its regulator, and a ramp every rail of which is within 10 mV ends with its cores live and their sluice registers at zero. -/
def Obligations.PowerStatesMove : Prop :=
  (∀ (s : State) (c : CoreId) (r : RegionId),
    (∀ d, (s.core c).power.tying = some d →
      let joined := ((s.modPower c fun p =>
          { p with tying := none, partner := some d, tieDir := tieDirOf c d, goal := .tied, zeroing := (s.core c).power.fell
                   state := if (s.core c).power.fell then .ramping else .tied }).vrOff c).modPower d fun p =>
        { p with state := .carrier, partner := some c, tieDir := tieDirOf d c }
      (s.pstate d = .on → (s.vr d).state = .run →
        ((s.core c).power.fell = true → (s.core c).power.state = .ramping →
          exec (.tieClose c) s = .next ((joined.softStart d (s.setUV d) false).rehold)) ∧
        ((s.core c).power.fell = false → (s.core c).power.state = .on → natDist (s.vr c).sensed (s.vr d).sensed ≤ 10000 →
          joined.requestsAct = false → exec (.tieClose c) s = .next joined.rehold)) ∧
      (s.pstate d ≠ .on ∨ (s.vr d).state ≠ .run → exec (.tieClose c) s = .next (
        (s.modPower c fun q => { q with tying := none }).searchCarrier c
          (!(s.core c).power.fell && s.railNear c 100000)))) ∧
    ((s.core c).power.state = .transit →
      let u := (s.vrOff c).modPower c fun q => { q with state := q.goal, brownOut := false }
      let t := if (s.core c).power.goal = .off then u.loseStore c else u
      (t.requestsAct = false → exec (.retainComplete c) s = .next t) ∧
      (t.requestsAct = true → (t.applyRequest c t.upOpen).2 = false →
        exec (.retainComplete c) s = .next (t.applyRequest c t.upOpen).1) ∧
      (t.requestsAct = true → (t.applyRequest c t.upOpen).2 = true →
        exec (.retainComplete c) s = .next ((t.applyRequest c t.upOpen).1.pendUp (c / 16) [c % 16]))) ∧
    ((regionNeighbours r).any (fun q =>
        match (s.loop q).pendingUp, (s.loop r).pendingUp with
        | some (b, _), some (a, _) => s.grantable q && (decide (b < a) || (decide (b = a) && decide (q < r.val)))
        | _, _ => false) = false →
      s.grantable r = true → s.serviceOn r = true ∨ s.boot.step = .powerUp → exec (.powerUpGrant r) s = .next (s.grant r)) ∧
    (∀ b m, (s.loop r).pendingUp = some (b, m) → (s.loop r).ramping = none → b + 400000 ≤ s.now →
      s.serviceOn r = true ∨ s.boot.step = .powerUp →
      let t := (s.grant r).modLoop r fun x => { x with capped := r.val :: (regionNeighbours r).filter s.atPeak, capEnd := none }
      exec (.inrushForce r) s = .next (t.putReg 0x4010C8 (satInc (t.regN 0x4010C8) 0xFFFFFFFF)).rehold) ∧
    (exec (.retentionFault r) s = .next (
      (State.each (coresOf r) (fun d u => if u.pstate d = .retain then u.loseStore d else u)
        (s.modBoot fun b => { b with retFault := b.retFault ||| BitVec.ofNat 16 (2 ^ r.val) })).raiseRegion 314 r none)) ∧
    (∀ b m, (s.loop (c.val / 16)).ramping = some (b, m) → s.pstate c = .ramping → bitOf m.toNat (c.val % 16) = true →
      b + 200000 ≤ s.now →
      (s.railNear c 10000 = false → exec (.rampTimeout ⟨c.val, by omega⟩) s = .next (s.failVr c false)) ∧
      (s.railNear c 10000 = true → exec (.rampTimeout ⟨c.val, by omega⟩) s = .next s))) ∧
  (∀ (s : State) (r : RegionId) (b : Nat) (m : BitVec 16), s.coresWf = true → s.now % 2000 = 0 →
    (s.loop r).ramping = some (b, m) → s.requestsAct = false →
    (∀ c ∈ coresOf r, (s.core c).power.partner = none ∧ (s.core c).power.goal ≠ .tied ∧ (s.core c).power.zeroing = false ∧
      (bitOf m.toNat (c % 16) = true → s.pstate c = .ramping → s.railNear c 10000 = true)) →
    ((s.vr (256 + r)).state = .softStart → s.railNear (256 + r) 10000 = true) →
    ∃ t, exec (.rampEnd r) s = .next t ∧ t.mem = s.mem ∧ t.regs = s.regs ∧
      ∀ j, j < 16 → bitOf m.toNat j = true → s.pstate (16 * r + j) = .ramping → (s.core (16 * r + j)).power.goal = .on →
        (t.core (16 * r + j)).power.state = .on ∧ (t.core (16 * r + j)).power.acc = 0 ∧
        (t.core (16 * r + j)).power.brownOut = false)

/-! ## Thermal and coolant -/

/-- R51, R376, R379, R380, R383, R385, R391, R393, R395 to R397, R399, R401: conversions enter their channels, the reference settles or times out, a
channel without conversions is declared stale, a window that ends writes its reports; sensors, the trip, and the coolant input. -/
def Obligations.TelemetryAndSensorsAct : Prop :=
  (∀ (s : State) (r : RegionId),
    (∀ (k : Fin 8) (code : BitVec 12) (ovr : Bool), s.serviceOn r = true →
      ((s.tlmR r).spots.find? (fun p => p.1 = k.val) = none → ∀ b i input, s.slotNow r k = some (b, i, input) →
        (s.now < b + 124 → exec (.adcConversion r k code ovr) s = .next s) ∧
        (b + 124 ≤ s.now → input < 39 → exec (.adcConversion r k code ovr) s =
          .next ((s.endSlot r k b (i + 1) true).convert r input input code.toNat ovr)) ∧
        (b + 124 ≤ s.now → 39 ≤ input → exec (.adcConversion r k code ovr) s = .next (s.endSlot r k b (i + 1) false))) ∧
      (∀ p, (s.tlmR r).spots.find? (fun p => p.1 = k.val) = some p → p.2.2 + 124 ≤ s.now →
        let t := (s.endSlot r k p.2.2 (tabGet (fun _ => 0) (s.tlmR r).entry k) true).modTlm r fun y =>
          { y with spots := y.spots.filter fun q => !(q = p) }
        exec (.adcConversion r k code ovr) s = .next (t.convert r p.2.1 39 code.toNat ovr))) ∧
    (∀ uv,
      let t := s.modPins fun p =>
        { p with vrefUV := uv, vrefSince := since s.now p.vrefSince (decide (1150000 ≤ uv) && decide (uv ≤ 1250000)) }
      (t.serviceOn r = true → t.refUsable r = false → t.refGood r = true → exec (.refSettle ⟨r, uv⟩) s =
        .next ((t.modTlm r fun x => { x with settled := true, refLow := 0 }).persistOff 321 (some (256 + r)))) ∧
      (t.serviceOn r = false ∨ t.refUsable r = true ∨ t.refGood r = false → exec (.refSettle ⟨r, uv⟩) s = .next t)) ∧
    (s.serviceOn r = true → s.refUsable r = false → lasted s.now (s.tlmR r).refLow 2000000 = true →
      exec (.tlmRefTimeout r) s = .next ((s.persistOn 321 (some (256 + r))).raiseRegion 321 r none)) ∧
    (∀ k : Fin 40, (s.tlmChan r k).stale = 16 → s.domainOn r k = true → exec (.tlmStale r k) s =
      .next (((s.modChanT r k fun x => { x with stale := 17, peak := 65536 }).staleCheck r).raiseRegion 323 r none)) ∧
    (s.now % 2000000 = 0 → s.power.sampled = s.now + 1 → s.power.windowed ≠ s.now + 1 →
      let temp := fun (g : Nat) => (s.regionT g).getD (Int.ofNat (Config.freeNat (s.draws + 1 + g)))
      let gs := List.range 16
      let pk := gs.map (s.packageVolts temp)
      let means := gs.map fun g => s.windowMean g 35
      let t := State.each gs (fun g u => u.checkPillar g ((medianRatio pk).sub (pk.getD g .zero)) (means.getD g .zero))
        (State.each gs (fun k u => u.closeWindow k) s).closeEta
      exec .telemetryWindowEnd s = .next ((t.setPower { t.power with windowed := s.now + 1 }).setDraws (s.draws + 17)))) ∧
  (∀ s : State,
    (∀ (n : SensorId) (v : BitVec 16), s.sensorOn n = true → (s.sensor n).convAt = 0 ∨ (s.sensor n).convAt + 1000 ≤ s.now + 1 →
      let t := (s.modSensor n fun x => { x with valid := true, fresh := true, temp := v, convAt := s.now + 1 }).judge n
      (n.val < 1024 → exec (.sensorConversion n v) s = .next (t.updateCore (n.val / 4)).thermEdges) ∧
      (1024 ≤ n.val → t.inUse n = false → exec (.sensorConversion n v) s = .next t.thermEdges) ∧
      (1024 ≤ n.val → t.inUse n = true →
        let u := if n.val < 1056 then t.noteMax n v.toInt else t
        exec (.sensorConversion n v) s = .next (if 944 ≤ v.toInt then u.tripBlock n v.toInt else u).thermEdges)) ∧
    (s.pins.coolantOk = true → exec .coolantOkFall s = .next (
      (s.modPins fun p => { p with coolantOk := false }).modBoot fun b =>
        { b with sinceCoolant := s.now, lossSeen := false, recoverOk := false })) ∧
    (s.pins.coolantOk = false → exec .coolantOkRise s = .next (
      (s.modPins fun p => { p with coolantOk := true }).modBoot fun b => { b with sinceCoolant := s.now, lossSeen := false })) ∧
    (s.pins.stbyOk = true → s.pins.coolantOk = false → s.boot.lossSeen = false → s.boot.sinceCoolant + 2000 ≤ s.now →
      exec .coolantLoss s = .next (s.modBoot fun b => { b with lossSeen := true }).loseCoolant) ∧
    (s.pins.stbyOk = true → s.pins.coolantOk = true → s.boot.recoverOk = false → s.boot.sinceCoolant + 2000000000 ≤ s.now →
      exec .coolantRecoverOk s = .next (
        State.each (bitsOf 8 s.faults.one.evqTags.toNat) (fun p t => t.arrive p 353 0)
          (s.modBoot fun b => { b with recoverOk := true }))))

/-! ## Jobs and the partition table -/

/-- R71, R457, R465: a loading job whose conditions still hold starts every core it names at core beat 0, in one beat, and the write that
launched it completes; a group member that another's sluice holds in that beat is held in it. One whose block or partition has gone is
refused with cause 1. A commit whose writes can be complete puts its table in force and clears BUSY. -/
def Obligations.JobsStartAndTablesApply : Prop :=
  ∀ (s : State) (p : PartId) (j : Fin 16),
    let x := s.job p j
    let cs := x.cores.map fun e => e.core.val
    let u := match x.slot with
      | some k => if x.slotClr then s.clearSlot k else s
      | none => s
    let t := State.each x.cores (fun e u => u.startCore (p, j) x.cores x.slot e) u
    let w := State.each x.cores (fun e u => u.shareHold e.core) t
    (x.state = .loading → s.launchOpen p = true → cs.any (fun c => !s.ownsRegion p (regionOf c)) = false → s.coresCause cs = 0 →
      exec (.jobStart p j) s =
        .next ((w.modJob p j fun y => { y with state := .running, quiet := 0, loud := false }).release (.launch p) .ok) ∧
      (s.coresWf = true → cs.Nodup → ∀ e ∈ x.cores,
        (w.core e.core).seq.bound = true ∧ (w.core e.core).seq.job = some (p, j) ∧ (w.core e.core).seq.next = e.base ∧
        (w.core e.core).seq.beat = 0 ∧ (w.core e.core).flags = [] ∧
        ((∀ d ∈ cs, (s.core d).staged = []) → (w.core e.core).regs = (s.core e.core).regs))) ∧
    (x.state = .loading → s.launchOpen p = false → exec (.jobStart p j) s =
      .next ((s.modJob p j fun _ => { Job.initial with state := .refused, cause := 1 }).release (.launch p) (.err 5))) ∧
    (s.commit.busy = true → s.commit.doneAt ≤ s.now → exec .commitApply s = .next (
      (s.loadTable s.commit.wanted).setCommit { s.commit with busy := false, scrub := false, wanted := [], parts := [] }))

/-! ## Faults -/

/-- R408, R409, R412, R413, R415, R417: a report of a kind source at a place it has raises the event; a broken pair raises source 273
with its own, and one of a sensor's or a channel's readings makes it suspect or stale; copies that differ enter GRAVE; a window that has ended closes in both copies; the pin is released, or held, when
its pulse ends. Events of one source in one open window, one a beat, count up to 255 and promote it from the N-th on; a clear
of a beat without an event ends the promotion. -/
def Obligations.FaultReportsAct : Prop :=
  (∀ (s : State) (k : Fin 512) (loc : Option (Fin 272)), s.locked = true → kindSource k = true →
    placeOk k (loc.map Fin.val) = true →
    let l := loc.map Fin.val
    (∀ job (tag : Option PartId), exec (.faultEvent k loc job tag) s =
      .next (s.raise { src := k, locs := l.toList, job := job, tag := tag.map Fin.val })) ∧
    (s.faults.broken.any (fun e => e = (k.val, l)) = false → exec (.brokenWire k loc none) s =
      .next ((s.modFaults fun f => { f with broken := f.broken ++ [(k.val, l)] }).breakWire k l)) ∧
    (∀ n : SensorId, (s.sensor n).cut = false → exec (.brokenWire k loc (some (.sensor n))) s = .next (
      ((s.suspectSensor n).modSensor n fun x => { x with suspect := true, cut := true }).raise
        { src := 273, locs := sensorLocs n, job := none, tag := none })) ∧
    (∀ (r : RegionId) (ch : Fin 40), (s.tlmChan r ch).cut = false → exec (.brokenWire k loc (some (.channel r ch))) s = .next (
      let t := s.modTlm r fun x =>
        { x with chans := tabSet chanDefault x.chans ch { tabGet chanDefault x.chans ch with cut := true, stale := 17, peak := 65536 } }
      ((t.persistOn 323 (some (256 + r.val))).raiseRegion 323 r none).raiseRegion 273 r none))) ∧
  (∀ s : State, s.locked = true → ∃ t, exec .collectorMismatch s = .next t ∧ t.boot.grave = true) ∧
  (∀ (s : State) (k : Fin 512) (b : Nat), (s.source k).closes = some b → b ≤ s.now → exec (.faultWindowClose k) s =
    .next (s.modCopies fun f => f.put k { f.src k with count := 0, closes := none })) ∧
  (∀ s : State, s.faults.pulse = true → s.faults.pulseEnd ≤ s.now →
    let t := s.modFaults fun f => { f with pulse := false }
    (s.faults.one.hold = false → exec .errPulseEnd s = .next t) ∧
    (s.faults.one.hold = true →
      exec .errPulseEnd s = .next ((t.modCopies fun f => { f with held := true }).mark pinReg 0x80000000))) ∧
  (∀ (x : Source) (beats : List Nat), x.closes = none → x.promoted = false → x.last = none → x.w ≠ 0 → 1 ≤ x.n → x.n ≤ 255 →
    beats ≠ [] → beats.Pairwise (· < ·) → (∀ b ∈ beats, x.cleared ≠ some b) → (∀ b ∈ beats, b < beats.headD 0 + windowBeats x.w) →
    let y := beats.foldl Source.hit x
    y.sticky = true ∧ y.count = min beats.length 255 ∧ y.promoted = decide (x.n ≤ beats.length) ∧
    (∀ now, (∀ b ∈ beats, b < now) → y.eff ≠ 4 →
      y.clear now = { y with sticky := false, promoted := false, count := 0, closes := none, cleared := some now }))

/-! ## Event queues and deep idle -/

/-- R425, R426, R429, R430, R433, R434, R438, R440, R442: an arrival sets or merges the pending state of its source; the recorder selects
the lowest source while the ring has room and reports a full ring once; a record is written four beats after its selection and
completes in order, or halts the queue; a message that is due is sent, or sets MSG_ERR; the block is in IDLE when every core is
down. -/
def Obligations.EventQueuesAct : Prop :=
  ∀ (s : State) (p : PartId),
    let x := s.evq p
    (∀ (k : Fin 512) (cls : BitVec 3), s.pins.stbyOk = true → s.mayArrive p k cls.toNat = true →
      exec (.eventArrival p k cls) s = .next (s.arrive p k cls.toNat)) ∧
    (∀ (q : Pending) (now cls : Nat),
      (q.pend = false → (q.arrive now cls).pend = true ∧ (q.arrive now cls).count = 1 ∧ (q.arrive now cls).cls = cls ∧
        (q.arrive now cls).stamp = BitVec.ofNat 48 now) ∧
      (q.pend = true → q.last = none → (q.arrive now cls).pend = true ∧ (q.arrive now cls).count = min (q.count + 1) 255 ∧
        (q.arrive now cls).cls = max q.cls cls ∧ (q.arrive now cls).stamp = q.stamp)) ∧
    (∀ k ks, s.recorderOn p = true → (∀ b, x.lastSel = some b → b + 4 ≤ s.now) → s.selectable p = k :: ks →
      (s.hasRoom p = true → exec (.recordSelect p) s = .next (s.modEvq p fun y =>
        { y with recs := y.recs ++ [{ src := k, index := y.nextIdx, selected := s.now, withdrawn := none, written := false,
                                      complete := false, addr := 0, bytes := [], tid := none, took := (0, 0, 0, 0) }],
                 nextIdx := y.nextIdx + 1, lastSel := some s.now, fullSent := false })) ∧
      (s.hasRoom p = false → x.fullSent = false → exec (.recordSelect p) s = .next (
        (s.modEvq p fun y => { y with fullSent := true }).raise { src := 330, locs := [], job := none, tag := some p.val }))) ∧
    (∀ r, x.recs.find? (fun r => !r.written) = some r → r.selected + 4 ≤ s.now →
      let a := s.ringAddr p + 16 * (r.index.toNat % s.ringSize p)
      let k := recordTake (x.pendOf r.src) r s.now
      let bs := recordBytes p r.index.toNat (s.ringSize p) k.1
      let put := fun (t : State) (tid : Option Nat) => t.modEvq p fun y =>
        (y.putPend r.src k.2).modRec r.index fun z => { z with written := true, addr := a, bytes := bs, tid := tid, took := k.1 }
      (s.locate p a ≠ .host ∨ s.hostOpen = false → exec (.recordWrite p) s = .next (put s none)) ∧
      (s.locate p a = .host → s.hostOpen = true →
        let t := s.sendOutbound p a 16 (some bs) (.event p r.index)
        exec (.recordWrite p) s = .next (put t (t.host.outbound.getLast?.map (·.id))))) ∧
    (∀ r, x.recs.find? (fun r => r.written && !r.complete && !(s.recordReply r = some none)) = some r →
      let ends := fun (t : State) => t.modEvq p fun y =>
        (y.modRec r.index fun z => { z with complete := true }).advance t.now
      (r.tid = none → s.waitsFor (s.locateAll p r.addr 16) = false →
        exec (.recordComplete p false) s = .next (s.failRecord p r.index) ∧
        ∀ t, allMem (s.locateAll p r.addr 16) = true → s.boot.grave = false →
          s.writePieces none (some p.val) (s.locateAll p r.addr 16) r.bytes = (t, false) →
          exec (.recordComplete p true) s = .next (ends t)) ∧
      (∀ tid, r.tid = some tid →
        (s.recordReply r = some (some true) → exec (.recordComplete p true) s = .next (ends (s.dropOutbound tid))) ∧
        (s.recordReply r = some (some false) →
          exec (.recordComplete p false) s = .next ((s.dropOutbound tid).failRecord p r.index)))) ∧
    (s.messageDue p = true →
      let t := s.modEvq p fun y => { y with armed := false }
      let a := s.addrReg (evqBase p + 0x18)
      (s.hostOpen = true → s.locate p a = .host → s.locate p (a + 3) = .host → exec (.messageSend p) s =
        .next (t.sendOutbound p a 4 (some (leBytes 4 (s.regN (evqBase p + 0x20)))) (.message p))) ∧
      (s.hostOpen = false ∨ s.locate p a ≠ .host ∨ s.locate p (a + 3) ≠ .host →
        exec (.messageSend p) s = .next (t.messageError p))) ∧
    (s.boot.entering = true → s.allDown = true → s.boot.base = .ready → exec .idleReached s =
      .next (s.modBoot fun b => { b with base := .idle, entering := false }))

/-! ## Supply, reset sequence and boot -/

/-- R40, R467, R468, R470: the always-on domain starts with STBY_OK, the reference locks, and each status input is taken as asserted when
its minimum interval has passed. -/
def Obligations.StatusInputsAreTaken : Prop :=
  ∀ s : State,
    let pillar := fun (t : State) => (t.modPins fun p => { p with pillarSeen := true, pillarAt := t.now }).modBoot fun b =>
      { b with step := if b.step = .waitPillar then .waitRelease else b.step }
    let pwr := fun (t : State) => t.modPins fun p => { p with pwrSeen := true, pwrAt := t.now }
    let up := s.modPins fun p => { p with pillarOk := true }
    let good := s.modPins fun p => { p with pwrGood := true }
    let go := s.modPins fun p => { p with rstN := true }
    (s.pins.stbyOk = false → exec .stbyOkAssert s = .next (
      (s.modPins fun p => { p with stbyOk := true }).modBoot fun b => { b with step := .refLock })) ∧
    (s.pins.stbyOk = true → s.boot.step = .refLock → s.pins.refclk = true → exec .referenceLock s = .next (
      State.each (bitsOf 256 s.nvm.coreOut.toNat) (fun c u => u.modPower c fun p => { p with state := .dark, out := true })
        (((s.modPins fun p => { p with alarmZ := false }).modBoot fun b =>
          { b with step := .waitPillar, sinceCoolant := s.now }).modNvm fun n => { n with keyUsed := n.keyHash }))) ∧
    (s.pins.pillarOk = false → s.pins.pillarSeen = false → s.locked = true →
      (2000000 ≤ s.now → exec .pillarOkAssert s = .next (pillar up)) ∧
      (s.now < 2000000 → exec .pillarOkAssert s = .next up)) ∧
    (s.pins.pillarOk = true → s.pins.pillarSeen = false → s.locked = true → 1000000 ≤ s.now →
      exec (.minimumIntervalEnd .pillarOk) s = .next (pillar s)) ∧
    (s.pins.pwrGood = false → s.pins.pwrSeen = false → s.pins.pillarSeen = true →
      (s.pins.pillarAt + 200000 ≤ s.now → exec .pwrGoodAssert s = .next (pwr good)) ∧
      (s.now < s.pins.pillarAt + 200000 → exec .pwrGoodAssert s = .next good)) ∧
    (s.pins.pwrGood = true → s.pins.pwrSeen = false → s.pins.pillarSeen = true → s.pins.pillarAt + 200000 ≤ s.now →
      exec (.minimumIntervalEnd .pwrGood) s = .next (pwr s)) ∧
    (s.pins.rstN = false → s.pins.rstSeen = false → s.pins.pwrSeen = true → s.boot.rebootAt = none →
      (s.pins.pwrAt + 200000 ≤ s.now →
        exec .rstNRelease s = .next (go.modPins fun p => { p with rstSeen := true }).tryConfig) ∧
      (s.now < s.pins.pwrAt + 200000 → exec .rstNRelease s = .next go)) ∧
    (s.pins.rstN = true → s.pins.rstSeen = false → s.pins.pwrSeen = true → s.boot.rebootAt = none →
      s.pins.pwrAt + 200000 ≤ s.now →
      exec (.minimumIntervalEnd .rstN) s = .next (s.modPins fun p => { p with rstSeen := true }).tryConfig) ∧
    (s.boot.dpd = true → s.boot.dpdLow = true → s.stepFour = true → exec .dpdReturn s = .next s.enterConfig)

/-- R64, R189, R468, R477, R478: the SFDP signature and the 144-pin map lead on to the image, its checks to its verification, a verified image
is loaded and every region powers up; a check that fails records its cause and holds the sequence; training maps out the
columns and cores it names, and the sequence ends in READY. -/
def Obligations.BootSequenceAdvances : Prop :=
  ∀ s : State,
    (s.atStep .sfdp = true → ∀ signature has144 : Bool,
      ((signature && has144) = true → exec (.sfdpReadComplete signature has144) s =
        .next (s.modBoot fun b => { b with step := .imageRead })) ∧
      ((signature && has144) = false → exec (.sfdpReadComplete signature has144) s = .next (s.failBoot 1 0xFF))) ∧
    (s.atStep .imageRead = true → ∀ read,
      let image := memRead s.nvm.flash 0 (min s.nvm.known read.length) ++ read.drop s.nvm.known
      imageShort image = false →
      ((readCheck image).1 = 0 → exec (.imageReadComplete read) s =
        .next (s.modBoot fun b => { b with step := .verify, image := image.take (imageLen image + 192) })) ∧
      ((readCheck image).1 ≠ 0 → exec (.imageReadComplete read) s =
        .next (s.failBoot (readCheck image).1 (readCheck image).2))) ∧
    (s.atStep .verify = true →
      let c := verifyCheck s.nvm.keyHash s.boot.image
      let u := s.modNvm fun n => { n with keyUsed := n.keyHash }
      (c ≠ 0 → exec .imageVerifyComplete s = .next (u.failBoot c 0xFF)) ∧
      (c = 0 →
        (u.loadImage s.boot.image = none → exec .imageVerifyComplete s = .next (u.failBoot 7 0xFF)) ∧
        (∀ t, u.loadImage s.boot.image = some t →
          exec .imageVerifyComplete s = .next (t.bootResult 0 0xFF).powerUpAll))) ∧
    (s.boot.step = .train → s.boot.base = .train → s.boot.safe = false → s.boot.grave = false → s.boot.hold = false →
      s.pins.refclk = true → ∀ fails,
        let t := State.each (List.range 256) (fun c u =>
          if checkFailed fails c && !(u.core c).power.out then u.retire c else u)
          (State.each (List.range 256) (fun c u => u.trainColumn fails c) s)
        (t.boot.safe = false → t.boot.grave = false → exec (.trainingComplete fails) s = .next t.enterReady) ∧
        (t.boot.safe = true ∨ t.boot.grave = true → exec (.trainingComplete fails) s = .next t))

/-- R42, R45, R46, R48, R499, R501: what the loss of an input, of the reference or of a group's pillar voltage, an assertion of RST_N and a
power cycle do. A power cycle keeps the tiers' words, the fuses and the command queue, clears the latches of a thermal trip and
of GRAVE, and leaves every core store unread. -/
def Obligations.LossesAndResetsAct : Prop :=
  ∀ s : State,
    (∀ pillar pwrGood : Bool,
      let p := pillar && s.pins.pillarOk
      let g := pwrGood && s.pins.pwrGood
      (p || g) = true → exec (.supplyLoss pillar pwrGood) s = .next (
        (s.modPins fun x =>
          { x with pillarOk := x.pillarOk && !p, pwrGood := x.pwrGood && !g, pillarSeen := x.pillarSeen && !p, pwrSeen := false,
                   rstSeen := false }).loseSupply p g)) ∧
    (s.boot.dpd = false → s.blockState ≠ 0 →
      let t := ((s.modBoot fun b => { b with okBeats := 0 }).endService).modBoot fun b => { b with rerun := true, step := .waitRelease }
      s.loseSupply true false = (t.persistOn 275 none).raiseBlock 275 ∧
      s.loseSupply false true = (t.persistOn 276 none).raiseBlock 276) ∧
    (∀ r : RegionId, 10 ≤ (s.loop r).vpilBad → s.pins.pillarOk = true → s.pins.pillarSeen = true →
      exec (.pillarVoltageFault r) s = .next (s.loseSupply true false)) ∧
    (s.pins.refclk = true → s.locked = true → exec .refclkLost s = .next (
      (((((s.modPins fun p => { p with refclk := false }).endJobs).modBoot fun b =>
        { b with rerun := true, refBeats := 0 }).persistOn 277 none).raiseBlock 277))) ∧
    (s.pins.refclk = false → exec .referenceClockReturn s = .next (
      (s.modPins fun p => { p with refclk := true }).modBoot fun b => { b with refBeats := 0 })) ∧
    (s.pins.rstN = true → s.locked = true → exec .rstNAssert s = .next (
      ((((s.modPins fun p => { p with rstN := false, rstSeen := false }).modBoot fun b =>
        { b with rebootAt := none }).endService.setShadows []).lockPerturb).modBoot fun b =>
          { b with step := if b.step = .waitPillar then .waitPillar else .waitRelease, dpdLow := b.dpdLow || b.dpd })) ∧
    (s.pins.stbyOk = true → s.boot.serviceUp = 0 → s.mem.wf = true → ∀ stby : Bool, ∃ t,
      exec (if stby then .vstbyLow else .powerCycle) s = .next t ∧
      (∀ a, a < storeBase → memByte t.mem a = memByte s.mem a) ∧ (∀ a, storeBase ≤ a → memByte t.mem a = 0) ∧
      t.nvm.keyHash = s.nvm.keyHash ∧ t.nvm.lock = s.nvm.lock ∧ t.nvm.pid = s.nvm.pid ∧ t.nvm.coreOut = s.nvm.coreOut ∧
      t.pending = s.pending ∧ t.boot.grave = false ∧ t.boot.trip = false ∧ t.cores = [] ∧ t.regs = [] ∧
      t.pins.stbyOk = stby)

/-- R20, R49, R50, R79 to R81, R88, R342, R343: while the reference runs and the present beat is complete, a block beat ends it, begins the next
with the decisions of its holds, and lets the always-on domain, the peer ports and the host port act. An epoch edge is marked 6
beats after the beat that samples it, give or take one; in time it takes the marked beat, early it is only counted; an epoch without
an edge for its limit is lost. -/
def Obligations.BeatsAndEpochs : Prop :=
  (∀ s : State,
    (s.pins.refclk = true → s.locked = true → s.beatDone = true → exec .blockBeat s =
      .next (((s.endBeat.beginBeat).watch).servePeers).serveHost ∧ s.endBeat.beginBeat.beat = s.endBeat.beat + 1) ∧
    (s.pins.refclk = false ∨ s.beatDone = false → exec .blockBeat s = .next s)) ∧
  (∀ s : State,
    let last := s.regN 0x400F10 + 2 ^ 32 * s.regN 0x400F14
    (s.locked = true → s.pins.refclk = true → s.boot.epochMark = none → s.boot.epochSeen = 0 ∨ s.boot.epochSeen + 39 ≤ s.now →
      ∃ m, s.now + 5 ≤ m ∧ m ≤ s.now + 7 ∧
        let t := (s.modBoot fun b => { b with epochMark := some m, epochSeen := s.now + 1 }).drawn
        (s.edgeEarly m = false → exec .epochEdge s = .next t ∧ exec .epochEarly s = .next s) ∧
        (s.edgeEarly m = true → exec .epochEarly s = .next t ∧ exec .epochEdge s = .next s)) ∧
    (∀ m, s.boot.epochMark = some m → m ≤ s.now →
      let c := s.modBoot fun b => { b with epochMark := none }
      let t := c.putReg 0x400F18 (if s.boot.epochLock then (s.now - last) % 2 ^ 32 else 0)
      let t := (t.putReg 0x400F10 (s.now % 2 ^ 32)).putReg 0x400F14 (s.now / 2 ^ 32)
      let lock := fun (u : State) => u.modBoot fun b => { b with epochLock := true, epochAt := s.now + 1 }
      (s.edgeEarly s.now = true → s.markEdge = c.putReg 0x400F1C (min (s.regN 0x400F1C + 1) 0xFFFFFFFF)) ∧
      (s.edgeEarly s.now = false →
        (bitOf (s.regN 0x400F00) 0 = true → s.markEdge = lock ((t.putReg 0x400F0C (t.regN 0x400F04)).putReg 0x400F00 0)) ∧
        (bitOf (s.regN 0x400F00) 0 = false →
          s.markEdge = lock (t.putReg 0x400F0C ((t.regN 0x400F0C + 1) % 2 ^ 32))))) ∧
    (∀ n, s.boot.epochLock = true → s.sinceEdge = some n → s.regN 0x400F08 ≤ n → exec .epochLost s =
      .next ((s.modBoot fun b => { b with epochLock := false }).raiseBlock 304)))

/-- R480 to R482: an erase leaves its sector at FFH, a page program can only clear bits, a read-back records the check of the image, a
command that does not end well ends the update with FLASH; a fuse word ends with the bits of FUSE_PDATA set, and where its
read-back disagrees some of them may be (their choice is free). -/
def Obligations.FlashAndFusesEnd : Prop :=
  ∀ s : State,
    let n := s.nvm
    (n.job = .erasing → ∀ ok, exec (.flashOperationDone ok) s = .next ((s.modNvm fun m =>
      { m with flash := memWrite m.flash (4096 * m.erased) (List.replicate 4096 0xFF), erased := m.erased + 1,
               known := max m.known (4096 * m.erased + 4096), job := .idle }).flashNext)) ∧
    (n.job = .programming →
      let page := n.buffer.take 256
      exec (.flashOperationDone true) s = .next ((s.modNvm fun m =>
        { m with flash := memWrite m.flash m.programmed
                   (((memRead m.flash m.programmed page.length).zip page).map fun b => b.1 &&& b.2),
                 programmed := m.programmed + page.length, buffer := m.buffer.drop 256, job := .idle }).flashNext) ∧
      exec (.flashOperationDone false) s = .next s.flashFailed) ∧
    (n.job = .verifying → ∀ ok,
      let c := s.checkImage s.readImage
      exec (.flashOperationDone ok) s =
        .next (((s.endUpdate (if c = 0 then 2 else 3)).drawn).modNvm fun m => { m with updCheck := c })) ∧
    (n.job = .erasing ∨ n.job = .programming → n.jobAt + 200000000 ≤ s.now →
      exec .flashTimeout s = .next s.flashFailed ∧ s.flashFailed.nvm.updStatus = 5) ∧
    (n.fuseStatus = 1 →
      (n.fuseWord ≠ 12 → exec (.fuseProgramDone true) s = .next (s.modNvm fun m =>
        { m with keyHash := m.keyHash ||| fuseBits n.fuseWord n.fuseData.toNat, fuseStatus := 2 })) ∧
      (n.fuseWord = 12 → exec (.fuseProgramDone true) s =
        .next (s.modNvm fun m => { m with lock := true, fuseStatus := 2 })) ∧
      (n.fuseWord ≠ 12 → ∃ free : BitVec 384, free &&& ~~~(fuseBits n.fuseWord n.fuseData.toNat) = 0 ∧
        exec (.fuseProgramDone false) s = .next ((s.drawn).modNvm fun m =>
          { m with keyHash := m.keyHash ||| free, fuseStatus := 5 })) ∧
      (n.fuseWord = 12 → ∃ set : Bool, exec (.fuseProgramDone false) s =
        .next ((s.drawn).modNvm fun m => { m with lock := m.lock || set, fuseStatus := 5 })))

/-! ## The side-band bus -/

/-- R65, R459 to R462, R509: while the target runs, each common command, MCTP control command and PLDM command answers and changes what its
row says, and register access messages with the block's enterprise number read and write registers. It sends at its dynamic address,
or at 0x3A while it has none, and as an I²C target until an I3C controller has addressed it (R65); the identity it gives while a
dynamic address is assigned to it goes to no address. The bytes of an answer
that its standard alone fixes are the model's (log entry 31), and those the spec does not state are free. -/
def Obligations.SideBandAnswers : Prop :=
  ∀ s : State, s.sideOpen = true →
    (∀ m, s.sideSend m = s.send (.target (if s.side.da = 0 then 0x3A else s.side.da) (!s.side.i3c) m)) ∧
    let t := s.modSide fun x => { x with i3c := true }
    let pid := (leBytes 6 s.nvm.pid.toNat).reverse
    let gives := fun (code : Nat) (bs : List Byte) => (.next (s.sideAnswer (.bus code bs)) : Host.Outcome State Fault Refusal)
    let tells := fun (c : Instr) (n : Nat) (f : List Byte → List Byte) =>
      ∃ bs : List Byte, bs.length = n ∧ exec c s = .next (s.sideAnswer (.bus 0 (f bs))).drawn
    ((s.side.da = 0 → ∀ a, exec (.entdaa a) s = .next ((t.modSide fun x => { x with da := a }).send (.bus 0 (pid ++ [0x06, 0xCC]))) ∧
        exec (.setdasa a) s = .next (t.modSide fun x => { x with da := a })) ∧
      (s.side.da ≠ 0 → ∀ a, exec (.entdaa a) s = .next t ∧ exec (.setdasa a) s = .next (t.sideSend .nak)) ∧
      exec .rstdaa s = .next (t.modSide fun x => { x with da := 0 }) ∧
      exec .enec s = .next (t.modSide fun x => { x with ibiOn := true }) ∧
      exec .disec s = .next (t.modSide fun x => { x with ibiOn := false }) ∧
      exec .getpid s = .next (t.sideSend (.bus 0 pid)) ∧ exec .getbcr s = .next (t.sideSend (.bus 0 [0x06])) ∧
      exec .getdcr s = .next (t.sideSend (.bus 0 [0xCC])) ∧
      (∃ bs : List Byte, bs.length = 2 ∧ exec .getstatus s = .next (t.sideSend (.bus 0 bs)).drawn) ∧
      exec .getmrl s = .next (t.sideSend (.bus 0 (wordBytes s.side.mrl ++ [1]))) ∧
      (∀ len, exec (.setmrl len) s = .next (t.modSide fun x => { x with mrl := len })) ∧
      exec .getmwl s = .next (t.sideSend (.bus 0 (wordBytes s.side.mwl))) ∧
      (∀ len, exec (.setmwl len) s = .next (t.modSide fun x => { x with mwl := len })) ∧
      (∀ code, exec (.cccUnsupported code) s = .next (t.sideSend .nak)) ∧
      (s.side.i3c = true → s.side.da ≠ 0 → s.side.ibiOn = true → 0 < s.side.waiting → exec .ibi s =
        .next ((s.modSide fun x => { x with waiting := x.waiting - 1 }).sideSend .ibi))) ∧
    ((∀ e, e ≠ 0 → e ≠ 0xFF → exec (.setEndpointId e) s =
        .next ((s.modSide fun x => { x with eid := e }).sideAnswer (.bus 0 [0, e, 0]))) ∧
      exec .getEndpointId s = gives 0 [s.side.eid, 0, 0] ∧
      tells .getMctpVersionSupport 4 (fun bs => 1 :: bs) ∧
      exec .getMessageTypeSupport s = gives 0 [3, 0x00, 0x01, 0x7F]) ∧
    (exec .getTid s = gives 0 [s.side.tid] ∧
      (∀ type : BitVec 8, type = 0 ∨ type = 2 → tells (.getPldmVersion type) 4 id) ∧
      exec .getPldmTypes s = gives 0 [5, 0, 0, 0, 0, 0, 0, 0] ∧
      (∀ type : BitVec 8, type = 0 ∨ type = 2 → exec (.getPldmCommands type) s = gives 0 (leBytes 32 (pldmCommands type))) ∧
      (∃ bs cs : List Byte, bs.length = 26 ∧ cs.length = 9 ∧
        exec .getPdrRepositoryInfo s = .next (s.sideAnswer (.bus 0 (0 :: bs ++ leBytes 4 7 ++ cs))).drawn) ∧
      (∀ h : BitVec 32, 1 ≤ h.toNat → h.toNat ≤ 7 →
        tells (.getPdr h) 26 (fun bs => leBytes 4 (if h.toNat = 7 then 0 else h.toNat + 1) ++ leBytes 2 h.toNat ++ bs)) ∧
      (∀ v, maxOf s.temperatures = some v → exec (.getSensorReading 1) s = gives 0 (leBytes 4 (toTwos 32 v))) ∧
      (maxOf s.temperatures = none → tells (.getSensorReading 1) 4 id) ∧
      exec (.getSensorReading 2) s = gives 0 (leBytes 4 (windowWatts s.power.winOut)) ∧
      exec (.getSensorReading 3) s = gives 0 (leBytes 4 (windowWatts s.power.winIn)) ∧
      exec (.getSensorReading 4) s = gives 0 (leBytes 4 s.leastVpil) ∧
      exec (.getStateSensorReadings 5) s = gives 0 (leBytes 1 s.blockState) ∧
      exec (.getStateSensorReadings 6) s = gives 0 (leBytes 1 (fld s.fltStatus 28 3)) ∧
      exec (.getStateSensorReadings 7) s = gives 0 (leBytes 1 (b2n s.pins.coolantOk)) ∧
      (∀ type cmd, exec (.pldmUnsupported type cmd) s = gives 5 [])) ∧
    (∀ o v : BitVec 32,
      let pen := s.reg 0x1E0C004
      (o.toNat % 4 = 0 → o.toNat < windowSize →
        (bankRefused .side o.toNat = false →
          let r := s.readReg .side o.toNat
          let done := (.next (r.2.sideAnswer (.side 0 0 (leBytes 4 r.1))) : Host.Outcome State Fault Refusal)
          exec (.read32 pen o) s = done ∧ exec (.readLo pen o) s = done ∧
          (∀ w, s.pairAt o.toNat = some w → exec (.read64 pen o) s = .next (s.sideAnswer (.side 0 0 (leBytes 8 w))))) ∧
        (s.blockState ≠ 6 → ∀ u, s.writeReg ⟨.side, some 0⟩ o.toNat v.toNat = (u, .ok) →
          exec (.write32 pen o v) s = .next (u.sideAnswer (.side 0 0 [])))) ∧
      (∀ other, other ≠ pen → exec (.read32 other o) s = .next s ∧ exec (.write32 other o v) s = .next s ∧
        exec (.read64 other o) s = .next s ∧ exec (.readLo other o) s = .next s))

/-! ## Every step -/

/-- Every step keeps the tables of the state in their canonical form, and takes one command from the queue: none of its effects
changes the rest of it. -/
def Obligations.StepKeepsTables : Prop :=
  ∀ s t : State, step s = .next t → (s.tablesWf = true → t.tablesWf = true) ∧ t.pending = s.pending.tail

/-- R46, R54, R482: whatever command runs, a fuse that is set stays set and the identity fuses stand, and only a power cycle ends GRAVE or the
latch of a thermal trip. -/
def Obligations.StepKeepsFusesAndLatches : Prop :=
  (∀ s t : State, step s = .next t →
    (∀ i, s.nvm.keyHash.getLsbD i = true → t.nvm.keyHash.getLsbD i = true) ∧ (s.nvm.lock = true → t.nvm.lock = true) ∧
    t.nvm.pid = s.nvm.pid ∧ t.nvm.coreOut = s.nvm.coreOut) ∧
  (∀ (s t : State) (c : Instr) (rest : List Instr), s.pending = c :: rest → step s = .next t → c ≠ .powerCycle → c ≠ .vstbyLow →
    (s.boot.grave = true → t.boot.grave = true) ∧ (s.boot.trip = true → t.boot.trip = true))

/-- R41: power-up before STBY_OK: the tables stand in canonical form, nothing is waiting, the block is in RESET, no rail is up, the alarm
pins are at high impedance, and every register reads its reset value. -/
def Obligations.ResetState : Prop :=
  let s := State.reset
  s.tablesWf = true ∧ s.pending = [] ∧ s.blockState = 0 ∧ s.pins.stbyOk = false ∧ s.pins.alarmZ = true ∧ s.pinLow = false ∧
  (∀ c : CoreId, s.pstate c = .off ∧ (s.core c).seq.bound = false) ∧ (∀ o, s.reg o = regReset o) ∧
  s.boot.grave = false ∧ s.boot.trip = false
end

