-- ==== Sys2Proof/Laws/State.lean ====
section
/-! SUPPORT. One lemma per field per writer of the state: what a writer writes, and that it leaves every other field as it is. -/

namespace Sys2Proof.Machine

/-! ### `setPending` -/

@[simp] theorem State.setPending_pending (s : State) (v : List Instr) : (s.setPending v).pending = v := rfl
@[simp] theorem State.setPending_beat (s : State) (v : List Instr) : (s.setPending v).beat = s.beat := rfl
@[simp] theorem State.setPending_draws (s : State) (v : List Instr) : (s.setPending v).draws = s.draws := rfl
@[simp] theorem State.setPending_regs (s : State) (v : List Instr) : (s.setPending v).regs = s.regs := rfl
@[simp] theorem State.setPending_shadows (s : State) (v : List Instr) : (s.setPending v).shadows = s.shadows := rfl
@[simp] theorem State.setPending_mem (s : State) (v : List Instr) : (s.setPending v).mem = s.mem := rfl
@[simp] theorem State.setPending_check (s : State) (v : List Instr) : (s.setPending v).check = s.check := rfl
@[simp] theorem State.setPending_cores (s : State) (v : List Instr) : (s.setPending v).cores = s.cores := rfl
@[simp] theorem State.setPending_pins (s : State) (v : List Instr) : (s.setPending v).pins = s.pins := rfl
@[simp] theorem State.setPending_boot (s : State) (v : List Instr) : (s.setPending v).boot = s.boot := rfl
@[simp] theorem State.setPending_nvm (s : State) (v : List Instr) : (s.setPending v).nvm = s.nvm := rfl
@[simp] theorem State.setPending_faults (s : State) (v : List Instr) : (s.setPending v).faults = s.faults := rfl
@[simp] theorem State.setPending_events (s : State) (v : List Instr) : (s.setPending v).events = s.events := rfl
@[simp] theorem State.setPending_sync (s : State) (v : List Instr) : (s.setPending v).sync = s.sync := rfl
@[simp] theorem State.setPending_dma (s : State) (v : List Instr) : (s.setPending v).dma = s.dma := rfl
@[simp] theorem State.setPending_columns (s : State) (v : List Instr) : (s.setPending v).columns = s.columns := rfl
@[simp] theorem State.setPending_pgk (s : State) (v : List Instr) : (s.setPending v).pgk = s.pgk := rfl
@[simp] theorem State.setPending_scouts (s : State) (v : List Instr) : (s.setPending v).scouts = s.scouts := rfl
@[simp] theorem State.setPending_host (s : State) (v : List Instr) : (s.setPending v).host = s.host := rfl
@[simp] theorem State.setPending_peers (s : State) (v : List Instr) : (s.setPending v).peers = s.peers := rfl
@[simp] theorem State.setPending_vrs (s : State) (v : List Instr) : (s.setPending v).vrs = s.vrs := rfl
@[simp] theorem State.setPending_loops (s : State) (v : List Instr) : (s.setPending v).loops = s.loops := rfl
@[simp] theorem State.setPending_tlm (s : State) (v : List Instr) : (s.setPending v).tlm = s.tlm := rfl
@[simp] theorem State.setPending_power (s : State) (v : List Instr) : (s.setPending v).power = s.power := rfl
@[simp] theorem State.setPending_thermal (s : State) (v : List Instr) : (s.setPending v).thermal = s.thermal := rfl
@[simp] theorem State.setPending_jobs (s : State) (v : List Instr) : (s.setPending v).jobs = s.jobs := rfl
@[simp] theorem State.setPending_commit (s : State) (v : List Instr) : (s.setPending v).commit = s.commit := rfl
@[simp] theorem State.setPending_side (s : State) (v : List Instr) : (s.setPending v).side = s.side := rfl
@[simp] theorem State.setPending_perturb (s : State) (v : List Instr) : (s.setPending v).perturb = s.perturb := rfl
@[simp] theorem State.setPending_marks (s : State) (v : List Instr) : (s.setPending v).marks = s.marks := rfl

/-! ### `setBeat` -/

@[simp] theorem State.setBeat_pending (s : State) (v : BitVec 64) : (s.setBeat v).pending = s.pending := rfl
@[simp] theorem State.setBeat_beat (s : State) (v : BitVec 64) : (s.setBeat v).beat = v := rfl
@[simp] theorem State.setBeat_draws (s : State) (v : BitVec 64) : (s.setBeat v).draws = s.draws := rfl
@[simp] theorem State.setBeat_regs (s : State) (v : BitVec 64) : (s.setBeat v).regs = s.regs := rfl
@[simp] theorem State.setBeat_shadows (s : State) (v : BitVec 64) : (s.setBeat v).shadows = s.shadows := rfl
@[simp] theorem State.setBeat_mem (s : State) (v : BitVec 64) : (s.setBeat v).mem = s.mem := rfl
@[simp] theorem State.setBeat_check (s : State) (v : BitVec 64) : (s.setBeat v).check = s.check := rfl
@[simp] theorem State.setBeat_cores (s : State) (v : BitVec 64) : (s.setBeat v).cores = s.cores := rfl
@[simp] theorem State.setBeat_pins (s : State) (v : BitVec 64) : (s.setBeat v).pins = s.pins := rfl
@[simp] theorem State.setBeat_boot (s : State) (v : BitVec 64) : (s.setBeat v).boot = s.boot := rfl
@[simp] theorem State.setBeat_nvm (s : State) (v : BitVec 64) : (s.setBeat v).nvm = s.nvm := rfl
@[simp] theorem State.setBeat_faults (s : State) (v : BitVec 64) : (s.setBeat v).faults = s.faults := rfl
@[simp] theorem State.setBeat_events (s : State) (v : BitVec 64) : (s.setBeat v).events = s.events := rfl
@[simp] theorem State.setBeat_sync (s : State) (v : BitVec 64) : (s.setBeat v).sync = s.sync := rfl
@[simp] theorem State.setBeat_dma (s : State) (v : BitVec 64) : (s.setBeat v).dma = s.dma := rfl
@[simp] theorem State.setBeat_columns (s : State) (v : BitVec 64) : (s.setBeat v).columns = s.columns := rfl
@[simp] theorem State.setBeat_pgk (s : State) (v : BitVec 64) : (s.setBeat v).pgk = s.pgk := rfl
@[simp] theorem State.setBeat_scouts (s : State) (v : BitVec 64) : (s.setBeat v).scouts = s.scouts := rfl
@[simp] theorem State.setBeat_host (s : State) (v : BitVec 64) : (s.setBeat v).host = s.host := rfl
@[simp] theorem State.setBeat_peers (s : State) (v : BitVec 64) : (s.setBeat v).peers = s.peers := rfl
@[simp] theorem State.setBeat_vrs (s : State) (v : BitVec 64) : (s.setBeat v).vrs = s.vrs := rfl
@[simp] theorem State.setBeat_loops (s : State) (v : BitVec 64) : (s.setBeat v).loops = s.loops := rfl
@[simp] theorem State.setBeat_tlm (s : State) (v : BitVec 64) : (s.setBeat v).tlm = s.tlm := rfl
@[simp] theorem State.setBeat_power (s : State) (v : BitVec 64) : (s.setBeat v).power = s.power := rfl
@[simp] theorem State.setBeat_thermal (s : State) (v : BitVec 64) : (s.setBeat v).thermal = s.thermal := rfl
@[simp] theorem State.setBeat_jobs (s : State) (v : BitVec 64) : (s.setBeat v).jobs = s.jobs := rfl
@[simp] theorem State.setBeat_commit (s : State) (v : BitVec 64) : (s.setBeat v).commit = s.commit := rfl
@[simp] theorem State.setBeat_side (s : State) (v : BitVec 64) : (s.setBeat v).side = s.side := rfl
@[simp] theorem State.setBeat_perturb (s : State) (v : BitVec 64) : (s.setBeat v).perturb = s.perturb := rfl
@[simp] theorem State.setBeat_marks (s : State) (v : BitVec 64) : (s.setBeat v).marks = s.marks := rfl

/-! ### `setDraws` -/

@[simp] theorem State.setDraws_pending (s : State) (v : Nat) : (s.setDraws v).pending = s.pending := rfl
@[simp] theorem State.setDraws_beat (s : State) (v : Nat) : (s.setDraws v).beat = s.beat := rfl
@[simp] theorem State.setDraws_draws (s : State) (v : Nat) : (s.setDraws v).draws = v := rfl
@[simp] theorem State.setDraws_regs (s : State) (v : Nat) : (s.setDraws v).regs = s.regs := rfl
@[simp] theorem State.setDraws_shadows (s : State) (v : Nat) : (s.setDraws v).shadows = s.shadows := rfl
@[simp] theorem State.setDraws_mem (s : State) (v : Nat) : (s.setDraws v).mem = s.mem := rfl
@[simp] theorem State.setDraws_check (s : State) (v : Nat) : (s.setDraws v).check = s.check := rfl
@[simp] theorem State.setDraws_cores (s : State) (v : Nat) : (s.setDraws v).cores = s.cores := rfl
@[simp] theorem State.setDraws_pins (s : State) (v : Nat) : (s.setDraws v).pins = s.pins := rfl
@[simp] theorem State.setDraws_boot (s : State) (v : Nat) : (s.setDraws v).boot = s.boot := rfl
@[simp] theorem State.setDraws_nvm (s : State) (v : Nat) : (s.setDraws v).nvm = s.nvm := rfl
@[simp] theorem State.setDraws_faults (s : State) (v : Nat) : (s.setDraws v).faults = s.faults := rfl
@[simp] theorem State.setDraws_events (s : State) (v : Nat) : (s.setDraws v).events = s.events := rfl
@[simp] theorem State.setDraws_sync (s : State) (v : Nat) : (s.setDraws v).sync = s.sync := rfl
@[simp] theorem State.setDraws_dma (s : State) (v : Nat) : (s.setDraws v).dma = s.dma := rfl
@[simp] theorem State.setDraws_columns (s : State) (v : Nat) : (s.setDraws v).columns = s.columns := rfl
@[simp] theorem State.setDraws_pgk (s : State) (v : Nat) : (s.setDraws v).pgk = s.pgk := rfl
@[simp] theorem State.setDraws_scouts (s : State) (v : Nat) : (s.setDraws v).scouts = s.scouts := rfl
@[simp] theorem State.setDraws_host (s : State) (v : Nat) : (s.setDraws v).host = s.host := rfl
@[simp] theorem State.setDraws_peers (s : State) (v : Nat) : (s.setDraws v).peers = s.peers := rfl
@[simp] theorem State.setDraws_vrs (s : State) (v : Nat) : (s.setDraws v).vrs = s.vrs := rfl
@[simp] theorem State.setDraws_loops (s : State) (v : Nat) : (s.setDraws v).loops = s.loops := rfl
@[simp] theorem State.setDraws_tlm (s : State) (v : Nat) : (s.setDraws v).tlm = s.tlm := rfl
@[simp] theorem State.setDraws_power (s : State) (v : Nat) : (s.setDraws v).power = s.power := rfl
@[simp] theorem State.setDraws_thermal (s : State) (v : Nat) : (s.setDraws v).thermal = s.thermal := rfl
@[simp] theorem State.setDraws_jobs (s : State) (v : Nat) : (s.setDraws v).jobs = s.jobs := rfl
@[simp] theorem State.setDraws_commit (s : State) (v : Nat) : (s.setDraws v).commit = s.commit := rfl
@[simp] theorem State.setDraws_side (s : State) (v : Nat) : (s.setDraws v).side = s.side := rfl
@[simp] theorem State.setDraws_perturb (s : State) (v : Nat) : (s.setDraws v).perturb = s.perturb := rfl
@[simp] theorem State.setDraws_marks (s : State) (v : Nat) : (s.setDraws v).marks = s.marks := rfl

/-! ### `setRegs` -/

@[simp] theorem State.setRegs_pending (s : State) (v : Tab (BitVec 32)) : (s.setRegs v).pending = s.pending := rfl
@[simp] theorem State.setRegs_beat (s : State) (v : Tab (BitVec 32)) : (s.setRegs v).beat = s.beat := rfl
@[simp] theorem State.setRegs_draws (s : State) (v : Tab (BitVec 32)) : (s.setRegs v).draws = s.draws := rfl
@[simp] theorem State.setRegs_regs (s : State) (v : Tab (BitVec 32)) : (s.setRegs v).regs = v := rfl
@[simp] theorem State.setRegs_shadows (s : State) (v : Tab (BitVec 32)) : (s.setRegs v).shadows = s.shadows := rfl
@[simp] theorem State.setRegs_mem (s : State) (v : Tab (BitVec 32)) : (s.setRegs v).mem = s.mem := rfl
@[simp] theorem State.setRegs_check (s : State) (v : Tab (BitVec 32)) : (s.setRegs v).check = s.check := rfl
@[simp] theorem State.setRegs_cores (s : State) (v : Tab (BitVec 32)) : (s.setRegs v).cores = s.cores := rfl
@[simp] theorem State.setRegs_pins (s : State) (v : Tab (BitVec 32)) : (s.setRegs v).pins = s.pins := rfl
@[simp] theorem State.setRegs_boot (s : State) (v : Tab (BitVec 32)) : (s.setRegs v).boot = s.boot := rfl
@[simp] theorem State.setRegs_nvm (s : State) (v : Tab (BitVec 32)) : (s.setRegs v).nvm = s.nvm := rfl
@[simp] theorem State.setRegs_faults (s : State) (v : Tab (BitVec 32)) : (s.setRegs v).faults = s.faults := rfl
@[simp] theorem State.setRegs_events (s : State) (v : Tab (BitVec 32)) : (s.setRegs v).events = s.events := rfl
@[simp] theorem State.setRegs_sync (s : State) (v : Tab (BitVec 32)) : (s.setRegs v).sync = s.sync := rfl
@[simp] theorem State.setRegs_dma (s : State) (v : Tab (BitVec 32)) : (s.setRegs v).dma = s.dma := rfl
@[simp] theorem State.setRegs_columns (s : State) (v : Tab (BitVec 32)) : (s.setRegs v).columns = s.columns := rfl
@[simp] theorem State.setRegs_pgk (s : State) (v : Tab (BitVec 32)) : (s.setRegs v).pgk = s.pgk := rfl
@[simp] theorem State.setRegs_scouts (s : State) (v : Tab (BitVec 32)) : (s.setRegs v).scouts = s.scouts := rfl
@[simp] theorem State.setRegs_host (s : State) (v : Tab (BitVec 32)) : (s.setRegs v).host = s.host := rfl
@[simp] theorem State.setRegs_peers (s : State) (v : Tab (BitVec 32)) : (s.setRegs v).peers = s.peers := rfl
@[simp] theorem State.setRegs_vrs (s : State) (v : Tab (BitVec 32)) : (s.setRegs v).vrs = s.vrs := rfl
@[simp] theorem State.setRegs_loops (s : State) (v : Tab (BitVec 32)) : (s.setRegs v).loops = s.loops := rfl
@[simp] theorem State.setRegs_tlm (s : State) (v : Tab (BitVec 32)) : (s.setRegs v).tlm = s.tlm := rfl
@[simp] theorem State.setRegs_power (s : State) (v : Tab (BitVec 32)) : (s.setRegs v).power = s.power := rfl
@[simp] theorem State.setRegs_thermal (s : State) (v : Tab (BitVec 32)) : (s.setRegs v).thermal = s.thermal := rfl
@[simp] theorem State.setRegs_jobs (s : State) (v : Tab (BitVec 32)) : (s.setRegs v).jobs = s.jobs := rfl
@[simp] theorem State.setRegs_commit (s : State) (v : Tab (BitVec 32)) : (s.setRegs v).commit = s.commit := rfl
@[simp] theorem State.setRegs_side (s : State) (v : Tab (BitVec 32)) : (s.setRegs v).side = s.side := rfl
@[simp] theorem State.setRegs_perturb (s : State) (v : Tab (BitVec 32)) : (s.setRegs v).perturb = s.perturb := rfl
@[simp] theorem State.setRegs_marks (s : State) (v : Tab (BitVec 32)) : (s.setRegs v).marks = s.marks := rfl

/-! ### `setShadows` -/

@[simp] theorem State.setShadows_pending (s : State) (v : Tab (BitVec 32)) : (s.setShadows v).pending = s.pending := rfl
@[simp] theorem State.setShadows_beat (s : State) (v : Tab (BitVec 32)) : (s.setShadows v).beat = s.beat := rfl
@[simp] theorem State.setShadows_draws (s : State) (v : Tab (BitVec 32)) : (s.setShadows v).draws = s.draws := rfl
@[simp] theorem State.setShadows_regs (s : State) (v : Tab (BitVec 32)) : (s.setShadows v).regs = s.regs := rfl
@[simp] theorem State.setShadows_shadows (s : State) (v : Tab (BitVec 32)) : (s.setShadows v).shadows = v := rfl
@[simp] theorem State.setShadows_mem (s : State) (v : Tab (BitVec 32)) : (s.setShadows v).mem = s.mem := rfl
@[simp] theorem State.setShadows_check (s : State) (v : Tab (BitVec 32)) : (s.setShadows v).check = s.check := rfl
@[simp] theorem State.setShadows_cores (s : State) (v : Tab (BitVec 32)) : (s.setShadows v).cores = s.cores := rfl
@[simp] theorem State.setShadows_pins (s : State) (v : Tab (BitVec 32)) : (s.setShadows v).pins = s.pins := rfl
@[simp] theorem State.setShadows_boot (s : State) (v : Tab (BitVec 32)) : (s.setShadows v).boot = s.boot := rfl
@[simp] theorem State.setShadows_nvm (s : State) (v : Tab (BitVec 32)) : (s.setShadows v).nvm = s.nvm := rfl
@[simp] theorem State.setShadows_faults (s : State) (v : Tab (BitVec 32)) : (s.setShadows v).faults = s.faults := rfl
@[simp] theorem State.setShadows_events (s : State) (v : Tab (BitVec 32)) : (s.setShadows v).events = s.events := rfl
@[simp] theorem State.setShadows_sync (s : State) (v : Tab (BitVec 32)) : (s.setShadows v).sync = s.sync := rfl
@[simp] theorem State.setShadows_dma (s : State) (v : Tab (BitVec 32)) : (s.setShadows v).dma = s.dma := rfl
@[simp] theorem State.setShadows_columns (s : State) (v : Tab (BitVec 32)) : (s.setShadows v).columns = s.columns := rfl
@[simp] theorem State.setShadows_pgk (s : State) (v : Tab (BitVec 32)) : (s.setShadows v).pgk = s.pgk := rfl
@[simp] theorem State.setShadows_scouts (s : State) (v : Tab (BitVec 32)) : (s.setShadows v).scouts = s.scouts := rfl
@[simp] theorem State.setShadows_host (s : State) (v : Tab (BitVec 32)) : (s.setShadows v).host = s.host := rfl
@[simp] theorem State.setShadows_peers (s : State) (v : Tab (BitVec 32)) : (s.setShadows v).peers = s.peers := rfl
@[simp] theorem State.setShadows_vrs (s : State) (v : Tab (BitVec 32)) : (s.setShadows v).vrs = s.vrs := rfl
@[simp] theorem State.setShadows_loops (s : State) (v : Tab (BitVec 32)) : (s.setShadows v).loops = s.loops := rfl
@[simp] theorem State.setShadows_tlm (s : State) (v : Tab (BitVec 32)) : (s.setShadows v).tlm = s.tlm := rfl
@[simp] theorem State.setShadows_power (s : State) (v : Tab (BitVec 32)) : (s.setShadows v).power = s.power := rfl
@[simp] theorem State.setShadows_thermal (s : State) (v : Tab (BitVec 32)) : (s.setShadows v).thermal = s.thermal := rfl
@[simp] theorem State.setShadows_jobs (s : State) (v : Tab (BitVec 32)) : (s.setShadows v).jobs = s.jobs := rfl
@[simp] theorem State.setShadows_commit (s : State) (v : Tab (BitVec 32)) : (s.setShadows v).commit = s.commit := rfl
@[simp] theorem State.setShadows_side (s : State) (v : Tab (BitVec 32)) : (s.setShadows v).side = s.side := rfl
@[simp] theorem State.setShadows_perturb (s : State) (v : Tab (BitVec 32)) : (s.setShadows v).perturb = s.perturb := rfl
@[simp] theorem State.setShadows_marks (s : State) (v : Tab (BitVec 32)) : (s.setShadows v).marks = s.marks := rfl

/-! ### `setMem` -/

@[simp] theorem State.setMem_pending (s : State) (v : Memory) : (s.setMem v).pending = s.pending := rfl
@[simp] theorem State.setMem_beat (s : State) (v : Memory) : (s.setMem v).beat = s.beat := rfl
@[simp] theorem State.setMem_draws (s : State) (v : Memory) : (s.setMem v).draws = s.draws := rfl
@[simp] theorem State.setMem_regs (s : State) (v : Memory) : (s.setMem v).regs = s.regs := rfl
@[simp] theorem State.setMem_shadows (s : State) (v : Memory) : (s.setMem v).shadows = s.shadows := rfl
@[simp] theorem State.setMem_mem (s : State) (v : Memory) : (s.setMem v).mem = v := rfl
@[simp] theorem State.setMem_check (s : State) (v : Memory) : (s.setMem v).check = s.check := rfl
@[simp] theorem State.setMem_cores (s : State) (v : Memory) : (s.setMem v).cores = s.cores := rfl
@[simp] theorem State.setMem_pins (s : State) (v : Memory) : (s.setMem v).pins = s.pins := rfl
@[simp] theorem State.setMem_boot (s : State) (v : Memory) : (s.setMem v).boot = s.boot := rfl
@[simp] theorem State.setMem_nvm (s : State) (v : Memory) : (s.setMem v).nvm = s.nvm := rfl
@[simp] theorem State.setMem_faults (s : State) (v : Memory) : (s.setMem v).faults = s.faults := rfl
@[simp] theorem State.setMem_events (s : State) (v : Memory) : (s.setMem v).events = s.events := rfl
@[simp] theorem State.setMem_sync (s : State) (v : Memory) : (s.setMem v).sync = s.sync := rfl
@[simp] theorem State.setMem_dma (s : State) (v : Memory) : (s.setMem v).dma = s.dma := rfl
@[simp] theorem State.setMem_columns (s : State) (v : Memory) : (s.setMem v).columns = s.columns := rfl
@[simp] theorem State.setMem_pgk (s : State) (v : Memory) : (s.setMem v).pgk = s.pgk := rfl
@[simp] theorem State.setMem_scouts (s : State) (v : Memory) : (s.setMem v).scouts = s.scouts := rfl
@[simp] theorem State.setMem_host (s : State) (v : Memory) : (s.setMem v).host = s.host := rfl
@[simp] theorem State.setMem_peers (s : State) (v : Memory) : (s.setMem v).peers = s.peers := rfl
@[simp] theorem State.setMem_vrs (s : State) (v : Memory) : (s.setMem v).vrs = s.vrs := rfl
@[simp] theorem State.setMem_loops (s : State) (v : Memory) : (s.setMem v).loops = s.loops := rfl
@[simp] theorem State.setMem_tlm (s : State) (v : Memory) : (s.setMem v).tlm = s.tlm := rfl
@[simp] theorem State.setMem_power (s : State) (v : Memory) : (s.setMem v).power = s.power := rfl
@[simp] theorem State.setMem_thermal (s : State) (v : Memory) : (s.setMem v).thermal = s.thermal := rfl
@[simp] theorem State.setMem_jobs (s : State) (v : Memory) : (s.setMem v).jobs = s.jobs := rfl
@[simp] theorem State.setMem_commit (s : State) (v : Memory) : (s.setMem v).commit = s.commit := rfl
@[simp] theorem State.setMem_side (s : State) (v : Memory) : (s.setMem v).side = s.side := rfl
@[simp] theorem State.setMem_perturb (s : State) (v : Memory) : (s.setMem v).perturb = s.perturb := rfl
@[simp] theorem State.setMem_marks (s : State) (v : Memory) : (s.setMem v).marks = s.marks := rfl

/-! ### `setCheck` -/

@[simp] theorem State.setCheck_pending (s : State) (v : Tab (BitVec 8)) : (s.setCheck v).pending = s.pending := rfl
@[simp] theorem State.setCheck_beat (s : State) (v : Tab (BitVec 8)) : (s.setCheck v).beat = s.beat := rfl
@[simp] theorem State.setCheck_draws (s : State) (v : Tab (BitVec 8)) : (s.setCheck v).draws = s.draws := rfl
@[simp] theorem State.setCheck_regs (s : State) (v : Tab (BitVec 8)) : (s.setCheck v).regs = s.regs := rfl
@[simp] theorem State.setCheck_shadows (s : State) (v : Tab (BitVec 8)) : (s.setCheck v).shadows = s.shadows := rfl
@[simp] theorem State.setCheck_mem (s : State) (v : Tab (BitVec 8)) : (s.setCheck v).mem = s.mem := rfl
@[simp] theorem State.setCheck_check (s : State) (v : Tab (BitVec 8)) : (s.setCheck v).check = v := rfl
@[simp] theorem State.setCheck_cores (s : State) (v : Tab (BitVec 8)) : (s.setCheck v).cores = s.cores := rfl
@[simp] theorem State.setCheck_pins (s : State) (v : Tab (BitVec 8)) : (s.setCheck v).pins = s.pins := rfl
@[simp] theorem State.setCheck_boot (s : State) (v : Tab (BitVec 8)) : (s.setCheck v).boot = s.boot := rfl
@[simp] theorem State.setCheck_nvm (s : State) (v : Tab (BitVec 8)) : (s.setCheck v).nvm = s.nvm := rfl
@[simp] theorem State.setCheck_faults (s : State) (v : Tab (BitVec 8)) : (s.setCheck v).faults = s.faults := rfl
@[simp] theorem State.setCheck_events (s : State) (v : Tab (BitVec 8)) : (s.setCheck v).events = s.events := rfl
@[simp] theorem State.setCheck_sync (s : State) (v : Tab (BitVec 8)) : (s.setCheck v).sync = s.sync := rfl
@[simp] theorem State.setCheck_dma (s : State) (v : Tab (BitVec 8)) : (s.setCheck v).dma = s.dma := rfl
@[simp] theorem State.setCheck_columns (s : State) (v : Tab (BitVec 8)) : (s.setCheck v).columns = s.columns := rfl
@[simp] theorem State.setCheck_pgk (s : State) (v : Tab (BitVec 8)) : (s.setCheck v).pgk = s.pgk := rfl
@[simp] theorem State.setCheck_scouts (s : State) (v : Tab (BitVec 8)) : (s.setCheck v).scouts = s.scouts := rfl
@[simp] theorem State.setCheck_host (s : State) (v : Tab (BitVec 8)) : (s.setCheck v).host = s.host := rfl
@[simp] theorem State.setCheck_peers (s : State) (v : Tab (BitVec 8)) : (s.setCheck v).peers = s.peers := rfl
@[simp] theorem State.setCheck_vrs (s : State) (v : Tab (BitVec 8)) : (s.setCheck v).vrs = s.vrs := rfl
@[simp] theorem State.setCheck_loops (s : State) (v : Tab (BitVec 8)) : (s.setCheck v).loops = s.loops := rfl
@[simp] theorem State.setCheck_tlm (s : State) (v : Tab (BitVec 8)) : (s.setCheck v).tlm = s.tlm := rfl
@[simp] theorem State.setCheck_power (s : State) (v : Tab (BitVec 8)) : (s.setCheck v).power = s.power := rfl
@[simp] theorem State.setCheck_thermal (s : State) (v : Tab (BitVec 8)) : (s.setCheck v).thermal = s.thermal := rfl
@[simp] theorem State.setCheck_jobs (s : State) (v : Tab (BitVec 8)) : (s.setCheck v).jobs = s.jobs := rfl
@[simp] theorem State.setCheck_commit (s : State) (v : Tab (BitVec 8)) : (s.setCheck v).commit = s.commit := rfl
@[simp] theorem State.setCheck_side (s : State) (v : Tab (BitVec 8)) : (s.setCheck v).side = s.side := rfl
@[simp] theorem State.setCheck_perturb (s : State) (v : Tab (BitVec 8)) : (s.setCheck v).perturb = s.perturb := rfl
@[simp] theorem State.setCheck_marks (s : State) (v : Tab (BitVec 8)) : (s.setCheck v).marks = s.marks := rfl

/-! ### `setCores` -/

@[simp] theorem State.setCores_pending (s : State) (v : Tab Core) : (s.setCores v).pending = s.pending := rfl
@[simp] theorem State.setCores_beat (s : State) (v : Tab Core) : (s.setCores v).beat = s.beat := rfl
@[simp] theorem State.setCores_draws (s : State) (v : Tab Core) : (s.setCores v).draws = s.draws := rfl
@[simp] theorem State.setCores_regs (s : State) (v : Tab Core) : (s.setCores v).regs = s.regs := rfl
@[simp] theorem State.setCores_shadows (s : State) (v : Tab Core) : (s.setCores v).shadows = s.shadows := rfl
@[simp] theorem State.setCores_mem (s : State) (v : Tab Core) : (s.setCores v).mem = s.mem := rfl
@[simp] theorem State.setCores_check (s : State) (v : Tab Core) : (s.setCores v).check = s.check := rfl
@[simp] theorem State.setCores_cores (s : State) (v : Tab Core) : (s.setCores v).cores = v := rfl
@[simp] theorem State.setCores_pins (s : State) (v : Tab Core) : (s.setCores v).pins = s.pins := rfl
@[simp] theorem State.setCores_boot (s : State) (v : Tab Core) : (s.setCores v).boot = s.boot := rfl
@[simp] theorem State.setCores_nvm (s : State) (v : Tab Core) : (s.setCores v).nvm = s.nvm := rfl
@[simp] theorem State.setCores_faults (s : State) (v : Tab Core) : (s.setCores v).faults = s.faults := rfl
@[simp] theorem State.setCores_events (s : State) (v : Tab Core) : (s.setCores v).events = s.events := rfl
@[simp] theorem State.setCores_sync (s : State) (v : Tab Core) : (s.setCores v).sync = s.sync := rfl
@[simp] theorem State.setCores_dma (s : State) (v : Tab Core) : (s.setCores v).dma = s.dma := rfl
@[simp] theorem State.setCores_columns (s : State) (v : Tab Core) : (s.setCores v).columns = s.columns := rfl
@[simp] theorem State.setCores_pgk (s : State) (v : Tab Core) : (s.setCores v).pgk = s.pgk := rfl
@[simp] theorem State.setCores_scouts (s : State) (v : Tab Core) : (s.setCores v).scouts = s.scouts := rfl
@[simp] theorem State.setCores_host (s : State) (v : Tab Core) : (s.setCores v).host = s.host := rfl
@[simp] theorem State.setCores_peers (s : State) (v : Tab Core) : (s.setCores v).peers = s.peers := rfl
@[simp] theorem State.setCores_vrs (s : State) (v : Tab Core) : (s.setCores v).vrs = s.vrs := rfl
@[simp] theorem State.setCores_loops (s : State) (v : Tab Core) : (s.setCores v).loops = s.loops := rfl
@[simp] theorem State.setCores_tlm (s : State) (v : Tab Core) : (s.setCores v).tlm = s.tlm := rfl
@[simp] theorem State.setCores_power (s : State) (v : Tab Core) : (s.setCores v).power = s.power := rfl
@[simp] theorem State.setCores_thermal (s : State) (v : Tab Core) : (s.setCores v).thermal = s.thermal := rfl
@[simp] theorem State.setCores_jobs (s : State) (v : Tab Core) : (s.setCores v).jobs = s.jobs := rfl
@[simp] theorem State.setCores_commit (s : State) (v : Tab Core) : (s.setCores v).commit = s.commit := rfl
@[simp] theorem State.setCores_side (s : State) (v : Tab Core) : (s.setCores v).side = s.side := rfl
@[simp] theorem State.setCores_perturb (s : State) (v : Tab Core) : (s.setCores v).perturb = s.perturb := rfl
@[simp] theorem State.setCores_marks (s : State) (v : Tab Core) : (s.setCores v).marks = s.marks := rfl

/-! ### `setPins` -/

@[simp] theorem State.setPins_pending (s : State) (v : Pins) : (s.setPins v).pending = s.pending := rfl
@[simp] theorem State.setPins_beat (s : State) (v : Pins) : (s.setPins v).beat = s.beat := rfl
@[simp] theorem State.setPins_draws (s : State) (v : Pins) : (s.setPins v).draws = s.draws := rfl
@[simp] theorem State.setPins_regs (s : State) (v : Pins) : (s.setPins v).regs = s.regs := rfl
@[simp] theorem State.setPins_shadows (s : State) (v : Pins) : (s.setPins v).shadows = s.shadows := rfl
@[simp] theorem State.setPins_mem (s : State) (v : Pins) : (s.setPins v).mem = s.mem := rfl
@[simp] theorem State.setPins_check (s : State) (v : Pins) : (s.setPins v).check = s.check := rfl
@[simp] theorem State.setPins_cores (s : State) (v : Pins) : (s.setPins v).cores = s.cores := rfl
@[simp] theorem State.setPins_pins (s : State) (v : Pins) : (s.setPins v).pins = v := rfl
@[simp] theorem State.setPins_boot (s : State) (v : Pins) : (s.setPins v).boot = s.boot := rfl
@[simp] theorem State.setPins_nvm (s : State) (v : Pins) : (s.setPins v).nvm = s.nvm := rfl
@[simp] theorem State.setPins_faults (s : State) (v : Pins) : (s.setPins v).faults = s.faults := rfl
@[simp] theorem State.setPins_events (s : State) (v : Pins) : (s.setPins v).events = s.events := rfl
@[simp] theorem State.setPins_sync (s : State) (v : Pins) : (s.setPins v).sync = s.sync := rfl
@[simp] theorem State.setPins_dma (s : State) (v : Pins) : (s.setPins v).dma = s.dma := rfl
@[simp] theorem State.setPins_columns (s : State) (v : Pins) : (s.setPins v).columns = s.columns := rfl
@[simp] theorem State.setPins_pgk (s : State) (v : Pins) : (s.setPins v).pgk = s.pgk := rfl
@[simp] theorem State.setPins_scouts (s : State) (v : Pins) : (s.setPins v).scouts = s.scouts := rfl
@[simp] theorem State.setPins_host (s : State) (v : Pins) : (s.setPins v).host = s.host := rfl
@[simp] theorem State.setPins_peers (s : State) (v : Pins) : (s.setPins v).peers = s.peers := rfl
@[simp] theorem State.setPins_vrs (s : State) (v : Pins) : (s.setPins v).vrs = s.vrs := rfl
@[simp] theorem State.setPins_loops (s : State) (v : Pins) : (s.setPins v).loops = s.loops := rfl
@[simp] theorem State.setPins_tlm (s : State) (v : Pins) : (s.setPins v).tlm = s.tlm := rfl
@[simp] theorem State.setPins_power (s : State) (v : Pins) : (s.setPins v).power = s.power := rfl
@[simp] theorem State.setPins_thermal (s : State) (v : Pins) : (s.setPins v).thermal = s.thermal := rfl
@[simp] theorem State.setPins_jobs (s : State) (v : Pins) : (s.setPins v).jobs = s.jobs := rfl
@[simp] theorem State.setPins_commit (s : State) (v : Pins) : (s.setPins v).commit = s.commit := rfl
@[simp] theorem State.setPins_side (s : State) (v : Pins) : (s.setPins v).side = s.side := rfl
@[simp] theorem State.setPins_perturb (s : State) (v : Pins) : (s.setPins v).perturb = s.perturb := rfl
@[simp] theorem State.setPins_marks (s : State) (v : Pins) : (s.setPins v).marks = s.marks := rfl

/-! ### `setBoot` -/

@[simp] theorem State.setBoot_pending (s : State) (v : Boot) : (s.setBoot v).pending = s.pending := rfl
@[simp] theorem State.setBoot_beat (s : State) (v : Boot) : (s.setBoot v).beat = s.beat := rfl
@[simp] theorem State.setBoot_draws (s : State) (v : Boot) : (s.setBoot v).draws = s.draws := rfl
@[simp] theorem State.setBoot_regs (s : State) (v : Boot) : (s.setBoot v).regs = s.regs := rfl
@[simp] theorem State.setBoot_shadows (s : State) (v : Boot) : (s.setBoot v).shadows = s.shadows := rfl
@[simp] theorem State.setBoot_mem (s : State) (v : Boot) : (s.setBoot v).mem = s.mem := rfl
@[simp] theorem State.setBoot_check (s : State) (v : Boot) : (s.setBoot v).check = s.check := rfl
@[simp] theorem State.setBoot_cores (s : State) (v : Boot) : (s.setBoot v).cores = s.cores := rfl
@[simp] theorem State.setBoot_pins (s : State) (v : Boot) : (s.setBoot v).pins = s.pins := rfl
@[simp] theorem State.setBoot_boot (s : State) (v : Boot) : (s.setBoot v).boot = v := rfl
@[simp] theorem State.setBoot_nvm (s : State) (v : Boot) : (s.setBoot v).nvm = s.nvm := rfl
@[simp] theorem State.setBoot_faults (s : State) (v : Boot) : (s.setBoot v).faults = s.faults := rfl
@[simp] theorem State.setBoot_events (s : State) (v : Boot) : (s.setBoot v).events = s.events := rfl
@[simp] theorem State.setBoot_sync (s : State) (v : Boot) : (s.setBoot v).sync = s.sync := rfl
@[simp] theorem State.setBoot_dma (s : State) (v : Boot) : (s.setBoot v).dma = s.dma := rfl
@[simp] theorem State.setBoot_columns (s : State) (v : Boot) : (s.setBoot v).columns = s.columns := rfl
@[simp] theorem State.setBoot_pgk (s : State) (v : Boot) : (s.setBoot v).pgk = s.pgk := rfl
@[simp] theorem State.setBoot_scouts (s : State) (v : Boot) : (s.setBoot v).scouts = s.scouts := rfl
@[simp] theorem State.setBoot_host (s : State) (v : Boot) : (s.setBoot v).host = s.host := rfl
@[simp] theorem State.setBoot_peers (s : State) (v : Boot) : (s.setBoot v).peers = s.peers := rfl
@[simp] theorem State.setBoot_vrs (s : State) (v : Boot) : (s.setBoot v).vrs = s.vrs := rfl
@[simp] theorem State.setBoot_loops (s : State) (v : Boot) : (s.setBoot v).loops = s.loops := rfl
@[simp] theorem State.setBoot_tlm (s : State) (v : Boot) : (s.setBoot v).tlm = s.tlm := rfl
@[simp] theorem State.setBoot_power (s : State) (v : Boot) : (s.setBoot v).power = s.power := rfl
@[simp] theorem State.setBoot_thermal (s : State) (v : Boot) : (s.setBoot v).thermal = s.thermal := rfl
@[simp] theorem State.setBoot_jobs (s : State) (v : Boot) : (s.setBoot v).jobs = s.jobs := rfl
@[simp] theorem State.setBoot_commit (s : State) (v : Boot) : (s.setBoot v).commit = s.commit := rfl
@[simp] theorem State.setBoot_side (s : State) (v : Boot) : (s.setBoot v).side = s.side := rfl
@[simp] theorem State.setBoot_perturb (s : State) (v : Boot) : (s.setBoot v).perturb = s.perturb := rfl
@[simp] theorem State.setBoot_marks (s : State) (v : Boot) : (s.setBoot v).marks = s.marks := rfl

/-! ### `setNvm` -/

@[simp] theorem State.setNvm_pending (s : State) (v : Nvm) : (s.setNvm v).pending = s.pending := rfl
@[simp] theorem State.setNvm_beat (s : State) (v : Nvm) : (s.setNvm v).beat = s.beat := rfl
@[simp] theorem State.setNvm_draws (s : State) (v : Nvm) : (s.setNvm v).draws = s.draws := rfl
@[simp] theorem State.setNvm_regs (s : State) (v : Nvm) : (s.setNvm v).regs = s.regs := rfl
@[simp] theorem State.setNvm_shadows (s : State) (v : Nvm) : (s.setNvm v).shadows = s.shadows := rfl
@[simp] theorem State.setNvm_mem (s : State) (v : Nvm) : (s.setNvm v).mem = s.mem := rfl
@[simp] theorem State.setNvm_check (s : State) (v : Nvm) : (s.setNvm v).check = s.check := rfl
@[simp] theorem State.setNvm_cores (s : State) (v : Nvm) : (s.setNvm v).cores = s.cores := rfl
@[simp] theorem State.setNvm_pins (s : State) (v : Nvm) : (s.setNvm v).pins = s.pins := rfl
@[simp] theorem State.setNvm_boot (s : State) (v : Nvm) : (s.setNvm v).boot = s.boot := rfl
@[simp] theorem State.setNvm_nvm (s : State) (v : Nvm) : (s.setNvm v).nvm = v := rfl
@[simp] theorem State.setNvm_faults (s : State) (v : Nvm) : (s.setNvm v).faults = s.faults := rfl
@[simp] theorem State.setNvm_events (s : State) (v : Nvm) : (s.setNvm v).events = s.events := rfl
@[simp] theorem State.setNvm_sync (s : State) (v : Nvm) : (s.setNvm v).sync = s.sync := rfl
@[simp] theorem State.setNvm_dma (s : State) (v : Nvm) : (s.setNvm v).dma = s.dma := rfl
@[simp] theorem State.setNvm_columns (s : State) (v : Nvm) : (s.setNvm v).columns = s.columns := rfl
@[simp] theorem State.setNvm_pgk (s : State) (v : Nvm) : (s.setNvm v).pgk = s.pgk := rfl
@[simp] theorem State.setNvm_scouts (s : State) (v : Nvm) : (s.setNvm v).scouts = s.scouts := rfl
@[simp] theorem State.setNvm_host (s : State) (v : Nvm) : (s.setNvm v).host = s.host := rfl
@[simp] theorem State.setNvm_peers (s : State) (v : Nvm) : (s.setNvm v).peers = s.peers := rfl
@[simp] theorem State.setNvm_vrs (s : State) (v : Nvm) : (s.setNvm v).vrs = s.vrs := rfl
@[simp] theorem State.setNvm_loops (s : State) (v : Nvm) : (s.setNvm v).loops = s.loops := rfl
@[simp] theorem State.setNvm_tlm (s : State) (v : Nvm) : (s.setNvm v).tlm = s.tlm := rfl
@[simp] theorem State.setNvm_power (s : State) (v : Nvm) : (s.setNvm v).power = s.power := rfl
@[simp] theorem State.setNvm_thermal (s : State) (v : Nvm) : (s.setNvm v).thermal = s.thermal := rfl
@[simp] theorem State.setNvm_jobs (s : State) (v : Nvm) : (s.setNvm v).jobs = s.jobs := rfl
@[simp] theorem State.setNvm_commit (s : State) (v : Nvm) : (s.setNvm v).commit = s.commit := rfl
@[simp] theorem State.setNvm_side (s : State) (v : Nvm) : (s.setNvm v).side = s.side := rfl
@[simp] theorem State.setNvm_perturb (s : State) (v : Nvm) : (s.setNvm v).perturb = s.perturb := rfl
@[simp] theorem State.setNvm_marks (s : State) (v : Nvm) : (s.setNvm v).marks = s.marks := rfl

/-! ### `setFaults` -/

@[simp] theorem State.setFaults_pending (s : State) (v : Faults) : (s.setFaults v).pending = s.pending := rfl
@[simp] theorem State.setFaults_beat (s : State) (v : Faults) : (s.setFaults v).beat = s.beat := rfl
@[simp] theorem State.setFaults_draws (s : State) (v : Faults) : (s.setFaults v).draws = s.draws := rfl
@[simp] theorem State.setFaults_regs (s : State) (v : Faults) : (s.setFaults v).regs = s.regs := rfl
@[simp] theorem State.setFaults_shadows (s : State) (v : Faults) : (s.setFaults v).shadows = s.shadows := rfl
@[simp] theorem State.setFaults_mem (s : State) (v : Faults) : (s.setFaults v).mem = s.mem := rfl
@[simp] theorem State.setFaults_check (s : State) (v : Faults) : (s.setFaults v).check = s.check := rfl
@[simp] theorem State.setFaults_cores (s : State) (v : Faults) : (s.setFaults v).cores = s.cores := rfl
@[simp] theorem State.setFaults_pins (s : State) (v : Faults) : (s.setFaults v).pins = s.pins := rfl
@[simp] theorem State.setFaults_boot (s : State) (v : Faults) : (s.setFaults v).boot = s.boot := rfl
@[simp] theorem State.setFaults_nvm (s : State) (v : Faults) : (s.setFaults v).nvm = s.nvm := rfl
@[simp] theorem State.setFaults_faults (s : State) (v : Faults) : (s.setFaults v).faults = v := rfl
@[simp] theorem State.setFaults_events (s : State) (v : Faults) : (s.setFaults v).events = s.events := rfl
@[simp] theorem State.setFaults_sync (s : State) (v : Faults) : (s.setFaults v).sync = s.sync := rfl
@[simp] theorem State.setFaults_dma (s : State) (v : Faults) : (s.setFaults v).dma = s.dma := rfl
@[simp] theorem State.setFaults_columns (s : State) (v : Faults) : (s.setFaults v).columns = s.columns := rfl
@[simp] theorem State.setFaults_pgk (s : State) (v : Faults) : (s.setFaults v).pgk = s.pgk := rfl
@[simp] theorem State.setFaults_scouts (s : State) (v : Faults) : (s.setFaults v).scouts = s.scouts := rfl
@[simp] theorem State.setFaults_host (s : State) (v : Faults) : (s.setFaults v).host = s.host := rfl
@[simp] theorem State.setFaults_peers (s : State) (v : Faults) : (s.setFaults v).peers = s.peers := rfl
@[simp] theorem State.setFaults_vrs (s : State) (v : Faults) : (s.setFaults v).vrs = s.vrs := rfl
@[simp] theorem State.setFaults_loops (s : State) (v : Faults) : (s.setFaults v).loops = s.loops := rfl
@[simp] theorem State.setFaults_tlm (s : State) (v : Faults) : (s.setFaults v).tlm = s.tlm := rfl
@[simp] theorem State.setFaults_power (s : State) (v : Faults) : (s.setFaults v).power = s.power := rfl
@[simp] theorem State.setFaults_thermal (s : State) (v : Faults) : (s.setFaults v).thermal = s.thermal := rfl
@[simp] theorem State.setFaults_jobs (s : State) (v : Faults) : (s.setFaults v).jobs = s.jobs := rfl
@[simp] theorem State.setFaults_commit (s : State) (v : Faults) : (s.setFaults v).commit = s.commit := rfl
@[simp] theorem State.setFaults_side (s : State) (v : Faults) : (s.setFaults v).side = s.side := rfl
@[simp] theorem State.setFaults_perturb (s : State) (v : Faults) : (s.setFaults v).perturb = s.perturb := rfl
@[simp] theorem State.setFaults_marks (s : State) (v : Faults) : (s.setFaults v).marks = s.marks := rfl

/-! ### `setEvents` -/

@[simp] theorem State.setEvents_pending (s : State) (v : Tab EventPart) : (s.setEvents v).pending = s.pending := rfl
@[simp] theorem State.setEvents_beat (s : State) (v : Tab EventPart) : (s.setEvents v).beat = s.beat := rfl
@[simp] theorem State.setEvents_draws (s : State) (v : Tab EventPart) : (s.setEvents v).draws = s.draws := rfl
@[simp] theorem State.setEvents_regs (s : State) (v : Tab EventPart) : (s.setEvents v).regs = s.regs := rfl
@[simp] theorem State.setEvents_shadows (s : State) (v : Tab EventPart) : (s.setEvents v).shadows = s.shadows := rfl
@[simp] theorem State.setEvents_mem (s : State) (v : Tab EventPart) : (s.setEvents v).mem = s.mem := rfl
@[simp] theorem State.setEvents_check (s : State) (v : Tab EventPart) : (s.setEvents v).check = s.check := rfl
@[simp] theorem State.setEvents_cores (s : State) (v : Tab EventPart) : (s.setEvents v).cores = s.cores := rfl
@[simp] theorem State.setEvents_pins (s : State) (v : Tab EventPart) : (s.setEvents v).pins = s.pins := rfl
@[simp] theorem State.setEvents_boot (s : State) (v : Tab EventPart) : (s.setEvents v).boot = s.boot := rfl
@[simp] theorem State.setEvents_nvm (s : State) (v : Tab EventPart) : (s.setEvents v).nvm = s.nvm := rfl
@[simp] theorem State.setEvents_faults (s : State) (v : Tab EventPart) : (s.setEvents v).faults = s.faults := rfl
@[simp] theorem State.setEvents_events (s : State) (v : Tab EventPart) : (s.setEvents v).events = v := rfl
@[simp] theorem State.setEvents_sync (s : State) (v : Tab EventPart) : (s.setEvents v).sync = s.sync := rfl
@[simp] theorem State.setEvents_dma (s : State) (v : Tab EventPart) : (s.setEvents v).dma = s.dma := rfl
@[simp] theorem State.setEvents_columns (s : State) (v : Tab EventPart) : (s.setEvents v).columns = s.columns := rfl
@[simp] theorem State.setEvents_pgk (s : State) (v : Tab EventPart) : (s.setEvents v).pgk = s.pgk := rfl
@[simp] theorem State.setEvents_scouts (s : State) (v : Tab EventPart) : (s.setEvents v).scouts = s.scouts := rfl
@[simp] theorem State.setEvents_host (s : State) (v : Tab EventPart) : (s.setEvents v).host = s.host := rfl
@[simp] theorem State.setEvents_peers (s : State) (v : Tab EventPart) : (s.setEvents v).peers = s.peers := rfl
@[simp] theorem State.setEvents_vrs (s : State) (v : Tab EventPart) : (s.setEvents v).vrs = s.vrs := rfl
@[simp] theorem State.setEvents_loops (s : State) (v : Tab EventPart) : (s.setEvents v).loops = s.loops := rfl
@[simp] theorem State.setEvents_tlm (s : State) (v : Tab EventPart) : (s.setEvents v).tlm = s.tlm := rfl
@[simp] theorem State.setEvents_power (s : State) (v : Tab EventPart) : (s.setEvents v).power = s.power := rfl
@[simp] theorem State.setEvents_thermal (s : State) (v : Tab EventPart) : (s.setEvents v).thermal = s.thermal := rfl
@[simp] theorem State.setEvents_jobs (s : State) (v : Tab EventPart) : (s.setEvents v).jobs = s.jobs := rfl
@[simp] theorem State.setEvents_commit (s : State) (v : Tab EventPart) : (s.setEvents v).commit = s.commit := rfl
@[simp] theorem State.setEvents_side (s : State) (v : Tab EventPart) : (s.setEvents v).side = s.side := rfl
@[simp] theorem State.setEvents_perturb (s : State) (v : Tab EventPart) : (s.setEvents v).perturb = s.perturb := rfl
@[simp] theorem State.setEvents_marks (s : State) (v : Tab EventPart) : (s.setEvents v).marks = s.marks := rfl

/-! ### `setSync` -/

@[simp] theorem State.setSync_pending (s : State) (v : Sync) : (s.setSync v).pending = s.pending := rfl
@[simp] theorem State.setSync_beat (s : State) (v : Sync) : (s.setSync v).beat = s.beat := rfl
@[simp] theorem State.setSync_draws (s : State) (v : Sync) : (s.setSync v).draws = s.draws := rfl
@[simp] theorem State.setSync_regs (s : State) (v : Sync) : (s.setSync v).regs = s.regs := rfl
@[simp] theorem State.setSync_shadows (s : State) (v : Sync) : (s.setSync v).shadows = s.shadows := rfl
@[simp] theorem State.setSync_mem (s : State) (v : Sync) : (s.setSync v).mem = s.mem := rfl
@[simp] theorem State.setSync_check (s : State) (v : Sync) : (s.setSync v).check = s.check := rfl
@[simp] theorem State.setSync_cores (s : State) (v : Sync) : (s.setSync v).cores = s.cores := rfl
@[simp] theorem State.setSync_pins (s : State) (v : Sync) : (s.setSync v).pins = s.pins := rfl
@[simp] theorem State.setSync_boot (s : State) (v : Sync) : (s.setSync v).boot = s.boot := rfl
@[simp] theorem State.setSync_nvm (s : State) (v : Sync) : (s.setSync v).nvm = s.nvm := rfl
@[simp] theorem State.setSync_faults (s : State) (v : Sync) : (s.setSync v).faults = s.faults := rfl
@[simp] theorem State.setSync_events (s : State) (v : Sync) : (s.setSync v).events = s.events := rfl
@[simp] theorem State.setSync_sync (s : State) (v : Sync) : (s.setSync v).sync = v := rfl
@[simp] theorem State.setSync_dma (s : State) (v : Sync) : (s.setSync v).dma = s.dma := rfl
@[simp] theorem State.setSync_columns (s : State) (v : Sync) : (s.setSync v).columns = s.columns := rfl
@[simp] theorem State.setSync_pgk (s : State) (v : Sync) : (s.setSync v).pgk = s.pgk := rfl
@[simp] theorem State.setSync_scouts (s : State) (v : Sync) : (s.setSync v).scouts = s.scouts := rfl
@[simp] theorem State.setSync_host (s : State) (v : Sync) : (s.setSync v).host = s.host := rfl
@[simp] theorem State.setSync_peers (s : State) (v : Sync) : (s.setSync v).peers = s.peers := rfl
@[simp] theorem State.setSync_vrs (s : State) (v : Sync) : (s.setSync v).vrs = s.vrs := rfl
@[simp] theorem State.setSync_loops (s : State) (v : Sync) : (s.setSync v).loops = s.loops := rfl
@[simp] theorem State.setSync_tlm (s : State) (v : Sync) : (s.setSync v).tlm = s.tlm := rfl
@[simp] theorem State.setSync_power (s : State) (v : Sync) : (s.setSync v).power = s.power := rfl
@[simp] theorem State.setSync_thermal (s : State) (v : Sync) : (s.setSync v).thermal = s.thermal := rfl
@[simp] theorem State.setSync_jobs (s : State) (v : Sync) : (s.setSync v).jobs = s.jobs := rfl
@[simp] theorem State.setSync_commit (s : State) (v : Sync) : (s.setSync v).commit = s.commit := rfl
@[simp] theorem State.setSync_side (s : State) (v : Sync) : (s.setSync v).side = s.side := rfl
@[simp] theorem State.setSync_perturb (s : State) (v : Sync) : (s.setSync v).perturb = s.perturb := rfl
@[simp] theorem State.setSync_marks (s : State) (v : Sync) : (s.setSync v).marks = s.marks := rfl

/-! ### `setDma` -/

@[simp] theorem State.setDma_pending (s : State) (v : Tab Channel) : (s.setDma v).pending = s.pending := rfl
@[simp] theorem State.setDma_beat (s : State) (v : Tab Channel) : (s.setDma v).beat = s.beat := rfl
@[simp] theorem State.setDma_draws (s : State) (v : Tab Channel) : (s.setDma v).draws = s.draws := rfl
@[simp] theorem State.setDma_regs (s : State) (v : Tab Channel) : (s.setDma v).regs = s.regs := rfl
@[simp] theorem State.setDma_shadows (s : State) (v : Tab Channel) : (s.setDma v).shadows = s.shadows := rfl
@[simp] theorem State.setDma_mem (s : State) (v : Tab Channel) : (s.setDma v).mem = s.mem := rfl
@[simp] theorem State.setDma_check (s : State) (v : Tab Channel) : (s.setDma v).check = s.check := rfl
@[simp] theorem State.setDma_cores (s : State) (v : Tab Channel) : (s.setDma v).cores = s.cores := rfl
@[simp] theorem State.setDma_pins (s : State) (v : Tab Channel) : (s.setDma v).pins = s.pins := rfl
@[simp] theorem State.setDma_boot (s : State) (v : Tab Channel) : (s.setDma v).boot = s.boot := rfl
@[simp] theorem State.setDma_nvm (s : State) (v : Tab Channel) : (s.setDma v).nvm = s.nvm := rfl
@[simp] theorem State.setDma_faults (s : State) (v : Tab Channel) : (s.setDma v).faults = s.faults := rfl
@[simp] theorem State.setDma_events (s : State) (v : Tab Channel) : (s.setDma v).events = s.events := rfl
@[simp] theorem State.setDma_sync (s : State) (v : Tab Channel) : (s.setDma v).sync = s.sync := rfl
@[simp] theorem State.setDma_dma (s : State) (v : Tab Channel) : (s.setDma v).dma = v := rfl
@[simp] theorem State.setDma_columns (s : State) (v : Tab Channel) : (s.setDma v).columns = s.columns := rfl
@[simp] theorem State.setDma_pgk (s : State) (v : Tab Channel) : (s.setDma v).pgk = s.pgk := rfl
@[simp] theorem State.setDma_scouts (s : State) (v : Tab Channel) : (s.setDma v).scouts = s.scouts := rfl
@[simp] theorem State.setDma_host (s : State) (v : Tab Channel) : (s.setDma v).host = s.host := rfl
@[simp] theorem State.setDma_peers (s : State) (v : Tab Channel) : (s.setDma v).peers = s.peers := rfl
@[simp] theorem State.setDma_vrs (s : State) (v : Tab Channel) : (s.setDma v).vrs = s.vrs := rfl
@[simp] theorem State.setDma_loops (s : State) (v : Tab Channel) : (s.setDma v).loops = s.loops := rfl
@[simp] theorem State.setDma_tlm (s : State) (v : Tab Channel) : (s.setDma v).tlm = s.tlm := rfl
@[simp] theorem State.setDma_power (s : State) (v : Tab Channel) : (s.setDma v).power = s.power := rfl
@[simp] theorem State.setDma_thermal (s : State) (v : Tab Channel) : (s.setDma v).thermal = s.thermal := rfl
@[simp] theorem State.setDma_jobs (s : State) (v : Tab Channel) : (s.setDma v).jobs = s.jobs := rfl
@[simp] theorem State.setDma_commit (s : State) (v : Tab Channel) : (s.setDma v).commit = s.commit := rfl
@[simp] theorem State.setDma_side (s : State) (v : Tab Channel) : (s.setDma v).side = s.side := rfl
@[simp] theorem State.setDma_perturb (s : State) (v : Tab Channel) : (s.setDma v).perturb = s.perturb := rfl
@[simp] theorem State.setDma_marks (s : State) (v : Tab Channel) : (s.setDma v).marks = s.marks := rfl

/-! ### `setColumns` -/

@[simp] theorem State.setColumns_pending (s : State) (v : Tab Column) : (s.setColumns v).pending = s.pending := rfl
@[simp] theorem State.setColumns_beat (s : State) (v : Tab Column) : (s.setColumns v).beat = s.beat := rfl
@[simp] theorem State.setColumns_draws (s : State) (v : Tab Column) : (s.setColumns v).draws = s.draws := rfl
@[simp] theorem State.setColumns_regs (s : State) (v : Tab Column) : (s.setColumns v).regs = s.regs := rfl
@[simp] theorem State.setColumns_shadows (s : State) (v : Tab Column) : (s.setColumns v).shadows = s.shadows := rfl
@[simp] theorem State.setColumns_mem (s : State) (v : Tab Column) : (s.setColumns v).mem = s.mem := rfl
@[simp] theorem State.setColumns_check (s : State) (v : Tab Column) : (s.setColumns v).check = s.check := rfl
@[simp] theorem State.setColumns_cores (s : State) (v : Tab Column) : (s.setColumns v).cores = s.cores := rfl
@[simp] theorem State.setColumns_pins (s : State) (v : Tab Column) : (s.setColumns v).pins = s.pins := rfl
@[simp] theorem State.setColumns_boot (s : State) (v : Tab Column) : (s.setColumns v).boot = s.boot := rfl
@[simp] theorem State.setColumns_nvm (s : State) (v : Tab Column) : (s.setColumns v).nvm = s.nvm := rfl
@[simp] theorem State.setColumns_faults (s : State) (v : Tab Column) : (s.setColumns v).faults = s.faults := rfl
@[simp] theorem State.setColumns_events (s : State) (v : Tab Column) : (s.setColumns v).events = s.events := rfl
@[simp] theorem State.setColumns_sync (s : State) (v : Tab Column) : (s.setColumns v).sync = s.sync := rfl
@[simp] theorem State.setColumns_dma (s : State) (v : Tab Column) : (s.setColumns v).dma = s.dma := rfl
@[simp] theorem State.setColumns_columns (s : State) (v : Tab Column) : (s.setColumns v).columns = v := rfl
@[simp] theorem State.setColumns_pgk (s : State) (v : Tab Column) : (s.setColumns v).pgk = s.pgk := rfl
@[simp] theorem State.setColumns_scouts (s : State) (v : Tab Column) : (s.setColumns v).scouts = s.scouts := rfl
@[simp] theorem State.setColumns_host (s : State) (v : Tab Column) : (s.setColumns v).host = s.host := rfl
@[simp] theorem State.setColumns_peers (s : State) (v : Tab Column) : (s.setColumns v).peers = s.peers := rfl
@[simp] theorem State.setColumns_vrs (s : State) (v : Tab Column) : (s.setColumns v).vrs = s.vrs := rfl
@[simp] theorem State.setColumns_loops (s : State) (v : Tab Column) : (s.setColumns v).loops = s.loops := rfl
@[simp] theorem State.setColumns_tlm (s : State) (v : Tab Column) : (s.setColumns v).tlm = s.tlm := rfl
@[simp] theorem State.setColumns_power (s : State) (v : Tab Column) : (s.setColumns v).power = s.power := rfl
@[simp] theorem State.setColumns_thermal (s : State) (v : Tab Column) : (s.setColumns v).thermal = s.thermal := rfl
@[simp] theorem State.setColumns_jobs (s : State) (v : Tab Column) : (s.setColumns v).jobs = s.jobs := rfl
@[simp] theorem State.setColumns_commit (s : State) (v : Tab Column) : (s.setColumns v).commit = s.commit := rfl
@[simp] theorem State.setColumns_side (s : State) (v : Tab Column) : (s.setColumns v).side = s.side := rfl
@[simp] theorem State.setColumns_perturb (s : State) (v : Tab Column) : (s.setColumns v).perturb = s.perturb := rfl
@[simp] theorem State.setColumns_marks (s : State) (v : Tab Column) : (s.setColumns v).marks = s.marks := rfl

/-! ### `setPgk` -/

@[simp] theorem State.setPgk_pending (s : State) (v : Pgk) : (s.setPgk v).pending = s.pending := rfl
@[simp] theorem State.setPgk_beat (s : State) (v : Pgk) : (s.setPgk v).beat = s.beat := rfl
@[simp] theorem State.setPgk_draws (s : State) (v : Pgk) : (s.setPgk v).draws = s.draws := rfl
@[simp] theorem State.setPgk_regs (s : State) (v : Pgk) : (s.setPgk v).regs = s.regs := rfl
@[simp] theorem State.setPgk_shadows (s : State) (v : Pgk) : (s.setPgk v).shadows = s.shadows := rfl
@[simp] theorem State.setPgk_mem (s : State) (v : Pgk) : (s.setPgk v).mem = s.mem := rfl
@[simp] theorem State.setPgk_check (s : State) (v : Pgk) : (s.setPgk v).check = s.check := rfl
@[simp] theorem State.setPgk_cores (s : State) (v : Pgk) : (s.setPgk v).cores = s.cores := rfl
@[simp] theorem State.setPgk_pins (s : State) (v : Pgk) : (s.setPgk v).pins = s.pins := rfl
@[simp] theorem State.setPgk_boot (s : State) (v : Pgk) : (s.setPgk v).boot = s.boot := rfl
@[simp] theorem State.setPgk_nvm (s : State) (v : Pgk) : (s.setPgk v).nvm = s.nvm := rfl
@[simp] theorem State.setPgk_faults (s : State) (v : Pgk) : (s.setPgk v).faults = s.faults := rfl
@[simp] theorem State.setPgk_events (s : State) (v : Pgk) : (s.setPgk v).events = s.events := rfl
@[simp] theorem State.setPgk_sync (s : State) (v : Pgk) : (s.setPgk v).sync = s.sync := rfl
@[simp] theorem State.setPgk_dma (s : State) (v : Pgk) : (s.setPgk v).dma = s.dma := rfl
@[simp] theorem State.setPgk_columns (s : State) (v : Pgk) : (s.setPgk v).columns = s.columns := rfl
@[simp] theorem State.setPgk_pgk (s : State) (v : Pgk) : (s.setPgk v).pgk = v := rfl
@[simp] theorem State.setPgk_scouts (s : State) (v : Pgk) : (s.setPgk v).scouts = s.scouts := rfl
@[simp] theorem State.setPgk_host (s : State) (v : Pgk) : (s.setPgk v).host = s.host := rfl
@[simp] theorem State.setPgk_peers (s : State) (v : Pgk) : (s.setPgk v).peers = s.peers := rfl
@[simp] theorem State.setPgk_vrs (s : State) (v : Pgk) : (s.setPgk v).vrs = s.vrs := rfl
@[simp] theorem State.setPgk_loops (s : State) (v : Pgk) : (s.setPgk v).loops = s.loops := rfl
@[simp] theorem State.setPgk_tlm (s : State) (v : Pgk) : (s.setPgk v).tlm = s.tlm := rfl
@[simp] theorem State.setPgk_power (s : State) (v : Pgk) : (s.setPgk v).power = s.power := rfl
@[simp] theorem State.setPgk_thermal (s : State) (v : Pgk) : (s.setPgk v).thermal = s.thermal := rfl
@[simp] theorem State.setPgk_jobs (s : State) (v : Pgk) : (s.setPgk v).jobs = s.jobs := rfl
@[simp] theorem State.setPgk_commit (s : State) (v : Pgk) : (s.setPgk v).commit = s.commit := rfl
@[simp] theorem State.setPgk_side (s : State) (v : Pgk) : (s.setPgk v).side = s.side := rfl
@[simp] theorem State.setPgk_perturb (s : State) (v : Pgk) : (s.setPgk v).perturb = s.perturb := rfl
@[simp] theorem State.setPgk_marks (s : State) (v : Pgk) : (s.setPgk v).marks = s.marks := rfl

/-! ### `setScouts` -/

@[simp] theorem State.setScouts_pending (s : State) (v : Tab Scout) : (s.setScouts v).pending = s.pending := rfl
@[simp] theorem State.setScouts_beat (s : State) (v : Tab Scout) : (s.setScouts v).beat = s.beat := rfl
@[simp] theorem State.setScouts_draws (s : State) (v : Tab Scout) : (s.setScouts v).draws = s.draws := rfl
@[simp] theorem State.setScouts_regs (s : State) (v : Tab Scout) : (s.setScouts v).regs = s.regs := rfl
@[simp] theorem State.setScouts_shadows (s : State) (v : Tab Scout) : (s.setScouts v).shadows = s.shadows := rfl
@[simp] theorem State.setScouts_mem (s : State) (v : Tab Scout) : (s.setScouts v).mem = s.mem := rfl
@[simp] theorem State.setScouts_check (s : State) (v : Tab Scout) : (s.setScouts v).check = s.check := rfl
@[simp] theorem State.setScouts_cores (s : State) (v : Tab Scout) : (s.setScouts v).cores = s.cores := rfl
@[simp] theorem State.setScouts_pins (s : State) (v : Tab Scout) : (s.setScouts v).pins = s.pins := rfl
@[simp] theorem State.setScouts_boot (s : State) (v : Tab Scout) : (s.setScouts v).boot = s.boot := rfl
@[simp] theorem State.setScouts_nvm (s : State) (v : Tab Scout) : (s.setScouts v).nvm = s.nvm := rfl
@[simp] theorem State.setScouts_faults (s : State) (v : Tab Scout) : (s.setScouts v).faults = s.faults := rfl
@[simp] theorem State.setScouts_events (s : State) (v : Tab Scout) : (s.setScouts v).events = s.events := rfl
@[simp] theorem State.setScouts_sync (s : State) (v : Tab Scout) : (s.setScouts v).sync = s.sync := rfl
@[simp] theorem State.setScouts_dma (s : State) (v : Tab Scout) : (s.setScouts v).dma = s.dma := rfl
@[simp] theorem State.setScouts_columns (s : State) (v : Tab Scout) : (s.setScouts v).columns = s.columns := rfl
@[simp] theorem State.setScouts_pgk (s : State) (v : Tab Scout) : (s.setScouts v).pgk = s.pgk := rfl
@[simp] theorem State.setScouts_scouts (s : State) (v : Tab Scout) : (s.setScouts v).scouts = v := rfl
@[simp] theorem State.setScouts_host (s : State) (v : Tab Scout) : (s.setScouts v).host = s.host := rfl
@[simp] theorem State.setScouts_peers (s : State) (v : Tab Scout) : (s.setScouts v).peers = s.peers := rfl
@[simp] theorem State.setScouts_vrs (s : State) (v : Tab Scout) : (s.setScouts v).vrs = s.vrs := rfl
@[simp] theorem State.setScouts_loops (s : State) (v : Tab Scout) : (s.setScouts v).loops = s.loops := rfl
@[simp] theorem State.setScouts_tlm (s : State) (v : Tab Scout) : (s.setScouts v).tlm = s.tlm := rfl
@[simp] theorem State.setScouts_power (s : State) (v : Tab Scout) : (s.setScouts v).power = s.power := rfl
@[simp] theorem State.setScouts_thermal (s : State) (v : Tab Scout) : (s.setScouts v).thermal = s.thermal := rfl
@[simp] theorem State.setScouts_jobs (s : State) (v : Tab Scout) : (s.setScouts v).jobs = s.jobs := rfl
@[simp] theorem State.setScouts_commit (s : State) (v : Tab Scout) : (s.setScouts v).commit = s.commit := rfl
@[simp] theorem State.setScouts_side (s : State) (v : Tab Scout) : (s.setScouts v).side = s.side := rfl
@[simp] theorem State.setScouts_perturb (s : State) (v : Tab Scout) : (s.setScouts v).perturb = s.perturb := rfl
@[simp] theorem State.setScouts_marks (s : State) (v : Tab Scout) : (s.setScouts v).marks = s.marks := rfl

/-! ### `setHost` -/

@[simp] theorem State.setHost_pending (s : State) (v : HostPort) : (s.setHost v).pending = s.pending := rfl
@[simp] theorem State.setHost_beat (s : State) (v : HostPort) : (s.setHost v).beat = s.beat := rfl
@[simp] theorem State.setHost_draws (s : State) (v : HostPort) : (s.setHost v).draws = s.draws := rfl
@[simp] theorem State.setHost_regs (s : State) (v : HostPort) : (s.setHost v).regs = s.regs := rfl
@[simp] theorem State.setHost_shadows (s : State) (v : HostPort) : (s.setHost v).shadows = s.shadows := rfl
@[simp] theorem State.setHost_mem (s : State) (v : HostPort) : (s.setHost v).mem = s.mem := rfl
@[simp] theorem State.setHost_check (s : State) (v : HostPort) : (s.setHost v).check = s.check := rfl
@[simp] theorem State.setHost_cores (s : State) (v : HostPort) : (s.setHost v).cores = s.cores := rfl
@[simp] theorem State.setHost_pins (s : State) (v : HostPort) : (s.setHost v).pins = s.pins := rfl
@[simp] theorem State.setHost_boot (s : State) (v : HostPort) : (s.setHost v).boot = s.boot := rfl
@[simp] theorem State.setHost_nvm (s : State) (v : HostPort) : (s.setHost v).nvm = s.nvm := rfl
@[simp] theorem State.setHost_faults (s : State) (v : HostPort) : (s.setHost v).faults = s.faults := rfl
@[simp] theorem State.setHost_events (s : State) (v : HostPort) : (s.setHost v).events = s.events := rfl
@[simp] theorem State.setHost_sync (s : State) (v : HostPort) : (s.setHost v).sync = s.sync := rfl
@[simp] theorem State.setHost_dma (s : State) (v : HostPort) : (s.setHost v).dma = s.dma := rfl
@[simp] theorem State.setHost_columns (s : State) (v : HostPort) : (s.setHost v).columns = s.columns := rfl
@[simp] theorem State.setHost_pgk (s : State) (v : HostPort) : (s.setHost v).pgk = s.pgk := rfl
@[simp] theorem State.setHost_scouts (s : State) (v : HostPort) : (s.setHost v).scouts = s.scouts := rfl
@[simp] theorem State.setHost_host (s : State) (v : HostPort) : (s.setHost v).host = v := rfl
@[simp] theorem State.setHost_peers (s : State) (v : HostPort) : (s.setHost v).peers = s.peers := rfl
@[simp] theorem State.setHost_vrs (s : State) (v : HostPort) : (s.setHost v).vrs = s.vrs := rfl
@[simp] theorem State.setHost_loops (s : State) (v : HostPort) : (s.setHost v).loops = s.loops := rfl
@[simp] theorem State.setHost_tlm (s : State) (v : HostPort) : (s.setHost v).tlm = s.tlm := rfl
@[simp] theorem State.setHost_power (s : State) (v : HostPort) : (s.setHost v).power = s.power := rfl
@[simp] theorem State.setHost_thermal (s : State) (v : HostPort) : (s.setHost v).thermal = s.thermal := rfl
@[simp] theorem State.setHost_jobs (s : State) (v : HostPort) : (s.setHost v).jobs = s.jobs := rfl
@[simp] theorem State.setHost_commit (s : State) (v : HostPort) : (s.setHost v).commit = s.commit := rfl
@[simp] theorem State.setHost_side (s : State) (v : HostPort) : (s.setHost v).side = s.side := rfl
@[simp] theorem State.setHost_perturb (s : State) (v : HostPort) : (s.setHost v).perturb = s.perturb := rfl
@[simp] theorem State.setHost_marks (s : State) (v : HostPort) : (s.setHost v).marks = s.marks := rfl

/-! ### `setPeers` -/

@[simp] theorem State.setPeers_pending (s : State) (v : Tab Peer) : (s.setPeers v).pending = s.pending := rfl
@[simp] theorem State.setPeers_beat (s : State) (v : Tab Peer) : (s.setPeers v).beat = s.beat := rfl
@[simp] theorem State.setPeers_draws (s : State) (v : Tab Peer) : (s.setPeers v).draws = s.draws := rfl
@[simp] theorem State.setPeers_regs (s : State) (v : Tab Peer) : (s.setPeers v).regs = s.regs := rfl
@[simp] theorem State.setPeers_shadows (s : State) (v : Tab Peer) : (s.setPeers v).shadows = s.shadows := rfl
@[simp] theorem State.setPeers_mem (s : State) (v : Tab Peer) : (s.setPeers v).mem = s.mem := rfl
@[simp] theorem State.setPeers_check (s : State) (v : Tab Peer) : (s.setPeers v).check = s.check := rfl
@[simp] theorem State.setPeers_cores (s : State) (v : Tab Peer) : (s.setPeers v).cores = s.cores := rfl
@[simp] theorem State.setPeers_pins (s : State) (v : Tab Peer) : (s.setPeers v).pins = s.pins := rfl
@[simp] theorem State.setPeers_boot (s : State) (v : Tab Peer) : (s.setPeers v).boot = s.boot := rfl
@[simp] theorem State.setPeers_nvm (s : State) (v : Tab Peer) : (s.setPeers v).nvm = s.nvm := rfl
@[simp] theorem State.setPeers_faults (s : State) (v : Tab Peer) : (s.setPeers v).faults = s.faults := rfl
@[simp] theorem State.setPeers_events (s : State) (v : Tab Peer) : (s.setPeers v).events = s.events := rfl
@[simp] theorem State.setPeers_sync (s : State) (v : Tab Peer) : (s.setPeers v).sync = s.sync := rfl
@[simp] theorem State.setPeers_dma (s : State) (v : Tab Peer) : (s.setPeers v).dma = s.dma := rfl
@[simp] theorem State.setPeers_columns (s : State) (v : Tab Peer) : (s.setPeers v).columns = s.columns := rfl
@[simp] theorem State.setPeers_pgk (s : State) (v : Tab Peer) : (s.setPeers v).pgk = s.pgk := rfl
@[simp] theorem State.setPeers_scouts (s : State) (v : Tab Peer) : (s.setPeers v).scouts = s.scouts := rfl
@[simp] theorem State.setPeers_host (s : State) (v : Tab Peer) : (s.setPeers v).host = s.host := rfl
@[simp] theorem State.setPeers_peers (s : State) (v : Tab Peer) : (s.setPeers v).peers = v := rfl
@[simp] theorem State.setPeers_vrs (s : State) (v : Tab Peer) : (s.setPeers v).vrs = s.vrs := rfl
@[simp] theorem State.setPeers_loops (s : State) (v : Tab Peer) : (s.setPeers v).loops = s.loops := rfl
@[simp] theorem State.setPeers_tlm (s : State) (v : Tab Peer) : (s.setPeers v).tlm = s.tlm := rfl
@[simp] theorem State.setPeers_power (s : State) (v : Tab Peer) : (s.setPeers v).power = s.power := rfl
@[simp] theorem State.setPeers_thermal (s : State) (v : Tab Peer) : (s.setPeers v).thermal = s.thermal := rfl
@[simp] theorem State.setPeers_jobs (s : State) (v : Tab Peer) : (s.setPeers v).jobs = s.jobs := rfl
@[simp] theorem State.setPeers_commit (s : State) (v : Tab Peer) : (s.setPeers v).commit = s.commit := rfl
@[simp] theorem State.setPeers_side (s : State) (v : Tab Peer) : (s.setPeers v).side = s.side := rfl
@[simp] theorem State.setPeers_perturb (s : State) (v : Tab Peer) : (s.setPeers v).perturb = s.perturb := rfl
@[simp] theorem State.setPeers_marks (s : State) (v : Tab Peer) : (s.setPeers v).marks = s.marks := rfl

/-! ### `setVrs` -/

@[simp] theorem State.setVrs_pending (s : State) (v : Tab Vr) : (s.setVrs v).pending = s.pending := rfl
@[simp] theorem State.setVrs_beat (s : State) (v : Tab Vr) : (s.setVrs v).beat = s.beat := rfl
@[simp] theorem State.setVrs_draws (s : State) (v : Tab Vr) : (s.setVrs v).draws = s.draws := rfl
@[simp] theorem State.setVrs_regs (s : State) (v : Tab Vr) : (s.setVrs v).regs = s.regs := rfl
@[simp] theorem State.setVrs_shadows (s : State) (v : Tab Vr) : (s.setVrs v).shadows = s.shadows := rfl
@[simp] theorem State.setVrs_mem (s : State) (v : Tab Vr) : (s.setVrs v).mem = s.mem := rfl
@[simp] theorem State.setVrs_check (s : State) (v : Tab Vr) : (s.setVrs v).check = s.check := rfl
@[simp] theorem State.setVrs_cores (s : State) (v : Tab Vr) : (s.setVrs v).cores = s.cores := rfl
@[simp] theorem State.setVrs_pins (s : State) (v : Tab Vr) : (s.setVrs v).pins = s.pins := rfl
@[simp] theorem State.setVrs_boot (s : State) (v : Tab Vr) : (s.setVrs v).boot = s.boot := rfl
@[simp] theorem State.setVrs_nvm (s : State) (v : Tab Vr) : (s.setVrs v).nvm = s.nvm := rfl
@[simp] theorem State.setVrs_faults (s : State) (v : Tab Vr) : (s.setVrs v).faults = s.faults := rfl
@[simp] theorem State.setVrs_events (s : State) (v : Tab Vr) : (s.setVrs v).events = s.events := rfl
@[simp] theorem State.setVrs_sync (s : State) (v : Tab Vr) : (s.setVrs v).sync = s.sync := rfl
@[simp] theorem State.setVrs_dma (s : State) (v : Tab Vr) : (s.setVrs v).dma = s.dma := rfl
@[simp] theorem State.setVrs_columns (s : State) (v : Tab Vr) : (s.setVrs v).columns = s.columns := rfl
@[simp] theorem State.setVrs_pgk (s : State) (v : Tab Vr) : (s.setVrs v).pgk = s.pgk := rfl
@[simp] theorem State.setVrs_scouts (s : State) (v : Tab Vr) : (s.setVrs v).scouts = s.scouts := rfl
@[simp] theorem State.setVrs_host (s : State) (v : Tab Vr) : (s.setVrs v).host = s.host := rfl
@[simp] theorem State.setVrs_peers (s : State) (v : Tab Vr) : (s.setVrs v).peers = s.peers := rfl
@[simp] theorem State.setVrs_vrs (s : State) (v : Tab Vr) : (s.setVrs v).vrs = v := rfl
@[simp] theorem State.setVrs_loops (s : State) (v : Tab Vr) : (s.setVrs v).loops = s.loops := rfl
@[simp] theorem State.setVrs_tlm (s : State) (v : Tab Vr) : (s.setVrs v).tlm = s.tlm := rfl
@[simp] theorem State.setVrs_power (s : State) (v : Tab Vr) : (s.setVrs v).power = s.power := rfl
@[simp] theorem State.setVrs_thermal (s : State) (v : Tab Vr) : (s.setVrs v).thermal = s.thermal := rfl
@[simp] theorem State.setVrs_jobs (s : State) (v : Tab Vr) : (s.setVrs v).jobs = s.jobs := rfl
@[simp] theorem State.setVrs_commit (s : State) (v : Tab Vr) : (s.setVrs v).commit = s.commit := rfl
@[simp] theorem State.setVrs_side (s : State) (v : Tab Vr) : (s.setVrs v).side = s.side := rfl
@[simp] theorem State.setVrs_perturb (s : State) (v : Tab Vr) : (s.setVrs v).perturb = s.perturb := rfl
@[simp] theorem State.setVrs_marks (s : State) (v : Tab Vr) : (s.setVrs v).marks = s.marks := rfl

/-! ### `setLoops` -/

@[simp] theorem State.setLoops_pending (s : State) (v : Tab RegionLoop) : (s.setLoops v).pending = s.pending := rfl
@[simp] theorem State.setLoops_beat (s : State) (v : Tab RegionLoop) : (s.setLoops v).beat = s.beat := rfl
@[simp] theorem State.setLoops_draws (s : State) (v : Tab RegionLoop) : (s.setLoops v).draws = s.draws := rfl
@[simp] theorem State.setLoops_regs (s : State) (v : Tab RegionLoop) : (s.setLoops v).regs = s.regs := rfl
@[simp] theorem State.setLoops_shadows (s : State) (v : Tab RegionLoop) : (s.setLoops v).shadows = s.shadows := rfl
@[simp] theorem State.setLoops_mem (s : State) (v : Tab RegionLoop) : (s.setLoops v).mem = s.mem := rfl
@[simp] theorem State.setLoops_check (s : State) (v : Tab RegionLoop) : (s.setLoops v).check = s.check := rfl
@[simp] theorem State.setLoops_cores (s : State) (v : Tab RegionLoop) : (s.setLoops v).cores = s.cores := rfl
@[simp] theorem State.setLoops_pins (s : State) (v : Tab RegionLoop) : (s.setLoops v).pins = s.pins := rfl
@[simp] theorem State.setLoops_boot (s : State) (v : Tab RegionLoop) : (s.setLoops v).boot = s.boot := rfl
@[simp] theorem State.setLoops_nvm (s : State) (v : Tab RegionLoop) : (s.setLoops v).nvm = s.nvm := rfl
@[simp] theorem State.setLoops_faults (s : State) (v : Tab RegionLoop) : (s.setLoops v).faults = s.faults := rfl
@[simp] theorem State.setLoops_events (s : State) (v : Tab RegionLoop) : (s.setLoops v).events = s.events := rfl
@[simp] theorem State.setLoops_sync (s : State) (v : Tab RegionLoop) : (s.setLoops v).sync = s.sync := rfl
@[simp] theorem State.setLoops_dma (s : State) (v : Tab RegionLoop) : (s.setLoops v).dma = s.dma := rfl
@[simp] theorem State.setLoops_columns (s : State) (v : Tab RegionLoop) : (s.setLoops v).columns = s.columns := rfl
@[simp] theorem State.setLoops_pgk (s : State) (v : Tab RegionLoop) : (s.setLoops v).pgk = s.pgk := rfl
@[simp] theorem State.setLoops_scouts (s : State) (v : Tab RegionLoop) : (s.setLoops v).scouts = s.scouts := rfl
@[simp] theorem State.setLoops_host (s : State) (v : Tab RegionLoop) : (s.setLoops v).host = s.host := rfl
@[simp] theorem State.setLoops_peers (s : State) (v : Tab RegionLoop) : (s.setLoops v).peers = s.peers := rfl
@[simp] theorem State.setLoops_vrs (s : State) (v : Tab RegionLoop) : (s.setLoops v).vrs = s.vrs := rfl
@[simp] theorem State.setLoops_loops (s : State) (v : Tab RegionLoop) : (s.setLoops v).loops = v := rfl
@[simp] theorem State.setLoops_tlm (s : State) (v : Tab RegionLoop) : (s.setLoops v).tlm = s.tlm := rfl
@[simp] theorem State.setLoops_power (s : State) (v : Tab RegionLoop) : (s.setLoops v).power = s.power := rfl
@[simp] theorem State.setLoops_thermal (s : State) (v : Tab RegionLoop) : (s.setLoops v).thermal = s.thermal := rfl
@[simp] theorem State.setLoops_jobs (s : State) (v : Tab RegionLoop) : (s.setLoops v).jobs = s.jobs := rfl
@[simp] theorem State.setLoops_commit (s : State) (v : Tab RegionLoop) : (s.setLoops v).commit = s.commit := rfl
@[simp] theorem State.setLoops_side (s : State) (v : Tab RegionLoop) : (s.setLoops v).side = s.side := rfl
@[simp] theorem State.setLoops_perturb (s : State) (v : Tab RegionLoop) : (s.setLoops v).perturb = s.perturb := rfl
@[simp] theorem State.setLoops_marks (s : State) (v : Tab RegionLoop) : (s.setLoops v).marks = s.marks := rfl

/-! ### `setTlm` -/

@[simp] theorem State.setTlm_pending (s : State) (v : Tab TlmRegion) : (s.setTlm v).pending = s.pending := rfl
@[simp] theorem State.setTlm_beat (s : State) (v : Tab TlmRegion) : (s.setTlm v).beat = s.beat := rfl
@[simp] theorem State.setTlm_draws (s : State) (v : Tab TlmRegion) : (s.setTlm v).draws = s.draws := rfl
@[simp] theorem State.setTlm_regs (s : State) (v : Tab TlmRegion) : (s.setTlm v).regs = s.regs := rfl
@[simp] theorem State.setTlm_shadows (s : State) (v : Tab TlmRegion) : (s.setTlm v).shadows = s.shadows := rfl
@[simp] theorem State.setTlm_mem (s : State) (v : Tab TlmRegion) : (s.setTlm v).mem = s.mem := rfl
@[simp] theorem State.setTlm_check (s : State) (v : Tab TlmRegion) : (s.setTlm v).check = s.check := rfl
@[simp] theorem State.setTlm_cores (s : State) (v : Tab TlmRegion) : (s.setTlm v).cores = s.cores := rfl
@[simp] theorem State.setTlm_pins (s : State) (v : Tab TlmRegion) : (s.setTlm v).pins = s.pins := rfl
@[simp] theorem State.setTlm_boot (s : State) (v : Tab TlmRegion) : (s.setTlm v).boot = s.boot := rfl
@[simp] theorem State.setTlm_nvm (s : State) (v : Tab TlmRegion) : (s.setTlm v).nvm = s.nvm := rfl
@[simp] theorem State.setTlm_faults (s : State) (v : Tab TlmRegion) : (s.setTlm v).faults = s.faults := rfl
@[simp] theorem State.setTlm_events (s : State) (v : Tab TlmRegion) : (s.setTlm v).events = s.events := rfl
@[simp] theorem State.setTlm_sync (s : State) (v : Tab TlmRegion) : (s.setTlm v).sync = s.sync := rfl
@[simp] theorem State.setTlm_dma (s : State) (v : Tab TlmRegion) : (s.setTlm v).dma = s.dma := rfl
@[simp] theorem State.setTlm_columns (s : State) (v : Tab TlmRegion) : (s.setTlm v).columns = s.columns := rfl
@[simp] theorem State.setTlm_pgk (s : State) (v : Tab TlmRegion) : (s.setTlm v).pgk = s.pgk := rfl
@[simp] theorem State.setTlm_scouts (s : State) (v : Tab TlmRegion) : (s.setTlm v).scouts = s.scouts := rfl
@[simp] theorem State.setTlm_host (s : State) (v : Tab TlmRegion) : (s.setTlm v).host = s.host := rfl
@[simp] theorem State.setTlm_peers (s : State) (v : Tab TlmRegion) : (s.setTlm v).peers = s.peers := rfl
@[simp] theorem State.setTlm_vrs (s : State) (v : Tab TlmRegion) : (s.setTlm v).vrs = s.vrs := rfl
@[simp] theorem State.setTlm_loops (s : State) (v : Tab TlmRegion) : (s.setTlm v).loops = s.loops := rfl
@[simp] theorem State.setTlm_tlm (s : State) (v : Tab TlmRegion) : (s.setTlm v).tlm = v := rfl
@[simp] theorem State.setTlm_power (s : State) (v : Tab TlmRegion) : (s.setTlm v).power = s.power := rfl
@[simp] theorem State.setTlm_thermal (s : State) (v : Tab TlmRegion) : (s.setTlm v).thermal = s.thermal := rfl
@[simp] theorem State.setTlm_jobs (s : State) (v : Tab TlmRegion) : (s.setTlm v).jobs = s.jobs := rfl
@[simp] theorem State.setTlm_commit (s : State) (v : Tab TlmRegion) : (s.setTlm v).commit = s.commit := rfl
@[simp] theorem State.setTlm_side (s : State) (v : Tab TlmRegion) : (s.setTlm v).side = s.side := rfl
@[simp] theorem State.setTlm_perturb (s : State) (v : Tab TlmRegion) : (s.setTlm v).perturb = s.perturb := rfl
@[simp] theorem State.setTlm_marks (s : State) (v : Tab TlmRegion) : (s.setTlm v).marks = s.marks := rfl

/-! ### `setPower` -/

@[simp] theorem State.setPower_pending (s : State) (v : PowerManager) : (s.setPower v).pending = s.pending := rfl
@[simp] theorem State.setPower_beat (s : State) (v : PowerManager) : (s.setPower v).beat = s.beat := rfl
@[simp] theorem State.setPower_draws (s : State) (v : PowerManager) : (s.setPower v).draws = s.draws := rfl
@[simp] theorem State.setPower_regs (s : State) (v : PowerManager) : (s.setPower v).regs = s.regs := rfl
@[simp] theorem State.setPower_shadows (s : State) (v : PowerManager) : (s.setPower v).shadows = s.shadows := rfl
@[simp] theorem State.setPower_mem (s : State) (v : PowerManager) : (s.setPower v).mem = s.mem := rfl
@[simp] theorem State.setPower_check (s : State) (v : PowerManager) : (s.setPower v).check = s.check := rfl
@[simp] theorem State.setPower_cores (s : State) (v : PowerManager) : (s.setPower v).cores = s.cores := rfl
@[simp] theorem State.setPower_pins (s : State) (v : PowerManager) : (s.setPower v).pins = s.pins := rfl
@[simp] theorem State.setPower_boot (s : State) (v : PowerManager) : (s.setPower v).boot = s.boot := rfl
@[simp] theorem State.setPower_nvm (s : State) (v : PowerManager) : (s.setPower v).nvm = s.nvm := rfl
@[simp] theorem State.setPower_faults (s : State) (v : PowerManager) : (s.setPower v).faults = s.faults := rfl
@[simp] theorem State.setPower_events (s : State) (v : PowerManager) : (s.setPower v).events = s.events := rfl
@[simp] theorem State.setPower_sync (s : State) (v : PowerManager) : (s.setPower v).sync = s.sync := rfl
@[simp] theorem State.setPower_dma (s : State) (v : PowerManager) : (s.setPower v).dma = s.dma := rfl
@[simp] theorem State.setPower_columns (s : State) (v : PowerManager) : (s.setPower v).columns = s.columns := rfl
@[simp] theorem State.setPower_pgk (s : State) (v : PowerManager) : (s.setPower v).pgk = s.pgk := rfl
@[simp] theorem State.setPower_scouts (s : State) (v : PowerManager) : (s.setPower v).scouts = s.scouts := rfl
@[simp] theorem State.setPower_host (s : State) (v : PowerManager) : (s.setPower v).host = s.host := rfl
@[simp] theorem State.setPower_peers (s : State) (v : PowerManager) : (s.setPower v).peers = s.peers := rfl
@[simp] theorem State.setPower_vrs (s : State) (v : PowerManager) : (s.setPower v).vrs = s.vrs := rfl
@[simp] theorem State.setPower_loops (s : State) (v : PowerManager) : (s.setPower v).loops = s.loops := rfl
@[simp] theorem State.setPower_tlm (s : State) (v : PowerManager) : (s.setPower v).tlm = s.tlm := rfl
@[simp] theorem State.setPower_power (s : State) (v : PowerManager) : (s.setPower v).power = v := rfl
@[simp] theorem State.setPower_thermal (s : State) (v : PowerManager) : (s.setPower v).thermal = s.thermal := rfl
@[simp] theorem State.setPower_jobs (s : State) (v : PowerManager) : (s.setPower v).jobs = s.jobs := rfl
@[simp] theorem State.setPower_commit (s : State) (v : PowerManager) : (s.setPower v).commit = s.commit := rfl
@[simp] theorem State.setPower_side (s : State) (v : PowerManager) : (s.setPower v).side = s.side := rfl
@[simp] theorem State.setPower_perturb (s : State) (v : PowerManager) : (s.setPower v).perturb = s.perturb := rfl
@[simp] theorem State.setPower_marks (s : State) (v : PowerManager) : (s.setPower v).marks = s.marks := rfl

/-! ### `setThermal` -/

@[simp] theorem State.setThermal_pending (s : State) (v : Thermal) : (s.setThermal v).pending = s.pending := rfl
@[simp] theorem State.setThermal_beat (s : State) (v : Thermal) : (s.setThermal v).beat = s.beat := rfl
@[simp] theorem State.setThermal_draws (s : State) (v : Thermal) : (s.setThermal v).draws = s.draws := rfl
@[simp] theorem State.setThermal_regs (s : State) (v : Thermal) : (s.setThermal v).regs = s.regs := rfl
@[simp] theorem State.setThermal_shadows (s : State) (v : Thermal) : (s.setThermal v).shadows = s.shadows := rfl
@[simp] theorem State.setThermal_mem (s : State) (v : Thermal) : (s.setThermal v).mem = s.mem := rfl
@[simp] theorem State.setThermal_check (s : State) (v : Thermal) : (s.setThermal v).check = s.check := rfl
@[simp] theorem State.setThermal_cores (s : State) (v : Thermal) : (s.setThermal v).cores = s.cores := rfl
@[simp] theorem State.setThermal_pins (s : State) (v : Thermal) : (s.setThermal v).pins = s.pins := rfl
@[simp] theorem State.setThermal_boot (s : State) (v : Thermal) : (s.setThermal v).boot = s.boot := rfl
@[simp] theorem State.setThermal_nvm (s : State) (v : Thermal) : (s.setThermal v).nvm = s.nvm := rfl
@[simp] theorem State.setThermal_faults (s : State) (v : Thermal) : (s.setThermal v).faults = s.faults := rfl
@[simp] theorem State.setThermal_events (s : State) (v : Thermal) : (s.setThermal v).events = s.events := rfl
@[simp] theorem State.setThermal_sync (s : State) (v : Thermal) : (s.setThermal v).sync = s.sync := rfl
@[simp] theorem State.setThermal_dma (s : State) (v : Thermal) : (s.setThermal v).dma = s.dma := rfl
@[simp] theorem State.setThermal_columns (s : State) (v : Thermal) : (s.setThermal v).columns = s.columns := rfl
@[simp] theorem State.setThermal_pgk (s : State) (v : Thermal) : (s.setThermal v).pgk = s.pgk := rfl
@[simp] theorem State.setThermal_scouts (s : State) (v : Thermal) : (s.setThermal v).scouts = s.scouts := rfl
@[simp] theorem State.setThermal_host (s : State) (v : Thermal) : (s.setThermal v).host = s.host := rfl
@[simp] theorem State.setThermal_peers (s : State) (v : Thermal) : (s.setThermal v).peers = s.peers := rfl
@[simp] theorem State.setThermal_vrs (s : State) (v : Thermal) : (s.setThermal v).vrs = s.vrs := rfl
@[simp] theorem State.setThermal_loops (s : State) (v : Thermal) : (s.setThermal v).loops = s.loops := rfl
@[simp] theorem State.setThermal_tlm (s : State) (v : Thermal) : (s.setThermal v).tlm = s.tlm := rfl
@[simp] theorem State.setThermal_power (s : State) (v : Thermal) : (s.setThermal v).power = s.power := rfl
@[simp] theorem State.setThermal_thermal (s : State) (v : Thermal) : (s.setThermal v).thermal = v := rfl
@[simp] theorem State.setThermal_jobs (s : State) (v : Thermal) : (s.setThermal v).jobs = s.jobs := rfl
@[simp] theorem State.setThermal_commit (s : State) (v : Thermal) : (s.setThermal v).commit = s.commit := rfl
@[simp] theorem State.setThermal_side (s : State) (v : Thermal) : (s.setThermal v).side = s.side := rfl
@[simp] theorem State.setThermal_perturb (s : State) (v : Thermal) : (s.setThermal v).perturb = s.perturb := rfl
@[simp] theorem State.setThermal_marks (s : State) (v : Thermal) : (s.setThermal v).marks = s.marks := rfl

/-! ### `setJobs` -/

@[simp] theorem State.setJobs_pending (s : State) (v : Tab Job) : (s.setJobs v).pending = s.pending := rfl
@[simp] theorem State.setJobs_beat (s : State) (v : Tab Job) : (s.setJobs v).beat = s.beat := rfl
@[simp] theorem State.setJobs_draws (s : State) (v : Tab Job) : (s.setJobs v).draws = s.draws := rfl
@[simp] theorem State.setJobs_regs (s : State) (v : Tab Job) : (s.setJobs v).regs = s.regs := rfl
@[simp] theorem State.setJobs_shadows (s : State) (v : Tab Job) : (s.setJobs v).shadows = s.shadows := rfl
@[simp] theorem State.setJobs_mem (s : State) (v : Tab Job) : (s.setJobs v).mem = s.mem := rfl
@[simp] theorem State.setJobs_check (s : State) (v : Tab Job) : (s.setJobs v).check = s.check := rfl
@[simp] theorem State.setJobs_cores (s : State) (v : Tab Job) : (s.setJobs v).cores = s.cores := rfl
@[simp] theorem State.setJobs_pins (s : State) (v : Tab Job) : (s.setJobs v).pins = s.pins := rfl
@[simp] theorem State.setJobs_boot (s : State) (v : Tab Job) : (s.setJobs v).boot = s.boot := rfl
@[simp] theorem State.setJobs_nvm (s : State) (v : Tab Job) : (s.setJobs v).nvm = s.nvm := rfl
@[simp] theorem State.setJobs_faults (s : State) (v : Tab Job) : (s.setJobs v).faults = s.faults := rfl
@[simp] theorem State.setJobs_events (s : State) (v : Tab Job) : (s.setJobs v).events = s.events := rfl
@[simp] theorem State.setJobs_sync (s : State) (v : Tab Job) : (s.setJobs v).sync = s.sync := rfl
@[simp] theorem State.setJobs_dma (s : State) (v : Tab Job) : (s.setJobs v).dma = s.dma := rfl
@[simp] theorem State.setJobs_columns (s : State) (v : Tab Job) : (s.setJobs v).columns = s.columns := rfl
@[simp] theorem State.setJobs_pgk (s : State) (v : Tab Job) : (s.setJobs v).pgk = s.pgk := rfl
@[simp] theorem State.setJobs_scouts (s : State) (v : Tab Job) : (s.setJobs v).scouts = s.scouts := rfl
@[simp] theorem State.setJobs_host (s : State) (v : Tab Job) : (s.setJobs v).host = s.host := rfl
@[simp] theorem State.setJobs_peers (s : State) (v : Tab Job) : (s.setJobs v).peers = s.peers := rfl
@[simp] theorem State.setJobs_vrs (s : State) (v : Tab Job) : (s.setJobs v).vrs = s.vrs := rfl
@[simp] theorem State.setJobs_loops (s : State) (v : Tab Job) : (s.setJobs v).loops = s.loops := rfl
@[simp] theorem State.setJobs_tlm (s : State) (v : Tab Job) : (s.setJobs v).tlm = s.tlm := rfl
@[simp] theorem State.setJobs_power (s : State) (v : Tab Job) : (s.setJobs v).power = s.power := rfl
@[simp] theorem State.setJobs_thermal (s : State) (v : Tab Job) : (s.setJobs v).thermal = s.thermal := rfl
@[simp] theorem State.setJobs_jobs (s : State) (v : Tab Job) : (s.setJobs v).jobs = v := rfl
@[simp] theorem State.setJobs_commit (s : State) (v : Tab Job) : (s.setJobs v).commit = s.commit := rfl
@[simp] theorem State.setJobs_side (s : State) (v : Tab Job) : (s.setJobs v).side = s.side := rfl
@[simp] theorem State.setJobs_perturb (s : State) (v : Tab Job) : (s.setJobs v).perturb = s.perturb := rfl
@[simp] theorem State.setJobs_marks (s : State) (v : Tab Job) : (s.setJobs v).marks = s.marks := rfl

/-! ### `setCommit` -/

@[simp] theorem State.setCommit_pending (s : State) (v : Commit) : (s.setCommit v).pending = s.pending := rfl
@[simp] theorem State.setCommit_beat (s : State) (v : Commit) : (s.setCommit v).beat = s.beat := rfl
@[simp] theorem State.setCommit_draws (s : State) (v : Commit) : (s.setCommit v).draws = s.draws := rfl
@[simp] theorem State.setCommit_regs (s : State) (v : Commit) : (s.setCommit v).regs = s.regs := rfl
@[simp] theorem State.setCommit_shadows (s : State) (v : Commit) : (s.setCommit v).shadows = s.shadows := rfl
@[simp] theorem State.setCommit_mem (s : State) (v : Commit) : (s.setCommit v).mem = s.mem := rfl
@[simp] theorem State.setCommit_check (s : State) (v : Commit) : (s.setCommit v).check = s.check := rfl
@[simp] theorem State.setCommit_cores (s : State) (v : Commit) : (s.setCommit v).cores = s.cores := rfl
@[simp] theorem State.setCommit_pins (s : State) (v : Commit) : (s.setCommit v).pins = s.pins := rfl
@[simp] theorem State.setCommit_boot (s : State) (v : Commit) : (s.setCommit v).boot = s.boot := rfl
@[simp] theorem State.setCommit_nvm (s : State) (v : Commit) : (s.setCommit v).nvm = s.nvm := rfl
@[simp] theorem State.setCommit_faults (s : State) (v : Commit) : (s.setCommit v).faults = s.faults := rfl
@[simp] theorem State.setCommit_events (s : State) (v : Commit) : (s.setCommit v).events = s.events := rfl
@[simp] theorem State.setCommit_sync (s : State) (v : Commit) : (s.setCommit v).sync = s.sync := rfl
@[simp] theorem State.setCommit_dma (s : State) (v : Commit) : (s.setCommit v).dma = s.dma := rfl
@[simp] theorem State.setCommit_columns (s : State) (v : Commit) : (s.setCommit v).columns = s.columns := rfl
@[simp] theorem State.setCommit_pgk (s : State) (v : Commit) : (s.setCommit v).pgk = s.pgk := rfl
@[simp] theorem State.setCommit_scouts (s : State) (v : Commit) : (s.setCommit v).scouts = s.scouts := rfl
@[simp] theorem State.setCommit_host (s : State) (v : Commit) : (s.setCommit v).host = s.host := rfl
@[simp] theorem State.setCommit_peers (s : State) (v : Commit) : (s.setCommit v).peers = s.peers := rfl
@[simp] theorem State.setCommit_vrs (s : State) (v : Commit) : (s.setCommit v).vrs = s.vrs := rfl
@[simp] theorem State.setCommit_loops (s : State) (v : Commit) : (s.setCommit v).loops = s.loops := rfl
@[simp] theorem State.setCommit_tlm (s : State) (v : Commit) : (s.setCommit v).tlm = s.tlm := rfl
@[simp] theorem State.setCommit_power (s : State) (v : Commit) : (s.setCommit v).power = s.power := rfl
@[simp] theorem State.setCommit_thermal (s : State) (v : Commit) : (s.setCommit v).thermal = s.thermal := rfl
@[simp] theorem State.setCommit_jobs (s : State) (v : Commit) : (s.setCommit v).jobs = s.jobs := rfl
@[simp] theorem State.setCommit_commit (s : State) (v : Commit) : (s.setCommit v).commit = v := rfl
@[simp] theorem State.setCommit_side (s : State) (v : Commit) : (s.setCommit v).side = s.side := rfl
@[simp] theorem State.setCommit_perturb (s : State) (v : Commit) : (s.setCommit v).perturb = s.perturb := rfl
@[simp] theorem State.setCommit_marks (s : State) (v : Commit) : (s.setCommit v).marks = s.marks := rfl

/-! ### `setSide` -/

@[simp] theorem State.setSide_pending (s : State) (v : Sideband) : (s.setSide v).pending = s.pending := rfl
@[simp] theorem State.setSide_beat (s : State) (v : Sideband) : (s.setSide v).beat = s.beat := rfl
@[simp] theorem State.setSide_draws (s : State) (v : Sideband) : (s.setSide v).draws = s.draws := rfl
@[simp] theorem State.setSide_regs (s : State) (v : Sideband) : (s.setSide v).regs = s.regs := rfl
@[simp] theorem State.setSide_shadows (s : State) (v : Sideband) : (s.setSide v).shadows = s.shadows := rfl
@[simp] theorem State.setSide_mem (s : State) (v : Sideband) : (s.setSide v).mem = s.mem := rfl
@[simp] theorem State.setSide_check (s : State) (v : Sideband) : (s.setSide v).check = s.check := rfl
@[simp] theorem State.setSide_cores (s : State) (v : Sideband) : (s.setSide v).cores = s.cores := rfl
@[simp] theorem State.setSide_pins (s : State) (v : Sideband) : (s.setSide v).pins = s.pins := rfl
@[simp] theorem State.setSide_boot (s : State) (v : Sideband) : (s.setSide v).boot = s.boot := rfl
@[simp] theorem State.setSide_nvm (s : State) (v : Sideband) : (s.setSide v).nvm = s.nvm := rfl
@[simp] theorem State.setSide_faults (s : State) (v : Sideband) : (s.setSide v).faults = s.faults := rfl
@[simp] theorem State.setSide_events (s : State) (v : Sideband) : (s.setSide v).events = s.events := rfl
@[simp] theorem State.setSide_sync (s : State) (v : Sideband) : (s.setSide v).sync = s.sync := rfl
@[simp] theorem State.setSide_dma (s : State) (v : Sideband) : (s.setSide v).dma = s.dma := rfl
@[simp] theorem State.setSide_columns (s : State) (v : Sideband) : (s.setSide v).columns = s.columns := rfl
@[simp] theorem State.setSide_pgk (s : State) (v : Sideband) : (s.setSide v).pgk = s.pgk := rfl
@[simp] theorem State.setSide_scouts (s : State) (v : Sideband) : (s.setSide v).scouts = s.scouts := rfl
@[simp] theorem State.setSide_host (s : State) (v : Sideband) : (s.setSide v).host = s.host := rfl
@[simp] theorem State.setSide_peers (s : State) (v : Sideband) : (s.setSide v).peers = s.peers := rfl
@[simp] theorem State.setSide_vrs (s : State) (v : Sideband) : (s.setSide v).vrs = s.vrs := rfl
@[simp] theorem State.setSide_loops (s : State) (v : Sideband) : (s.setSide v).loops = s.loops := rfl
@[simp] theorem State.setSide_tlm (s : State) (v : Sideband) : (s.setSide v).tlm = s.tlm := rfl
@[simp] theorem State.setSide_power (s : State) (v : Sideband) : (s.setSide v).power = s.power := rfl
@[simp] theorem State.setSide_thermal (s : State) (v : Sideband) : (s.setSide v).thermal = s.thermal := rfl
@[simp] theorem State.setSide_jobs (s : State) (v : Sideband) : (s.setSide v).jobs = s.jobs := rfl
@[simp] theorem State.setSide_commit (s : State) (v : Sideband) : (s.setSide v).commit = s.commit := rfl
@[simp] theorem State.setSide_side (s : State) (v : Sideband) : (s.setSide v).side = v := rfl
@[simp] theorem State.setSide_perturb (s : State) (v : Sideband) : (s.setSide v).perturb = s.perturb := rfl
@[simp] theorem State.setSide_marks (s : State) (v : Sideband) : (s.setSide v).marks = s.marks := rfl

/-! ### `setPerturb` -/

@[simp] theorem State.setPerturb_pending (s : State) (v : Perturb) : (s.setPerturb v).pending = s.pending := rfl
@[simp] theorem State.setPerturb_beat (s : State) (v : Perturb) : (s.setPerturb v).beat = s.beat := rfl
@[simp] theorem State.setPerturb_draws (s : State) (v : Perturb) : (s.setPerturb v).draws = s.draws := rfl
@[simp] theorem State.setPerturb_regs (s : State) (v : Perturb) : (s.setPerturb v).regs = s.regs := rfl
@[simp] theorem State.setPerturb_shadows (s : State) (v : Perturb) : (s.setPerturb v).shadows = s.shadows := rfl
@[simp] theorem State.setPerturb_mem (s : State) (v : Perturb) : (s.setPerturb v).mem = s.mem := rfl
@[simp] theorem State.setPerturb_check (s : State) (v : Perturb) : (s.setPerturb v).check = s.check := rfl
@[simp] theorem State.setPerturb_cores (s : State) (v : Perturb) : (s.setPerturb v).cores = s.cores := rfl
@[simp] theorem State.setPerturb_pins (s : State) (v : Perturb) : (s.setPerturb v).pins = s.pins := rfl
@[simp] theorem State.setPerturb_boot (s : State) (v : Perturb) : (s.setPerturb v).boot = s.boot := rfl
@[simp] theorem State.setPerturb_nvm (s : State) (v : Perturb) : (s.setPerturb v).nvm = s.nvm := rfl
@[simp] theorem State.setPerturb_faults (s : State) (v : Perturb) : (s.setPerturb v).faults = s.faults := rfl
@[simp] theorem State.setPerturb_events (s : State) (v : Perturb) : (s.setPerturb v).events = s.events := rfl
@[simp] theorem State.setPerturb_sync (s : State) (v : Perturb) : (s.setPerturb v).sync = s.sync := rfl
@[simp] theorem State.setPerturb_dma (s : State) (v : Perturb) : (s.setPerturb v).dma = s.dma := rfl
@[simp] theorem State.setPerturb_columns (s : State) (v : Perturb) : (s.setPerturb v).columns = s.columns := rfl
@[simp] theorem State.setPerturb_pgk (s : State) (v : Perturb) : (s.setPerturb v).pgk = s.pgk := rfl
@[simp] theorem State.setPerturb_scouts (s : State) (v : Perturb) : (s.setPerturb v).scouts = s.scouts := rfl
@[simp] theorem State.setPerturb_host (s : State) (v : Perturb) : (s.setPerturb v).host = s.host := rfl
@[simp] theorem State.setPerturb_peers (s : State) (v : Perturb) : (s.setPerturb v).peers = s.peers := rfl
@[simp] theorem State.setPerturb_vrs (s : State) (v : Perturb) : (s.setPerturb v).vrs = s.vrs := rfl
@[simp] theorem State.setPerturb_loops (s : State) (v : Perturb) : (s.setPerturb v).loops = s.loops := rfl
@[simp] theorem State.setPerturb_tlm (s : State) (v : Perturb) : (s.setPerturb v).tlm = s.tlm := rfl
@[simp] theorem State.setPerturb_power (s : State) (v : Perturb) : (s.setPerturb v).power = s.power := rfl
@[simp] theorem State.setPerturb_thermal (s : State) (v : Perturb) : (s.setPerturb v).thermal = s.thermal := rfl
@[simp] theorem State.setPerturb_jobs (s : State) (v : Perturb) : (s.setPerturb v).jobs = s.jobs := rfl
@[simp] theorem State.setPerturb_commit (s : State) (v : Perturb) : (s.setPerturb v).commit = s.commit := rfl
@[simp] theorem State.setPerturb_side (s : State) (v : Perturb) : (s.setPerturb v).side = s.side := rfl
@[simp] theorem State.setPerturb_perturb (s : State) (v : Perturb) : (s.setPerturb v).perturb = v := rfl
@[simp] theorem State.setPerturb_marks (s : State) (v : Perturb) : (s.setPerturb v).marks = s.marks := rfl

/-! ### `setMarks` -/

@[simp] theorem State.setMarks_pending (s : State) (v : Tab (BitVec 32)) : (s.setMarks v).pending = s.pending := rfl
@[simp] theorem State.setMarks_beat (s : State) (v : Tab (BitVec 32)) : (s.setMarks v).beat = s.beat := rfl
@[simp] theorem State.setMarks_draws (s : State) (v : Tab (BitVec 32)) : (s.setMarks v).draws = s.draws := rfl
@[simp] theorem State.setMarks_regs (s : State) (v : Tab (BitVec 32)) : (s.setMarks v).regs = s.regs := rfl
@[simp] theorem State.setMarks_shadows (s : State) (v : Tab (BitVec 32)) : (s.setMarks v).shadows = s.shadows := rfl
@[simp] theorem State.setMarks_mem (s : State) (v : Tab (BitVec 32)) : (s.setMarks v).mem = s.mem := rfl
@[simp] theorem State.setMarks_check (s : State) (v : Tab (BitVec 32)) : (s.setMarks v).check = s.check := rfl
@[simp] theorem State.setMarks_cores (s : State) (v : Tab (BitVec 32)) : (s.setMarks v).cores = s.cores := rfl
@[simp] theorem State.setMarks_pins (s : State) (v : Tab (BitVec 32)) : (s.setMarks v).pins = s.pins := rfl
@[simp] theorem State.setMarks_boot (s : State) (v : Tab (BitVec 32)) : (s.setMarks v).boot = s.boot := rfl
@[simp] theorem State.setMarks_nvm (s : State) (v : Tab (BitVec 32)) : (s.setMarks v).nvm = s.nvm := rfl
@[simp] theorem State.setMarks_faults (s : State) (v : Tab (BitVec 32)) : (s.setMarks v).faults = s.faults := rfl
@[simp] theorem State.setMarks_events (s : State) (v : Tab (BitVec 32)) : (s.setMarks v).events = s.events := rfl
@[simp] theorem State.setMarks_sync (s : State) (v : Tab (BitVec 32)) : (s.setMarks v).sync = s.sync := rfl
@[simp] theorem State.setMarks_dma (s : State) (v : Tab (BitVec 32)) : (s.setMarks v).dma = s.dma := rfl
@[simp] theorem State.setMarks_columns (s : State) (v : Tab (BitVec 32)) : (s.setMarks v).columns = s.columns := rfl
@[simp] theorem State.setMarks_pgk (s : State) (v : Tab (BitVec 32)) : (s.setMarks v).pgk = s.pgk := rfl
@[simp] theorem State.setMarks_scouts (s : State) (v : Tab (BitVec 32)) : (s.setMarks v).scouts = s.scouts := rfl
@[simp] theorem State.setMarks_host (s : State) (v : Tab (BitVec 32)) : (s.setMarks v).host = s.host := rfl
@[simp] theorem State.setMarks_peers (s : State) (v : Tab (BitVec 32)) : (s.setMarks v).peers = s.peers := rfl
@[simp] theorem State.setMarks_vrs (s : State) (v : Tab (BitVec 32)) : (s.setMarks v).vrs = s.vrs := rfl
@[simp] theorem State.setMarks_loops (s : State) (v : Tab (BitVec 32)) : (s.setMarks v).loops = s.loops := rfl
@[simp] theorem State.setMarks_tlm (s : State) (v : Tab (BitVec 32)) : (s.setMarks v).tlm = s.tlm := rfl
@[simp] theorem State.setMarks_power (s : State) (v : Tab (BitVec 32)) : (s.setMarks v).power = s.power := rfl
@[simp] theorem State.setMarks_thermal (s : State) (v : Tab (BitVec 32)) : (s.setMarks v).thermal = s.thermal := rfl
@[simp] theorem State.setMarks_jobs (s : State) (v : Tab (BitVec 32)) : (s.setMarks v).jobs = s.jobs := rfl
@[simp] theorem State.setMarks_commit (s : State) (v : Tab (BitVec 32)) : (s.setMarks v).commit = s.commit := rfl
@[simp] theorem State.setMarks_side (s : State) (v : Tab (BitVec 32)) : (s.setMarks v).side = s.side := rfl
@[simp] theorem State.setMarks_perturb (s : State) (v : Tab (BitVec 32)) : (s.setMarks v).perturb = s.perturb := rfl
@[simp] theorem State.setMarks_marks (s : State) (v : Tab (BitVec 32)) : (s.setMarks v).marks = v := rfl

end Sys2Proof.Machine
end

