-- ==== Sys2Proof/Laws/Issue.lean ====
section
/-! SUPPORT. What issuing a slot does: a slot that stands ready issues with its effect; a core that may not issue, or a slot of another
operation, changes nothing. -/

namespace Sys2Proof.Machine

/-- A slot that stands ready issues: its effect, on the state with the due results and the counted fetch, and the mark. -/
theorem State.issueSlot_ready {s : State} {c : Nat} {i : SlotName} {op : Nat} (effect : Nat → State → State)
    (h : s.slotReady c i op = true) :
    s.issueSlot c i op effect = State.issuedBy c i (effect (s.slotBits c i) (s.atIssue c)) := by
  simp only [State.slotReady, Bool.and_eq_true, Bool.or_eq_true, Bool.not_eq_true', decide_eq_true_eq] at h
  obtain ⟨hm, ⟨⟨⟨hb, hbad⟩, hop⟩, hn⟩, hz⟩ := h
  rw [State.issueSlot]
  simp only [hm, hb, hbad, hop, hn, Bool.not_true, Bool.false_eq_true, if_false, ne_eq, not_true_eq_false, decide_false,
    Bool.or_false]
  rcases hz with hz | ⟨hc, hs⟩
  · simp only [hz, decide_false, Bool.false_and, Bool.false_eq_true, if_false]
    rfl
  · simp only [hc, hs, not_true_eq_false, decide_false, Bool.and_false, Bool.false_eq_true, if_false, Nat.reduceEqDiff]
    rfl

/-- A core that may not issue in this beat issues nothing. -/
theorem State.issueSlot_blocked {s : State} {c : Nat} {i : SlotName} {op : Nat} (effect : Nat → State → State)
    (h : s.mayIssue c = false) : s.issueSlot c i op effect = s := by
  simp [State.issueSlot, h]

end Sys2Proof.Machine
end

