-- ==== Sys2Proof/Laws/Tab.lean ====
section
/-! SUPPORT. Tables: what a write leaves, what a read after it gives, and that every operation keeps the canonical form; memory is the
table of bytes. -/

namespace Sys2Proof.Machine

variable {α : Type} [DecidableEq α] (d : Nat → α)

theorem tabWf_tail {i : Nat} {v : α} {t : Tab α} (h : tabWf d ((i, v) :: t) = true) : tabWf d t = true := by
  simp only [tabWf, Bool.and_eq_true] at h
  exact h.2

/-- A table that begins above `b` stays so when an entry above `b` is written. -/
theorem tabAbove_tabSet {b k : Nat} (v : α) (hk : b < k) :
    ∀ t : Tab α, tabAbove b t = true → tabWf d t = true → tabAbove b (tabSet d t k v) = true
  | [], _, _ => by
    unfold tabSet
    split <;> simp [tabAbove, hk]
  | (i, w) :: t, h, hw => by
    have hi : b < i := by simpa [tabAbove] using h
    simp only [tabWf, Bool.and_eq_true] at hw
    have ht : tabAbove b t = true := by
      cases t with
      | nil => rfl
      | cons e t =>
        have : i < e.1 := by simpa [tabAbove] using hw.1.1
        simp [tabAbove]; omega
    unfold tabSet
    repeat' split
    all_goals first | exact ht | simp [tabAbove, hk, hi]

/-- A write keeps the canonical form. -/
theorem tabWf_tabSet (k : Nat) (v : α) : ∀ t : Tab α, tabWf d t = true → tabWf d (tabSet d t k v) = true
  | [], _ => by
    unfold tabSet
    split
    · rfl
    · rename_i hv; simp [tabWf, tabAbove, hv]
  | (i, w) :: t, h => by
    have hw := h
    simp only [tabWf, Bool.and_eq_true] at hw
    have ih := tabWf_tabSet k v t hw.2
    unfold tabSet
    split
    · rename_i hik; subst hik
      split
      · exact hw.2
      · rename_i hv; simp [tabWf, hw.1.1, hw.2, hv]
    · split
      · rename_i hlt
        split
        · exact h
        · rename_i hv
          have : tabAbove k ((i, w) :: t) = true := by simp [tabAbove, hlt]
          unfold tabWf
          simp [this, hv, h]
      · rename_i hne hge
        have : tabAbove i (tabSet d t k v) = true := tabAbove_tabSet d v (by omega) t hw.1.1 hw.2
        simp [tabWf, this, hw.1.2, ih]

/-- Read after write. -/
theorem tabGet_below {k : Nat} : ∀ t : Tab α, tabAbove k t = true → tabWf d t = true → tabGet d t k = d k
  | [], _, _ => rfl
  | (i, w) :: t, h, _ => by
    have : k < i := by simpa [tabAbove] using h
    have hne : i ≠ k := by omega
    simp [tabGet, hne, this]

theorem tabGet_tabSet_self (k : Nat) (v : α) : ∀ t : Tab α, tabWf d t = true → tabGet d (tabSet d t k v) k = v
  | [], _ => by
    unfold tabSet
    split <;> simp_all [tabGet]
  | (i, w) :: t, h => by
    have hw := h
    simp only [tabWf, Bool.and_eq_true] at hw
    have ih := tabGet_tabSet_self k v t hw.2
    unfold tabSet
    split
    · rename_i hik; subst hik
      split
      · rename_i hv; rw [tabGet_below d t hw.1.1 hw.2, hv]
      · simp [tabGet]
    · rename_i hne
      split
      · rename_i hlt
        split
        · rename_i hv; simp [tabGet, hne, hlt, hv]
        · simp [tabGet]
      · rename_i hge
        simp [tabGet, hne, hge, ih]

theorem tabGet_tabSet_ne {j k : Nat} (hjk : j ≠ k) (v : α) :
    ∀ t : Tab α, tabWf d t = true → tabGet d (tabSet d t k v) j = tabGet d t j
  | [], _ => by
    unfold tabSet
    split <;> simp [tabGet, Ne.symm hjk]
  | (i, w) :: t, h => by
    have hw := h
    simp only [tabWf, Bool.and_eq_true] at hw
    have ih := tabGet_tabSet_ne hjk v t hw.2
    unfold tabSet
    split
    · rename_i hik; subst hik
      have hne : i ≠ j := Ne.symm hjk
      split
      · simp only [tabGet, hne, if_false]
        split
        · rename_i hji
          exact tabGet_below d t (by
            cases t with
            | nil => rfl
            | cons e t =>
              have : i < e.1 := by simpa [tabAbove] using hw.1.1
              simp [tabAbove]; omega) hw.2
        · rfl
      · simp [tabGet, hne]
    · rename_i hne
      split
      · rename_i hlt
        split
        · rfl
        · simp only [tabGet, Ne.symm hjk, if_false]
          split
          · rename_i hj
            have h1 : i ≠ j := by omega
            have h2 : j < i := by omega
            simp [h1, h2]
          · rfl
      · simp only [tabGet, ih]

omit [DecidableEq α] in
/-- A table that begins above `b` begins above every lower index. -/
theorem tabAbove_mono {a b : Nat} (hab : a ≤ b) : ∀ t : Tab α, tabAbove b t = true → tabAbove a t = true
  | [], _ => rfl
  | (i, _) :: _, h => by
    have : b < i := by simpa [tabAbove] using h
    simp [tabAbove]; omega

theorem tabAbove_filter {b : Nat} (p : Nat × α → Bool) :
    ∀ t : Tab α, tabAbove b t = true → tabWf d t = true → tabAbove b (t.filter p) = true
  | [], _, _ => rfl
  | (i, w) :: t, h, hw => by
    simp only [tabWf, Bool.and_eq_true] at hw
    have hi : b < i := by simpa [tabAbove] using h
    rw [List.filter_cons]
    split
    · simp [tabAbove, hi]
    · exact tabAbove_filter p t (tabAbove_mono (by omega) t hw.1.1) hw.2

theorem tabWf_filter (p : Nat × α → Bool) : ∀ t : Tab α, tabWf d t = true → tabWf d (t.filter p) = true
  | [], _ => rfl
  | (i, w) :: t, h => by
    simp only [tabWf, Bool.and_eq_true] at h
    have ih := tabWf_filter p t h.2
    rw [List.filter_cons]
    split
    · simp [tabWf, tabAbove_filter d p t h.1.1 h.2, h.1.2, ih]
    · exact ih

/-- Indexes of a mapped table are indexes of the table. -/
theorem tabAbove_tabMap (f : Nat → α → α) {b : Nat} :
    ∀ t : Tab α, tabAbove b t = true → tabWf d t = true → tabAbove b (tabMap d f t) = true
  | [], _, _ => rfl
  | (i, v) :: t, h, hw => by
    have hi : b < i := by simpa [tabAbove] using h
    simp only [tabWf, Bool.and_eq_true] at hw
    have ht : tabAbove b t = true := by
      cases t with
      | nil => rfl
      | cons e t =>
        have : i < e.1 := by simpa [tabAbove] using hw.1.1
        simp [tabAbove]; omega
    have ih := tabAbove_tabMap f t ht hw.2
    unfold tabMap at *
    rw [List.filterMap_cons]
    dsimp only
    split
    · exact ih
    · rename_i e he
      split at he
      · cases he
      · cases he; simp [tabAbove, hi]

/-- Mapping every entry keeps the canonical form. -/
theorem tabWf_tabMap (f : Nat → α → α) : ∀ t : Tab α, tabWf d t = true → tabWf d (tabMap d f t) = true
  | [], _ => rfl
  | (i, v) :: t, h => by
    simp only [tabWf, Bool.and_eq_true] at h
    have ih := tabWf_tabMap f t h.2
    have ha := tabAbove_tabMap d f t h.1.1 h.2
    unfold tabMap at *
    rw [List.filterMap_cons]
    dsimp only
    split
    · exact ih
    · rename_i e he
      split at he
      · cases he
      · rename_i hne
        cases he
        simp [tabWf, ha, ih, hne]

/-! ## Memory -/

/-- The empty memory has the canonical form. -/
theorem Memory.wf_nil : Memory.wf [] = true := rfl

theorem Memory.wf_setByte {m : Memory} (h : m.wf = true) (a : Nat) (b : Byte) : (memSetByte m a b).wf = true :=
  tabWf_tabSet memDefault a b m h

theorem Memory.wf_write {m : Memory} (h : m.wf = true) (a : Nat) (bs : List Byte) : (memWrite m a bs).wf = true := by
  induction bs generalizing m a with
  | nil => exact h
  | cons b bs ih => exact ih (Memory.wf_setByte h a b) (a + 1)

theorem Memory.wf_erase {m : Memory} (h : m.wf = true) (lo hi : Nat) : (memErase m lo hi).wf = true :=
  tabWf_filter memDefault _ m h

/-- A byte outside the written stretch reads as before. -/
theorem memByte_write_outside {m : Memory} (h : m.wf = true) (a : Nat) (bs : List Byte) (x : Nat)
    (hx : x < a ∨ a + bs.length ≤ x) : memByte (memWrite m a bs) x = memByte m x := by
  induction bs generalizing m a with
  | nil => rfl
  | cons b bs ih =>
    have hlen : (b :: bs).length = bs.length + 1 := rfl
    have hne : x ≠ a := by omega
    rw [memWrite, ih (Memory.wf_setByte h a b) (a + 1) (by omega)]
    exact tabGet_tabSet_ne memDefault hne b m h

/-- A byte of the written stretch reads as written. -/
theorem memByte_write_inside {m : Memory} (h : m.wf = true) (a : Nat) (bs : List Byte) (i : Nat) (hi : i < bs.length) :
    memByte (memWrite m a bs) (a + i) = bs[i] := by
  induction bs generalizing m a i with
  | nil => simp at hi
  | cons b bs ih =>
    rw [memWrite]
    cases i with
    | zero =>
      rw [memByte_write_outside (Memory.wf_setByte h a b) (a + 1) bs (a + 0) (by omega)]
      exact tabGet_tabSet_self memDefault a b m h
    | succ i =>
      have hi' : i < bs.length := by simpa using hi
      have := ih (Memory.wf_setByte h a b) (a + 1) i hi'
      rw [Nat.add_assoc, Nat.add_comm 1 i] at this
      simpa using this

end Sys2Proof.Machine
end

