-- ==== Sys2Proof/Laws/Keeps.lean ====
section
/-! SUPPORT. What every operation of the machine keeps, stated once: the queue of commands is left alone, memory and the tables keep their
canonical form, a fuse bit that is set stays set, the identity fuses and the latches of a thermal trip and of GRAVE stand. The writers of
the fields come first; every operation built of them inherits the fact (the other Keeps files). -/

namespace Sys2Proof.Machine

/-- What becomes of the latches that only a power cycle clears (R24, R46, R54). -/
structure BootKeeps (b c : Boot) : Prop where
  grave : b.grave = true → c.grave = true
  trip  : b.trip = true → c.trip = true

/-- What becomes of the fuses (R482). -/
structure NvmKeeps (n m : Nvm) : Prop where
  fuses : ∀ i, n.keyHash.getLsbD i = true → m.keyHash.getLsbD i = true
  lock  : n.lock = true → m.lock = true
  ids   : m.pid = n.pid ∧ m.coreOut = n.coreOut

/-- The state `s` keeps what `z` had. -/
structure Keeps (z s : State) : Prop where
  pending : s.pending = z.pending
  mem     : z.mem.wf = true → s.mem.wf = true
  boot    : BootKeeps z.boot s.boot
  nvm     : NvmKeeps z.nvm s.nvm
  cores   : tabWf (fun _ => Core.initial) z.cores = true → tabWf (fun _ => Core.initial) s.cores = true
  check   : tabWf checkDefault z.check = true → tabWf checkDefault s.check = true
  counters: tabWf counterDefault z.sync.counters = true → tabWf counterDefault s.sync.counters = true
  dma     : tabWf (fun _ => Channel.initial) z.dma = true → tabWf (fun _ => Channel.initial) s.dma = true
  peers   : tabWf (fun _ => Peer.initial) z.peers = true → tabWf (fun _ => Peer.initial) s.peers = true

/-- The same of an operation that may have no result. -/
structure KeepsO (z : State) (o : Option State) : Prop where
  keeps : ∀ t, o = some t → Keeps z t

theorem BootKeeps.refl (b : Boot) : BootKeeps b b := ⟨id, id⟩
theorem BootKeeps.trans {a b c : Boot} (h : BootKeeps a b) (g : BootKeeps b c) : BootKeeps a c :=
  ⟨fun x => g.grave (h.grave x), fun x => g.trip (h.trip x)⟩
theorem NvmKeeps.refl (n : Nvm) : NvmKeeps n n := ⟨fun _ => id, id, rfl, rfl⟩
theorem NvmKeeps.trans {a b c : Nvm} (h : NvmKeeps a b) (g : NvmKeeps b c) : NvmKeeps a c :=
  ⟨fun i x => g.fuses i (h.fuses i x), fun x => g.lock (h.lock x), g.ids.1.trans h.ids.1, g.ids.2.trans h.ids.2⟩

theorem Keeps.refl (s : State) : Keeps s s := ⟨rfl, id, .refl _, .refl _, id, id, id, id, id⟩
theorem Keeps.trans {a b c : State} (h : Keeps a b) (g : Keeps b c) : Keeps a c :=
  ⟨g.pending.trans h.pending, fun x => g.mem (h.mem x), h.boot.trans g.boot, h.nvm.trans g.nvm, fun x => g.cores (h.cores x),
    fun x => g.check (h.check x), fun x => g.counters (h.counters x), fun x => g.dma (h.dma x), fun x => g.peers (h.peers x)⟩

/-! ## Ways to build a state -/

theorem keeps_ite {z a b : State} {c : Prop} [Decidable c] (ha : Keeps z a) (hb : Keeps z b) : Keeps z (if c then a else b) := by
  split <;> assumption

theorem keeps_ite_fst {α : Type} {z : State} {a b : State × α} {c : Prop} [Decidable c] (ha : Keeps z a.1) (hb : Keeps z b.1) :
    Keeps z (if c then a else b).1 := by
  split <;> assumption

theorem keeps_ite_snd {α : Type} {z : State} {a b : α × State} {c : Prop} [Decidable c] (ha : Keeps z a.2) (hb : Keeps z b.2) :
    Keeps z (if c then a else b).2 := by
  split <;> assumption

theorem keeps_ite_snd_snd {α β : Type} {z : State} {a b : α × β × State} {c : Prop} [Decidable c] (ha : Keeps z a.2.2)
    (hb : Keeps z b.2.2) : Keeps z (if c then a else b).2.2 := by
  split <;> assumption

theorem keepsO_ite {z : State} {a b : Option State} {c : Prop} [Decidable c] (ha : KeepsO z a) (hb : KeepsO z b) :
    KeepsO z (if c then a else b) := by
  split <;> assumption

theorem keepsO_none {z : State} : KeepsO z none := ⟨fun _ h => by cases h⟩
theorem keepsO_some {z t : State} (h : Keeps z t) : KeepsO z (some t) :=
  ⟨fun _ e => by cases e; exact h⟩
theorem keepsO_map {z : State} {o : Option State} {f : State → State} (ho : KeepsO z o) (hf : ∀ t, Keeps z t → Keeps z (f t)) :
    KeepsO z (o.map f) := by
  refine ⟨fun t ht => ?_⟩
  cases o with
  | none => cases ht
  | some u => cases ht; exact hf u (ho.keeps u rfl)

theorem keepsO_mapOf {α : Type} {z : State} {o : Option α} {f : α → State} (hf : ∀ a, Keeps z (f a)) : KeepsO z (o.map f) := by
  refine ⟨fun t ht => ?_⟩
  cases o with
  | none => cases ht
  | some u => cases ht; exact hf u

theorem keeps_getD {z d : State} {o : Option State} (ho : KeepsO z o) (hd : Keeps z d) : Keeps z (o.getD d) := by
  cases o with
  | none => exact hd
  | some u => exact ho.keeps u rfl

/-- A loop keeps what each of its turns keeps. -/
theorem State.each_keeps {α : Type} {z : State} (l : List α) (f : α → State → State) (s : State) (h : Keeps z s)
    (hf : ∀ a t, Keeps z t → Keeps z (f a t)) : Keeps z (State.each l f s) := by
  unfold State.each
  induction l generalizing s with
  | nil => exact h
  | cons a l ih => exact ih (f a s) (hf a s h)

theorem foldl_keeps {α : Type} {z : State} (l : List α) (f : State → α → State) (s : State) (h : Keeps z s)
    (hf : ∀ t a, Keeps z t → Keeps z (f t a)) : Keeps z (l.foldl f s) := by
  induction l generalizing s with
  | nil => exact h
  | cons a l ih => exact ih (f s a) (hf s a h)

theorem foldl_keeps_fst {α β : Type} {z : State} (l : List α) (f : State × β → α → State × β) (s : State × β) (h : Keeps z s.1)
    (hf : ∀ t a, Keeps z t.1 → Keeps z (f t a).1) : Keeps z (l.foldl f s).1 := by
  induction l generalizing s with
  | nil => exact h
  | cons a l ih => exact ih (f s a) (hf s a h)

theorem foldl_keeps_snd {α β : Type} {z : State} (l : List α) (f : β × State → α → β × State) (s : β × State) (h : Keeps z s.2)
    (hf : ∀ t a, Keeps z t.2 → Keeps z (f t a).2) : Keeps z (l.foldl f s).2 := by
  induction l generalizing s with
  | nil => exact h
  | cons a l ih => exact ih (f s a) (hf s a h)

theorem foldl_keeps_snd_snd {α β γ : Type} {z : State} (l : List α) (f : β × γ × State → α → β × γ × State) (s : β × γ × State)
    (h : Keeps z s.2.2) (hf : ∀ t a, Keeps z t.2.2 → Keeps z (f t a).2.2) : Keeps z (l.foldl f s).2.2 := by
  induction l generalizing s with
  | nil => exact h
  | cons a l ih => exact ih (f s a) (hf s a h)

theorem foldl_keeps_fst_fst {α β γ : Type} {z : State} (l : List α) (f : (State × β) × γ → α → (State × β) × γ) (s : (State × β) × γ)
    (h : Keeps z s.1.1) (hf : ∀ t a, Keeps z t.1.1 → Keeps z (f t a).1.1) : Keeps z (l.foldl f s).1.1 := by
  induction l generalizing s with
  | nil => exact h
  | cons a l ih => exact ih (f s a) (hf s a h)

/-- The checks of the words that a write of memory touches keep their canonical form. -/
theorem genChecks_wf (m : Memory) (n w : Nat) (ch : Tab (BitVec 8)) (h : tabWf checkDefault ch = true) :
    tabWf checkDefault (genChecks m n w ch) = true := by
  induction n generalizing w ch with
  | zero => exact h
  | succ n ih =>
    unfold genChecks
    exact ih _ _ (tabWf_tabSet checkDefault _ _ _ h)

/-- A loop over a table keeps its canonical form where each turn does. -/
theorem foldl_tabWf {α β : Type} [DecidableEq β] {d : Nat → β} (l : List α) (f : Tab β → α → Tab β) (m : Tab β)
    (h : tabWf d m = true) (hf : ∀ t a, tabWf d t = true → tabWf d (f t a) = true) : tabWf d (l.foldl f m) = true := by
  induction l generalizing m with
  | nil => exact h
  | cons a l ih => exact ih (f m a) (hf m a h)

theorem tabWf_nil {α : Type} [DecidableEq α] {d : Nat → α} : tabWf d [] = true := rfl

/-! ## The writers of the fields -/

section
variable {z : State} (s : State)

theorem State.setBeat_keeps (v : BitVec 64) (h : Keeps z s) : Keeps z (s.setBeat v) := ⟨h.1, h.2, h.3, h.4, h.5, h.6, h.7, h.8, h.9⟩
theorem State.setDraws_keeps (v : Nat) (h : Keeps z s) : Keeps z (s.setDraws v) := ⟨h.1, h.2, h.3, h.4, h.5, h.6, h.7, h.8, h.9⟩
theorem State.setRegs_keeps (v : Tab (BitVec 32)) (h : Keeps z s) : Keeps z (s.setRegs v) := ⟨h.1, h.2, h.3, h.4, h.5, h.6, h.7, h.8, h.9⟩
theorem State.setShadows_keeps (v : Tab (BitVec 32)) (h : Keeps z s) : Keeps z (s.setShadows v) := ⟨h.1, h.2, h.3, h.4, h.5, h.6, h.7, h.8, h.9⟩
theorem State.setMem_keeps (v : Memory) (h : Keeps z s) (hv : s.mem.wf = true → v.wf = true) : Keeps z (s.setMem v) :=
  ⟨h.1, fun x => hv (h.2 x), h.3, h.4, h.5, h.6, h.7, h.8, h.9⟩
theorem State.setCheck_keeps (v : Tab (BitVec 8)) (h : Keeps z s)
    (hv : tabWf checkDefault s.check = true → tabWf checkDefault v = true) : Keeps z (s.setCheck v) :=
  ⟨h.1, h.2, h.3, h.4, h.5, fun x => hv (h.6 x), h.7, h.8, h.9⟩
theorem State.setCores_keeps (v : Tab Core) (h : Keeps z s)
    (hv : tabWf (fun _ => Core.initial) s.cores = true → tabWf (fun _ => Core.initial) v = true) : Keeps z (s.setCores v) :=
  ⟨h.1, h.2, h.3, h.4, fun x => hv (h.5 x), h.6, h.7, h.8, h.9⟩
theorem State.setPins_keeps (v : Pins) (h : Keeps z s) : Keeps z (s.setPins v) := ⟨h.1, h.2, h.3, h.4, h.5, h.6, h.7, h.8, h.9⟩
theorem State.setBoot_keeps (v : Boot) (h : Keeps z s) (hv : BootKeeps s.boot v) : Keeps z (s.setBoot v) :=
  ⟨h.1, h.2, h.3.trans hv, h.4, h.5, h.6, h.7, h.8, h.9⟩
theorem State.setNvm_keeps (v : Nvm) (h : Keeps z s) (hv : NvmKeeps s.nvm v) : Keeps z (s.setNvm v) :=
  ⟨h.1, h.2, h.3, h.4.trans hv, h.5, h.6, h.7, h.8, h.9⟩
theorem State.setFaults_keeps (v : Faults) (h : Keeps z s) : Keeps z (s.setFaults v) := ⟨h.1, h.2, h.3, h.4, h.5, h.6, h.7, h.8, h.9⟩
theorem State.setEvents_keeps (v : Tab EventPart) (h : Keeps z s) : Keeps z (s.setEvents v) := ⟨h.1, h.2, h.3, h.4, h.5, h.6, h.7, h.8, h.9⟩
theorem State.setSync_keeps (v : Sync) (h : Keeps z s)
    (hv : tabWf counterDefault s.sync.counters = true → tabWf counterDefault v.counters = true) : Keeps z (s.setSync v) :=
  ⟨h.1, h.2, h.3, h.4, h.5, h.6, fun x => hv (h.7 x), h.8, h.9⟩
theorem State.setDma_keeps (v : Tab Channel) (h : Keeps z s)
    (hv : tabWf (fun _ => Channel.initial) s.dma = true → tabWf (fun _ => Channel.initial) v = true) : Keeps z (s.setDma v) :=
  ⟨h.1, h.2, h.3, h.4, h.5, h.6, h.7, fun x => hv (h.8 x), h.9⟩
theorem State.setColumns_keeps (v : Tab Column) (h : Keeps z s) : Keeps z (s.setColumns v) := ⟨h.1, h.2, h.3, h.4, h.5, h.6, h.7, h.8, h.9⟩
theorem State.setPgk_keeps (v : Pgk) (h : Keeps z s) : Keeps z (s.setPgk v) := ⟨h.1, h.2, h.3, h.4, h.5, h.6, h.7, h.8, h.9⟩
theorem State.setScouts_keeps (v : Tab Scout) (h : Keeps z s) : Keeps z (s.setScouts v) := ⟨h.1, h.2, h.3, h.4, h.5, h.6, h.7, h.8, h.9⟩
theorem State.setHost_keeps (v : HostPort) (h : Keeps z s) : Keeps z (s.setHost v) := ⟨h.1, h.2, h.3, h.4, h.5, h.6, h.7, h.8, h.9⟩
theorem State.setPeers_keeps (v : Tab Peer) (h : Keeps z s)
    (hv : tabWf (fun _ => Peer.initial) s.peers = true → tabWf (fun _ => Peer.initial) v = true) : Keeps z (s.setPeers v) :=
  ⟨h.1, h.2, h.3, h.4, h.5, h.6, h.7, h.8, fun x => hv (h.9 x)⟩
theorem State.setVrs_keeps (v : Tab Vr) (h : Keeps z s) : Keeps z (s.setVrs v) := ⟨h.1, h.2, h.3, h.4, h.5, h.6, h.7, h.8, h.9⟩
theorem State.setLoops_keeps (v : Tab RegionLoop) (h : Keeps z s) : Keeps z (s.setLoops v) := ⟨h.1, h.2, h.3, h.4, h.5, h.6, h.7, h.8, h.9⟩
theorem State.setTlm_keeps (v : Tab TlmRegion) (h : Keeps z s) : Keeps z (s.setTlm v) := ⟨h.1, h.2, h.3, h.4, h.5, h.6, h.7, h.8, h.9⟩
theorem State.setPower_keeps (v : PowerManager) (h : Keeps z s) : Keeps z (s.setPower v) := ⟨h.1, h.2, h.3, h.4, h.5, h.6, h.7, h.8, h.9⟩
theorem State.setThermal_keeps (v : Thermal) (h : Keeps z s) : Keeps z (s.setThermal v) := ⟨h.1, h.2, h.3, h.4, h.5, h.6, h.7, h.8, h.9⟩
theorem State.setJobs_keeps (v : Tab Job) (h : Keeps z s) : Keeps z (s.setJobs v) := ⟨h.1, h.2, h.3, h.4, h.5, h.6, h.7, h.8, h.9⟩
theorem State.setCommit_keeps (v : Commit) (h : Keeps z s) : Keeps z (s.setCommit v) := ⟨h.1, h.2, h.3, h.4, h.5, h.6, h.7, h.8, h.9⟩
theorem State.setSide_keeps (v : Sideband) (h : Keeps z s) : Keeps z (s.setSide v) := ⟨h.1, h.2, h.3, h.4, h.5, h.6, h.7, h.8, h.9⟩
theorem State.setPerturb_keeps (v : Perturb) (h : Keeps z s) : Keeps z (s.setPerturb v) := ⟨h.1, h.2, h.3, h.4, h.5, h.6, h.7, h.8, h.9⟩
theorem State.setMarks_keeps (v : Tab (BitVec 32)) (h : Keeps z s) : Keeps z (s.setMarks v) := ⟨h.1, h.2, h.3, h.4, h.5, h.6, h.7, h.8, h.9⟩

theorem State.modBoot_keeps (f : Boot → Boot) (h : Keeps z s) (hf : ∀ b, BootKeeps b (f b)) : Keeps z (s.modBoot f) :=
  State.setBoot_keeps s _ h (hf _)

theorem State.modNvm_keeps (f : Nvm → Nvm) (h : Keeps z s) (hf : ∀ n, NvmKeeps n (f n)) : Keeps z (s.modNvm f) :=
  State.setNvm_keeps s _ h (hf _)

end

end Sys2Proof.Machine
end

