-- ==== Sys2Proof/Laws/KeepsCore.lean ====
section
/-! SUPPORT. What the operations of the named operations, storage, power states, the fault collector, the address map and the outbound tags keep (`Keeps`, Laws/Keeps.lean): one lemma each, built from
the lemmas of the operations it calls. -/

namespace Sys2Proof.Machine

/-! ## Ops -/

theorem State.drawn_keeps {z : State} (s : State) (hK : Keeps z s) : Keeps z (State.drawn s) := by
  unfold State.drawn
  try dsimp only
  repeat' (first | with_reducible assumption | intro _ | with_reducible apply State.setDraws_keeps
                 | with_reducible apply keeps_ite | with_reducible apply keeps_ite_fst | with_reducible apply keeps_ite_snd
                 | with_reducible apply keeps_ite_snd_snd | split)

theorem State.putReg_keeps {z : State} (s : State) (o : Nat) (v : Nat) (hK : Keeps z s) : Keeps z (State.putReg s o v) := by
  unfold State.putReg
  try dsimp only
  repeat' (first | with_reducible assumption | intro _ | with_reducible apply State.setRegs_keeps
                 | with_reducible apply keeps_ite | with_reducible apply keeps_ite_fst | with_reducible apply keeps_ite_snd
                 | with_reducible apply keeps_ite_snd_snd | split)

theorem State.mark_keeps {z : State} (s : State) (o bits : Nat) (hK : Keeps z s) : Keeps z (State.mark s o bits) := by
  unfold State.mark
  try dsimp only
  repeat' (first | with_reducible assumption | intro _ | with_reducible apply State.setMarks_keeps
                 | with_reducible apply keeps_ite | with_reducible apply keeps_ite_fst | with_reducible apply keeps_ite_snd
                 | with_reducible apply keeps_ite_snd_snd | split)

theorem State.putCore_keeps {z : State} (s : State) (c : Nat) (x : Core) (hK : Keeps z s) : Keeps z (State.putCore s c x) := by
  unfold State.putCore
  try dsimp only
  repeat' (first | with_reducible assumption | intro _ | with_reducible apply tabWf_tabSet | with_reducible apply tabWf_tabMap
                 | with_reducible apply State.setCores_keeps | with_reducible apply keeps_ite
                 | with_reducible apply keeps_ite_fst | with_reducible apply keeps_ite_snd
                 | with_reducible apply keeps_ite_snd_snd | split)

theorem State.modCore_keeps {z : State} (s : State) (c : Nat) (f : Core → Core) (hK :
    Keeps z s) : Keeps z (State.modCore s c f) := by
  unfold State.modCore
  try dsimp only
  repeat' (first | with_reducible assumption | intro _ | with_reducible apply State.putCore_keeps
                 | with_reducible apply keeps_ite | with_reducible apply keeps_ite_fst | with_reducible apply keeps_ite_snd
                 | with_reducible apply keeps_ite_snd_snd | split)

theorem State.modSeq_keeps {z : State} (s : State) (c : Nat) (f : Sequencer → Sequencer) (hK :
    Keeps z s) : Keeps z (State.modSeq s c f) := by
  unfold State.modSeq
  try dsimp only
  repeat' (first | with_reducible assumption | intro _ | with_reducible apply State.modCore_keeps
                 | with_reducible apply keeps_ite | with_reducible apply keeps_ite_fst | with_reducible apply keeps_ite_snd
                 | with_reducible apply keeps_ite_snd_snd | split)

theorem State.modPower_keeps {z : State} (s : State) (c : Nat) (f : CorePower → CorePower) (hK :
    Keeps z s) : Keeps z (State.modPower s c f) := by
  unfold State.modPower
  try dsimp only
  repeat' (first | with_reducible assumption | intro _ | with_reducible apply State.modCore_keeps
                 | with_reducible apply keeps_ite | with_reducible apply keeps_ite_fst | with_reducible apply keeps_ite_snd
                 | with_reducible apply keeps_ite_snd_snd | split)

theorem State.mapCores_keeps {z : State} (s : State) (f : Core → Core) (hK : Keeps z s) : Keeps z (State.mapCores s f) := by
  unfold State.mapCores
  try dsimp only
  repeat' (first | with_reducible assumption | intro _ | with_reducible apply tabWf_tabSet | with_reducible apply tabWf_tabMap
                 | with_reducible apply State.setCores_keeps | with_reducible apply keeps_ite
                 | with_reducible apply keeps_ite_fst | with_reducible apply keeps_ite_snd
                 | with_reducible apply keeps_ite_snd_snd | split)

theorem State.clearAvail_keeps {z : State} (s : State) (hK : Keeps z s) : Keeps z (State.clearAvail s) := by
  unfold State.clearAvail
  try dsimp only
  repeat' (first | with_reducible assumption | intro _ | with_reducible apply State.mapCores_keeps
                 | with_reducible apply keeps_ite | with_reducible apply keeps_ite_fst | with_reducible apply keeps_ite_snd
                 | with_reducible apply keeps_ite_snd_snd | with_reducible apply keepsO_map | with_reducible apply keepsO_mapOf
                 | split)

theorem State.modEvq_keeps {z : State} (s : State) (p : Nat) (f : EventPart → EventPart) (hK :
    Keeps z s) : Keeps z (State.modEvq s p f) := by
  unfold State.modEvq
  try dsimp only
  repeat' (first | with_reducible assumption | intro _ | with_reducible apply State.setEvents_keeps
                 | with_reducible apply keeps_ite | with_reducible apply keeps_ite_fst | with_reducible apply keeps_ite_snd
                 | with_reducible apply keeps_ite_snd_snd | split)

theorem State.modChan_keeps {z : State} (s : State) (r k : Nat) (f : Channel → Channel) (hK :
    Keeps z s) : Keeps z (State.modChan s r k f) := by
  unfold State.modChan
  try dsimp only
  repeat' (first | with_reducible assumption | intro _ | with_reducible apply tabWf_tabSet | with_reducible apply tabWf_filter
                 | exact tabWf_nil | with_reducible apply State.setDma_keeps | with_reducible apply keeps_ite
                 | with_reducible apply keeps_ite_fst | with_reducible apply keeps_ite_snd
                 | with_reducible apply keeps_ite_snd_snd | split)

theorem State.modColumn_keeps {z : State} (s : State) (c : Nat) (f : Column → Column) (hK :
    Keeps z s) : Keeps z (State.modColumn s c f) := by
  unfold State.modColumn
  try dsimp only
  repeat' (first | with_reducible assumption | intro _ | with_reducible apply State.setColumns_keeps
                 | with_reducible apply keeps_ite | with_reducible apply keeps_ite_fst | with_reducible apply keeps_ite_snd
                 | with_reducible apply keeps_ite_snd_snd | split)

theorem State.modPeer_keeps {z : State} (s : State) (n : Nat) (f : Peer → Peer) (hK :
    Keeps z s) : Keeps z (State.modPeer s n f) := by
  unfold State.modPeer
  try dsimp only
  repeat' (first | with_reducible assumption | intro _ | with_reducible apply tabWf_tabSet | with_reducible apply tabWf_filter
                 | exact tabWf_nil | with_reducible apply State.setPeers_keeps | with_reducible apply keeps_ite
                 | with_reducible apply keeps_ite_fst | with_reducible apply keeps_ite_snd
                 | with_reducible apply keeps_ite_snd_snd | split)

theorem State.modVr_keeps {z : State} (s : State) (v : Nat) (f : Vr → Vr) (hK : Keeps z s) : Keeps z (State.modVr s v f) := by
  unfold State.modVr
  try dsimp only
  repeat' (first | with_reducible assumption | intro _ | with_reducible apply State.setVrs_keeps
                 | with_reducible apply keeps_ite | with_reducible apply keeps_ite_fst | with_reducible apply keeps_ite_snd
                 | with_reducible apply keeps_ite_snd_snd | split)

theorem State.modLoop_keeps {z : State} (s : State) (r : Nat) (f : RegionLoop → RegionLoop) (hK :
    Keeps z s) : Keeps z (State.modLoop s r f) := by
  unfold State.modLoop
  try dsimp only
  repeat' (first | with_reducible assumption | intro _ | with_reducible apply State.setLoops_keeps
                 | with_reducible apply keeps_ite | with_reducible apply keeps_ite_fst | with_reducible apply keeps_ite_snd
                 | with_reducible apply keeps_ite_snd_snd | split)

theorem State.modTlm_keeps {z : State} (s : State) (r : Nat) (f : TlmRegion → TlmRegion) (hK :
    Keeps z s) : Keeps z (State.modTlm s r f) := by
  unfold State.modTlm
  try dsimp only
  repeat' (first | with_reducible assumption | intro _ | with_reducible apply State.setTlm_keeps
                 | with_reducible apply keeps_ite | with_reducible apply keeps_ite_fst | with_reducible apply keeps_ite_snd
                 | with_reducible apply keeps_ite_snd_snd | split)

theorem State.modJob_keeps {z : State} (s : State) (p j : Nat) (f : Job → Job) (hK :
    Keeps z s) : Keeps z (State.modJob s p j f) := by
  unfold State.modJob
  try dsimp only
  repeat' (first | with_reducible assumption | intro _ | with_reducible apply State.setJobs_keeps
                 | with_reducible apply keeps_ite | with_reducible apply keeps_ite_fst | with_reducible apply keeps_ite_snd
                 | with_reducible apply keeps_ite_snd_snd | split)

theorem State.modKeeper_keeps {z : State} (s : State) (p : Nat) (f : PgkPart → PgkPart) (hK :
    Keeps z s) : Keeps z (State.modKeeper s p f) := by
  unfold State.modKeeper
  try dsimp only
  repeat' (first | with_reducible assumption | intro _ | with_reducible apply State.setPgk_keeps
                 | with_reducible apply keeps_ite | with_reducible apply keeps_ite_fst | with_reducible apply keeps_ite_snd
                 | with_reducible apply keeps_ite_snd_snd | split)

theorem State.modScout_keeps {z : State} (s : State) (r : Nat) (f : Scout → Scout) (hK :
    Keeps z s) : Keeps z (State.modScout s r f) := by
  unfold State.modScout
  try dsimp only
  repeat' (first | with_reducible assumption | intro _ | with_reducible apply State.setScouts_keeps
                 | with_reducible apply keeps_ite | with_reducible apply keeps_ite_fst | with_reducible apply keeps_ite_snd
                 | with_reducible apply keeps_ite_snd_snd | split)

theorem State.modPins_keeps {z : State} (s : State) (f : Pins → Pins) (hK : Keeps z s) : Keeps z (State.modPins s f) := by
  unfold State.modPins
  try dsimp only
  repeat' (first | with_reducible assumption | intro _ | with_reducible apply State.setPins_keeps
                 | with_reducible apply keeps_ite | with_reducible apply keeps_ite_fst | with_reducible apply keeps_ite_snd
                 | with_reducible apply keeps_ite_snd_snd | split)

theorem State.send_keeps {z : State} (s : State) (m : OutMsg) (hK : Keeps z s) : Keeps z (State.send s m) := by
  unfold State.send
  try dsimp only
  repeat' (first | with_reducible assumption | intro _ | with_reducible apply State.setHost_keeps
                 | with_reducible apply keeps_ite | with_reducible apply keeps_ite_fst | with_reducible apply keeps_ite_snd
                 | with_reducible apply keeps_ite_snd_snd | split)

/-! ## Store -/

theorem State.markRows_keeps {z : State} (s : State) (a n : Nat) (v : Bool) (hK :
    Keeps z s) : Keeps z (State.markRows s a n v) := by
  unfold State.markRows
  try dsimp only
  repeat' (first | with_reducible assumption | intro _ | with_reducible apply State.each_keeps
                 | with_reducible apply State.modColumn_keeps | with_reducible apply keeps_ite
                 | with_reducible apply keeps_ite_fst | with_reducible apply keeps_ite_snd
                 | with_reducible apply keeps_ite_snd_snd | with_reducible apply keepsO_ite | with_reducible exact keepsO_none
                 | with_reducible apply keepsO_some | split)

theorem State.writeMem_keeps {z : State} (s : State) (a : Nat) (bs : List Byte) (hK :
    Keeps z s) : Keeps z (State.writeMem s a bs) := by
  unfold State.writeMem
  try dsimp only
  repeat' (first | with_reducible assumption | intro _ | with_reducible apply Memory.wf_write
                 | with_reducible apply Memory.wf_erase | with_reducible apply foldl_tabWf | with_reducible apply tabWf_tabSet
                 | with_reducible apply genChecks_wf | with_reducible apply tabWf_filter | assumption
                 | with_reducible apply State.setMem_keeps | with_reducible apply State.setCheck_keeps
                 | with_reducible apply State.markRows_keeps | with_reducible apply keeps_ite
                 | with_reducible apply keeps_ite_fst | with_reducible apply keeps_ite_snd
                 | with_reducible apply keeps_ite_snd_snd | split)

theorem State.writeStore_keeps {z : State} (s : State) (c off : Nat) (bs : List Byte) (hK :
    Keeps z s) : Keeps z (State.writeStore s c off bs) := by
  unfold State.writeStore
  try dsimp only
  repeat' (first | with_reducible assumption | intro _ | with_reducible apply State.writeMem_keeps
                 | with_reducible apply keeps_ite | with_reducible apply keeps_ite_fst | with_reducible apply keeps_ite_snd
                 | with_reducible apply keeps_ite_snd_snd | split)

theorem State.zeroMem_keeps {z : State} (s : State) (lo hi : Nat) (hK : Keeps z s) : Keeps z (State.zeroMem s lo hi) := by
  unfold State.zeroMem
  try dsimp only
  repeat' (first | with_reducible assumption | intro _ | with_reducible apply Memory.wf_write
                 | with_reducible apply Memory.wf_erase | with_reducible apply foldl_tabWf | with_reducible apply tabWf_tabSet
                 | with_reducible apply genChecks_wf | with_reducible apply tabWf_filter | assumption
                 | with_reducible apply State.setMem_keeps | with_reducible apply State.setCheck_keeps
                 | with_reducible apply keeps_ite | with_reducible apply keeps_ite_fst | with_reducible apply keeps_ite_snd
                 | with_reducible apply keeps_ite_snd_snd | split)

theorem State.zeroStore_keeps {z : State} (s : State) (c : Nat) (hK : Keeps z s) : Keeps z (State.zeroStore s c) := by
  unfold State.zeroStore
  try dsimp only
  repeat' (first | with_reducible assumption | intro _ | with_reducible apply State.zeroMem_keeps
                 | with_reducible apply keeps_ite | with_reducible apply keeps_ite_fst | with_reducible apply keeps_ite_snd
                 | with_reducible apply keeps_ite_snd_snd | split)

theorem State.addField_keeps {z : State} (s : State) (o lo len n : Nat) (hK :
    Keeps z s) : Keeps z (State.addField s o lo len n) := by
  unfold State.addField
  try dsimp only
  repeat' (first | with_reducible assumption | intro _ | with_reducible apply State.putReg_keeps
                 | with_reducible apply keeps_ite | with_reducible apply keeps_ite_fst | with_reducible apply keeps_ite_snd
                 | with_reducible apply keeps_ite_snd_snd | split)

theorem State.countEcc_keeps {z : State} (s : State) (a : Nat) (f : Fetched) (hK :
    Keeps z s) : Keeps z (State.countEcc s a f) := by
  unfold State.countEcc
  try dsimp only
  repeat' (first | with_reducible assumption | intro _ | with_reducible apply State.addField_keeps
                 | with_reducible apply keeps_ite | with_reducible apply keeps_ite_fst | with_reducible apply keeps_ite_snd
                 | with_reducible apply keeps_ite_snd_snd | with_reducible apply keepsO_ite | with_reducible exact keepsO_none
                 | with_reducible apply keepsO_some | split)

theorem State.readMem_keeps {z : State} (s : State) (a n : Nat) (hK : Keeps z s) : Keeps z (State.readMem s a n).2 := by
  unfold State.readMem
  try dsimp only
  repeat' (first | with_reducible assumption | intro _ | with_reducible apply State.setFaults_keeps
                 | with_reducible apply State.drawn_keeps | with_reducible apply State.countEcc_keeps
                 | with_reducible apply keeps_ite | with_reducible apply keeps_ite_fst | with_reducible apply keeps_ite_snd
                 | with_reducible apply keeps_ite_snd_snd | with_reducible apply keepsO_ite | with_reducible exact keepsO_none
                 | with_reducible apply keepsO_some | split)

theorem State.commitOne_keeps {z : State} (s : State) (c : Nat) (g : Staged) (hK :
    Keeps z s) : Keeps z (State.commitOne s c g).1 := by
  unfold State.commitOne
  try dsimp only
  repeat' (first | with_reducible assumption | intro _ | with_reducible apply State.mark_keeps
                 | with_reducible apply State.putCore_keeps | with_reducible apply State.writeStore_keeps
                 | with_reducible apply keeps_ite | with_reducible apply keeps_ite_fst | with_reducible apply keeps_ite_snd
                 | with_reducible apply keeps_ite_snd_snd | split)

theorem State.commitList_keeps {z : State} (s : State) (c : Nat) (l : List Staged) (hK :
    Keeps z s) : Keeps z (State.commitList s c l).1 := by
  unfold State.commitList
  try dsimp only
  repeat' (first | with_reducible assumption | intro _ | with_reducible apply State.commitOne_keeps
                 | with_reducible apply keeps_ite | with_reducible apply keeps_ite_fst | with_reducible apply keeps_ite_snd
                 | with_reducible apply keeps_ite_snd_snd | with_reducible apply foldl_keeps
                 | with_reducible apply foldl_keeps_fst | with_reducible apply foldl_keeps_snd
                 | with_reducible apply foldl_keeps_snd_snd | with_reducible apply foldl_keeps_fst_fst | split)

theorem State.commitWhere_keeps {z : State} (s : State) (c : Nat) (due : Staged → Bool) (hK :
    Keeps z s) : Keeps z (State.commitWhere s c due).1 := by
  unfold State.commitWhere
  try dsimp only
  repeat' (first | with_reducible assumption | intro _ | with_reducible apply State.modCore_keeps
                 | with_reducible apply State.commitList_keeps | with_reducible apply keeps_ite
                 | with_reducible apply keeps_ite_fst | with_reducible apply keeps_ite_snd
                 | with_reducible apply keeps_ite_snd_snd | split)

/-! ## Power -/

theorem State.vrOff_keeps {z : State} (s : State) (v : Nat) (hK : Keeps z s) : Keeps z (State.vrOff s v) := by
  unfold State.vrOff
  try dsimp only
  repeat' (first | with_reducible assumption | intro _ | with_reducible apply State.modVr_keeps | with_reducible apply keeps_ite
                 | with_reducible apply keeps_ite_fst | with_reducible apply keeps_ite_snd
                 | with_reducible apply keeps_ite_snd_snd | with_reducible apply keepsO_ite | with_reducible exact keepsO_none
                 | with_reducible apply keepsO_some | split)

theorem State.loseRegs_keeps {z : State} (s : State) (c : Nat) (hK : Keeps z s) : Keeps z (State.loseRegs s c) := by
  unfold State.loseRegs
  try dsimp only
  repeat' (first | with_reducible assumption | intro _ | with_reducible apply State.modCore_keeps
                 | with_reducible apply keeps_ite | with_reducible apply keeps_ite_fst | with_reducible apply keeps_ite_snd
                 | with_reducible apply keeps_ite_snd_snd | split)

theorem State.loseStore_keeps {z : State} (s : State) (c : Nat) (hK : Keeps z s) : Keeps z (State.loseStore s c) := by
  unfold State.loseStore
  try dsimp only
  repeat' (first | with_reducible assumption | intro _ | with_reducible apply State.modPower_keeps
                 | with_reducible apply keeps_ite | with_reducible apply keeps_ite_fst | with_reducible apply keeps_ite_snd
                 | with_reducible apply keeps_ite_snd_snd | split)

theorem State.setPstate_keeps {z : State} (s : State) (c : Nat) (v : PowerState) (hK :
    Keeps z s) : Keeps z (State.setPstate s c v) := by
  unfold State.setPstate
  try dsimp only
  repeat' (first | with_reducible assumption | intro _ | with_reducible apply State.modPower_keeps
                 | with_reducible apply keeps_ite | with_reducible apply keeps_ite_fst | with_reducible apply keeps_ite_snd
                 | with_reducible apply keeps_ite_snd_snd | split)

theorem State.toTransit_keeps {z : State} (s : State) (c : Nat) (goal : PowerState) (hK :
    Keeps z s) : Keeps z (State.toTransit s c goal) := by
  unfold State.toTransit
  try dsimp only
  repeat' (first | with_reducible assumption | intro _ | with_reducible apply State.modPower_keeps
                 | with_reducible apply State.loseRegs_keeps | with_reducible apply keeps_ite
                 | with_reducible apply keeps_ite_fst | with_reducible apply keeps_ite_snd
                 | with_reducible apply keeps_ite_snd_snd | with_reducible apply keepsO_ite | with_reducible exact keepsO_none
                 | with_reducible apply keepsO_some | split)

theorem State.coreOff_keeps {z : State} (s : State) (c : Nat) (v : PowerState) (hK :
    Keeps z s) : Keeps z (State.coreOff s c v) := by
  unfold State.coreOff
  try dsimp only
  repeat' (first | with_reducible assumption | intro _ | with_reducible apply State.modPower_keeps
                 | with_reducible apply State.vrOff_keeps | with_reducible apply State.loseRegs_keeps
                 | with_reducible apply State.loseStore_keeps | with_reducible apply keeps_ite
                 | with_reducible apply keeps_ite_fst | with_reducible apply keeps_ite_snd
                 | with_reducible apply keeps_ite_snd_snd | with_reducible apply keepsO_ite | with_reducible exact keepsO_none
                 | with_reducible apply keepsO_some | split)

theorem State.applyRequest_keeps {z : State} (s : State) (c : Nat) (allowUp : Bool) (hK :
    Keeps z s) : Keeps z (State.applyRequest s c allowUp).1 := by
  unfold State.applyRequest
  try dsimp only
  repeat' (first | with_reducible assumption | intro _ | with_reducible apply State.modPower_keeps
                 | with_reducible apply State.loseStore_keeps | with_reducible apply State.setPstate_keeps
                 | with_reducible apply State.toTransit_keeps | with_reducible apply keeps_ite
                 | with_reducible apply keeps_ite_fst | with_reducible apply keeps_ite_snd
                 | with_reducible apply keeps_ite_snd_snd | with_reducible apply keepsO_ite | with_reducible exact keepsO_none
                 | with_reducible apply keepsO_some | split)

theorem State.dropRequests_keeps {z : State} (s : State) (r : Nat) (hK : Keeps z s) : Keeps z (State.dropRequests s r) := by
  unfold State.dropRequests
  try dsimp only
  repeat' (first | with_reducible assumption | intro _ | with_reducible apply State.modLoop_keeps
                 | with_reducible apply keeps_ite | with_reducible apply keeps_ite_fst | with_reducible apply keeps_ite_snd
                 | with_reducible apply keeps_ite_snd_snd | with_reducible apply keepsO_ite | with_reducible exact keepsO_none
                 | with_reducible apply keepsO_some | split)

theorem State.pendUp_keeps {z : State} (s : State) (r : Nat) (mask : List Nat) (hK :
    Keeps z s) : Keeps z (State.pendUp s r mask) := by
  unfold State.pendUp
  try dsimp only
  repeat' (first | with_reducible assumption | intro _ | with_reducible apply State.modLoop_keeps
                 | with_reducible apply keeps_ite | with_reducible apply keeps_ite_fst | with_reducible apply keeps_ite_snd
                 | with_reducible apply keeps_ite_snd_snd | with_reducible apply keepsO_ite | with_reducible exact keepsO_none
                 | with_reducible apply keepsO_some | split)

theorem State.actOnRequest_keeps {z : State} (s : State) (r : Nat) (allowUp : Bool) (hK :
    Keeps z s) : Keeps z (State.actOnRequest s r allowUp) := by
  unfold State.actOnRequest
  try dsimp only
  repeat' (first | with_reducible assumption | intro _ | with_reducible apply State.applyRequest_keeps
                 | with_reducible apply State.dropRequests_keeps | with_reducible apply State.pendUp_keeps
                 | with_reducible apply keeps_ite | with_reducible apply keeps_ite_fst | with_reducible apply keeps_ite_snd
                 | with_reducible apply keeps_ite_snd_snd | with_reducible apply foldl_keeps
                 | with_reducible apply foldl_keeps_fst | with_reducible apply foldl_keeps_snd
                 | with_reducible apply foldl_keeps_snd_snd | with_reducible apply foldl_keeps_fst_fst | split)

theorem State.actOnRequests_keeps {z : State} (s : State) (hK : Keeps z s) : Keeps z (State.actOnRequests s) := by
  unfold State.actOnRequests
  try dsimp only
  repeat' (first | with_reducible assumption | intro _ | with_reducible apply State.each_keeps
                 | with_reducible apply State.actOnRequest_keeps | with_reducible apply keeps_ite
                 | with_reducible apply keeps_ite_fst | with_reducible apply keeps_ite_snd
                 | with_reducible apply keeps_ite_snd_snd | split)

theorem State.allToRetain_keeps {z : State} (s : State) (hK : Keeps z s) : Keeps z (State.allToRetain s) := by
  unfold State.allToRetain
  try dsimp only
  repeat' (first | with_reducible assumption | intro _ | with_reducible apply State.each_keeps
                 | with_reducible apply State.modLoop_keeps | with_reducible apply State.toTransit_keeps
                 | with_reducible apply keeps_ite | with_reducible apply keeps_ite_fst | with_reducible apply keeps_ite_snd
                 | with_reducible apply keeps_ite_snd_snd | with_reducible apply keepsO_ite | with_reducible exact keepsO_none
                 | with_reducible apply keepsO_some | split)

theorem State.railsOff_keeps {z : State} (s : State) (service : Bool) (hK : Keeps z s) : Keeps z (State.railsOff s service) := by
  unfold State.railsOff
  try dsimp only
  repeat' (first | with_reducible assumption
                 | (intro _; first | exact ⟨id, id⟩ | exact ⟨fun _ => rfl, id⟩ | exact ⟨id, fun _ => rfl⟩ | exact ⟨fun _ => id, id, rfl, rfl⟩)
                 | intro _ | with_reducible apply State.each_keeps | with_reducible apply State.modBoot_keeps
                 | with_reducible apply State.modPower_keeps | with_reducible apply State.modLoop_keeps
                 | with_reducible apply State.vrOff_keeps | with_reducible apply State.coreOff_keeps | exact BootKeeps.mk id id
                 | with_reducible apply keeps_ite | with_reducible apply keeps_ite_fst | with_reducible apply keeps_ite_snd
                 | with_reducible apply keeps_ite_snd_snd | with_reducible apply keepsO_ite | with_reducible exact keepsO_none
                 | with_reducible apply keepsO_some | split)

theorem State.selfRefreshAll_keeps {z : State} (s : State) (hK : Keeps z s) : Keeps z (State.selfRefreshAll s) := by
  unfold State.selfRefreshAll
  try dsimp only
  repeat' (first | with_reducible assumption | intro _ | with_reducible apply State.each_keeps
                 | with_reducible apply State.modColumn_keeps | with_reducible apply keeps_ite
                 | with_reducible apply keeps_ite_fst | with_reducible apply keeps_ite_snd
                 | with_reducible apply keeps_ite_snd_snd | split)

theorem State.markOut_keeps {z : State} (s : State) (c : Nat) (hK : Keeps z s) : Keeps z (State.markOut s c) := by
  unfold State.markOut
  try dsimp only
  repeat' (first | with_reducible assumption | intro _ | with_reducible apply State.modPower_keeps
                 | with_reducible apply keeps_ite | with_reducible apply keeps_ite_fst | with_reducible apply keeps_ite_snd
                 | with_reducible apply keeps_ite_snd_snd | split)

theorem State.retire_keeps {z : State} (s : State) (c : Nat) (hK : Keeps z s) : Keeps z (State.retire s c) := by
  unfold State.retire
  try dsimp only
  repeat' (first | with_reducible assumption | intro _ | with_reducible apply State.modPower_keeps
                 | with_reducible apply State.loseRegs_keeps | with_reducible apply State.loseStore_keeps
                 | with_reducible apply State.setPstate_keeps | with_reducible apply State.coreOff_keeps
                 | with_reducible apply State.markOut_keeps | with_reducible apply keeps_ite
                 | with_reducible apply keeps_ite_fst | with_reducible apply keeps_ite_snd
                 | with_reducible apply keeps_ite_snd_snd | with_reducible apply keepsO_ite | with_reducible exact keepsO_none
                 | with_reducible apply keepsO_some | split)

/-! ## Faults -/

theorem State.modFaults_keeps {z : State} (s : State) (f : Faults → Faults) (hK : Keeps z s) : Keeps z (State.modFaults s f) := by
  unfold State.modFaults
  try dsimp only
  repeat' (first | with_reducible assumption | intro _ | with_reducible apply State.setFaults_keeps
                 | with_reducible apply keeps_ite | with_reducible apply keeps_ite_fst | with_reducible apply keeps_ite_snd
                 | with_reducible apply keeps_ite_snd_snd | split)

theorem State.modCopies_keeps {z : State} (s : State) (f : FaultCopy → FaultCopy) (hK :
    Keeps z s) : Keeps z (State.modCopies s f) := by
  unfold State.modCopies
  try dsimp only
  repeat' (first | with_reducible assumption | intro _ | with_reducible apply State.modFaults_keeps
                 | with_reducible apply keeps_ite | with_reducible apply keeps_ite_fst | with_reducible apply keeps_ite_snd
                 | with_reducible apply keeps_ite_snd_snd | split)

theorem State.drivePin_keeps {z : State} (s : State) (cls : Nat) (hK : Keeps z s) : Keeps z (State.drivePin s cls) := by
  unfold State.drivePin
  try dsimp only
  repeat' (first | with_reducible assumption | intro _ | with_reducible apply State.modFaults_keeps
                 | with_reducible apply keeps_ite | with_reducible apply keeps_ite_fst | with_reducible apply keeps_ite_snd
                 | with_reducible apply keeps_ite_snd_snd | split)

theorem State.arriveQuiet_keeps {z : State} (s : State) (p k cls : Nat) (hK :
    Keeps z s) : Keeps z (State.arriveQuiet s p k cls) := by
  unfold State.arriveQuiet
  try dsimp only
  repeat' (first | with_reducible assumption | intro _ | with_reducible apply State.modEvq_keeps
                 | with_reducible apply keeps_ite | with_reducible apply keeps_ite_fst | with_reducible apply keeps_ite_snd
                 | with_reducible apply keeps_ite_snd_snd | split)

theorem State.recordWake_keeps {z : State} (s : State) (cause k : Nat) (hK :
    Keeps z s) : Keeps z (State.recordWake s cause k) := by
  unfold State.recordWake
  try dsimp only
  repeat' (first | with_reducible assumption | intro _ | with_reducible apply State.putReg_keeps
                 | with_reducible apply keeps_ite | with_reducible apply keeps_ite_fst | with_reducible apply keeps_ite_snd
                 | with_reducible apply keeps_ite_snd_snd | split)

theorem State.beginWake_keeps {z : State} (s : State) (cause k : Nat) (act : Bool) (hK :
    Keeps z s) : Keeps z (State.beginWake s cause k act) := by
  unfold State.beginWake
  try dsimp only
  repeat' (first | with_reducible assumption
                 | (intro _; first | exact ⟨id, id⟩ | exact ⟨fun _ => rfl, id⟩ | exact ⟨id, fun _ => rfl⟩ | exact ⟨fun _ => id, id, rfl, rfl⟩)
                 | intro _ | with_reducible apply State.each_keeps | with_reducible apply State.modBoot_keeps
                 | with_reducible apply State.putReg_keeps | with_reducible apply State.actOnRequests_keeps
                 | with_reducible apply State.arriveQuiet_keeps | with_reducible apply State.recordWake_keeps
                 | exact BootKeeps.mk id id | with_reducible apply keeps_ite | with_reducible apply keeps_ite_fst
                 | with_reducible apply keeps_ite_snd | with_reducible apply keeps_ite_snd_snd | split)

theorem State.wakeCause_keeps {z : State} (s : State) (cause k : Nat) (act : Bool) (hK :
    Keeps z s) : Keeps z (State.wakeCause s cause k act) := by
  unfold State.wakeCause
  try dsimp only
  repeat' (first | with_reducible assumption
                 | (intro _; first | exact ⟨id, id⟩ | exact ⟨fun _ => rfl, id⟩ | exact ⟨id, fun _ => rfl⟩ | exact ⟨fun _ => id, id, rfl, rfl⟩)
                 | intro _ | with_reducible apply State.modBoot_keeps | with_reducible apply State.recordWake_keeps
                 | with_reducible apply State.beginWake_keeps | exact BootKeeps.mk id id | with_reducible apply keeps_ite
                 | with_reducible apply keeps_ite_fst | with_reducible apply keeps_ite_snd
                 | with_reducible apply keeps_ite_snd_snd | with_reducible apply keepsO_ite | with_reducible exact keepsO_none
                 | with_reducible apply keepsO_some | split)

theorem State.wokenBy_keeps {z : State} (s t : State) (cause : Nat) (hK : Keeps z t) : Keeps z (State.wokenBy s t cause) := by
  unfold State.wokenBy
  split
  · assumption
  · exact State.wakeCause_keeps t cause 0 true hK

theorem State.arrive_keeps {z : State} (s : State) (p k cls : Nat) (hK : Keeps z s) : Keeps z (State.arrive s p k cls) := by
  unfold State.arrive
  try dsimp only
  repeat' (first | with_reducible assumption | intro _ | with_reducible apply State.arriveQuiet_keeps
                 | with_reducible apply State.wakeCause_keeps | with_reducible apply keeps_ite
                 | with_reducible apply keeps_ite_fst | with_reducible apply keeps_ite_snd
                 | with_reducible apply keeps_ite_snd_snd | split)

theorem State.sendSync_keeps {z : State} (s : State) (k : Packet) (hK : Keeps z s) : Keeps z (State.sendSync s k) := by
  unfold State.sendSync
  try dsimp only
  repeat' (first | with_reducible assumption | intro _ | with_reducible apply tabWf_tabSet | with_reducible apply tabWf_filter
                 | exact tabWf_nil | with_reducible apply State.setSync_keeps | with_reducible apply keeps_ite
                 | with_reducible apply keeps_ite_fst | with_reducible apply keeps_ite_snd
                 | with_reducible apply keeps_ite_snd_snd | split)

theorem State.cancelWatches_keeps {z : State} (s : State) (c : Nat) (hK : Keeps z s) : Keeps z (State.cancelWatches s c) := by
  unfold State.cancelWatches
  try dsimp only
  repeat' (first | with_reducible assumption | intro _ | with_reducible apply State.each_keeps
                 | with_reducible apply State.modCore_keeps | with_reducible apply State.sendSync_keeps
                 | with_reducible apply keeps_ite | with_reducible apply keeps_ite_fst | with_reducible apply keeps_ite_snd
                 | with_reducible apply keeps_ite_snd_snd | split)

theorem State.landGroups_keeps {z : State} (s : State) (c : Nat) (hK : Keeps z s) : Keeps z (State.landGroups s c) := by
  unfold State.landGroups
  try dsimp only
  repeat' (first | with_reducible assumption | intro _ | with_reducible apply State.each_keeps
                 | with_reducible apply State.commitWhere_keeps | with_reducible apply keeps_ite
                 | with_reducible apply keeps_ite_fst | with_reducible apply keeps_ite_snd
                 | with_reducible apply keeps_ite_snd_snd | split)

theorem State.haltCore_keeps {z : State} (s : State) (c cause : Nat) (ended : Bool) (hK :
    Keeps z s) : Keeps z (State.haltCore s c cause ended).1 := by
  unfold State.haltCore
  try dsimp only
  repeat' (first | with_reducible assumption | intro _ | with_reducible apply State.modCore_keeps
                 | with_reducible apply State.modSeq_keeps | with_reducible apply State.commitWhere_keeps
                 | with_reducible apply State.cancelWatches_keeps | with_reducible apply State.landGroups_keeps
                 | with_reducible apply keeps_ite | with_reducible apply keeps_ite_fst | with_reducible apply keeps_ite_snd
                 | with_reducible apply keeps_ite_snd_snd | with_reducible apply keepsO_ite | with_reducible exact keepsO_none
                 | with_reducible apply keepsO_some | split)

theorem State.haltChannels_keeps {z : State} (s : State) (j : PartId × Fin 16) (hK :
    Keeps z s) : Keeps z (State.haltChannels s j) := by
  unfold State.haltChannels
  try dsimp only
  repeat' (first | with_reducible assumption | intro _ | with_reducible apply State.each_keeps
                 | with_reducible apply State.modChan_keeps | with_reducible apply keeps_ite
                 | with_reducible apply keeps_ite_fst | with_reducible apply keeps_ite_snd
                 | with_reducible apply keeps_ite_snd_snd | with_reducible apply keepsO_ite | with_reducible exact keepsO_none
                 | with_reducible apply keepsO_some | split)

theorem State.dropRecords_keeps {z : State} (s : State) (j : PartId × Fin 16) (hK :
    Keeps z s) : Keeps z (State.dropRecords s j) := by
  unfold State.dropRecords
  try dsimp only
  repeat' (first | with_reducible assumption | intro _ | with_reducible apply State.each_keeps
                 | with_reducible apply State.modColumn_keeps | with_reducible apply keeps_ite
                 | with_reducible apply keeps_ite_fst | with_reducible apply keeps_ite_snd
                 | with_reducible apply keeps_ite_snd_snd | with_reducible apply keepsO_ite | with_reducible exact keepsO_none
                 | with_reducible apply keepsO_some | split)

theorem State.stopJob_keeps {z : State} (s : State) (j : PartId × Fin 16) (hK : Keeps z s) : Keeps z (State.stopJob s j).1 := by
  unfold State.stopJob
  try dsimp only
  repeat' (first | with_reducible assumption | intro _ | with_reducible apply State.modJob_keeps
                 | with_reducible apply State.haltCore_keeps | with_reducible apply State.haltChannels_keeps
                 | with_reducible apply State.dropRecords_keeps | with_reducible apply keeps_ite
                 | with_reducible apply keeps_ite_fst | with_reducible apply keeps_ite_snd
                 | with_reducible apply keeps_ite_snd_snd | with_reducible apply keepsO_ite | with_reducible exact keepsO_none
                 | with_reducible apply keepsO_some | with_reducible apply foldl_keeps | with_reducible apply foldl_keeps_fst
                 | with_reducible apply foldl_keeps_snd | with_reducible apply foldl_keeps_snd_snd
                 | with_reducible apply foldl_keeps_fst_fst | split)

theorem State.stopJobs_keeps {z : State} (s : State) (hK : Keeps z s) : Keeps z (State.stopJobs s).1 := by
  unfold State.stopJobs
  try dsimp only
  repeat' (first | with_reducible assumption | intro _ | with_reducible apply State.stopJob_keeps
                 | with_reducible apply keeps_ite | with_reducible apply keeps_ite_fst | with_reducible apply keeps_ite_snd
                 | with_reducible apply keeps_ite_snd_snd | with_reducible apply keepsO_ite | with_reducible exact keepsO_none
                 | with_reducible apply keepsO_some | with_reducible apply foldl_keeps | with_reducible apply foldl_keeps_fst
                 | with_reducible apply foldl_keeps_snd | with_reducible apply foldl_keeps_snd_snd
                 | with_reducible apply foldl_keeps_fst_fst | split)

theorem State.modPerturb_keeps {z : State} (s : State) (f : Perturb → Perturb) (hK :
    Keeps z s) : Keeps z (State.modPerturb s f) := by
  unfold State.modPerturb
  try dsimp only
  repeat' (first | with_reducible assumption | intro _ | with_reducible apply State.setPerturb_keeps
                 | with_reducible apply keeps_ite | with_reducible apply keeps_ite_fst | with_reducible apply keeps_ite_snd
                 | with_reducible apply keeps_ite_snd_snd | split)

theorem State.lockPerturb_keeps {z : State} (s : State) (hK : Keeps z s) : Keeps z (State.lockPerturb s) := by
  unfold State.lockPerturb
  try dsimp only
  repeat' (first | with_reducible assumption | intro _ | with_reducible apply State.setPerturb_keeps
                 | with_reducible apply keeps_ite | with_reducible apply keeps_ite_fst | with_reducible apply keeps_ite_snd
                 | with_reducible apply keeps_ite_snd_snd | with_reducible apply keepsO_ite | with_reducible exact keepsO_none
                 | with_reducible apply keepsO_some | split)

theorem State.finishLock_keeps {z : State} (s : State) (hK : Keeps z s) : Keeps z (State.finishLock s) := by
  unfold State.finishLock
  try dsimp only
  repeat' (first | with_reducible assumption | intro _ | with_reducible apply State.setRegs_keeps
                 | with_reducible apply State.setPerturb_keeps | with_reducible apply keeps_ite
                 | with_reducible apply keeps_ite_fst | with_reducible apply keeps_ite_snd
                 | with_reducible apply keeps_ite_snd_snd | with_reducible apply keepsO_ite | with_reducible exact keepsO_none
                 | with_reducible apply keepsO_some | split)

theorem State.enterSafe_keeps {z : State} (s : State) (hK : Keeps z s) : Keeps z (State.enterSafe s).1 := by
  unfold State.enterSafe
  try dsimp only
  repeat' (first | with_reducible assumption
                 | (intro _; first | exact ⟨id, id⟩ | exact ⟨fun _ => rfl, id⟩ | exact ⟨id, fun _ => rfl⟩ | exact ⟨fun _ => id, id, rfl, rfl⟩)
                 | intro _ | with_reducible apply State.modBoot_keeps | with_reducible apply State.stopJobs_keeps
                 | exact BootKeeps.mk id id | with_reducible apply keeps_ite | with_reducible apply keeps_ite_fst
                 | with_reducible apply keeps_ite_snd | with_reducible apply keeps_ite_snd_snd | split)

theorem State.enterGrave_keeps {z : State} (s : State) (hK : Keeps z s) : Keeps z (State.enterGrave s).1 := by
  unfold State.enterGrave
  try dsimp only
  repeat' (first | with_reducible assumption
                 | (intro _; first | exact ⟨id, id⟩ | exact ⟨fun _ => rfl, id⟩ | exact ⟨id, fun _ => rfl⟩ | exact ⟨fun _ => id, id, rfl, rfl⟩)
                 | intro _ | with_reducible apply State.modBoot_keeps | with_reducible apply State.railsOff_keeps
                 | with_reducible apply State.selfRefreshAll_keeps | with_reducible apply State.stopJobs_keeps
                 | with_reducible apply State.lockPerturb_keeps | exact BootKeeps.mk id id | with_reducible apply keeps_ite
                 | with_reducible apply keeps_ite_fst | with_reducible apply keeps_ite_snd
                 | with_reducible apply keeps_ite_snd_snd | split)

theorem State.hitSource_keeps {z : State} (s : State) (k : Nat) (parts : List Nat) (hK :
    Keeps z s) : Keeps z (State.hitSource s k parts).1 := by
  unfold State.hitSource
  try dsimp only
  repeat' (first | with_reducible assumption | intro _ | with_reducible apply State.each_keeps
                 | with_reducible apply State.modCopies_keeps | with_reducible apply State.drivePin_keeps
                 | with_reducible apply State.wakeCause_keeps | with_reducible apply State.arrive_keeps
                 | with_reducible apply keeps_ite | with_reducible apply keeps_ite_fst | with_reducible apply keeps_ite_snd
                 | with_reducible apply keeps_ite_snd_snd | split)

theorem State.raiseN_keeps {z : State} (fuel : Nat) (ev : Ev) (s : State) (h : Keeps z s) : Keeps z (State.raiseN fuel ev s) := by
  induction fuel generalizing ev s with
  | zero => exact h
  | succ fuel ih =>
    unfold State.raiseN
    try dsimp only
    repeat' (first | with_reducible assumption | intro _ | with_reducible apply ih | with_reducible apply State.each_keeps
                   | with_reducible apply State.commitWhere_keeps | with_reducible apply State.retire_keeps
                   | with_reducible apply State.stopJob_keeps | with_reducible apply State.enterSafe_keeps
                   | with_reducible apply State.enterGrave_keeps | with_reducible apply State.hitSource_keeps
                   | with_reducible apply keeps_ite | with_reducible apply keeps_ite_fst | with_reducible apply keeps_ite_snd
                   | with_reducible apply keeps_ite_snd_snd | with_reducible apply keepsO_ite | with_reducible exact keepsO_none
                   | with_reducible apply keepsO_some | with_reducible apply foldl_keeps | with_reducible apply foldl_keeps_fst
                   | with_reducible apply foldl_keeps_snd | with_reducible apply foldl_keeps_snd_snd
                   | with_reducible apply foldl_keeps_fst_fst | split)

theorem State.raise_keeps {z : State} (s : State) (ev : Ev) (hK : Keeps z s) : Keeps z (State.raise s ev) := by
  unfold State.raise
  try dsimp only
  repeat' (first | with_reducible assumption | intro _ | with_reducible apply State.raiseN_keeps
                 | with_reducible apply keeps_ite | with_reducible apply keeps_ite_fst | with_reducible apply keeps_ite_snd
                 | with_reducible apply keeps_ite_snd_snd | split)

theorem State.raiseCore_keeps {z : State} (s : State) (src c : Nat) (job : Option (PartId × Fin 16)) (hK :
    Keeps z s) : Keeps z (State.raiseCore s src c job) := by
  unfold State.raiseCore
  try dsimp only
  repeat' (first | with_reducible assumption | intro _ | with_reducible apply State.raise_keeps | with_reducible apply keeps_ite
                 | with_reducible apply keeps_ite_fst | with_reducible apply keeps_ite_snd
                 | with_reducible apply keeps_ite_snd_snd | with_reducible apply keepsO_ite | with_reducible exact keepsO_none
                 | with_reducible apply keepsO_some | split)

theorem State.raiseRegion_keeps {z : State} (s : State) (src r : Nat) (job : Option (PartId × Fin 16)) (hK :
    Keeps z s) : Keeps z (State.raiseRegion s src r job) := by
  unfold State.raiseRegion
  try dsimp only
  repeat' (first | with_reducible assumption | intro _ | with_reducible apply State.raise_keeps | with_reducible apply keeps_ite
                 | with_reducible apply keeps_ite_fst | with_reducible apply keeps_ite_snd
                 | with_reducible apply keeps_ite_snd_snd | with_reducible apply keepsO_ite | with_reducible exact keepsO_none
                 | with_reducible apply keepsO_some | split)

theorem State.raiseBlock_keeps {z : State} (s : State) (src : Nat) (hK : Keeps z s) : Keeps z (State.raiseBlock s src) := by
  unfold State.raiseBlock
  try dsimp only
  repeat' (first | with_reducible assumption | intro _ | with_reducible apply State.raise_keeps | with_reducible apply keeps_ite
                 | with_reducible apply keeps_ite_fst | with_reducible apply keeps_ite_snd
                 | with_reducible apply keeps_ite_snd_snd | with_reducible apply keepsO_ite | with_reducible exact keepsO_none
                 | with_reducible apply keepsO_some | split)

theorem State.endJob_keeps {z : State} (s : State) (j : PartId × Fin 16) (hK : Keeps z s) : Keeps z (State.endJob s j) := by
  unfold State.endJob
  try dsimp only
  repeat' (first | with_reducible assumption | intro _ | with_reducible apply State.each_keeps
                 | with_reducible apply State.stopJob_keeps | with_reducible apply State.raiseCore_keeps
                 | with_reducible apply keeps_ite | with_reducible apply keeps_ite_fst | with_reducible apply keeps_ite_snd
                 | with_reducible apply keeps_ite_snd_snd | with_reducible apply keepsO_ite | with_reducible exact keepsO_none
                 | with_reducible apply keepsO_some | split)

theorem State.endJobs_keeps {z : State} (s : State) (hK : Keeps z s) : Keeps z (State.endJobs s) := by
  unfold State.endJobs
  try dsimp only
  repeat' (first | with_reducible assumption | intro _ | with_reducible apply State.each_keeps
                 | with_reducible apply State.stopJobs_keeps | with_reducible apply State.raiseCore_keeps
                 | with_reducible apply keeps_ite | with_reducible apply keeps_ite_fst | with_reducible apply keeps_ite_snd
                 | with_reducible apply keeps_ite_snd_snd | with_reducible apply keepsO_ite | with_reducible exact keepsO_none
                 | with_reducible apply keepsO_some | split)

theorem State.persistOn_keeps {z : State} (s : State) (k : Nat) (l : Option Nat) (hK :
    Keeps z s) : Keeps z (State.persistOn s k l) := by
  unfold State.persistOn
  try dsimp only
  repeat' (first | with_reducible assumption | intro _ | with_reducible apply State.modFaults_keeps
                 | with_reducible apply keeps_ite | with_reducible apply keeps_ite_fst | with_reducible apply keeps_ite_snd
                 | with_reducible apply keeps_ite_snd_snd | split)

theorem State.persistOff_keeps {z : State} (s : State) (k : Nat) (l : Option Nat) (hK :
    Keeps z s) : Keeps z (State.persistOff s k l) := by
  unfold State.persistOff
  try dsimp only
  repeat' (first | with_reducible assumption | intro _ | with_reducible apply State.modFaults_keeps
                 | with_reducible apply keeps_ite | with_reducible apply keeps_ite_fst | with_reducible apply keeps_ite_snd
                 | with_reducible apply keeps_ite_snd_snd | split)

theorem State.goDark_keeps {z : State} (s : State) (c : Nat) (hK : Keeps z s) : Keeps z (State.goDark s c) := by
  unfold State.goDark
  try dsimp only
  repeat' (first | with_reducible assumption | intro _ | with_reducible apply State.commitWhere_keeps
                 | with_reducible apply State.coreOff_keeps | with_reducible apply State.markOut_keeps
                 | with_reducible apply State.raiseCore_keeps | with_reducible apply keeps_ite
                 | with_reducible apply keeps_ite_fst | with_reducible apply keeps_ite_snd
                 | with_reducible apply keeps_ite_snd_snd | with_reducible apply keepsO_ite | with_reducible exact keepsO_none
                 | with_reducible apply keepsO_some | split)

/-! ## Map -/

theorem State.raiseRead_keeps {z : State} (s : State) (a : Nat) (f : Fetched) (job : Option (PartId × Fin 16)) (tag : Option Nat) (hK :
    Keeps z s) : Keeps z (State.raiseRead s a f job tag) := by
  unfold State.raiseRead
  try dsimp only
  repeat' (first | with_reducible assumption | intro _ | with_reducible apply State.each_keeps
                 | with_reducible apply State.raise_keeps | with_reducible apply keeps_ite | with_reducible apply keeps_ite_fst
                 | with_reducible apply keeps_ite_snd | with_reducible apply keeps_ite_snd_snd | split)

theorem State.readPieces_keeps {z : State} (s : State) (job : Option (PartId × Fin 16)) (tag : Option Nat) (l : List Piece) (hK :
    Keeps z s) : Keeps z (State.readPieces s job tag l).2.2 := by
  unfold State.readPieces
  try dsimp only
  repeat' (first | with_reducible assumption | intro _ | with_reducible apply State.readMem_keeps
                 | with_reducible apply State.raiseRead_keeps | with_reducible apply keeps_ite
                 | with_reducible apply keeps_ite_fst | with_reducible apply keeps_ite_snd
                 | with_reducible apply keeps_ite_snd_snd | with_reducible apply foldl_keeps
                 | with_reducible apply foldl_keeps_fst | with_reducible apply foldl_keeps_snd
                 | with_reducible apply foldl_keeps_snd_snd | with_reducible apply foldl_keeps_fst_fst | split)

theorem State.readBack_keeps {z : State} (job : Option (PartId × Fin 16)) (tag : Option Nat) (p : State × List Nat) (q : Nat) (hK :
    Keeps z p.1) : Keeps z (State.readBack job tag p q).1 := by
  unfold State.readBack
  try dsimp only
  repeat' (first | with_reducible assumption | intro _ | with_reducible apply State.writeMem_keeps
                 | with_reducible apply State.readMem_keeps | with_reducible apply State.raiseRead_keeps
                 | with_reducible apply keeps_ite | with_reducible apply keeps_ite_fst | with_reducible apply keeps_ite_snd
                 | with_reducible apply keeps_ite_snd_snd | split)

theorem State.writeBut_keeps {z : State} (s : State) (a : Nat) (bs : List Byte) (bad : List Nat) (hK :
    Keeps z s) : Keeps z (State.writeBut s a bs bad) := by
  unfold State.writeBut
  try dsimp only
  repeat' (first | with_reducible assumption | intro _ | with_reducible apply State.each_keeps
                 | with_reducible apply State.writeMem_keeps | with_reducible apply keeps_ite
                 | with_reducible apply keeps_ite_fst | with_reducible apply keeps_ite_snd
                 | with_reducible apply keeps_ite_snd_snd | split)

theorem State.writePiece_keeps {z : State} (s : State) (a : Nat) (bs : List Byte) (job : Option (PartId × Fin 16)) (tag : Option Nat) (hK :
    Keeps z s) : Keeps z (State.writePiece s a bs job tag).1 := by
  unfold State.writePiece
  try dsimp only
  repeat' (first | with_reducible assumption | intro _ | with_reducible apply State.readBack_keeps
                 | with_reducible apply State.writeBut_keeps | with_reducible apply keeps_ite
                 | with_reducible apply keeps_ite_fst | with_reducible apply keeps_ite_snd
                 | with_reducible apply keeps_ite_snd_snd | with_reducible apply foldl_keeps
                 | with_reducible apply foldl_keeps_fst | with_reducible apply foldl_keeps_snd
                 | with_reducible apply foldl_keeps_snd_snd | with_reducible apply foldl_keeps_fst_fst | split)

theorem State.writePieces_keeps {z : State} (s : State) (job : Option (PartId × Fin 16)) (tag : Option Nat) (l : List Piece)
    (bs : List Byte) (hK : Keeps z s) : Keeps z (State.writePieces s job tag l bs).1 := by
  unfold State.writePieces
  try dsimp only
  repeat' (first | with_reducible assumption | intro _ | with_reducible apply State.writePiece_keeps
                 | with_reducible apply keeps_ite | with_reducible apply keeps_ite_fst | with_reducible apply keeps_ite_snd
                 | with_reducible apply keeps_ite_snd_snd | with_reducible apply foldl_keeps
                 | with_reducible apply foldl_keeps_fst | with_reducible apply foldl_keeps_snd
                 | with_reducible apply foldl_keeps_snd_snd | with_reducible apply foldl_keeps_fst_fst | split)

theorem State.readOwn_keeps {z : State} (s : State) (c off n : Nat) (job : Option (PartId × Fin 16)) (hK :
    Keeps z s) : Keeps z (State.readOwn s c off n job).2.2 := by
  unfold State.readOwn
  try dsimp only
  repeat' (first | with_reducible assumption | intro _ | with_reducible apply State.readPieces_keeps
                 | with_reducible apply keeps_ite | with_reducible apply keeps_ite_fst | with_reducible apply keeps_ite_snd
                 | with_reducible apply keeps_ite_snd_snd | with_reducible apply keepsO_ite | with_reducible exact keepsO_none
                 | with_reducible apply keepsO_some | with_reducible apply keepsO_map | with_reducible apply keepsO_mapOf
                 | split)

/-! ## Outbound -/

theorem State.pumpHost_keeps {z : State} (s : State) (hK : Keeps z s) : Keeps z (State.pumpHost s) := by
  unfold State.pumpHost
  try dsimp only
  repeat' (first | with_reducible assumption | intro _ | with_reducible apply State.setHost_keeps
                 | with_reducible apply keeps_ite | with_reducible apply keeps_ite_fst | with_reducible apply keeps_ite_snd
                 | with_reducible apply keeps_ite_snd_snd | with_reducible apply keepsO_map | with_reducible apply keepsO_mapOf
                 | split)

theorem State.sendOutbound_keeps {z : State} (s : State) (tag addr len : Nat) (data : Option (List Byte)) (who : Issuer) (hK :
    Keeps z s) : Keeps z (State.sendOutbound s tag addr len data who) := by
  unfold State.sendOutbound
  try dsimp only
  repeat' (first | with_reducible assumption | intro _ | with_reducible apply State.setHost_keeps
                 | with_reducible apply State.pumpHost_keeps | with_reducible apply keeps_ite
                 | with_reducible apply keeps_ite_fst | with_reducible apply keeps_ite_snd
                 | with_reducible apply keeps_ite_snd_snd | with_reducible apply keepsO_ite | with_reducible exact keepsO_none
                 | with_reducible apply keepsO_some | with_reducible apply keeps_getD | split)

theorem State.pump_keeps {z : State} (s : State) (n : Nat) (hK : Keeps z s) : Keeps z (State.pump s n) := by
  unfold State.pump
  try dsimp only
  repeat' (first | with_reducible assumption | intro _ | with_reducible apply State.each_keeps
                 | with_reducible apply State.modPeer_keeps | with_reducible apply State.send_keeps
                 | with_reducible apply keeps_ite | with_reducible apply keeps_ite_fst | with_reducible apply keeps_ite_snd
                 | with_reducible apply keeps_ite_snd_snd | with_reducible apply keepsO_map | with_reducible apply keepsO_mapOf
                 | split)

theorem State.failDescriptor_keeps {z : State} (s : State) (r k n cause : Nat) (hK :
    Keeps z s) : Keeps z (State.failDescriptor s r k n cause) := by
  unfold State.failDescriptor
  try dsimp only
  repeat' (first | with_reducible assumption | intro _ | with_reducible apply State.modChan_keeps
                 | with_reducible apply keeps_ite | with_reducible apply keeps_ite_fst | with_reducible apply keeps_ite_snd
                 | with_reducible apply keeps_ite_snd_snd | with_reducible apply keepsO_ite | with_reducible exact keepsO_none
                 | with_reducible apply keepsO_some | split)

theorem State.dropFenced_keeps {z : State} (s : State) (who : Issuer) (hK : Keeps z s) : Keeps z (State.dropFenced s who) := by
  unfold State.dropFenced
  try dsimp only
  repeat' (first | with_reducible assumption | intro _ | with_reducible apply State.modCore_keeps
                 | with_reducible apply keeps_ite | with_reducible apply keeps_ite_fst | with_reducible apply keeps_ite_snd
                 | with_reducible apply keeps_ite_snd_snd | split)

theorem State.peerFailed_keeps {z : State} (s : State) (who : Issuer) (hK : Keeps z s) : Keeps z (State.peerFailed s who) := by
  unfold State.peerFailed
  try dsimp only
  repeat' (first | with_reducible assumption | intro _ | with_reducible apply State.raise_keeps
                 | with_reducible apply State.failDescriptor_keeps | with_reducible apply State.dropFenced_keeps
                 | with_reducible apply keeps_ite | with_reducible apply keeps_ite_fst | with_reducible apply keeps_ite_snd
                 | with_reducible apply keeps_ite_snd_snd | with_reducible apply keepsO_ite | with_reducible exact keepsO_none
                 | with_reducible apply keepsO_some | split)

theorem State.dropAccesses_keeps {z : State} (s : State) (who : Issuer) (hK :
    Keeps z s) : Keeps z (State.dropAccesses s who) := by
  unfold State.dropAccesses
  try dsimp only
  repeat' (first | with_reducible assumption | intro _ | with_reducible apply State.setHost_keeps
                 | with_reducible apply State.each_keeps | with_reducible apply State.modPeer_keeps
                 | with_reducible apply keeps_ite | with_reducible apply keeps_ite_fst | with_reducible apply keeps_ite_snd
                 | with_reducible apply keeps_ite_snd_snd | split)

theorem State.forgetAccess_keeps {z : State} (s : State) (who : Issuer) (hK :
    Keeps z s) : Keeps z (State.forgetAccess s who) := by
  unfold State.forgetAccess
  try dsimp only
  repeat' (first | with_reducible assumption | intro _ | with_reducible apply State.dropAccesses_keeps
                 | with_reducible apply keeps_ite | with_reducible apply keeps_ite_fst | with_reducible apply keeps_ite_snd
                 | with_reducible apply keeps_ite_snd_snd | split)

theorem State.peerIssue_keeps {z : State} (s : State) (n : Nat) (who : Issuer) (isSig read : Bool) (flits : Nat) (msg : Nat → OutMsg) (hK :
    Keeps z s) : Keeps z (State.peerIssue s n who isSig read flits msg) := by
  unfold State.peerIssue
  try dsimp only
  repeat' (first | with_reducible assumption | intro _ | with_reducible apply State.modPeer_keeps
                 | with_reducible apply State.pump_keeps | with_reducible apply State.peerFailed_keeps
                 | with_reducible apply State.forgetAccess_keeps | with_reducible apply keeps_ite
                 | with_reducible apply keeps_ite_fst | with_reducible apply keeps_ite_snd
                 | with_reducible apply keeps_ite_snd_snd | with_reducible apply keepsO_ite | with_reducible exact keepsO_none
                 | with_reducible apply keepsO_some | split)

theorem State.peerRead_keeps {z : State} (s : State) (n a len : Nat) (who : Issuer) (hK :
    Keeps z s) : Keeps z (State.peerRead s n a len who) := by
  unfold State.peerRead
  try dsimp only
  repeat' (first | with_reducible assumption | intro _ | with_reducible apply State.each_keeps
                 | with_reducible apply State.peerIssue_keeps | with_reducible apply keeps_ite
                 | with_reducible apply keeps_ite_fst | with_reducible apply keeps_ite_snd
                 | with_reducible apply keeps_ite_snd_snd | split)

theorem State.peerWrite_keeps {z : State} (s : State) (n a : Nat) (bs : List Byte) (who : Issuer) (hK :
    Keeps z s) : Keeps z (State.peerWrite s n a bs who) := by
  unfold State.peerWrite
  try dsimp only
  repeat' (first | with_reducible assumption | intro _ | with_reducible apply State.peerIssue_keeps
                 | with_reducible apply keeps_ite | with_reducible apply keeps_ite_fst | with_reducible apply keeps_ite_snd
                 | with_reducible apply keeps_ite_snd_snd | with_reducible apply foldl_keeps
                 | with_reducible apply foldl_keeps_fst | with_reducible apply foldl_keeps_snd
                 | with_reducible apply foldl_keeps_snd_snd | with_reducible apply foldl_keeps_fst_fst | split)

theorem State.issueReads_keeps {z : State} (s : State) (tag : Nat) (who : Issuer) (a : Nat) (l : List Piece) (hK :
    Keeps z s) : Keeps z (State.issueReads s tag who a l) := by
  unfold State.issueReads
  try dsimp only
  repeat' (first | with_reducible assumption | intro _ | with_reducible apply State.sendOutbound_keeps
                 | with_reducible apply State.peerRead_keeps | with_reducible apply keeps_ite
                 | with_reducible apply keeps_ite_fst | with_reducible apply keeps_ite_snd
                 | with_reducible apply keeps_ite_snd_snd | with_reducible apply keepsO_ite | with_reducible exact keepsO_none
                 | with_reducible apply keepsO_some | with_reducible apply foldl_keeps | with_reducible apply foldl_keeps_fst
                 | with_reducible apply foldl_keeps_snd | with_reducible apply foldl_keeps_snd_snd
                 | with_reducible apply foldl_keeps_fst_fst | split)

theorem State.issueWrites_keeps {z : State} (s : State) (tag : Nat) (who : Issuer) (a : Nat) (l : List Piece) (bs : List Byte) (hK :
    Keeps z s) : Keeps z (State.issueWrites s tag who a l bs) := by
  unfold State.issueWrites
  try dsimp only
  repeat' (first | with_reducible assumption | intro _ | with_reducible apply State.sendOutbound_keeps
                 | with_reducible apply State.peerWrite_keeps | with_reducible apply keeps_ite
                 | with_reducible apply keeps_ite_fst | with_reducible apply keeps_ite_snd
                 | with_reducible apply keeps_ite_snd_snd | with_reducible apply keepsO_ite | with_reducible exact keepsO_none
                 | with_reducible apply keepsO_some | with_reducible apply foldl_keeps | with_reducible apply foldl_keeps_fst
                 | with_reducible apply foldl_keeps_snd | with_reducible apply foldl_keeps_snd_snd
                 | with_reducible apply foldl_keeps_fst_fst | split)

end Sys2Proof.Machine
end

