-- ==== Sys2Proof/Laws/KeepsData.lean ====
section
/-! SUPPORT. What the operations of columns, cores, counters, DMA, page keeper, scouts, jobs and peer ports keep (`Keeps`, Laws/Keeps.lean): one lemma each, built from
the lemmas of the operations it calls. -/

namespace Sys2Proof.Machine

/-! ## Column -/

theorem State.completeOp_keeps {z : State} (s : State) (c id : Nat) (hK : Keeps z s) : Keeps z (State.completeOp s c id) := by
  unfold State.completeOp
  try dsimp only
  repeat' (first | with_reducible assumption | intro _ | with_reducible apply State.modCore_keeps
                 | with_reducible apply keeps_ite | with_reducible apply keeps_ite_fst | with_reducible apply keeps_ite_snd
                 | with_reducible apply keeps_ite_snd_snd | with_reducible apply keepsO_ite | with_reducible exact keepsO_none
                 | with_reducible apply keepsO_some | split)

theorem State.modTier_keeps {z : State} (s : State) (c t : Nat) (f : Tier → Tier) (hK :
    Keeps z s) : Keeps z (State.modTier s c t f) := by
  unfold State.modTier
  try dsimp only
  repeat' (first | with_reducible assumption | intro _ | with_reducible apply State.modColumn_keeps
                 | with_reducible apply keeps_ite | with_reducible apply keeps_ite_fst | with_reducible apply keeps_ite_snd
                 | with_reducible apply keeps_ite_snd_snd | split)

theorem State.nbArrive_keeps {z : State} (s : State) (p c off : Nat) (job : Option (PartId × Fin 16)) (bs : List Byte) (hK :
    Keeps z s) : Keeps z (State.nbArrive s p c off job bs).1 := by
  unfold State.nbArrive
  try dsimp only
  repeat' (first | with_reducible assumption | intro _ | with_reducible apply State.modColumn_keeps
                 | with_reducible apply keeps_ite | with_reducible apply keeps_ite_fst | with_reducible apply keeps_ite_snd
                 | with_reducible apply keeps_ite_snd_snd | with_reducible apply keepsO_map | with_reducible apply keepsO_mapOf
                 | split)

theorem State.issueRefs_keeps {z : State} (s : State) (c t n : Nat) (hK : Keeps z s) : Keeps z (State.issueRefs s c t n) := by
  unfold State.issueRefs
  try dsimp only
  repeat' (first | with_reducible assumption | intro _ | with_reducible apply State.modTier_keeps
                 | with_reducible apply keeps_ite | with_reducible apply keeps_ite_fst | with_reducible apply keeps_ite_snd
                 | with_reducible apply keeps_ite_snd_snd | split)

theorem State.payRefs_keeps {z : State} (s : State) (c t : Nat) (hK : Keeps z s) : Keeps z (State.payRefs s c t) := by
  unfold State.payRefs
  try dsimp only
  repeat' (first | with_reducible assumption | intro _ | with_reducible apply State.modTier_keeps
                 | with_reducible apply State.issueRefs_keeps | with_reducible apply keeps_ite
                 | with_reducible apply keeps_ite_fst | with_reducible apply keeps_ite_snd
                 | with_reducible apply keeps_ite_snd_snd | split)

theorem State.drive_keeps {z : State} (s : State) (c pos : Nat) (cmd : TierCmd) (hK :
    Keeps z s) : Keeps z (State.drive s c pos cmd) := by
  unfold State.drive
  try dsimp only
  repeat' (first | with_reducible assumption | intro _ | with_reducible apply State.modColumn_keeps
                 | with_reducible apply keeps_ite | with_reducible apply keeps_ite_fst | with_reducible apply keeps_ite_snd
                 | with_reducible apply keeps_ite_snd_snd | split)

theorem State.pinBurst_keeps {z : State} (s : State) (c : Nat) (bs checks : List Byte) (hK :
    Keeps z s) : Keeps z (State.pinBurst s c bs checks) := by
  unfold State.pinBurst
  try dsimp only
  repeat' (first | with_reducible assumption | intro _ | with_reducible apply State.modColumn_keeps
                 | with_reducible apply keeps_ite | with_reducible apply keeps_ite_fst | with_reducible apply keeps_ite_snd
                 | with_reducible apply keeps_ite_snd_snd | split)

theorem State.pinOpen_keeps {z : State} (s : State) (c : Nat) (hK : Keeps z s) : Keeps z (State.pinOpen s c) := by
  unfold State.pinOpen
  try dsimp only
  repeat' (first | with_reducible assumption | intro _ | with_reducible apply State.drawn_keeps
                 | with_reducible apply State.pinBurst_keeps | with_reducible apply keeps_ite
                 | with_reducible apply keeps_ite_fst | with_reducible apply keeps_ite_snd
                 | with_reducible apply keeps_ite_snd_snd | with_reducible apply keepsO_map | with_reducible apply keepsO_mapOf
                 | split)

theorem State.pinValue_keeps {z : State} (s : State) (c v : Nat) (hK : Keeps z s) : Keeps z (State.pinValue s c v) := by
  unfold State.pinValue
  try dsimp only
  repeat' (first | with_reducible assumption | intro _ | with_reducible apply State.pinBurst_keeps
                 | with_reducible apply keeps_ite | with_reducible apply keeps_ite_fst | with_reducible apply keeps_ite_snd
                 | with_reducible apply keeps_ite_snd_snd | split)

theorem State.readStatus_keeps {z : State} (s : State) (c t : Nat) (hK : Keeps z s) : Keeps z (State.readStatus s c t) := by
  unfold State.readStatus
  try dsimp only
  repeat' (first | with_reducible assumption | intro _ | with_reducible apply State.drive_keeps
                 | with_reducible apply State.pinValue_keeps | with_reducible apply keeps_ite
                 | with_reducible apply keeps_ite_fst | with_reducible apply keeps_ite_snd
                 | with_reducible apply keeps_ite_snd_snd | split)

theorem State.goSlice_keeps {z : State} (s : State) (c t units b : Nat) (hK :
    Keeps z s) : Keeps z (State.goSlice s c t units b) := by
  unfold State.goSlice
  try dsimp only
  repeat' (first | with_reducible assumption | intro _ | with_reducible apply State.modTier_keeps
                 | with_reducible apply State.drive_keeps | with_reducible apply keeps_ite | with_reducible apply keeps_ite_fst
                 | with_reducible apply keeps_ite_snd | with_reducible apply keeps_ite_snd_snd | split)

theorem State.startSlice_keeps {z : State} (s : State) (c : Nat) (q : NbRecord) (hK :
    Keeps z s) : Keeps z (State.startSlice s c q) := by
  unfold State.startSlice
  try dsimp only
  repeat' (first | with_reducible assumption | intro _ | with_reducible apply State.goSlice_keeps
                 | with_reducible apply keeps_ite | with_reducible apply keeps_ite_fst | with_reducible apply keeps_ite_snd
                 | with_reducible apply keeps_ite_snd_snd | split)

theorem State.nbStore_keeps {z : State} (s : State) (c : Nat) (q : NbRecord) (mixed : Bool) (hK :
    Keeps z s) : Keeps z (State.nbStore s c q mixed) := by
  unfold State.nbStore
  try dsimp only
  repeat' (first | with_reducible assumption | intro _ | with_reducible apply State.each_keeps
                 | with_reducible apply State.drawn_keeps | with_reducible apply State.markRows_keeps
                 | with_reducible apply State.writeMem_keeps | with_reducible apply keeps_ite
                 | with_reducible apply keeps_ite_fst | with_reducible apply keeps_ite_snd
                 | with_reducible apply keeps_ite_snd_snd | with_reducible apply keepsO_map | with_reducible apply keepsO_mapOf
                 | split)

theorem State.abandonSequence_keeps {z : State} (s : State) (c : Nat) (bad : Bool) (hK :
    Keeps z s) : Keeps z (State.abandonSequence s c bad) := by
  unfold State.abandonSequence
  try dsimp only
  repeat' (first | with_reducible assumption | intro _ | with_reducible apply State.modColumn_keeps
                 | with_reducible apply State.modTier_keeps | with_reducible apply State.payRefs_keeps
                 | with_reducible apply State.nbStore_keeps | with_reducible apply keeps_ite
                 | with_reducible apply keeps_ite_fst | with_reducible apply keeps_ite_snd
                 | with_reducible apply keeps_ite_snd_snd | with_reducible apply keepsO_ite | with_reducible exact keepsO_none
                 | with_reducible apply keepsO_some | split)

theorem State.loadSequence_keeps {z : State} (s : State) (c : Nat) (q : NbRecord) (hK :
    Keeps z s) : Keeps z (State.loadSequence s c q) := by
  unfold State.loadSequence
  try dsimp only
  repeat' (first | with_reducible assumption | intro _ | with_reducible apply State.modColumn_keeps
                 | with_reducible apply State.modTier_keeps | with_reducible apply keeps_ite
                 | with_reducible apply keeps_ite_fst | with_reducible apply keeps_ite_snd
                 | with_reducible apply keeps_ite_snd_snd | with_reducible apply keepsO_ite | with_reducible exact keepsO_none
                 | with_reducible apply keepsO_some | with_reducible apply foldl_keeps | with_reducible apply foldl_keeps_fst
                 | with_reducible apply foldl_keeps_snd | with_reducible apply foldl_keeps_snd_snd
                 | with_reducible apply foldl_keeps_fst_fst | split)

theorem State.nbUncorrectable_keeps {z : State} (s : State) (c : Nat) (q : NbRecord) (a : Nat) (hK :
    Keeps z s) : Keeps z (State.nbUncorrectable s c q a) := by
  unfold State.nbUncorrectable
  try dsimp only
  repeat' (first | with_reducible assumption | intro _ | with_reducible apply State.countEcc_keeps
                 | with_reducible apply State.raise_keeps | with_reducible apply State.readStatus_keeps
                 | with_reducible apply State.abandonSequence_keeps | with_reducible apply keeps_ite
                 | with_reducible apply keeps_ite_fst | with_reducible apply keeps_ite_snd
                 | with_reducible apply keeps_ite_snd_snd | with_reducible apply keepsO_ite | with_reducible exact keepsO_none
                 | with_reducible apply keepsO_some | split)

theorem State.endSlice_keeps {z : State} (s : State) (c : Nat) (q : NbRecord) (u : Nat) (hK :
    Keeps z s) : Keeps z (State.endSlice s c q u) := by
  unfold State.endSlice
  try dsimp only
  repeat' (first | with_reducible assumption | intro _ | with_reducible apply State.modColumn_keeps
                 | with_reducible apply State.modTier_keeps | with_reducible apply State.payRefs_keeps
                 | with_reducible apply State.readStatus_keeps | with_reducible apply State.startSlice_keeps
                 | with_reducible apply keeps_ite | with_reducible apply keeps_ite_fst | with_reducible apply keeps_ite_snd
                 | with_reducible apply keeps_ite_snd_snd | split)

theorem State.tierCommand_keeps {z : State} (s : State) (c pos : Nat) (cmd : TierCmd) (f : Nat → State → State)
    (h : Keeps z s) (hf : ∀ k t, Keeps z t → Keeps z (f k t)) : Keeps z (State.tierCommand s c pos cmd f) := by
  unfold State.tierCommand
  try dsimp only
  repeat' (first | with_reducible assumption | intro _ | with_reducible apply hf | with_reducible apply State.each_keeps
                 | with_reducible apply State.modColumn_keeps | with_reducible apply State.drive_keeps
                 | with_reducible apply keeps_ite | with_reducible apply keeps_ite_fst | with_reducible apply keeps_ite_snd
                 | with_reducible apply keeps_ite_snd_snd | split)

theorem State.setRow_keeps {z : State} (s : State) (c t bank : Nat) (v : Option Nat) (hK :
    Keeps z s) : Keeps z (State.setRow s c t bank v) := by
  unfold State.setRow
  try dsimp only
  repeat' (first | with_reducible assumption | intro _ | with_reducible apply State.modTier_keeps
                 | with_reducible apply keeps_ite | with_reducible apply keeps_ite_fst | with_reducible apply keeps_ite_snd
                 | with_reducible apply keeps_ite_snd_snd | with_reducible apply keepsO_ite | with_reducible exact keepsO_none
                 | with_reducible apply keepsO_some | split)

theorem State.writeBurst_keeps {z : State} (s : State) (a : Nat) (data checks : List Byte) (hK :
    Keeps z s) : Keeps z (State.writeBurst s a data checks) := by
  unfold State.writeBurst
  try dsimp only
  repeat' (first | with_reducible assumption | intro _ | with_reducible apply Memory.wf_write
                 | with_reducible apply Memory.wf_erase | with_reducible apply foldl_tabWf | with_reducible apply tabWf_tabSet
                 | with_reducible apply genChecks_wf | with_reducible apply tabWf_filter | assumption
                 | with_reducible apply State.setMem_keeps | with_reducible apply State.setCheck_keeps
                 | with_reducible apply State.markRows_keeps | with_reducible apply keeps_ite
                 | with_reducible apply keeps_ite_fst | with_reducible apply keeps_ite_snd
                 | with_reducible apply keeps_ite_snd_snd | with_reducible apply foldl_keeps
                 | with_reducible apply foldl_keeps_fst | with_reducible apply foldl_keeps_snd
                 | with_reducible apply foldl_keeps_snd_snd | with_reducible apply foldl_keeps_fst_fst | split)

theorem State.contend_keeps {z : State} (s : State) (c pos : Nat) (hK : Keeps z s) : Keeps z (State.contend s c pos) := by
  unfold State.contend
  try dsimp only
  repeat' (first | with_reducible assumption | intro _ | with_reducible apply State.pinOpen_keeps
                 | with_reducible apply keeps_ite | with_reducible apply keeps_ite_fst | with_reducible apply keeps_ite_snd
                 | with_reducible apply keeps_ite_snd_snd | split)

theorem State.nbgoAt_keeps {z : State} (s : State) (c t units : Nat) (hK : Keeps z s) : Keeps z (State.nbgoAt s c t units) := by
  unfold State.nbgoAt
  try dsimp only
  repeat' (first | with_reducible assumption | intro _ | with_reducible apply State.modColumn_keeps
                 | with_reducible apply State.goSlice_keeps | with_reducible apply State.loadSequence_keeps
                 | with_reducible apply keeps_ite | with_reducible apply keeps_ite_fst | with_reducible apply keeps_ite_snd
                 | with_reducible apply keeps_ite_snd_snd | with_reducible apply keepsO_ite | with_reducible exact keepsO_none
                 | with_reducible apply keepsO_some | split)

/-! ## Landing -/

theorem State.putDest_keeps {z : State} (s : State) (c : Nat) (o : Op) (off : Nat) (bs : List Byte) (hK :
    Keeps z s) : Keeps z (State.putDest s c o off bs) := by
  unfold State.putDest
  try dsimp only
  repeat' (first | with_reducible assumption | intro _ | with_reducible apply State.modCore_keeps
                 | with_reducible apply State.writeStore_keeps | with_reducible apply keeps_ite
                 | with_reducible apply keeps_ite_fst | with_reducible apply keeps_ite_snd
                 | with_reducible apply keeps_ite_snd_snd | split)

theorem State.landWord_keeps {z : State} (s : State) (c : Nat) (o : Op) (bs : List Byte) (k : Nat) (hK :
    Keeps z s) : Keeps z (State.landWord s c o bs k) := by
  unfold State.landWord
  try dsimp only
  repeat' (first | with_reducible assumption | intro _ | with_reducible apply State.modCore_keeps
                 | with_reducible apply State.putDest_keeps | with_reducible apply keeps_ite
                 | with_reducible apply keeps_ite_fst | with_reducible apply keeps_ite_snd
                 | with_reducible apply keeps_ite_snd_snd | with_reducible apply keepsO_map | with_reducible apply keepsO_mapOf
                 | split)

theorem State.landSome_keeps {z : State} (s : State) (c : Nat) (o : Op) (hK : Keeps z s) : Keeps z (State.landSome s c o) := by
  unfold State.landSome
  try dsimp only
  repeat' (first | with_reducible assumption | intro _ | with_reducible apply State.each_keeps
                 | with_reducible apply State.landWord_keeps | with_reducible apply keeps_ite
                 | with_reducible apply keeps_ite_fst | with_reducible apply keeps_ite_snd
                 | with_reducible apply keeps_ite_snd_snd | with_reducible apply keepsO_ite | with_reducible exact keepsO_none
                 | with_reducible apply keepsO_some | split)

theorem State.landEarly_keeps {z : State} (s : State) (c : Nat) (hK : Keeps z s) : Keeps z (State.landEarly s c) := by
  unfold State.landEarly
  try dsimp only
  repeat' (first | with_reducible assumption | intro _ | with_reducible apply State.each_keeps
                 | with_reducible apply State.drawn_keeps | with_reducible apply State.landSome_keeps
                 | with_reducible apply keeps_ite | with_reducible apply keeps_ite_fst | with_reducible apply keeps_ite_snd
                 | with_reducible apply keeps_ite_snd_snd | split)

theorem State.landLoad_keeps {z : State} (s : State) (c : Nat) (o : Op) (bs : List Byte) (hK :
    Keeps z s) : Keeps z (State.landLoad s c o bs) := by
  unfold State.landLoad
  try dsimp only
  repeat' (first | with_reducible assumption | intro _ | with_reducible apply State.putDest_keeps
                 | with_reducible apply keeps_ite | with_reducible apply keeps_ite_fst | with_reducible apply keeps_ite_snd
                 | with_reducible apply keeps_ite_snd_snd | split)

/-! ## Issue -/

theorem State.shareHold_keeps {z : State} (s : State) (c : Nat) (hK : Keeps z s) : Keeps z (State.shareHold s c) := by
  unfold State.shareHold
  try dsimp only
  repeat' (first | with_reducible assumption | intro _ | with_reducible apply State.modSeq_keeps
                 | with_reducible apply keeps_ite | with_reducible apply keeps_ite_fst | with_reducible apply keeps_ite_snd
                 | with_reducible apply keeps_ite_snd_snd | with_reducible apply keepsO_ite | with_reducible exact keepsO_none
                 | with_reducible apply keepsO_some | with_reducible apply keepsO_map | with_reducible apply keepsO_mapOf
                 | split)

theorem State.settle_keeps {z : State} (s : State) (c : Nat) (hK : Keeps z s) : Keeps z (State.settle s c) := by
  unfold State.settle
  try dsimp only
  repeat' (first | with_reducible assumption | intro _ | with_reducible apply State.commitWhere_keeps
                 | with_reducible apply State.raiseCore_keeps | with_reducible apply keeps_ite
                 | with_reducible apply keeps_ite_fst | with_reducible apply keeps_ite_snd
                 | with_reducible apply keeps_ite_snd_snd | split)

theorem State.commitDue_keeps {z : State} (s : State) (c : Nat) (pick : Result → Bool) (hK :
    Keeps z s) : Keeps z (State.commitDue s c pick) := by
  unfold State.commitDue
  try dsimp only
  repeat' (first | with_reducible assumption | intro _ | with_reducible apply State.commitWhere_keeps
                 | with_reducible apply State.raiseCore_keeps | with_reducible apply keeps_ite
                 | with_reducible apply keeps_ite_fst | with_reducible apply keeps_ite_snd
                 | with_reducible apply keeps_ite_snd_snd | split)

theorem State.scheduleError_keeps {z : State} (s : State) (c cause : Nat) (hK :
    Keeps z s) : Keeps z (State.scheduleError s c cause) := by
  unfold State.scheduleError
  try dsimp only
  repeat' (first | with_reducible assumption | intro _ | with_reducible apply State.modSeq_keeps
                 | with_reducible apply State.raiseCore_keeps | with_reducible apply keeps_ite
                 | with_reducible apply keeps_ite_fst | with_reducible apply keeps_ite_snd
                 | with_reducible apply keeps_ite_snd_snd | split)

theorem State.bellRefusal_keeps {z : State} (s : State) (r k : Nat) (job : Option (PartId × Fin 16)) (tag : Option Nat) (hK :
    Keeps z s) : Keeps z (State.bellRefusal s r k job tag) := by
  unfold State.bellRefusal
  try dsimp only
  repeat' (first | with_reducible assumption | intro _ | with_reducible apply State.modChan_keeps
                 | with_reducible apply State.raise_keeps | with_reducible apply keeps_ite | with_reducible apply keeps_ite_fst
                 | with_reducible apply keeps_ite_snd | with_reducible apply keeps_ite_snd_snd | split)

theorem State.bundleError_keeps {z : State} (s : State) (c : Nat) (hK : Keeps z s) : Keeps z (State.bundleError s c) := by
  unfold State.bundleError
  try dsimp only
  repeat' (first | with_reducible assumption | intro _ | with_reducible apply State.scheduleError_keeps
                 | with_reducible apply State.bellRefusal_keeps | with_reducible apply keeps_ite
                 | with_reducible apply keeps_ite_fst | with_reducible apply keeps_ite_snd
                 | with_reducible apply keeps_ite_snd_snd | with_reducible apply keepsO_ite | with_reducible exact keepsO_none
                 | with_reducible apply keepsO_some | split)

theorem State.stage_keeps {z : State} (s : State) (c latency : Nat) (res : Result) (arith : BitVec 5) (hK :
    Keeps z s) : Keeps z (State.stage s c latency res arith) := by
  unfold State.stage
  try dsimp only
  repeat' (first | with_reducible assumption | intro _ | with_reducible apply State.modCore_keeps
                 | with_reducible apply keeps_ite | with_reducible apply keeps_ite_fst | with_reducible apply keeps_ite_snd
                 | with_reducible apply keeps_ite_snd_snd | split)

theorem State.checkEnded_keeps {z : State} (s : State) (j : PartId × Fin 16) (hK :
    Keeps z s) : Keeps z (State.checkEnded s j) := by
  unfold State.checkEnded
  try dsimp only
  repeat' (first | with_reducible assumption | intro _ | with_reducible apply State.modJob_keeps
                 | with_reducible apply keeps_ite | with_reducible apply keeps_ite_fst | with_reducible apply keeps_ite_snd
                 | with_reducible apply keeps_ite_snd_snd | with_reducible apply keepsO_ite | with_reducible exact keepsO_none
                 | with_reducible apply keepsO_some | split)

theorem State.finishBundle_keeps {z : State} (s : State) (c : Nat) (hK : Keeps z s) : Keeps z (State.finishBundle s c) := by
  unfold State.finishBundle
  try dsimp only
  repeat' (first | with_reducible assumption | intro _ | with_reducible apply State.modSeq_keeps
                 | with_reducible apply State.haltCore_keeps | with_reducible apply State.raiseCore_keeps
                 | with_reducible apply State.checkEnded_keeps | with_reducible apply keeps_ite
                 | with_reducible apply keeps_ite_fst | with_reducible apply keeps_ite_snd
                 | with_reducible apply keeps_ite_snd_snd | with_reducible apply keepsO_ite | with_reducible exact keepsO_none
                 | with_reducible apply keepsO_some | with_reducible apply keeps_getD | split)

theorem State.markSlot_keeps {z : State} (s : State) (c : Nat) (i : SlotName) (hK :
    Keeps z s) : Keeps z (State.markSlot s c i) := by
  unfold State.markSlot
  try dsimp only
  repeat' (first | with_reducible assumption | intro _ | with_reducible apply State.modSeq_keeps
                 | with_reducible apply State.finishBundle_keeps | with_reducible apply keeps_ite
                 | with_reducible apply keeps_ite_fst | with_reducible apply keeps_ite_snd
                 | with_reducible apply keeps_ite_snd_snd | split)

theorem State.fetchCount_keeps {z : State} (s : State) (c : Nat) (hK : Keeps z s) : Keeps z (State.fetchCount s c) := by
  unfold State.fetchCount
  try dsimp only
  repeat' (first | with_reducible assumption | intro _ | with_reducible apply State.readMem_keeps
                 | with_reducible apply State.raiseRead_keeps | with_reducible apply keeps_ite
                 | with_reducible apply keeps_ite_fst | with_reducible apply keeps_ite_snd
                 | with_reducible apply keeps_ite_snd_snd | with_reducible apply keepsO_ite | with_reducible exact keepsO_none
                 | with_reducible apply keepsO_some | split)

theorem State.issueSlot_keeps {z : State} (s : State) (c : Nat) (i : SlotName) (op : Nat) (effect : Nat → State → State)
    (h : Keeps z s) (hf : ∀ w t, Keeps z t → Keeps z (effect w t)) : Keeps z (State.issueSlot s c i op effect) := by
  unfold State.issueSlot
  try dsimp only
  repeat' (first | with_reducible assumption | intro _ | with_reducible apply hf | with_reducible apply State.landEarly_keeps
                 | with_reducible apply State.settle_keeps | with_reducible apply State.scheduleError_keeps
                 | with_reducible apply State.bundleError_keeps | with_reducible apply State.markSlot_keeps
                 | with_reducible apply State.fetchCount_keeps | with_reducible apply keeps_ite
                 | with_reducible apply keeps_ite_fst | with_reducible apply keeps_ite_snd
                 | with_reducible apply keeps_ite_snd_snd | split)

/-! ## LoadStore -/

theorem State.loadOwn_keeps {z : State} (s : State) (c off n : Nat) (hK : Keeps z s) : Keeps z (State.loadOwn s c off n).2.2 := by
  unfold State.loadOwn
  try dsimp only
  repeat' (first | with_reducible assumption | intro _ | with_reducible apply State.readOwn_keeps
                 | with_reducible apply keeps_ite | with_reducible apply keeps_ite_fst | with_reducible apply keeps_ite_snd
                 | with_reducible apply keeps_ite_snd_snd | split)

theorem ldvEffect_keeps {z : State} (c w : Nat) (s : State) (hK : Keeps z s) : Keeps z (ldvEffect c w s) := by
  unfold ldvEffect
  try dsimp only
  repeat' (first | with_reducible assumption | intro _ | with_reducible apply State.stage_keeps
                 | with_reducible apply State.loadOwn_keeps | with_reducible apply keeps_ite
                 | with_reducible apply keeps_ite_fst | with_reducible apply keeps_ite_snd
                 | with_reducible apply keeps_ite_snd_snd | split)

theorem stvEffect_keeps {z : State} (c w : Nat) (s : State) (hK : Keeps z s) : Keeps z (stvEffect c w s) := by
  unfold stvEffect
  try dsimp only
  repeat' (first | with_reducible assumption | intro _ | with_reducible apply State.stage_keeps | with_reducible apply keeps_ite
                 | with_reducible apply keeps_ite_fst | with_reducible apply keeps_ite_snd
                 | with_reducible apply keeps_ite_snd_snd | split)

theorem ldsEffect_keeps {z : State} (c w : Nat) (s : State) (hK : Keeps z s) : Keeps z (ldsEffect c w s) := by
  unfold ldsEffect
  try dsimp only
  repeat' (first | with_reducible assumption | intro _ | with_reducible apply State.stage_keeps
                 | with_reducible apply State.loadOwn_keeps | with_reducible apply keeps_ite
                 | with_reducible apply keeps_ite_fst | with_reducible apply keeps_ite_snd
                 | with_reducible apply keeps_ite_snd_snd | split)

theorem stsEffect_keeps {z : State} (c w : Nat) (s : State) (hK : Keeps z s) : Keeps z (stsEffect c w s) := by
  unfold stsEffect
  try dsimp only
  repeat' (first | with_reducible assumption | intro _ | with_reducible apply State.stage_keeps | with_reducible apply keeps_ite
                 | with_reducible apply keeps_ite_fst | with_reducible apply keeps_ite_snd
                 | with_reducible apply keeps_ite_snd_snd | split)

theorem ldtEffect_keeps {z : State} (c w : Nat) (s : State) (hK : Keeps z s) : Keeps z (ldtEffect c w s) := by
  unfold ldtEffect
  try dsimp only
  repeat' (first | with_reducible assumption | intro _ | with_reducible apply State.stage_keeps
                 | with_reducible apply State.loadOwn_keeps | with_reducible apply keeps_ite
                 | with_reducible apply keeps_ite_fst | with_reducible apply keeps_ite_snd
                 | with_reducible apply keeps_ite_snd_snd | split)

theorem State.newOp_keeps {z : State} (s : State) (c flag : Nat) (kind : OpKind) (refused : Bool) (hK :
    Keeps z s) : Keeps z (State.newOp s c flag kind refused) := by
  unfold State.newOp
  try dsimp only
  repeat' (first | with_reducible assumption | intro _ | with_reducible apply State.modCore_keeps
                 | with_reducible apply keeps_ite | with_reducible apply keeps_ite_fst | with_reducible apply keeps_ite_snd
                 | with_reducible apply keeps_ite_snd_snd | with_reducible apply keepsO_ite | with_reducible exact keepsO_none
                 | with_reducible apply keepsO_some | split)

theorem State.issueLoad_keeps {z : State} (s : State) (c flag a n : Nat) (kind : OpKind) (hK :
    Keeps z s) : Keeps z (State.issueLoad s c flag a n kind) := by
  unfold State.issueLoad
  try dsimp only
  repeat' (first | with_reducible assumption | intro _ | with_reducible apply State.issueReads_keeps
                 | with_reducible apply State.newOp_keeps | with_reducible apply keeps_ite | with_reducible apply keeps_ite_fst
                 | with_reducible apply keeps_ite_snd | with_reducible apply keeps_ite_snd_snd | split)

theorem vldEffect_keeps {z : State} (c w : Nat) (s : State) (hK : Keeps z s) : Keeps z (vldEffect c w s) := by
  unfold vldEffect
  try dsimp only
  repeat' (first | with_reducible assumption | intro _ | with_reducible apply State.issueLoad_keeps
                 | with_reducible apply keeps_ite | with_reducible apply keeps_ite_fst | with_reducible apply keeps_ite_snd
                 | with_reducible apply keeps_ite_snd_snd | split)

theorem vldvEffect_keeps {z : State} (c w : Nat) (s : State) (hK : Keeps z s) : Keeps z (vldvEffect c w s) := by
  unfold vldvEffect
  try dsimp only
  repeat' (first | with_reducible assumption | intro _ | with_reducible apply State.issueLoad_keeps
                 | with_reducible apply keeps_ite | with_reducible apply keeps_ite_fst | with_reducible apply keeps_ite_snd
                 | with_reducible apply keeps_ite_snd_snd | split)

theorem vstEffect_keeps {z : State} (c w : Nat) (s : State) (hK : Keeps z s) : Keeps z (vstEffect c w s) := by
  unfold vstEffect
  try dsimp only
  repeat' (first | with_reducible assumption | intro _ | with_reducible apply State.issueWrites_keeps
                 | with_reducible apply State.nbArrive_keeps | with_reducible apply State.loadOwn_keeps
                 | with_reducible apply State.newOp_keeps | with_reducible apply keeps_ite | with_reducible apply keeps_ite_fst
                 | with_reducible apply keeps_ite_snd | with_reducible apply keeps_ite_snd_snd | with_reducible apply keepsO_ite
                 | with_reducible exact keepsO_none | with_reducible apply keepsO_some | split)

theorem gstEffect_keeps {z : State} (c w : Nat) (s : State) (hK : Keeps z s) : Keeps z (gstEffect c w s) := by
  unfold gstEffect
  try dsimp only
  repeat' (first | with_reducible assumption | intro _ | with_reducible apply State.modCore_keeps
                 | with_reducible apply State.modSeq_keeps | with_reducible apply keeps_ite | with_reducible apply keeps_ite_fst
                 | with_reducible apply keeps_ite_snd | with_reducible apply keeps_ite_snd_snd | split)

theorem fenceEffect_keeps {z : State} (c w : Nat) (s : State) (hK : Keeps z s) : Keeps z (fenceEffect c w s) := by
  unfold fenceEffect
  try dsimp only
  repeat' (first | with_reducible assumption | intro _ | with_reducible apply State.newOp_keeps | with_reducible apply keeps_ite
                 | with_reducible apply keeps_ite_fst | with_reducible apply keeps_ite_snd
                 | with_reducible apply keeps_ite_snd_snd | split)

theorem State.opRefused_keeps {z : State} (s : State) (c : Nat) (o : Op) (hK : Keeps z s) : Keeps z (State.opRefused s c o) := by
  unfold State.opRefused
  try dsimp only
  repeat' (first | with_reducible assumption | intro _ | with_reducible apply State.raiseCore_keeps
                 | with_reducible apply State.dropAccesses_keeps | with_reducible apply State.completeOp_keeps
                 | with_reducible apply State.scheduleError_keeps | with_reducible apply keeps_ite
                 | with_reducible apply keeps_ite_fst | with_reducible apply keeps_ite_snd
                 | with_reducible apply keeps_ite_snd_snd | split)

theorem State.finishLoad_keeps {z : State} (s : State) (c : Nat) (o : Op) (hK :
    Keeps z s) : Keeps z (State.finishLoad s c o) := by
  unfold State.finishLoad
  try dsimp only
  repeat' (first | with_reducible assumption | intro _ | with_reducible apply State.drawn_keeps
                 | with_reducible apply State.readPieces_keeps | with_reducible apply State.dropAccesses_keeps
                 | with_reducible apply State.completeOp_keeps | with_reducible apply State.landLoad_keeps
                 | with_reducible apply State.opRefused_keeps | with_reducible apply keeps_ite
                 | with_reducible apply keeps_ite_fst | with_reducible apply keeps_ite_snd
                 | with_reducible apply keeps_ite_snd_snd | with_reducible apply keepsO_ite | with_reducible exact keepsO_none
                 | with_reducible apply keepsO_some | split)

theorem State.finishStore_keeps {z : State} (s : State) (c : Nat) (o : Op) (bs : List Byte) (hK :
    Keeps z s) : Keeps z (State.finishStore s c o bs) := by
  unfold State.finishStore
  try dsimp only
  repeat' (first | with_reducible assumption | intro _ | with_reducible apply State.writePieces_keeps
                 | with_reducible apply State.dropAccesses_keeps | with_reducible apply State.completeOp_keeps
                 | with_reducible apply State.opRefused_keeps | with_reducible apply keeps_ite
                 | with_reducible apply keeps_ite_fst | with_reducible apply keeps_ite_snd
                 | with_reducible apply keeps_ite_snd_snd | with_reducible apply keepsO_ite | with_reducible exact keepsO_none
                 | with_reducible apply keepsO_some | split)

theorem State.markFences_keeps {z : State} (s : State) (hK : Keeps z s) : Keeps z (State.markFences s) := by
  unfold State.markFences
  try dsimp only
  repeat' (first | with_reducible assumption | intro _ | with_reducible apply State.each_keeps
                 | with_reducible apply State.modCore_keeps | with_reducible apply keeps_ite
                 | with_reducible apply keeps_ite_fst | with_reducible apply keeps_ite_snd
                 | with_reducible apply keeps_ite_snd_snd | with_reducible apply keepsO_ite | with_reducible exact keepsO_none
                 | with_reducible apply keepsO_some | with_reducible apply keepsO_map | with_reducible apply keepsO_mapOf
                 | split)

/-! ## Sync -/

theorem State.putCounter_keeps {z : State} (s : State) (k : Nat) (v : BitVec 32) (hK :
    Keeps z s) : Keeps z (State.putCounter s k v) := by
  unfold State.putCounter
  try dsimp only
  repeat' (first | with_reducible assumption | intro _ | with_reducible apply tabWf_tabSet | with_reducible apply tabWf_filter
                 | exact tabWf_nil | with_reducible apply State.setSync_keeps | with_reducible apply keeps_ite
                 | with_reducible apply keeps_ite_fst | with_reducible apply keeps_ite_snd
                 | with_reducible apply keeps_ite_snd_snd | split)

theorem State.answerAdd_keeps {z : State} (s : State) (sat : Bool) (o : Origin) (hK :
    Keeps z s) : Keeps z (State.answerAdd s sat o) := by
  unfold State.answerAdd
  try dsimp only
  repeat' (first | with_reducible assumption | intro _ | with_reducible apply State.send_keeps | with_reducible apply keeps_ite
                 | with_reducible apply keeps_ite_fst | with_reducible apply keeps_ite_snd
                 | with_reducible apply keeps_ite_snd_snd | with_reducible apply keepsO_ite | with_reducible exact keepsO_none
                 | with_reducible apply keepsO_some | split)

theorem State.stirWatchers_keeps {z : State} (s : State) (k : Nat) (hK : Keeps z s) : Keeps z (State.stirWatchers s k) := by
  unfold State.stirWatchers
  try dsimp only
  repeat' (first | with_reducible assumption | intro _ | with_reducible apply State.each_keeps
                 | with_reducible apply State.modJob_keeps | with_reducible apply keeps_ite | with_reducible apply keeps_ite_fst
                 | with_reducible apply keeps_ite_snd | with_reducible apply keeps_ite_snd_snd | with_reducible apply keepsO_ite
                 | with_reducible exact keepsO_none | with_reducible apply keepsO_some | split)

theorem State.putShares_keeps {z : State} (s : State) (k : Nat) (l : Shares) (hK :
    Keeps z s) : Keeps z (State.putShares s k l) := by
  unfold State.putShares
  try dsimp only
  repeat' (first | with_reducible assumption | intro _ | with_reducible apply tabWf_tabSet | with_reducible apply tabWf_filter
                 | exact tabWf_nil | with_reducible apply State.setSync_keeps | with_reducible apply keeps_ite
                 | with_reducible apply keeps_ite_fst | with_reducible apply keeps_ite_snd
                 | with_reducible apply keeps_ite_snd_snd | split)

theorem State.addSum_keeps {z : State} (s : State) (k : Nat) (adds : List (BitVec 32 × Origin)) (hK :
    Keeps z s) : Keeps z (State.addSum s k adds) := by
  unfold State.addSum
  try dsimp only
  repeat' (first | with_reducible assumption | intro _ | with_reducible apply State.each_keeps
                 | with_reducible apply State.addField_keeps | with_reducible apply State.raise_keeps
                 | with_reducible apply State.endJob_keeps | with_reducible apply State.putCounter_keeps
                 | with_reducible apply State.answerAdd_keeps | with_reducible apply State.stirWatchers_keeps
                 | with_reducible apply State.putShares_keeps | with_reducible apply keeps_ite
                 | with_reducible apply keeps_ite_fst | with_reducible apply keeps_ite_snd
                 | with_reducible apply keeps_ite_snd_snd | with_reducible apply keepsO_ite | with_reducible exact keepsO_none
                 | with_reducible apply keepsO_some | with_reducible apply foldl_keeps | with_reducible apply foldl_keeps_fst
                 | with_reducible apply foldl_keeps_snd | with_reducible apply foldl_keeps_snd_snd
                 | with_reducible apply foldl_keeps_fst_fst | split)

theorem State.fire_keeps {z : State} (s : State) (w : WatchEntry) (hK : Keeps z s) : Keeps z (State.fire s w) := by
  unfold State.fire
  try dsimp only
  repeat' (first | with_reducible assumption | intro _ | with_reducible apply tabWf_tabSet | with_reducible apply tabWf_filter
                 | exact tabWf_nil | with_reducible apply State.setSync_keeps | with_reducible apply State.drawn_keeps
                 | with_reducible apply State.putReg_keeps | with_reducible apply State.modScout_keeps
                 | with_reducible apply State.arrive_keeps | with_reducible apply State.sendSync_keeps
                 | with_reducible apply State.putCounter_keeps | with_reducible apply State.putShares_keeps
                 | with_reducible apply keeps_ite | with_reducible apply keeps_ite_fst | with_reducible apply keeps_ite_snd
                 | with_reducible apply keeps_ite_snd_snd | with_reducible apply keepsO_ite | with_reducible exact keepsO_none
                 | with_reducible apply keepsO_some | split)

theorem State.evaluate_keeps {z : State} (s : State) (k : Nat) (hK : Keeps z s) : Keeps z (State.evaluate s k) := by
  unfold State.evaluate
  try dsimp only
  repeat' (first | with_reducible assumption | intro _ | with_reducible apply State.each_keeps
                 | with_reducible apply State.fire_keeps | with_reducible apply keeps_ite | with_reducible apply keeps_ite_fst
                 | with_reducible apply keeps_ite_snd | with_reducible apply keeps_ite_snd_snd | split)

theorem State.enterWatch_keeps {z : State} (s : State) (w : WatchEntry) (hK : Keeps z s) : Keeps z (State.enterWatch s w) := by
  unfold State.enterWatch
  try dsimp only
  repeat' (first | with_reducible assumption | intro _ | with_reducible apply tabWf_tabSet | with_reducible apply tabWf_filter
                 | exact tabWf_nil | with_reducible apply State.setSync_keeps | with_reducible apply keeps_ite
                 | with_reducible apply keeps_ite_fst | with_reducible apply keeps_ite_snd
                 | with_reducible apply keeps_ite_snd_snd | split)

theorem State.removeWatch_keeps {z : State} (s : State) (k : Nat) (who : Watcher) (hK :
    Keeps z s) : Keeps z (State.removeWatch s k who) := by
  unfold State.removeWatch
  try dsimp only
  repeat' (first | with_reducible assumption | intro _ | with_reducible apply tabWf_tabSet | with_reducible apply tabWf_filter
                 | exact tabWf_nil | with_reducible apply State.setSync_keeps | with_reducible apply keeps_ite
                 | with_reducible apply keeps_ite_fst | with_reducible apply keeps_ite_snd
                 | with_reducible apply keeps_ite_snd_snd | split)

theorem State.counterBeat_keeps {z : State} (s : State) (k : Nat) (ps : List Packet) (set : Option (BitVec 32)) (hK :
    Keeps z s) : Keeps z (State.counterBeat s k ps set) := by
  unfold State.counterBeat
  try dsimp only
  repeat' (first | with_reducible assumption | intro _ | with_reducible apply tabWf_tabSet | with_reducible apply tabWf_filter
                 | exact tabWf_nil | with_reducible apply State.setSync_keeps | with_reducible apply State.each_keeps
                 | with_reducible apply State.putCounter_keeps | with_reducible apply State.putShares_keeps
                 | with_reducible apply State.addSum_keeps | with_reducible apply State.evaluate_keeps
                 | with_reducible apply State.enterWatch_keeps | with_reducible apply State.removeWatch_keeps
                 | with_reducible apply keeps_ite | with_reducible apply keeps_ite_fst | with_reducible apply keeps_ite_snd
                 | with_reducible apply keeps_ite_snd_snd | with_reducible apply keepsO_ite | with_reducible exact keepsO_none
                 | with_reducible apply keepsO_some | split)

theorem State.beatNow_keeps {z : State} (s : State) (k : Nat) (ps : List Packet) (set : Option (BitVec 32)) (hK :
    Keeps z s) : Keeps z (State.beatNow s k ps set) := by
  unfold State.beatNow
  try dsimp only
  repeat' (first | with_reducible assumption | intro _ | with_reducible apply tabWf_tabSet | with_reducible apply tabWf_filter
                 | exact tabWf_nil | with_reducible apply State.setSync_keeps | with_reducible apply State.counterBeat_keeps
                 | with_reducible apply keeps_ite | with_reducible apply keeps_ite_fst | with_reducible apply keeps_ite_snd
                 | with_reducible apply keeps_ite_snd_snd | split)

theorem State.counterArrival_keeps {z : State} (s : State) (k : Nat) (pick : Packet → Bool) (hK :
    Keeps z s) : Keeps z (State.counterArrival s k pick) := by
  unfold State.counterArrival
  try dsimp only
  repeat' (first | with_reducible assumption | intro _ | with_reducible apply State.arrive_keeps
                 | with_reducible apply State.counterBeat_keeps | with_reducible apply State.beatNow_keeps
                 | with_reducible apply keeps_ite | with_reducible apply keeps_ite_fst | with_reducible apply keeps_ite_snd
                 | with_reducible apply keeps_ite_snd_snd | with_reducible apply keepsO_ite | with_reducible exact keepsO_none
                 | with_reducible apply keepsO_some | split)

theorem State.catchUp_keeps {z : State} (k fuel : Nat) (s : State) (h : Keeps z s) : Keeps z (State.catchUp k fuel s) := by
  induction fuel generalizing s with
  | zero => exact h
  | succ fuel ih =>
    unfold State.catchUp
    try dsimp only
    repeat' (first | with_reducible assumption | intro _ | with_reducible apply ih | with_reducible apply State.arrive_keeps
                   | with_reducible apply State.counterBeat_keeps | with_reducible apply keeps_ite
                   | with_reducible apply keeps_ite_fst | with_reducible apply keeps_ite_snd
                   | with_reducible apply keeps_ite_snd_snd | with_reducible apply keepsO_ite | with_reducible exact keepsO_none
                   | with_reducible apply keepsO_some | split)

theorem State.caughtUp_keeps {z : State} (s : State) (k : Nat) (hK : Keeps z s) : Keeps z (State.caughtUp s k) := by
  unfold State.caughtUp
  try dsimp only
  repeat' (first | with_reducible assumption | intro _ | with_reducible apply State.catchUp_keeps
                 | with_reducible apply keeps_ite | with_reducible apply keeps_ite_fst | with_reducible apply keeps_ite_snd
                 | with_reducible apply keeps_ite_snd_snd | split)

theorem State.counterRead_keeps {z : State} (s : State) (k : Nat) (hK : Keeps z s) : Keeps z (State.counterRead s k) := by
  unfold State.counterRead
  try dsimp only
  repeat' (first | with_reducible assumption | intro _ | with_reducible apply State.beatNow_keeps
                 | with_reducible apply State.caughtUp_keeps | with_reducible apply keeps_ite
                 | with_reducible apply keeps_ite_fst | with_reducible apply keeps_ite_snd
                 | with_reducible apply keeps_ite_snd_snd | with_reducible apply keepsO_ite | with_reducible exact keepsO_none
                 | with_reducible apply keepsO_some | split)

theorem State.writeCounter_keeps {z : State} (s : State) (k : Nat) (v : BitVec 32) (hK :
    Keeps z s) : KeepsO z (State.writeCounter s k v) := by
  unfold State.writeCounter
  try dsimp only
  repeat' (first | with_reducible assumption | intro _ | with_reducible apply State.beatNow_keeps
                 | with_reducible apply State.caughtUp_keeps | with_reducible apply keeps_ite
                 | with_reducible apply keeps_ite_fst | with_reducible apply keeps_ite_snd
                 | with_reducible apply keeps_ite_snd_snd | with_reducible apply keepsO_ite | with_reducible exact keepsO_none
                 | with_reducible apply keepsO_some | split)

theorem State.writeAdd_keeps {z : State} (s : State) (k : Nat) (v : BitVec 32) (path : Path) (tid : Option Nat) (hK :
    Keeps z s) : Keeps z (State.writeAdd s k v path tid) := by
  unfold State.writeAdd
  try dsimp only
  repeat' (first | with_reducible assumption | intro _ | with_reducible apply State.sendSync_keeps
                 | with_reducible apply keeps_ite | with_reducible apply keeps_ite_fst | with_reducible apply keeps_ite_snd
                 | with_reducible apply keeps_ite_snd_snd | split)

theorem State.writeHwatch_keeps {z : State} (s : State) (r : RegionId) (v : Nat) (hK :
    Keeps z s) : KeepsO z (State.writeHwatch s r v) := by
  unfold State.writeHwatch
  try dsimp only
  repeat' (first | with_reducible assumption | intro _ | with_reducible apply tabWf_tabSet | with_reducible apply tabWf_filter
                 | exact tabWf_nil | with_reducible apply State.setSync_keeps | with_reducible apply State.putReg_keeps
                 | with_reducible apply State.beatNow_keeps | with_reducible apply State.caughtUp_keeps
                 | with_reducible apply keeps_ite | with_reducible apply keeps_ite_fst | with_reducible apply keeps_ite_snd
                 | with_reducible apply keeps_ite_snd_snd | with_reducible apply keepsO_ite | with_reducible exact keepsO_none
                 | with_reducible apply keepsO_some | split)

theorem State.sendSignal_keeps {z : State} (s : State) (c : CoreId) (dest counter : Nat) (amount : BitVec 32)
    (job : Option (PartId × Fin 16)) (hK : Keeps z s) : Keeps z (State.sendSignal s c dest counter amount job) := by
  unfold State.sendSignal
  try dsimp only
  repeat' (first | with_reducible assumption | intro _ | with_reducible apply State.sendSync_keeps
                 | with_reducible apply State.peerIssue_keeps | with_reducible apply keeps_ite
                 | with_reducible apply keeps_ite_fst | with_reducible apply keeps_ite_snd
                 | with_reducible apply keeps_ite_snd_snd | split)

theorem State.declare_keeps {z : State} (s : State) (j : PartId × Fin 16) (r : Nat) (hK :
    Keeps z s) : Keeps z (State.declare s j r) := by
  unfold State.declare
  try dsimp only
  repeat' (first | with_reducible assumption | intro _ | with_reducible apply tabWf_tabSet | with_reducible apply tabWf_filter
                 | exact tabWf_nil | with_reducible apply State.setSync_keeps | with_reducible apply State.putReg_keeps
                 | with_reducible apply keeps_ite | with_reducible apply keeps_ite_fst | with_reducible apply keeps_ite_snd
                 | with_reducible apply keeps_ite_snd_snd | with_reducible apply keepsO_ite | with_reducible exact keepsO_none
                 | with_reducible apply keepsO_some | with_reducible apply keepsO_map | with_reducible apply keepsO_mapOf
                 | with_reducible apply foldl_keeps | with_reducible apply foldl_keeps_fst
                 | with_reducible apply foldl_keeps_snd | with_reducible apply foldl_keeps_snd_snd
                 | with_reducible apply foldl_keeps_fst_fst | split)

/-! ## ControlSlot -/

theorem waitEffect_keeps {z : State} (c w : Nat) (s : State) (hK : Keeps z s) : Keeps z (waitEffect c w s) := by
  unfold waitEffect
  try dsimp only
  repeat' (first | with_reducible assumption | intro _ | with_reducible apply State.modCore_keeps
                 | with_reducible apply State.modSeq_keeps | with_reducible apply keeps_ite | with_reducible apply keeps_ite_fst
                 | with_reducible apply keeps_ite_snd | with_reducible apply keeps_ite_snd_snd | with_reducible apply keepsO_ite
                 | with_reducible exact keepsO_none | with_reducible apply keepsO_some | split)

theorem watchEffect_keeps {z : State} (c w : Nat) (s : State) (hK : Keeps z s) : Keeps z (watchEffect c w s) := by
  unfold watchEffect
  try dsimp only
  repeat' (first | with_reducible assumption | intro _ | with_reducible apply State.modCore_keeps
                 | with_reducible apply State.sendSync_keeps | with_reducible apply keeps_ite
                 | with_reducible apply keeps_ite_fst | with_reducible apply keeps_ite_snd
                 | with_reducible apply keeps_ite_snd_snd | split)

theorem signalEffect_keeps {z : State} (c : Nat) (fenced : Bool) (w : Nat) (s : State) (hK :
    Keeps z s) : Keeps z (signalEffect c fenced w s) := by
  unfold signalEffect
  try dsimp only
  repeat' (first | with_reducible assumption | intro _ | with_reducible apply State.modCore_keeps
                 | with_reducible apply State.sendSignal_keeps | with_reducible apply keeps_ite
                 | with_reducible apply keeps_ite_fst | with_reducible apply keeps_ite_snd
                 | with_reducible apply keeps_ite_snd_snd | split)

theorem branch_keeps {z : State} (c w : Nat) (taken : Bool) (s : State) (hK : Keeps z s) : Keeps z (branch c w taken s) := by
  unfold branch
  try dsimp only
  repeat' (first | with_reducible assumption | intro _ | with_reducible apply State.modSeq_keeps
                 | with_reducible apply keeps_ite | with_reducible apply keeps_ite_fst | with_reducible apply keeps_ite_snd
                 | with_reducible apply keeps_ite_snd_snd | with_reducible apply keepsO_ite | with_reducible exact keepsO_none
                 | with_reducible apply keepsO_some | split)

theorem brdecEffect_keeps {z : State} (c w : Nat) (s : State) (hK : Keeps z s) : Keeps z (brdecEffect c w s) := by
  unfold brdecEffect
  try dsimp only
  repeat' (first | with_reducible assumption | intro _ | with_reducible apply State.stage_keeps
                 | with_reducible apply branch_keeps | with_reducible apply keeps_ite | with_reducible apply keeps_ite_fst
                 | with_reducible apply keeps_ite_snd | with_reducible apply keeps_ite_snd_snd | split)

theorem endEffect_keeps {z : State} (c _w : Nat) (s : State) (hK : Keeps z s) : Keeps z (endEffect c _w s) := by
  unfold endEffect
  try dsimp only
  repeat' (first | with_reducible assumption | intro _ | with_reducible apply State.modSeq_keeps
                 | with_reducible apply keeps_ite | with_reducible apply keeps_ite_fst | with_reducible apply keeps_ite_snd
                 | with_reducible apply keeps_ite_snd_snd | split)

theorem State.setBoost_keeps {z : State} (s : State) (c : Nat) (hK : Keeps z s) : Keeps z (State.setBoost s c) := by
  unfold State.setBoost
  try dsimp only
  repeat' (first | with_reducible assumption | intro _ | with_reducible apply State.modCore_keeps
                 | with_reducible apply keeps_ite | with_reducible apply keeps_ite_fst | with_reducible apply keeps_ite_snd
                 | with_reducible apply keeps_ite_snd_snd | split)

theorem State.hintExpired_keeps {z : State} (s : State) (c : Nat) (hK : Keeps z s) : Keeps z (State.hintExpired s c) := by
  unfold State.hintExpired
  try dsimp only
  repeat' (first | with_reducible assumption | intro _ | with_reducible apply State.addField_keeps
                 | with_reducible apply keeps_ite | with_reducible apply keeps_ite_fst | with_reducible apply keeps_ite_snd
                 | with_reducible apply keeps_ite_snd_snd | split)

theorem hintEffect_keeps {z : State} (c w : Nat) (s : State) (hK : Keeps z s) : Keeps z (hintEffect c w s) := by
  unfold hintEffect
  try dsimp only
  repeat' (first | with_reducible assumption | intro _ | with_reducible apply State.modCore_keeps
                 | with_reducible apply State.setBoost_keeps | with_reducible apply State.hintExpired_keeps
                 | with_reducible apply keeps_ite | with_reducible apply keeps_ite_fst | with_reducible apply keeps_ite_snd
                 | with_reducible apply keeps_ite_snd_snd | with_reducible apply keepsO_ite | with_reducible exact keepsO_none
                 | with_reducible apply keepsO_some | split)

theorem phaseEffect_keeps {z : State} (c w : Nat) (s : State) (hK : Keeps z s) : Keeps z (phaseEffect c w s) := by
  unfold phaseEffect
  try dsimp only
  repeat' (first | with_reducible assumption | intro _ | with_reducible apply State.modCore_keeps
                 | with_reducible apply State.modSeq_keeps | with_reducible apply State.modPower_keeps
                 | with_reducible apply State.addField_keeps | with_reducible apply State.setBoost_keeps
                 | with_reducible apply keeps_ite | with_reducible apply keeps_ite_fst | with_reducible apply keeps_ite_snd
                 | with_reducible apply keeps_ite_snd_snd | with_reducible apply keepsO_ite | with_reducible exact keepsO_none
                 | with_reducible apply keepsO_some | with_reducible apply keepsO_map | with_reducible apply keepsO_mapOf
                 | split)

theorem scalarEffect_keeps {z : State} (latency : Nat) (f : BitVec 64 → BitVec 64 → BitVec 64) (c w : Nat) (s : State) (hK :
    Keeps z s) : Keeps z (scalarEffect latency f c w s) := by
  unfold scalarEffect
  try dsimp only
  repeat' (first | with_reducible assumption | intro _ | with_reducible apply State.stage_keeps | with_reducible apply keeps_ite
                 | with_reducible apply keeps_ite_fst | with_reducible apply keeps_ite_snd
                 | with_reducible apply keeps_ite_snd_snd | split)

theorem smovhiEffect_keeps {z : State} (c w : Nat) (s : State) (hK : Keeps z s) : Keeps z (smovhiEffect c w s) := by
  unfold smovhiEffect
  try dsimp only
  repeat' (first | with_reducible assumption | intro _ | with_reducible apply State.stage_keeps | with_reducible apply keeps_ite
                 | with_reducible apply keeps_ite_fst | with_reducible apply keeps_ite_snd
                 | with_reducible apply keeps_ite_snd_snd | split)

/-! ## Dma -/

theorem State.dmaEvent_keeps {z : State} (s : State) (src r k : Nat) (hK : Keeps z s) : Keeps z (State.dmaEvent s src r k) := by
  unfold State.dmaEvent
  try dsimp only
  repeat' (first | with_reducible assumption | intro _ | with_reducible apply State.raise_keeps | with_reducible apply keeps_ite
                 | with_reducible apply keeps_ite_fst | with_reducible apply keeps_ite_snd
                 | with_reducible apply keeps_ite_snd_snd | split)

theorem State.takeBell_keeps {z : State} (s : State) (r k : Nat) (who : Ringer) (hK :
    Keeps z s) : Keeps z (State.takeBell s r k who) := by
  unfold State.takeBell
  try dsimp only
  repeat' (first | with_reducible assumption | intro _ | with_reducible apply State.modChan_keeps
                 | with_reducible apply keeps_ite | with_reducible apply keeps_ite_fst | with_reducible apply keeps_ite_snd
                 | with_reducible apply keeps_ite_snd_snd | with_reducible apply keepsO_ite | with_reducible exact keepsO_none
                 | with_reducible apply keepsO_some | split)

theorem dbellEffect_keeps {z : State} (c w : Nat) (s : State) (hK : Keeps z s) : Keeps z (dbellEffect c w s) := by
  unfold dbellEffect
  try dsimp only
  repeat' (first | with_reducible assumption | intro _ | with_reducible apply State.takeBell_keeps
                 | with_reducible apply keeps_ite | with_reducible apply keeps_ite_fst | with_reducible apply keeps_ite_snd
                 | with_reducible apply keeps_ite_snd_snd | with_reducible apply keepsO_ite | with_reducible exact keepsO_none
                 | with_reducible apply keepsO_some | split)

theorem State.readOwned_keeps {z : State} (s : State) (p a n : Nat) (job : Option (PartId × Fin 16)) (tag : Option Nat) (hK :
    Keeps z s) : Keeps z (State.readOwned s p a n job tag).2 := by
  unfold State.readOwned
  try dsimp only
  repeat' (first | with_reducible assumption | intro _ | with_reducible apply State.readPieces_keeps
                 | with_reducible apply keeps_ite | with_reducible apply keeps_ite_fst | with_reducible apply keeps_ite_snd
                 | with_reducible apply keeps_ite_snd_snd | split)

theorem State.dmaFail_keeps {z : State} (s : State) (r k cause : Nat) (hK : Keeps z s) : Keeps z (State.dmaFail s r k cause) := by
  unfold State.dmaFail
  try dsimp only
  repeat' (first | with_reducible assumption | intro _ | with_reducible apply State.modChan_keeps
                 | with_reducible apply keeps_ite | with_reducible apply keeps_ite_fst | with_reducible apply keeps_ite_snd
                 | with_reducible apply keeps_ite_snd_snd | with_reducible apply keepsO_ite | with_reducible exact keepsO_none
                 | with_reducible apply keepsO_some | split)

theorem State.dmaOutside_keeps {z : State} (s : State) (r k : Nat) (l : List Piece) (hK :
    Keeps z s) : Keeps z (State.dmaOutside s r k l) := by
  unfold State.dmaOutside
  try dsimp only
  repeat' (first | with_reducible assumption | intro _ | with_reducible apply State.raise_keeps | with_reducible apply keeps_ite
                 | with_reducible apply keeps_ite_fst | with_reducible apply keeps_ite_snd
                 | with_reducible apply keeps_ite_snd_snd | split)

theorem State.dmaRefuse_keeps {z : State} (s : State) (r k p a n : Nat) (hK :
    Keeps z s) : Keeps z (State.dmaRefuse s r k p a n) := by
  unfold State.dmaRefuse
  try dsimp only
  repeat' (first | with_reducible assumption | intro _ | with_reducible apply State.dmaFail_keeps
                 | with_reducible apply State.dmaOutside_keeps | with_reducible apply keeps_ite
                 | with_reducible apply keeps_ite_fst | with_reducible apply keeps_ite_snd
                 | with_reducible apply keeps_ite_snd_snd | split)

theorem State.dmaIssueRead_keeps {z : State} (s : State) (r : RegionId) (k : ChanId) (hK :
    Keeps z s) : Keeps z (State.dmaIssueRead s r k) := by
  unfold State.dmaIssueRead
  try dsimp only
  repeat' (first | with_reducible assumption | intro _ | with_reducible apply State.modChan_keeps
                 | with_reducible apply State.issueReads_keeps | with_reducible apply keeps_ite
                 | with_reducible apply keeps_ite_fst | with_reducible apply keeps_ite_snd
                 | with_reducible apply keeps_ite_snd_snd | with_reducible apply keepsO_ite | with_reducible exact keepsO_none
                 | with_reducible apply keepsO_some | split)

theorem State.dmaStart_keeps {z : State} (s : State) (r : RegionId) (k : ChanId) (p w0 w1 w2 w3 : Nat) (segs : List Segment) (hK :
    Keeps z s) : Keeps z (State.dmaStart s r k p w0 w1 w2 w3 segs) := by
  unfold State.dmaStart
  try dsimp only
  repeat' (first | with_reducible assumption | intro _ | with_reducible apply State.modChan_keeps
                 | with_reducible apply State.dmaFail_keeps | with_reducible apply State.dmaOutside_keeps
                 | with_reducible apply State.dmaIssueRead_keeps | with_reducible apply keeps_ite
                 | with_reducible apply keeps_ite_fst | with_reducible apply keeps_ite_snd
                 | with_reducible apply keeps_ite_snd_snd | with_reducible apply keepsO_ite | with_reducible exact keepsO_none
                 | with_reducible apply keepsO_some | split)

theorem State.dmaEntries_keeps {z : State} (s : State) (r : RegionId) (k : ChanId) (p w0 w1 w2 w3 n : Nat) (job : Option (PartId × Fin 16))
    (tag : Option Nat) (hK : Keeps z s) : Keeps z (State.dmaEntries s r k p w0 w1 w2 w3 n job tag) := by
  unfold State.dmaEntries
  try dsimp only
  repeat' (first | with_reducible assumption | intro _ | with_reducible apply State.readOwned_keeps
                 | with_reducible apply State.dmaFail_keeps | with_reducible apply State.dmaRefuse_keeps
                 | with_reducible apply State.dmaStart_keeps | with_reducible apply keeps_ite
                 | with_reducible apply keeps_ite_fst | with_reducible apply keeps_ite_snd
                 | with_reducible apply keeps_ite_snd_snd | with_reducible apply keepsO_ite | with_reducible exact keepsO_none
                 | with_reducible apply keepsO_some | with_reducible apply foldl_keeps | with_reducible apply foldl_keeps_fst
                 | with_reducible apply foldl_keeps_snd | with_reducible apply foldl_keeps_snd_snd
                 | with_reducible apply foldl_keeps_fst_fst | split)

theorem State.dmaList_keeps {z : State} (s : State) (r : RegionId) (k : ChanId) (p w0 w1 w2 w3 : Nat) (job : Option (PartId × Fin 16))
    (tag : Option Nat) (hK : Keeps z s) : Keeps z (State.dmaList s r k p w0 w1 w2 w3 job tag) := by
  unfold State.dmaList
  try dsimp only
  repeat' (first | with_reducible assumption | intro _ | with_reducible apply State.readOwned_keeps
                 | with_reducible apply State.dmaFail_keeps | with_reducible apply State.dmaRefuse_keeps
                 | with_reducible apply State.dmaEntries_keeps | with_reducible apply keeps_ite
                 | with_reducible apply keeps_ite_fst | with_reducible apply keeps_ite_snd
                 | with_reducible apply keeps_ite_snd_snd | split)

theorem State.dmaDescriptor_keeps {z : State} (s : State) (r : RegionId) (k : ChanId) (p : Nat) (bs : List Byte)
    (job : Option (PartId × Fin 16)) (tag : Option Nat) (hK : Keeps z s) : Keeps z (State.dmaDescriptor s r k p bs job tag) := by
  unfold State.dmaDescriptor
  try dsimp only
  repeat' (first | with_reducible assumption | intro _ | with_reducible apply State.dmaFail_keeps
                 | with_reducible apply State.dmaStart_keeps | with_reducible apply State.dmaList_keeps
                 | with_reducible apply keeps_ite | with_reducible apply keeps_ite_fst | with_reducible apply keeps_ite_snd
                 | with_reducible apply keeps_ite_snd_snd | split)

theorem State.dmaReread_keeps {z : State} (s : State) (r k : Nat) (bs : List Byte) (hK :
    Keeps z s) : Keeps z (State.dmaReread s r k bs) := by
  unfold State.dmaReread
  try dsimp only
  repeat' (first | with_reducible assumption | intro _ | with_reducible apply State.modChan_keeps
                 | with_reducible apply State.dmaFail_keeps | with_reducible apply keeps_ite
                 | with_reducible apply keeps_ite_fst | with_reducible apply keeps_ite_snd
                 | with_reducible apply keeps_ite_snd_snd | with_reducible apply keepsO_ite | with_reducible exact keepsO_none
                 | with_reducible apply keepsO_some | split)

theorem State.fetchReturn_keeps {z : State} (s : State) (region : RegionId) (chan : ChanId) (hK :
    Keeps z s) : Keeps z (State.fetchReturn s region chan) := by
  unfold State.fetchReturn
  try dsimp only
  repeat' (first | with_reducible assumption | intro _ | with_reducible apply State.modChan_keeps
                 | with_reducible apply State.readOwned_keeps | with_reducible apply State.dmaFail_keeps
                 | with_reducible apply State.dmaRefuse_keeps | with_reducible apply State.dmaDescriptor_keeps
                 | with_reducible apply State.dmaReread_keeps | with_reducible apply keeps_ite
                 | with_reducible apply keeps_ite_fst | with_reducible apply keeps_ite_snd
                 | with_reducible apply keeps_ite_snd_snd | with_reducible apply keepsO_ite | with_reducible exact keepsO_none
                 | with_reducible apply keepsO_some | with_reducible apply keeps_getD | split)

theorem State.dmaDrainOne_keeps {z : State} (s : State) (r : RegionId) (k : ChanId) (hK :
    Keeps z s) : Keeps z (State.dmaDrainOne s r k) := by
  unfold State.dmaDrainOne
  try dsimp only
  repeat' (first | with_reducible assumption | intro _ | with_reducible apply State.each_keeps
                 | with_reducible apply State.modChan_keeps | with_reducible apply State.issueWrites_keeps
                 | with_reducible apply keeps_ite | with_reducible apply keeps_ite_fst | with_reducible apply keeps_ite_snd
                 | with_reducible apply keeps_ite_snd_snd | with_reducible apply keepsO_ite | with_reducible exact keepsO_none
                 | with_reducible apply keepsO_some | split)

theorem State.dmaCheckValue_keeps {z : State} (s : State) (r : RegionId) (k : ChanId) (hK :
    Keeps z s) : Keeps z (State.dmaCheckValue s r k) := by
  unfold State.dmaCheckValue
  try dsimp only
  repeat' (first | with_reducible assumption | intro _ | with_reducible apply State.modChan_keeps
                 | with_reducible apply State.dmaFail_keeps | with_reducible apply State.dmaOutside_keeps
                 | with_reducible apply keeps_ite | with_reducible apply keeps_ite_fst | with_reducible apply keeps_ite_snd
                 | with_reducible apply keeps_ite_snd_snd | with_reducible apply keepsO_ite | with_reducible exact keepsO_none
                 | with_reducible apply keepsO_some | split)

theorem State.dmaGo_keeps {z : State} (s : State) (r : RegionId) (k : ChanId) (hK : Keeps z s) : Keeps z (State.dmaGo s r k) := by
  unfold State.dmaGo
  try dsimp only
  repeat' (first | with_reducible assumption | intro _ | with_reducible apply State.dmaIssueRead_keeps
                 | with_reducible apply State.dmaDrainOne_keeps | with_reducible apply State.dmaCheckValue_keeps
                 | with_reducible apply keeps_ite | with_reducible apply keeps_ite_fst | with_reducible apply keeps_ite_snd
                 | with_reducible apply keeps_ite_snd_snd | split)

theorem State.dmaLand_keeps {z : State} (s : State) (r : RegionId) (k : ChanId) (q : Running) (g : Segment) (n : Nat) (bs : List Byte) (hK :
    Keeps z s) : Keeps z (State.dmaLand s r k q g n bs) := by
  unfold State.dmaLand
  try dsimp only
  repeat' (first | with_reducible assumption | intro _ | with_reducible apply State.modChan_keeps
                 | with_reducible apply State.dmaGo_keeps | with_reducible apply keeps_ite | with_reducible apply keeps_ite_fst
                 | with_reducible apply keeps_ite_snd | with_reducible apply keeps_ite_snd_snd | with_reducible apply keepsO_ite
                 | with_reducible exact keepsO_none | with_reducible apply keepsO_some | split)

theorem State.dmaSignal_keeps {z : State} (s : State) (r : RegionId) (word0 : BitVec 64) (attr : Option Ringer) (hK :
    Keeps z s) : Keeps z (State.dmaSignal s r word0 attr) := by
  unfold State.dmaSignal
  try dsimp only
  repeat' (first | with_reducible assumption | intro _ | with_reducible apply State.sendSync_keeps
                 | with_reducible apply keeps_ite | with_reducible apply keeps_ite_fst | with_reducible apply keeps_ite_snd
                 | with_reducible apply keeps_ite_snd_snd | split)

theorem State.dmaSweep_keeps {z : State} (s : State) (r : RegionId) (k : ChanId) (hK :
    Keeps z s) : Keeps z (State.dmaSweep s r k) := by
  unfold State.dmaSweep
  try dsimp only
  repeat' (first | with_reducible assumption | intro _ | with_reducible apply State.each_keeps
                 | with_reducible apply State.forgetAccess_keeps | with_reducible apply keeps_ite
                 | with_reducible apply keeps_ite_fst | with_reducible apply keeps_ite_snd
                 | with_reducible apply keeps_ite_snd_snd | split)

theorem State.abortChan_keeps {z : State} (s : State) (r : RegionId) (k : ChanId) (hK :
    Keeps z s) : Keeps z (State.abortChan s r k) := by
  unfold State.abortChan
  try dsimp only
  repeat' (first | with_reducible assumption | intro _ | with_reducible apply State.each_keeps
                 | with_reducible apply State.modChan_keeps | with_reducible apply State.dmaSignal_keeps
                 | with_reducible apply State.dmaSweep_keeps | with_reducible apply keeps_ite
                 | with_reducible apply keeps_ite_fst | with_reducible apply keeps_ite_snd
                 | with_reducible apply keeps_ite_snd_snd | with_reducible apply keepsO_ite | with_reducible exact keepsO_none
                 | with_reducible apply keepsO_some | split)

theorem State.writeAlloc_keeps {z : State} (s : State) (r k n : Nat) (hK : Keeps z s) : KeepsO z (State.writeAlloc s r k n) := by
  unfold State.writeAlloc
  try dsimp only
  repeat' (first | with_reducible assumption | intro _ | with_reducible apply State.modChan_keeps
                 | with_reducible apply keeps_ite | with_reducible apply keeps_ite_fst | with_reducible apply keeps_ite_snd
                 | with_reducible apply keeps_ite_snd_snd | with_reducible apply keepsO_ite | with_reducible exact keepsO_none
                 | with_reducible apply keepsO_some | split)

/-! ## Keeper -/

theorem State.breakTable_keeps {z : State} (s : State) (p : Nat) (job : Option (PartId × Fin 16)) (hK :
    Keeps z s) : Keeps z (State.breakTable s p job) := by
  unfold State.breakTable
  try dsimp only
  repeat' (first | with_reducible assumption | intro _ | with_reducible apply State.modKeeper_keeps
                 | with_reducible apply State.raise_keeps | with_reducible apply keeps_ite | with_reducible apply keeps_ite_fst
                 | with_reducible apply keeps_ite_snd | with_reducible apply keeps_ite_snd_snd | with_reducible apply keepsO_ite
                 | with_reducible exact keepsO_none | with_reducible apply keepsO_some | split)

theorem State.readEntry_keeps {z : State} (s : State) (p pn : Nat) (job : Option (PartId × Fin 16)) (hK :
    Keeps z s) : Keeps z (State.readEntry s p pn job).2 := by
  unfold State.readEntry
  try dsimp only
  repeat' (first | with_reducible assumption | intro _ | with_reducible apply State.readOwned_keeps
                 | with_reducible apply State.breakTable_keeps | with_reducible apply keeps_ite
                 | with_reducible apply keeps_ite_fst | with_reducible apply keeps_ite_snd
                 | with_reducible apply keeps_ite_snd_snd | with_reducible apply keepsO_ite | with_reducible exact keepsO_none
                 | with_reducible apply keepsO_some | split)

theorem State.putOwned_keeps {z : State} (s : State) (p a : Nat) (bs : List Byte) (job : Option (PartId × Fin 16)) (hK :
    Keeps z s) : Keeps z (State.putOwned s p a bs job).1 := by
  unfold State.putOwned
  try dsimp only
  repeat' (first | with_reducible assumption | intro _ | with_reducible apply State.writePieces_keeps
                 | with_reducible apply keeps_ite | with_reducible apply keeps_ite_fst | with_reducible apply keeps_ite_snd
                 | with_reducible apply keeps_ite_snd_snd | with_reducible apply keepsO_ite | with_reducible exact keepsO_none
                 | with_reducible apply keepsO_some | split)

theorem State.writeEntry_keeps {z : State} (s : State) (p pn : Nat) (e : PageEntry) (job : Option (PartId × Fin 16)) (hK :
    Keeps z s) : Keeps z (State.writeEntry s p pn e job) := by
  unfold State.writeEntry
  try dsimp only
  repeat' (first | with_reducible assumption | intro _ | with_reducible apply State.breakTable_keeps
                 | with_reducible apply State.putOwned_keeps | with_reducible apply keeps_ite
                 | with_reducible apply keeps_ite_fst | with_reducible apply keeps_ite_snd
                 | with_reducible apply keeps_ite_snd_snd | split)

theorem State.pushFree_keeps {z : State} (s : State) (p pn addr : Nat) (job : Option (PartId × Fin 16)) (hK :
    Keeps z s) : Keeps z (State.pushFree s p pn addr job) := by
  unfold State.pushFree
  try dsimp only
  repeat' (first | with_reducible assumption | intro _ | with_reducible apply State.modKeeper_keeps
                 | with_reducible apply State.writeEntry_keeps | with_reducible apply keeps_ite
                 | with_reducible apply keeps_ite_fst | with_reducible apply keeps_ite_snd
                 | with_reducible apply keeps_ite_snd_snd | split)

theorem State.popFree_keeps {z : State} (s : State) (p : Nat) (job : Option (PartId × Fin 16)) (hK :
    Keeps z s) : Keeps z (State.popFree s p job).2 := by
  unfold State.popFree
  try dsimp only
  repeat' (first | with_reducible assumption | intro _ | with_reducible apply State.modKeeper_keeps
                 | with_reducible apply State.readEntry_keeps | with_reducible apply keeps_ite
                 | with_reducible apply keeps_ite_fst | with_reducible apply keeps_ite_snd
                 | with_reducible apply keeps_ite_snd_snd | with_reducible apply keepsO_ite | with_reducible exact keepsO_none
                 | with_reducible apply keepsO_some | split)

theorem State.modCall_keeps {z : State} (s : State) (id : Nat) (f : PgkCall → PgkCall) (hK :
    Keeps z s) : Keeps z (State.modCall s id f) := by
  unfold State.modCall
  try dsimp only
  repeat' (first | with_reducible assumption | intro _ | with_reducible apply State.setPgk_keeps
                 | with_reducible apply keeps_ite | with_reducible apply keeps_ite_fst | with_reducible apply keeps_ite_snd
                 | with_reducible apply keeps_ite_snd_snd | with_reducible apply keepsO_map | with_reducible apply keepsO_mapOf
                 | split)

theorem State.namedEntry_keeps {z : State} (s : State) (x : PgkCall) (hK : Keeps z s) : Keeps z (State.namedEntry s x).2 := by
  unfold State.namedEntry
  try dsimp only
  repeat' (first | with_reducible assumption | intro _ | with_reducible apply State.readEntry_keeps
                 | with_reducible apply keeps_ite | with_reducible apply keeps_ite_fst | with_reducible apply keeps_ite_snd
                 | with_reducible apply keeps_ite_snd_snd | with_reducible apply keepsO_ite | with_reducible exact keepsO_none
                 | with_reducible apply keepsO_some | split)

theorem State.startDescriptor_keeps {z : State} (s : State) (x : PgkCall) (old new : PageEntry) (pn : Nat) (hK :
    Keeps z s) : Keeps z (State.startDescriptor s x old new pn) := by
  unfold State.startDescriptor
  try dsimp only
  repeat' (first | with_reducible assumption | intro _ | with_reducible apply State.drawn_keeps
                 | with_reducible apply State.modChan_keeps | with_reducible apply State.readPieces_keeps
                 | with_reducible apply State.dmaFail_keeps | with_reducible apply State.dmaOutside_keeps
                 | with_reducible apply State.dmaIssueRead_keeps | with_reducible apply keeps_ite
                 | with_reducible apply keeps_ite_fst | with_reducible apply keeps_ite_snd
                 | with_reducible apply keeps_ite_snd_snd | with_reducible apply keepsO_ite | with_reducible exact keepsO_none
                 | with_reducible apply keepsO_some | split)

theorem State.startCopy_keeps {z : State} (s : State) (x : PgkCall) (hK : Keeps z s) : Keeps z (State.startCopy s x) := by
  unfold State.startCopy
  try dsimp only
  repeat' (first | with_reducible assumption | intro _ | with_reducible apply State.popFree_keeps
                 | with_reducible apply State.modCall_keeps | with_reducible apply State.namedEntry_keeps
                 | with_reducible apply State.startDescriptor_keeps | with_reducible apply keeps_ite
                 | with_reducible apply keeps_ite_fst | with_reducible apply keeps_ite_snd
                 | with_reducible apply keeps_ite_snd_snd | with_reducible apply keepsO_ite | with_reducible exact keepsO_none
                 | with_reducible apply keepsO_some | split)

theorem State.startCopies_keeps {z : State} (s : State) (hK : Keeps z s) : Keeps z (State.startCopies s) := by
  unfold State.startCopies
  try dsimp only
  repeat' (first | with_reducible assumption | intro _ | with_reducible apply State.each_keeps
                 | with_reducible apply State.startCopy_keeps | with_reducible apply keeps_ite
                 | with_reducible apply keeps_ite_fst | with_reducible apply keeps_ite_snd
                 | with_reducible apply keeps_ite_snd_snd | with_reducible apply foldl_keeps
                 | with_reducible apply foldl_keeps_fst | with_reducible apply foldl_keeps_snd
                 | with_reducible apply foldl_keeps_snd_snd | with_reducible apply foldl_keeps_fst_fst | split)

theorem State.newCall_keeps {z : State} (s : State) (part : PartId) (op : PgkOp) (pn : BitVec 32) (n : Nat) (caller : Caller) (hK :
    Keeps z s) : Keeps z (State.newCall s part op pn n caller) := by
  unfold State.newCall
  try dsimp only
  repeat' (first | with_reducible assumption | intro _ | with_reducible apply State.setPgk_keeps
                 | with_reducible apply keeps_ite | with_reducible apply keeps_ite_fst | with_reducible apply keeps_ite_snd
                 | with_reducible apply keeps_ite_snd_snd | with_reducible apply keepsO_ite | with_reducible exact keepsO_none
                 | with_reducible apply keepsO_some | split)

theorem pgkEffect_keeps {z : State} (c w : Nat) (s : State) (hK : Keeps z s) : Keeps z (pgkEffect c w s) := by
  unfold pgkEffect
  try dsimp only
  repeat' (first | with_reducible assumption | intro _ | with_reducible apply State.newOp_keeps
                 | with_reducible apply State.newCall_keeps | with_reducible apply keeps_ite
                 | with_reducible apply keeps_ite_fst | with_reducible apply keeps_ite_snd
                 | with_reducible apply keeps_ite_snd_snd | with_reducible apply keepsO_ite | with_reducible exact keepsO_none
                 | with_reducible apply keepsO_some | split)

theorem State.pgkSlot_keeps {z : State} (s : State) (c sub : Nat) (hK : Keeps z s) : Keeps z (State.pgkSlot s c sub) := by
  unfold State.pgkSlot
  try dsimp only
  repeat' (first | with_reducible assumption | intro _ | with_reducible apply State.settle_keeps
                 | with_reducible apply State.issueSlot_keeps | with_reducible apply pgkEffect_keeps
                 | with_reducible apply keeps_ite | with_reducible apply keeps_ite_fst | with_reducible apply keeps_ite_snd
                 | with_reducible apply keeps_ite_snd_snd | split)

theorem State.updateEntry_keeps {z : State} (s : State) (p pn : Nat) (old new : PageEntry) (job : Option (PartId × Fin 16)) (hK :
    Keeps z s) : Keeps z (State.updateEntry s p pn old new job) := by
  unfold State.updateEntry
  try dsimp only
  repeat' (first | with_reducible assumption | intro _ | with_reducible apply State.writeEntry_keeps
                 | with_reducible apply State.pushFree_keeps | with_reducible apply keeps_ite
                 | with_reducible apply keeps_ite_fst | with_reducible apply keeps_ite_snd
                 | with_reducible apply keeps_ite_snd_snd | split)

theorem State.allocate_keeps {z : State} (s : State) (x : PgkCall) (hK : Keeps z s) : Keeps z (State.allocate s x).2.2 := by
  unfold State.allocate
  try dsimp only
  repeat' (first | with_reducible assumption | intro _ | with_reducible apply State.raise_keeps
                 | with_reducible apply State.putOwned_keeps | with_reducible apply State.writeEntry_keeps
                 | with_reducible apply State.popFree_keeps | with_reducible apply keeps_ite
                 | with_reducible apply keeps_ite_fst | with_reducible apply keeps_ite_snd
                 | with_reducible apply keeps_ite_snd_snd | with_reducible apply keepsO_ite | with_reducible exact keepsO_none
                 | with_reducible apply keepsO_some | split)

theorem State.runCall_keeps {z : State} (s : State) (x : PgkCall) (hK : Keeps z s) : Keeps z (State.runCall s x).2.2 := by
  unfold State.runCall
  try dsimp only
  repeat' (first | with_reducible assumption | intro _ | with_reducible apply State.raise_keeps
                 | with_reducible apply State.readEntry_keeps | with_reducible apply State.popFree_keeps
                 | with_reducible apply State.updateEntry_keeps | with_reducible apply State.allocate_keeps
                 | with_reducible apply keeps_ite | with_reducible apply keeps_ite_fst | with_reducible apply keeps_ite_snd
                 | with_reducible apply keeps_ite_snd_snd | with_reducible apply keepsO_ite | with_reducible exact keepsO_none
                 | with_reducible apply keepsO_some | with_reducible apply keeps_getD | split)

theorem State.dropCall_keeps {z : State} (s : State) (id : Nat) (hK : Keeps z s) : Keeps z (State.dropCall s id) := by
  unfold State.dropCall
  try dsimp only
  repeat' (first | with_reducible assumption | intro _ | with_reducible apply State.setPgk_keeps
                 | with_reducible apply keeps_ite | with_reducible apply keeps_ite_fst | with_reducible apply keeps_ite_snd
                 | with_reducible apply keeps_ite_snd_snd | split)

theorem State.answerCall_keeps {z : State} (s : State) (x : PgkCall) (res : Option (BitVec 64)) (lease : Nat) (hK :
    Keeps z s) : Keeps z (State.answerCall s x res lease) := by
  unfold State.answerCall
  try dsimp only
  repeat' (first | with_reducible assumption | intro _ | with_reducible apply State.drawn_keeps
                 | with_reducible apply State.putReg_keeps | with_reducible apply State.modCore_keeps
                 | with_reducible apply State.modKeeper_keeps | with_reducible apply State.completeOp_keeps
                 | with_reducible apply keeps_ite | with_reducible apply keeps_ite_fst | with_reducible apply keeps_ite_snd
                 | with_reducible apply keeps_ite_snd_snd | with_reducible apply keepsO_ite | with_reducible exact keepsO_none
                 | with_reducible apply keepsO_some | split)

theorem State.countRefused_keeps {z : State} (s : State) (p : Nat) (res : Option (BitVec 64)) (hK :
    Keeps z s) : Keeps z (State.countRefused s p res) := by
  unfold State.countRefused
  try dsimp only
  repeat' (first | with_reducible assumption | intro _ | with_reducible apply State.putReg_keeps
                 | with_reducible apply keeps_ite | with_reducible apply keeps_ite_fst | with_reducible apply keeps_ite_snd
                 | with_reducible apply keeps_ite_snd_snd | with_reducible apply keepsO_ite | with_reducible exact keepsO_none
                 | with_reducible apply keepsO_some | split)

theorem State.failCopy_keeps {z : State} (s : State) (x : PgkCall) (pn : Nat) (hK :
    Keeps z s) : Keeps z (State.failCopy s x pn) := by
  unfold State.failCopy
  try dsimp only
  repeat' (first | with_reducible assumption | intro _ | with_reducible apply State.readEntry_keeps
                 | with_reducible apply State.pushFree_keeps | with_reducible apply State.startCopies_keeps
                 | with_reducible apply State.dropCall_keeps | with_reducible apply State.answerCall_keeps
                 | with_reducible apply keeps_ite | with_reducible apply keeps_ite_fst | with_reducible apply keeps_ite_snd
                 | with_reducible apply keeps_ite_snd_snd | with_reducible apply keepsO_ite | with_reducible exact keepsO_none
                 | with_reducible apply keepsO_some | split)

theorem State.endCopy_keeps {z : State} (s : State) (x : PgkCall) (pn : Nat) (hK :
    Keeps z s) : Keeps z (State.endCopy s x pn) := by
  unfold State.endCopy
  try dsimp only
  repeat' (first | with_reducible assumption | intro _ | with_reducible apply State.readEntry_keeps
                 | with_reducible apply State.writeEntry_keeps | with_reducible apply State.modCall_keeps
                 | with_reducible apply State.failCopy_keeps | with_reducible apply keeps_ite
                 | with_reducible apply keeps_ite_fst | with_reducible apply keeps_ite_snd
                 | with_reducible apply keeps_ite_snd_snd | with_reducible apply keepsO_ite | with_reducible exact keepsO_none
                 | with_reducible apply keepsO_some | split)

theorem State.scanEntry_keeps {z : State} (s : State) (p pn : Nat) (keep : Bool) (hK :
    Keeps z s) : Keeps z (State.scanEntry s p pn keep).2 := by
  unfold State.scanEntry
  try dsimp only
  repeat' (first | with_reducible assumption | intro _ | with_reducible apply State.readOwned_keeps
                 | with_reducible apply keeps_ite | with_reducible apply keeps_ite_fst | with_reducible apply keeps_ite_snd
                 | with_reducible apply keeps_ite_snd_snd | with_reducible apply keepsO_ite | with_reducible exact keepsO_none
                 | with_reducible apply keepsO_some | split)

theorem State.scanGo_keeps {z : State} (p : Nat) (keep : Bool) (fuel i : Nat) (s : State) (h : Keeps z s) :
    Keeps z (State.scanGo p keep fuel i s).2 := by
  induction fuel generalizing i s with
  | zero => exact h
  | succ fuel ih =>
    unfold State.scanGo
    try dsimp only
    repeat' (first | with_reducible assumption | intro _ | with_reducible apply ih | with_reducible apply State.scanEntry_keeps
                   | with_reducible apply keeps_ite | with_reducible apply keeps_ite_fst | with_reducible apply keeps_ite_snd
                   | with_reducible apply keeps_ite_snd_snd | with_reducible apply keepsO_ite | with_reducible exact keepsO_none
                   | with_reducible apply keepsO_some | split)

theorem State.linkGo_keeps {z : State} (p : Nat) (keep : Bool) (fuel : Nat) (s : State) (h : Keeps z s) :
    Keeps z (State.linkGo p keep fuel s) := by
  induction fuel generalizing s with
  | zero => exact h
  | succ fuel ih =>
    unfold State.linkGo
    try dsimp only
    repeat' (first | with_reducible assumption | intro _ | with_reducible apply ih | with_reducible apply State.readOwned_keeps
                   | with_reducible apply State.writeEntry_keeps | with_reducible apply State.pushFree_keeps
                   | with_reducible apply keeps_ite | with_reducible apply keeps_ite_fst | with_reducible apply keeps_ite_snd
                   | with_reducible apply keeps_ite_snd_snd | with_reducible apply keepsO_ite | with_reducible exact keepsO_none
                   | with_reducible apply keepsO_some | split)

theorem State.setPgkEn_keeps {z : State} (s : State) (p : Nat) (v : Bool) (hK : Keeps z s) : Keeps z (State.setPgkEn s p v) := by
  unfold State.setPgkEn
  try dsimp only
  repeat' (first | with_reducible assumption | intro _ | with_reducible apply State.putReg_keeps
                 | with_reducible apply keeps_ite | with_reducible apply keeps_ite_fst | with_reducible apply keeps_ite_snd
                 | with_reducible apply keeps_ite_snd_snd | split)

theorem State.writePgkCtrl_keeps {z : State} (s : State) (p v : Nat) (hK : Keeps z s) : KeepsO z (State.writePgkCtrl s p v) := by
  unfold State.writePgkCtrl
  try dsimp only
  repeat' (first | with_reducible assumption | intro _ | with_reducible apply State.putReg_keeps
                 | with_reducible apply State.modKeeper_keeps | with_reducible apply State.setPgkEn_keeps
                 | with_reducible apply keeps_ite | with_reducible apply keeps_ite_fst | with_reducible apply keeps_ite_snd
                 | with_reducible apply keeps_ite_snd_snd | with_reducible apply keepsO_ite | with_reducible exact keepsO_none
                 | with_reducible apply keepsO_some | split)

theorem State.scanFail_keeps {z : State} (s : State) (p pn : Nat) (hK : Keeps z s) : Keeps z (State.scanFail s p pn) := by
  unfold State.scanFail
  try dsimp only
  repeat' (first | with_reducible assumption | intro _ | with_reducible apply State.putReg_keeps
                 | with_reducible apply State.modKeeper_keeps | with_reducible apply State.setPgkEn_keeps
                 | with_reducible apply keeps_ite | with_reducible apply keeps_ite_fst | with_reducible apply keeps_ite_snd
                 | with_reducible apply keeps_ite_snd_snd | split)

theorem State.writePgkCall_keeps {z : State} (s : State) (part : PartId) (v : Nat) (path : Path) (hK :
    Keeps z s) : KeepsO z (State.writePgkCall s part v path) := by
  unfold State.writePgkCall
  try dsimp only
  repeat' (first | with_reducible assumption | intro _ | with_reducible apply State.modKeeper_keeps
                 | with_reducible apply State.newCall_keeps | with_reducible apply keeps_ite
                 | with_reducible apply keeps_ite_fst | with_reducible apply keeps_ite_snd
                 | with_reducible apply keeps_ite_snd_snd | with_reducible apply keepsO_ite | with_reducible exact keepsO_none
                 | with_reducible apply keepsO_some | split)

/-! ## Scout -/

theorem State.armScout_keeps {z : State} (s : State) (r : Nat) (hK : Keeps z s) : Keeps z (State.armScout s r) := by
  unfold State.armScout
  try dsimp only
  repeat' (first | with_reducible assumption | intro _ | with_reducible apply State.evaluate_keeps
                 | with_reducible apply State.enterWatch_keeps | with_reducible apply keeps_ite
                 | with_reducible apply keeps_ite_fst | with_reducible apply keeps_ite_snd
                 | with_reducible apply keeps_ite_snd_snd | split)

theorem State.writeScout_keeps {z : State} (s : State) (r v : Nat) (hK : Keeps z s) : Keeps z (State.writeScout s r v) := by
  unfold State.writeScout
  try dsimp only
  repeat' (first | with_reducible assumption | intro _ | with_reducible apply State.putReg_keeps
                 | with_reducible apply State.removeWatch_keeps | with_reducible apply State.armScout_keeps
                 | with_reducible apply keeps_ite | with_reducible apply keeps_ite_fst | with_reducible apply keeps_ite_snd
                 | with_reducible apply keeps_ite_snd_snd | with_reducible apply keepsO_ite | with_reducible exact keepsO_none
                 | with_reducible apply keepsO_some | split)

theorem State.scoutNext_keeps {z : State} (s : State) (r : Nat) (hK : Keeps z s) : Keeps z (State.scoutNext s r) := by
  unfold State.scoutNext
  try dsimp only
  repeat' (first | with_reducible assumption | intro _ | with_reducible apply State.putReg_keeps
                 | with_reducible apply State.modScout_keeps | with_reducible apply State.armScout_keeps
                 | with_reducible apply keeps_ite | with_reducible apply keeps_ite_fst | with_reducible apply keeps_ite_snd
                 | with_reducible apply keeps_ite_snd_snd | with_reducible apply keepsO_ite | with_reducible exact keepsO_none
                 | with_reducible apply keepsO_some | split)

theorem State.scoutScan_keeps {z : State} (p : Nat) (q : ScoutReq) (queries : List (List Val)) (fuel i : Nat) (s : State)
    (h : Keeps z s) : Keeps z (State.scoutScan p q queries fuel i s).2 := by
  induction fuel generalizing i s with
  | zero => exact h
  | succ fuel ih =>
    unfold State.scoutScan
    try dsimp only
    repeat' (first | with_reducible assumption | intro _ | with_reducible apply ih | with_reducible apply State.readOwned_keeps
                   | with_reducible apply State.readEntry_keeps | with_reducible apply keeps_ite
                   | with_reducible apply keeps_ite_fst | with_reducible apply keeps_ite_snd
                   | with_reducible apply keeps_ite_snd_snd | with_reducible apply keepsO_ite | with_reducible exact keepsO_none
                   | with_reducible apply keepsO_some | split)
    all_goals
      rename_i e
      have e := congrArg Prod.snd e
      dsimp only at e ⊢
      rw [← e]
      repeat' (first | with_reducible assumption | intro _ | with_reducible apply ih
                     | with_reducible apply State.readOwned_keeps | with_reducible apply State.readEntry_keeps
                     | with_reducible apply keeps_ite | with_reducible apply keeps_ite_fst | with_reducible apply keeps_ite_snd
                     | with_reducible apply keeps_ite_snd_snd | with_reducible apply keepsO_ite
                     | with_reducible exact keepsO_none | with_reducible apply keepsO_some | split)

theorem State.scoutHeader_keeps {z : State} (s : State) (p : Nat) (q : ScoutReq) (m skipped : Nat) (status : Byte) (hK :
    Keeps z s) : Keeps z (State.scoutHeader s p q m skipped status) := by
  unfold State.scoutHeader
  try dsimp only
  repeat' (first | with_reducible assumption | intro _ | with_reducible apply State.putOwned_keeps
                 | with_reducible apply keeps_ite | with_reducible apply keeps_ite_fst | with_reducible apply keeps_ite_snd
                 | with_reducible apply keeps_ite_snd_snd | split)

theorem State.scoutLists_keeps {z : State} (s : State) (p : Nat) (q : ScoutReq) (sel : List Candidate) (hK :
    Keeps z s) : Keeps z (State.scoutLists s p q sel) := by
  unfold State.scoutLists
  try dsimp only
  repeat' (first | with_reducible assumption | intro _ | with_reducible apply State.putOwned_keeps
                 | with_reducible apply keeps_ite | with_reducible apply keeps_ite_fst | with_reducible apply keeps_ite_snd
                 | with_reducible apply keeps_ite_snd_snd | split)

theorem State.scoutFinish_keeps {z : State} (s : State) (r p : Nat) (q : ScoutReq) (hK :
    Keeps z s) : Keeps z (State.scoutFinish s r p q) := by
  unfold State.scoutFinish
  try dsimp only
  repeat' (first | with_reducible assumption | intro _ | with_reducible apply State.putReg_keeps
                 | with_reducible apply State.sendSync_keeps | with_reducible apply State.scoutNext_keeps
                 | with_reducible apply keeps_ite | with_reducible apply keeps_ite_fst | with_reducible apply keeps_ite_snd
                 | with_reducible apply keeps_ite_snd_snd | split)

theorem State.scoutRefuse_keeps {z : State} (s : State) (r p : Nat) (q : ScoutReq) (status : Byte) (hK :
    Keeps z s) : Keeps z (State.scoutRefuse s r p q status) := by
  unfold State.scoutRefuse
  try dsimp only
  repeat' (first | with_reducible assumption | intro _ | with_reducible apply State.scoutHeader_keeps
                 | with_reducible apply State.scoutFinish_keeps | with_reducible apply keeps_ite
                 | with_reducible apply keeps_ite_fst | with_reducible apply keeps_ite_snd
                 | with_reducible apply keeps_ite_snd_snd | split)

theorem State.scoutUnread_keeps {z : State} (s : State) (r p : Nat) (q : ScoutReq) (hK :
    Keeps z s) : Keeps z (State.scoutUnread s r p q) := by
  unfold State.scoutUnread
  try dsimp only
  repeat' (first | with_reducible assumption | intro _ | with_reducible apply State.drawn_keeps
                 | with_reducible apply State.scoutRefuse_keeps | with_reducible apply keeps_ite
                 | with_reducible apply keeps_ite_fst | with_reducible apply keeps_ite_snd
                 | with_reducible apply keeps_ite_snd_snd | split)

/-! ## Jobs -/

theorem State.sideSend_keeps {z : State} (s : State) (m : OutMsg) (hK : Keeps z s) : Keeps z (State.sideSend s m) := by
  unfold State.sideSend
  try dsimp only
  repeat' (first | with_reducible assumption | intro _ | with_reducible apply State.send_keeps | with_reducible apply keeps_ite
                 | with_reducible apply keeps_ite_fst | with_reducible apply keeps_ite_snd
                 | with_reducible apply keeps_ite_snd_snd | split)

theorem State.sideAnswer_keeps {z : State} (s : State) (m : OutMsg) (hK : Keeps z s) : Keeps z (State.sideAnswer s m) := by
  unfold State.sideAnswer
  try dsimp only
  repeat' (first | with_reducible assumption | intro _ | with_reducible apply State.setSide_keeps
                 | with_reducible apply State.sideSend_keeps | with_reducible apply keeps_ite
                 | with_reducible apply keeps_ite_fst | with_reducible apply keeps_ite_snd
                 | with_reducible apply keeps_ite_snd_snd | split)

theorem State.answer_keeps {z : State} (s : State) (req : Request) (r : Reply) (hK :
    Keeps z s) : Keeps z (State.answer s req r) := by
  unfold State.answer
  try dsimp only
  repeat' (first | with_reducible assumption | intro _ | with_reducible apply State.send_keeps
                 | with_reducible apply State.sideAnswer_keeps | with_reducible apply keeps_ite
                 | with_reducible apply keeps_ite_fst | with_reducible apply keeps_ite_snd
                 | with_reducible apply keeps_ite_snd_snd | with_reducible apply keepsO_ite | with_reducible exact keepsO_none
                 | with_reducible apply keepsO_some | split)

theorem State.answerRead_keeps {z : State} (s : State) (req : Request) (data : List Byte) (hK :
    Keeps z s) : Keeps z (State.answerRead s req data) := by
  unfold State.answerRead
  try dsimp only
  repeat' (first | with_reducible assumption | intro _ | with_reducible apply State.send_keeps
                 | with_reducible apply State.sideAnswer_keeps | with_reducible apply keeps_ite
                 | with_reducible apply keeps_ite_fst | with_reducible apply keeps_ite_snd
                 | with_reducible apply keeps_ite_snd_snd | with_reducible apply keepsO_ite | with_reducible exact keepsO_none
                 | with_reducible apply keepsO_some | split)

theorem State.modHost_keeps {z : State} (s : State) (f : HostPort → HostPort) (hK : Keeps z s) : Keeps z (State.modHost s f) := by
  unfold State.modHost
  try dsimp only
  repeat' (first | with_reducible assumption | intro _ | with_reducible apply State.setHost_keeps
                 | with_reducible apply keeps_ite | with_reducible apply keeps_ite_fst | with_reducible apply keeps_ite_snd
                 | with_reducible apply keeps_ite_snd_snd | split)

theorem State.hold_keeps {z : State} (s : State) (h : HeldTx) (hK : Keeps z s) : Keeps z (State.hold s h) := by
  unfold State.hold
  try dsimp only
  repeat' (first | with_reducible assumption | intro _ | with_reducible apply State.modHost_keeps
                 | with_reducible apply keeps_ite | with_reducible apply keeps_ite_fst | with_reducible apply keeps_ite_snd
                 | with_reducible apply keeps_ite_snd_snd | split)

theorem State.release_keeps {z : State} (s : State) (why : HeldWhy) (r : Reply) (hK :
    Keeps z s) : Keeps z (State.release s why r) := by
  unfold State.release
  try dsimp only
  repeat' (first | with_reducible assumption | intro _ | with_reducible apply State.each_keeps
                 | with_reducible apply State.answer_keeps | with_reducible apply State.modHost_keeps
                 | with_reducible apply keeps_ite | with_reducible apply keeps_ite_fst | with_reducible apply keeps_ite_snd
                 | with_reducible apply keeps_ite_snd_snd | split)

theorem State.readRecord_keeps {z : State} (s : State) (p a n : Nat) (hK : Keeps z s) : Keeps z (State.readRecord s p a n).2 := by
  unfold State.readRecord
  try dsimp only
  repeat' (first | with_reducible assumption | intro _ | with_reducible apply State.raise_keeps
                 | with_reducible apply State.readPieces_keeps | with_reducible apply keeps_ite
                 | with_reducible apply keeps_ite_fst | with_reducible apply keeps_ite_snd
                 | with_reducible apply keeps_ite_snd_snd | with_reducible apply keepsO_ite | with_reducible exact keepsO_none
                 | with_reducible apply keepsO_some | split)

theorem State.refuseLaunch_keeps {z : State} (s : State) (p j cause : Nat) (hK :
    Keeps z s) : Keeps z (State.refuseLaunch s p j cause).1 := by
  unfold State.refuseLaunch
  try dsimp only
  repeat' (first | with_reducible assumption | intro _ | with_reducible apply State.modJob_keeps
                 | with_reducible apply keeps_ite | with_reducible apply keeps_ite_fst | with_reducible apply keeps_ite_snd
                 | with_reducible apply keeps_ite_snd_snd | split)

theorem State.startLaunch_keeps {z : State} (s : State) (req : Request) (p : Nat) (hK :
    Keeps z s) : Keeps z (State.startLaunch s req p).1 := by
  unfold State.startLaunch
  try dsimp only
  repeat' (first | with_reducible assumption | intro _ | with_reducible apply State.modJob_keeps
                 | with_reducible apply State.hold_keeps | with_reducible apply State.readRecord_keeps
                 | with_reducible apply State.refuseLaunch_keeps | with_reducible apply keeps_ite
                 | with_reducible apply keeps_ite_fst | with_reducible apply keeps_ite_snd
                 | with_reducible apply keeps_ite_snd_snd | with_reducible apply keepsO_ite | with_reducible exact keepsO_none
                 | with_reducible apply keepsO_some | with_reducible apply keepsO_map | with_reducible apply keepsO_mapOf
                 | split)

theorem State.clearSlot_keeps {z : State} (s : State) (t : Nat) (hK : Keeps z s) : Keeps z (State.clearSlot s t) := by
  unfold State.clearSlot
  try dsimp only
  repeat' (first | with_reducible assumption | intro _ | with_reducible apply State.setPower_keeps
                 | with_reducible apply keeps_ite | with_reducible apply keeps_ite_fst | with_reducible apply keeps_ite_snd
                 | with_reducible apply keeps_ite_snd_snd | split)

theorem State.forget_keeps {z : State} (s : State) (c : Nat) (hK : Keeps z s) : Keeps z (State.forget s c) := by
  unfold State.forget
  try dsimp only
  repeat' (first | with_reducible assumption | intro _ | with_reducible apply State.modLoop_keeps
                 | with_reducible apply keeps_ite | with_reducible apply keeps_ite_fst | with_reducible apply keeps_ite_snd
                 | with_reducible apply keeps_ite_snd_snd | split)

theorem State.startCore_keeps {z : State} (s : State) (j : PartId × Fin 16) (es : List LaunchEntry) (slot : Option Nat) (e : LaunchEntry) (hK :
    Keeps z s) : Keeps z (State.startCore s j es slot e) := by
  unfold State.startCore
  try dsimp only
  repeat' (first | with_reducible assumption | intro _ | with_reducible apply State.modCore_keeps
                 | with_reducible apply State.commitWhere_keeps | with_reducible apply State.forget_keeps
                 | with_reducible apply keeps_ite | with_reducible apply keeps_ite_fst | with_reducible apply keeps_ite_snd
                 | with_reducible apply keeps_ite_snd_snd | with_reducible apply keepsO_ite | with_reducible exact keepsO_none
                 | with_reducible apply keepsO_some | with_reducible apply keepsO_map | with_reducible apply keepsO_mapOf
                 | split)

theorem State.partStop_keeps {z : State} (s : State) (p v : Nat) (hK : Keeps z s) : Keeps z (State.partStop s p v) := by
  unfold State.partStop
  try dsimp only
  repeat' (first | with_reducible assumption | intro _ | with_reducible apply State.each_keeps
                 | with_reducible apply State.endJob_keeps | with_reducible apply keeps_ite | with_reducible apply keeps_ite_fst
                 | with_reducible apply keeps_ite_snd | with_reducible apply keeps_ite_snd_snd | with_reducible apply keepsO_ite
                 | with_reducible exact keepsO_none | with_reducible apply keepsO_some | split)

theorem State.scrubColumn_keeps {z : State} (s : State) (c lo hi : Nat) (hK :
    Keeps z s) : Keeps z (State.scrubColumn s c lo hi) := by
  unfold State.scrubColumn
  try dsimp only
  repeat' (first | with_reducible assumption | intro _ | with_reducible apply State.modColumn_keeps
                 | with_reducible apply State.zeroMem_keeps | with_reducible apply keeps_ite
                 | with_reducible apply keeps_ite_fst | with_reducible apply keeps_ite_snd
                 | with_reducible apply keeps_ite_snd_snd | split)

theorem State.resetRegion_keeps {z : State} (s : State) (r : Nat) (hK : Keeps z s) : Keeps z (State.resetRegion s r) := by
  unfold State.resetRegion
  try dsimp only
  repeat' (first | with_reducible assumption | intro _ | with_reducible apply tabWf_tabSet | with_reducible apply tabWf_filter
                 | exact tabWf_nil | with_reducible apply State.setSync_keeps | with_reducible apply State.each_keeps
                 | with_reducible apply State.putReg_keeps | with_reducible apply State.modChan_keeps
                 | with_reducible apply State.modLoop_keeps | with_reducible apply State.zeroStore_keeps
                 | with_reducible apply State.loseStore_keeps | with_reducible apply keeps_ite
                 | with_reducible apply keeps_ite_fst | with_reducible apply keeps_ite_snd
                 | with_reducible apply keeps_ite_snd_snd | split)

theorem State.beginCommit_keeps {z : State} (s : State) (scrub : Bool) (hK :
    Keeps z s) : Keeps z (State.beginCommit s scrub) := by
  unfold State.beginCommit
  try dsimp only
  repeat' (first | with_reducible assumption | intro _ | with_reducible apply State.setCommit_keeps
                 | with_reducible apply State.each_keeps | with_reducible apply State.clearSlot_keeps
                 | with_reducible apply State.scrubColumn_keeps | with_reducible apply State.resetRegion_keeps
                 | with_reducible apply keeps_ite | with_reducible apply keeps_ite_fst | with_reducible apply keeps_ite_snd
                 | with_reducible apply keeps_ite_snd_snd | split)

theorem State.writeCommit_keeps {z : State} (s : State) (scrub : Bool) (hK :
    Keeps z s) : KeepsO z (State.writeCommit s scrub) := by
  unfold State.writeCommit
  try dsimp only
  repeat' (first | with_reducible assumption | intro _ | with_reducible apply State.setCommit_keeps
                 | with_reducible apply State.beginCommit_keeps | with_reducible apply keeps_ite
                 | with_reducible apply keeps_ite_fst | with_reducible apply keeps_ite_snd
                 | with_reducible apply keeps_ite_snd_snd | with_reducible apply keepsO_ite | with_reducible exact keepsO_none
                 | with_reducible apply keepsO_some | split)

theorem State.loadTable_keeps {z : State} (s : State) (wanted : Tab (BitVec 32)) (hK :
    Keeps z s) : Keeps z (State.loadTable s wanted) := by
  unfold State.loadTable
  try dsimp only
  repeat' (first | with_reducible assumption | intro _ | with_reducible apply State.each_keeps
                 | with_reducible apply State.putReg_keeps | with_reducible apply keeps_ite | with_reducible apply keeps_ite_fst
                 | with_reducible apply keeps_ite_snd | with_reducible apply keeps_ite_snd_snd | split)

/-! ## PeerPort -/

theorem State.peerSend_keeps {z : State} (s : State) (n : Nat) (m : OutMsg) (hK :
    Keeps z s) : Keeps z (State.peerSend s n m) := by
  unfold State.peerSend
  try dsimp only
  repeat' (first | with_reducible assumption | intro _ | with_reducible apply State.send_keeps | with_reducible apply keeps_ite
                 | with_reducible apply keeps_ite_fst | with_reducible apply keeps_ite_snd
                 | with_reducible apply keeps_ite_snd_snd | split)

theorem State.owe_keeps {z : State} (s : State) (n req data : Nat) (hK : Keeps z s) : Keeps z (State.owe s n req data) := by
  unfold State.owe
  try dsimp only
  repeat' (first | with_reducible assumption | intro _ | with_reducible apply State.modPeer_keeps
                 | with_reducible apply keeps_ite | with_reducible apply keeps_ite_fst | with_reducible apply keeps_ite_snd
                 | with_reducible apply keeps_ite_snd_snd | split)

theorem State.peerNack_keeps {z : State} (s : State) (n tid cause : Nat) (hK :
    Keeps z s) : Keeps z (State.peerNack s n tid cause) := by
  unfold State.peerNack
  try dsimp only
  repeat' (first | with_reducible assumption | intro _ | with_reducible apply State.peerSend_keeps
                 | with_reducible apply keeps_ite | with_reducible apply keeps_ite_fst | with_reducible apply keeps_ite_snd
                 | with_reducible apply keeps_ite_snd_snd | split)

theorem State.peerRefuse_keeps {z : State} (s : State) (n tid : Nat) (hK : Keeps z s) : Keeps z (State.peerRefuse s n tid) := by
  unfold State.peerRefuse
  try dsimp only
  repeat' (first | with_reducible assumption | intro _ | with_reducible apply State.raiseBlock_keeps
                 | with_reducible apply State.peerNack_keeps | with_reducible apply keeps_ite
                 | with_reducible apply keeps_ite_fst | with_reducible apply keeps_ite_snd
                 | with_reducible apply keeps_ite_snd_snd | split)

theorem State.peerOutside_keeps {z : State} (s : State) (l : List Piece) (hK : Keeps z s) : Keeps z (State.peerOutside s l) := by
  unfold State.peerOutside
  try dsimp only
  repeat' (first | with_reducible assumption | intro _ | with_reducible apply State.raiseBlock_keeps
                 | with_reducible apply keeps_ite | with_reducible apply keeps_ite_fst | with_reducible apply keeps_ite_snd
                 | with_reducible apply keeps_ite_snd_snd | split)

theorem State.peerMalformed_keeps {z : State} (s : State) (n : Nat) (tid : Option Nat) (hK :
    Keeps z s) : Keeps z (State.peerMalformed s n tid) := by
  unfold State.peerMalformed
  try dsimp only
  repeat' (first | with_reducible assumption | intro _ | with_reducible apply State.raiseBlock_keeps
                 | with_reducible apply State.peerNack_keeps | with_reducible apply keeps_ite
                 | with_reducible apply keeps_ite_fst | with_reducible apply keeps_ite_snd
                 | with_reducible apply keeps_ite_snd_snd | with_reducible apply keepsO_ite | with_reducible exact keepsO_none
                 | with_reducible apply keepsO_some | split)

theorem State.peerWake_keeps {z : State} (s : State) (hK : Keeps z s) : Keeps z (State.peerWake s) := by
  unfold State.peerWake
  try dsimp only
  repeat' (first | with_reducible assumption | intro _ | with_reducible apply State.wakeCause_keeps
                 | with_reducible apply keeps_ite | with_reducible apply keeps_ite_fst | with_reducible apply keeps_ite_snd
                 | with_reducible apply keeps_ite_snd_snd | split)

theorem State.takeWr_keeps {z : State} (s : State) (n tid len addr : Nat) (data : List Byte) (hK :
    Keeps z s) : Keeps z (State.takeWr s n tid len addr data).1 := by
  unfold State.takeWr
  try dsimp only
  repeat' (first | with_reducible assumption | intro _ | with_reducible apply State.modPeer_keeps
                 | with_reducible apply State.writePieces_keeps | with_reducible apply State.nbArrive_keeps
                 | with_reducible apply State.peerSend_keeps | with_reducible apply State.owe_keeps
                 | with_reducible apply State.peerNack_keeps | with_reducible apply State.peerRefuse_keeps
                 | with_reducible apply State.peerOutside_keeps | with_reducible apply keeps_ite
                 | with_reducible apply keeps_ite_fst | with_reducible apply keeps_ite_snd
                 | with_reducible apply keeps_ite_snd_snd | with_reducible apply keepsO_ite | with_reducible exact keepsO_none
                 | with_reducible apply keepsO_some | split)

theorem State.takeRd_keeps {z : State} (s : State) (n tid len addr : Nat) (hK :
    Keeps z s) : Keeps z (State.takeRd s n tid len addr).1 := by
  unfold State.takeRd
  try dsimp only
  repeat' (first | with_reducible assumption | intro _ | with_reducible apply State.readPieces_keeps
                 | with_reducible apply State.peerSend_keeps | with_reducible apply State.owe_keeps
                 | with_reducible apply State.peerNack_keeps | with_reducible apply State.peerRefuse_keeps
                 | with_reducible apply State.peerOutside_keeps | with_reducible apply keeps_ite
                 | with_reducible apply keeps_ite_fst | with_reducible apply keeps_ite_snd
                 | with_reducible apply keeps_ite_snd_snd | with_reducible apply keepsO_ite | with_reducible exact keepsO_none
                 | with_reducible apply keepsO_some | split)

theorem State.takeSig_keeps {z : State} (s : State) (n : PortId) (tid counter : Nat) (amount : BitVec 32) (hK :
    Keeps z s) : Keeps z (State.takeSig s n tid counter amount) := by
  unfold State.takeSig
  try dsimp only
  repeat' (first | with_reducible assumption | intro _ | with_reducible apply State.sendSync_keeps
                 | with_reducible apply State.owe_keeps | with_reducible apply State.peerNack_keeps
                 | with_reducible apply State.peerRefuse_keeps | with_reducible apply keeps_ite
                 | with_reducible apply keeps_ite_fst | with_reducible apply keeps_ite_snd
                 | with_reducible apply keeps_ite_snd_snd | split)

theorem State.peerTake_keeps {z : State} (s : State) (m : Instr) (hK : Keeps z s) : Keeps z (State.peerTake s m).1 := by
  unfold State.peerTake
  try dsimp only
  repeat' (first | with_reducible assumption | intro _ | with_reducible apply State.takeWr_keeps
                 | with_reducible apply State.takeRd_keeps | with_reducible apply State.takeSig_keeps
                 | with_reducible apply keeps_ite | with_reducible apply keeps_ite_fst | with_reducible apply keeps_ite_snd
                 | with_reducible apply keeps_ite_snd_snd | split)

theorem State.peerArrive_keeps {z : State} (s : State) (n : Nat) (m : Instr) (hK :
    Keeps z s) : Keeps z (State.peerArrive s n m) := by
  unfold State.peerArrive
  try dsimp only
  repeat' (first | with_reducible assumption | intro _ | with_reducible apply State.wokenBy_keeps | with_reducible apply State.modPeer_keeps
                 | with_reducible apply State.peerWake_keeps | with_reducible apply State.peerTake_keeps
                 | with_reducible apply keeps_ite | with_reducible apply keeps_ite_fst | with_reducible apply keeps_ite_snd
                 | with_reducible apply keeps_ite_snd_snd | split)

theorem State.serveGo_keeps {z : State} (n fuel : Nat) (s : State) (h : Keeps z s) : Keeps z (State.serveGo n fuel s) := by
  induction fuel generalizing s with
  | zero => exact h
  | succ fuel ih =>
    unfold State.serveGo
    try dsimp only
    repeat' (first | with_reducible assumption | intro _ | with_reducible apply ih | with_reducible apply State.modPeer_keeps
                   | with_reducible apply State.peerTake_keeps | with_reducible apply keeps_ite
                   | with_reducible apply keeps_ite_fst | with_reducible apply keeps_ite_snd
                   | with_reducible apply keeps_ite_snd_snd | split)

theorem State.servePorts_keeps {z : State} (s : State) (n : Nat) (hK : Keeps z s) : Keeps z (State.servePorts s n) := by
  unfold State.servePorts
  try dsimp only
  repeat' (first | with_reducible assumption | intro _ | with_reducible apply State.each_keeps
                 | with_reducible apply State.modPeer_keeps | with_reducible apply State.peerSend_keeps
                 | with_reducible apply State.peerNack_keeps | with_reducible apply keeps_ite
                 | with_reducible apply keeps_ite_fst | with_reducible apply keeps_ite_snd
                 | with_reducible apply keeps_ite_snd_snd | split)

theorem State.servePeers_keeps {z : State} (s : State) (hK : Keeps z s) : Keeps z (State.servePeers s) := by
  unfold State.servePeers
  try dsimp only
  repeat' (first | with_reducible assumption | intro _ | with_reducible apply State.each_keeps
                 | with_reducible apply State.pump_keeps | with_reducible apply State.serveGo_keeps
                 | with_reducible apply State.servePorts_keeps | with_reducible apply keeps_ite
                 | with_reducible apply keeps_ite_fst | with_reducible apply keeps_ite_snd
                 | with_reducible apply keeps_ite_snd_snd | split)

theorem State.setReply_keeps {z : State} (s : State) (n tid : Nat) (r : Option (List Byte)) (hK :
    Keeps z s) : Keeps z (State.setReply s n tid r) := by
  unfold State.setReply
  try dsimp only
  repeat' (first | with_reducible assumption | intro _ | with_reducible apply State.modPeer_keeps
                 | with_reducible apply keeps_ite | with_reducible apply keeps_ite_fst | with_reducible apply keeps_ite_snd
                 | with_reducible apply keeps_ite_snd_snd | with_reducible apply keepsO_ite | with_reducible exact keepsO_none
                 | with_reducible apply keepsO_some | with_reducible apply keepsO_map | with_reducible apply keepsO_mapOf
                 | split)

theorem State.closeAccess_keeps {z : State} (s : State) (who : Issuer) (hK : Keeps z s) : Keeps z (State.closeAccess s who) := by
  unfold State.closeAccess
  try dsimp only
  repeat' (first | with_reducible assumption | intro _ | with_reducible apply State.dropAccesses_keeps
                 | with_reducible apply State.forgetAccess_keeps | with_reducible apply State.answer_keeps
                 | with_reducible apply State.answerRead_keeps | with_reducible apply keeps_ite
                 | with_reducible apply keeps_ite_fst | with_reducible apply keeps_ite_snd
                 | with_reducible apply keeps_ite_snd_snd | with_reducible apply keepsO_ite | with_reducible exact keepsO_none
                 | with_reducible apply keepsO_some | split)

theorem State.endAccess_keeps {z : State} (s : State) (n : Nat) (a : PeerAccess) (r : Option (List Byte)) (hK :
    Keeps z s) : Keeps z (State.endAccess s n a r) := by
  unfold State.endAccess
  try dsimp only
  repeat' (first | with_reducible assumption | intro _ | with_reducible apply State.peerFailed_keeps
                 | with_reducible apply State.setReply_keeps | with_reducible apply State.closeAccess_keeps
                 | with_reducible apply keeps_ite | with_reducible apply keeps_ite_fst | with_reducible apply keeps_ite_snd
                 | with_reducible apply keeps_ite_snd_snd | split)

theorem State.lateAnswer_keeps {z : State} (s : State) (n tid : Nat) (hK : Keeps z s) : Keeps z (State.lateAnswer s n tid) := by
  unfold State.lateAnswer
  try dsimp only
  repeat' (first | with_reducible assumption | intro _ | with_reducible apply State.modPeer_keeps
                 | with_reducible apply State.addField_keeps | with_reducible apply keeps_ite
                 | with_reducible apply keeps_ite_fst | with_reducible apply keeps_ite_snd
                 | with_reducible apply keeps_ite_snd_snd | split)

theorem State.peerInitiate_keeps {z : State} (s : State) (n : Nat) (hK : Keeps z s) : Keeps z (State.peerInitiate s n) := by
  unfold State.peerInitiate
  try dsimp only
  repeat' (first | with_reducible assumption | intro _ | with_reducible apply State.modPeer_keeps
                 | with_reducible apply State.send_keeps | with_reducible apply keeps_ite | with_reducible apply keeps_ite_fst
                 | with_reducible apply keeps_ite_snd | with_reducible apply keeps_ite_snd_snd | split)

theorem State.loseLink_keeps {z : State} (s : State) (n : Nat) (hK : Keeps z s) : Keeps z (State.loseLink s n) := by
  unfold State.loseLink
  try dsimp only
  repeat' (first | with_reducible assumption | intro _ | with_reducible apply State.each_keeps
                 | with_reducible apply State.modCore_keeps | with_reducible apply State.modPeer_keeps
                 | with_reducible apply State.raise_keeps | with_reducible apply State.peerFailed_keeps
                 | with_reducible apply State.closeAccess_keeps | with_reducible apply keeps_ite
                 | with_reducible apply keeps_ite_fst | with_reducible apply keeps_ite_snd
                 | with_reducible apply keeps_ite_snd_snd | with_reducible apply keepsO_ite | with_reducible exact keepsO_none
                 | with_reducible apply keepsO_some | with_reducible apply keepsO_map | with_reducible apply keepsO_mapOf
                 | split)

theorem State.writePeerCtrl_keeps {z : State} (s : State) (path : Path) (n v : Nat) (hK :
    Keeps z s) : KeepsO z (State.writePeerCtrl s path n v) := by
  unfold State.writePeerCtrl
  try dsimp only
  repeat' (first | with_reducible assumption | intro _ | with_reducible apply State.putReg_keeps
                 | with_reducible apply State.modPeer_keeps | with_reducible apply State.loseLink_keeps
                 | with_reducible apply keeps_ite | with_reducible apply keeps_ite_fst | with_reducible apply keeps_ite_snd
                 | with_reducible apply keeps_ite_snd_snd | with_reducible apply keepsO_ite | with_reducible exact keepsO_none
                 | with_reducible apply keepsO_some | split)

theorem State.writePeer_keeps {z : State} (s : State) (path : Path) (n o v : Nat) (loads : Bool) (hK :
    Keeps z s) : KeepsO z (State.writePeer s path n o v loads) := by
  unfold State.writePeer
  try dsimp only
  repeat' (first | with_reducible assumption | intro _ | with_reducible apply State.putReg_keeps
                 | with_reducible apply State.writePeerCtrl_keeps | with_reducible apply keeps_ite
                 | with_reducible apply keeps_ite_fst | with_reducible apply keeps_ite_snd
                 | with_reducible apply keeps_ite_snd_snd | with_reducible apply keepsO_ite | with_reducible exact keepsO_none
                 | with_reducible apply keepsO_some | split)

/-! ## MatrixSlot -/

theorem mmaEffect_keeps {z : State} (c w : Nat) (s : State) (hK : Keeps z s) : Keeps z (mmaEffect c w s) := by
  unfold mmaEffect
  try dsimp only
  repeat' (first | with_reducible assumption | intro _ | with_reducible apply State.stage_keeps | with_reducible apply keeps_ite
                 | with_reducible apply keeps_ite_fst | with_reducible apply keeps_ite_snd
                 | with_reducible apply keeps_ite_snd_snd | split)

theorem moutEffect_keeps {z : State} (c w : Nat) (s : State) (hK : Keeps z s) : Keeps z (moutEffect c w s) := by
  unfold moutEffect
  try dsimp only
  repeat' (first | with_reducible assumption | intro _ | with_reducible apply State.stage_keeps | with_reducible apply keeps_ite
                 | with_reducible apply keeps_ite_fst | with_reducible apply keeps_ite_snd
                 | with_reducible apply keeps_ite_snd_snd | split)

theorem mclrEffect_keeps {z : State} (c w : Nat) (s : State) (hK : Keeps z s) : Keeps z (mclrEffect c w s) := by
  unfold mclrEffect
  try dsimp only
  repeat' (first | with_reducible assumption | intro _ | with_reducible apply State.stage_keeps | with_reducible apply keeps_ite
                 | with_reducible apply keeps_ite_fst | with_reducible apply keeps_ite_snd
                 | with_reducible apply keeps_ite_snd_snd | split)

/-! ## VectorSlot -/

theorem vLanes_keeps {z : State} (latency c w : Nat) (f : State → List Nat) (s : State) (hK :
    Keeps z s) : Keeps z (vLanes latency c w f s) := by
  unfold vLanes
  try dsimp only
  repeat' (first | with_reducible assumption | intro _ | with_reducible apply State.stage_keeps | with_reducible apply keeps_ite
                 | with_reducible apply keeps_ite_fst | with_reducible apply keeps_ite_snd
                 | with_reducible apply keeps_ite_snd_snd | split)

theorem vUnary_keeps {z : State} (latency : Nat) (f : Nat → Nat) (c w : Nat) (s : State) (hK :
    Keeps z s) : Keeps z (vUnary latency f c w s) := by
  unfold vUnary
  try dsimp only
  repeat' (first | with_reducible assumption | intro _ | with_reducible apply vLanes_keeps | with_reducible apply keeps_ite
                 | with_reducible apply keeps_ite_fst | with_reducible apply keeps_ite_snd
                 | with_reducible apply keeps_ite_snd_snd | with_reducible apply keepsO_map | with_reducible apply keepsO_mapOf
                 | split)

theorem vBinary_keeps {z : State} (latency : Nat) (f : Nat → Nat → Nat) (c w : Nat) (s : State) (hK :
    Keeps z s) : Keeps z (vBinary latency f c w s) := by
  unfold vBinary
  try dsimp only
  repeat' (first | with_reducible assumption | intro _ | with_reducible apply vLanes_keeps | with_reducible apply keeps_ite
                 | with_reducible apply keeps_ite_fst | with_reducible apply keeps_ite_snd
                 | with_reducible apply keeps_ite_snd_snd | split)

theorem vTernary_keeps {z : State} (latency : Nat) (f : Nat → Nat → Nat → Nat) (c w : Nat) (s : State) (hK :
    Keeps z s) : Keeps z (vTernary latency f c w s) := by
  unfold vTernary
  try dsimp only
  repeat' (first | with_reducible assumption | intro _ | with_reducible apply vLanes_keeps | with_reducible apply keeps_ite
                 | with_reducible apply keeps_ite_fst | with_reducible apply keeps_ite_snd
                 | with_reducible apply keeps_ite_snd_snd | split)

theorem vcvtEffect_keeps {z : State} (c w : Nat) (s : State) (hK : Keeps z s) : Keeps z (vcvtEffect c w s) := by
  unfold vcvtEffect
  try dsimp only
  repeat' (first | with_reducible assumption | intro _ | with_reducible apply State.stage_keeps | with_reducible apply keeps_ite
                 | with_reducible apply keeps_ite_fst | with_reducible apply keeps_ite_snd
                 | with_reducible apply keeps_ite_snd_snd | with_reducible apply keepsO_map | with_reducible apply keepsO_mapOf
                 | split)

theorem vrmaxEffect_keeps {z : State} (c w : Nat) (s : State) (hK : Keeps z s) : Keeps z (vrmaxEffect c w s) := by
  unfold vrmaxEffect
  try dsimp only
  repeat' (first | with_reducible assumption | intro _ | with_reducible apply State.stage_keeps | with_reducible apply keeps_ite
                 | with_reducible apply keeps_ite_fst | with_reducible apply keeps_ite_snd
                 | with_reducible apply keeps_ite_snd_snd | with_reducible apply foldl_keeps
                 | with_reducible apply foldl_keeps_fst | with_reducible apply foldl_keeps_snd
                 | with_reducible apply foldl_keeps_snd_snd | with_reducible apply foldl_keeps_fst_fst | split)

theorem vxaddEffect_keeps {z : State} (c w : Nat) (s : State) (hK : Keeps z s) : Keeps z (vxaddEffect c w s) := by
  unfold vxaddEffect
  try dsimp only
  repeat' (first | with_reducible assumption | intro _ | with_reducible apply State.stage_keeps | with_reducible apply keeps_ite
                 | with_reducible apply keeps_ite_fst | with_reducible apply keeps_ite_snd
                 | with_reducible apply keeps_ite_snd_snd | with_reducible apply keepsO_map | with_reducible apply keepsO_mapOf
                 | split)

theorem vxrdEffect_keeps {z : State} (c w : Nat) (s : State) (hK : Keeps z s) : Keeps z (vxrdEffect c w s) := by
  unfold vxrdEffect
  try dsimp only
  repeat' (first | with_reducible assumption | intro _ | with_reducible apply State.modCore_keeps
                 | with_reducible apply State.stage_keeps | with_reducible apply keeps_ite | with_reducible apply keeps_ite_fst
                 | with_reducible apply keeps_ite_snd | with_reducible apply keeps_ite_snd_snd | split)

theorem vnsclEffect_keeps {z : State} (c w : Nat) (s : State) (hK : Keeps z s) : Keeps z (vnsclEffect c w s) := by
  unfold vnsclEffect
  try dsimp only
  repeat' (first | with_reducible assumption | intro _ | with_reducible apply State.stage_keeps | with_reducible apply keeps_ite
                 | with_reducible apply keeps_ite_fst | with_reducible apply keeps_ite_snd
                 | with_reducible apply keeps_ite_snd_snd | with_reducible apply keepsO_map | with_reducible apply keepsO_mapOf
                 | split)

theorem vgetEffect_keeps {z : State} (c w : Nat) (s : State) (hK : Keeps z s) : Keeps z (vgetEffect c w s) := by
  unfold vgetEffect
  try dsimp only
  repeat' (first | with_reducible assumption | intro _ | with_reducible apply State.stage_keeps | with_reducible apply keeps_ite
                 | with_reducible apply keeps_ite_fst | with_reducible apply keeps_ite_snd
                 | with_reducible apply keeps_ite_snd_snd | with_reducible apply keeps_getD | split)

theorem vrotEffect_keeps {z : State} (c w : Nat) (s : State) (hK : Keeps z s) : Keeps z (vrotEffect c w s) := by
  unfold vrotEffect
  try dsimp only
  repeat' (first | with_reducible assumption | intro _ | with_reducible apply vLanes_keeps | with_reducible apply keeps_ite
                 | with_reducible apply keeps_ite_fst | with_reducible apply keeps_ite_snd
                 | with_reducible apply keeps_ite_snd_snd | with_reducible apply keepsO_map | with_reducible apply keepsO_mapOf
                 | with_reducible apply keeps_getD | split)

theorem vbcstEffect_keeps {z : State} (c w : Nat) (s : State) (hK : Keeps z s) : Keeps z (vbcstEffect c w s) := by
  unfold vbcstEffect
  try dsimp only
  repeat' (first | with_reducible assumption | intro _ | with_reducible apply vLanes_keeps | with_reducible apply keeps_ite
                 | with_reducible apply keeps_ite_fst | with_reducible apply keeps_ite_snd
                 | with_reducible apply keeps_ite_snd_snd | split)

theorem vcmpEffect_keeps {z : State} (c w : Nat) (s : State) (hK : Keeps z s) : Keeps z (vcmpEffect c w s) := by
  unfold vcmpEffect
  try dsimp only
  repeat' (first | with_reducible assumption | intro _ | with_reducible apply vBinary_keeps | with_reducible apply keeps_ite
                 | with_reducible apply keeps_ite_fst | with_reducible apply keeps_ite_snd
                 | with_reducible apply keeps_ite_snd_snd | split)

end Sys2Proof.Machine
end

