-- ==== Sys2Proof/Laws/KeepsPower.lean ====
section
/-! SUPPORT. What the operations of regulators, loops, telemetry, thermal, event queues, image, flash, supply, boot and perturbation keep (`Keeps`, Laws/Keeps.lean): one lemma each, built from
the lemmas of the operations it calls. -/

namespace Sys2Proof.Machine

/-! ## Measure -/

theorem State.modChanT_keeps {z : State} (s : State) (r k : Nat) (f : TlmChan → TlmChan) (hK :
    Keeps z s) : Keeps z (State.modChanT s r k f) := by
  unfold State.modChanT
  try dsimp only
  repeat' (first | with_reducible assumption | intro _ | with_reducible apply State.modTlm_keeps
                 | with_reducible apply keeps_ite | with_reducible apply keeps_ite_fst | with_reducible apply keeps_ite_snd
                 | with_reducible apply keeps_ite_snd_snd | split)

theorem State.restartSlots_keeps {z : State} (s : State) (r : Nat) (hK : Keeps z s) : Keeps z (State.restartSlots s r) := by
  unfold State.restartSlots
  try dsimp only
  repeat' (first | with_reducible assumption | intro _ | with_reducible apply State.modTlm_keeps
                 | with_reducible apply keeps_ite | with_reducible apply keeps_ite_fst | with_reducible apply keeps_ite_snd
                 | with_reducible apply keeps_ite_snd_snd | with_reducible apply foldl_keeps
                 | with_reducible apply foldl_keeps_fst | with_reducible apply foldl_keeps_snd
                 | with_reducible apply foldl_keeps_snd_snd | with_reducible apply foldl_keeps_fst_fst | split)

/-! ## Sluice -/

theorem State.judgeHold_keeps {z : State} (s : State) (c : Nat) (hK : Keeps z s) : Keeps z (State.judgeHold s c) := by
  unfold State.judgeHold
  try dsimp only
  repeat' (first | with_reducible assumption | intro _ | with_reducible apply State.modCore_keeps
                 | with_reducible apply State.modSeq_keeps | with_reducible apply keeps_ite | with_reducible apply keeps_ite_fst
                 | with_reducible apply keeps_ite_snd | with_reducible apply keeps_ite_snd_snd | with_reducible apply keepsO_ite
                 | with_reducible exact keepsO_none | with_reducible apply keepsO_some | split)

theorem State.rehold_keeps {z : State} (s : State) (hK : Keeps z s) : Keeps z (State.rehold s) := by
  unfold State.rehold
  try dsimp only
  repeat' (first | with_reducible assumption | intro _ | with_reducible apply State.each_keeps
                 | with_reducible apply State.shareHold_keeps | with_reducible apply State.judgeHold_keeps
                 | with_reducible apply keeps_ite | with_reducible apply keeps_ite_fst | with_reducible apply keeps_ite_snd
                 | with_reducible apply keeps_ite_snd_snd | split)

theorem State.clampHold_keeps {z : State} (s : State) (cs : List Nat) (hK : Keeps z s) : Keeps z (State.clampHold s cs) := by
  unfold State.clampHold
  try dsimp only
  repeat' (first | with_reducible assumption | intro _ | with_reducible apply State.each_keeps
                 | with_reducible apply State.modPower_keeps | with_reducible apply State.rehold_keeps
                 | with_reducible apply keeps_ite | with_reducible apply keeps_ite_fst | with_reducible apply keeps_ite_snd
                 | with_reducible apply keeps_ite_snd_snd | split)

/-! ## Regulator -/

theorem State.softStart_keeps {z : State} (s : State) (v slope : Nat) (zero : Bool) (hK :
    Keeps z s) : Keeps z (State.softStart s v slope zero) := by
  unfold State.softStart
  try dsimp only
  repeat' (first | with_reducible assumption | intro _ | with_reducible apply State.modPower_keeps
                 | with_reducible apply State.modVr_keeps | with_reducible apply State.drive_keeps
                 | with_reducible apply keeps_ite | with_reducible apply keeps_ite_fst | with_reducible apply keeps_ite_snd
                 | with_reducible apply keeps_ite_snd_snd | with_reducible apply keepsO_ite | with_reducible exact keepsO_none
                 | with_reducible apply keepsO_some | split)

theorem State.startVr_keeps {z : State} (s : State) (c : Nat) (hK : Keeps z s) : Keeps z (State.startVr s c) := by
  unfold State.startVr
  try dsimp only
  repeat' (first | with_reducible assumption | intro _ | with_reducible apply State.modVr_keeps
                 | with_reducible apply State.softStart_keeps | with_reducible apply keeps_ite
                 | with_reducible apply keeps_ite_fst | with_reducible apply keeps_ite_snd
                 | with_reducible apply keeps_ite_snd_snd | with_reducible apply keepsO_ite | with_reducible exact keepsO_none
                 | with_reducible apply keepsO_some | split)

theorem State.startDue_keeps {z : State} (s : State) (v : Nat) (hK : Keeps z s) : Keeps z (State.startDue s v) := by
  unfold State.startDue
  try dsimp only
  repeat' (first | with_reducible assumption | intro _ | with_reducible apply State.softStart_keeps
                 | with_reducible apply keeps_ite | with_reducible apply keeps_ite_fst | with_reducible apply keeps_ite_snd
                 | with_reducible apply keeps_ite_snd_snd | with_reducible apply keepsO_ite | with_reducible exact keepsO_none
                 | with_reducible apply keepsO_some | split)

theorem State.observe_keeps {z : State} (s : State) (v : Nat) (inp : PwmInput) (hK :
    Keeps z s) : Keeps z (State.observe s v inp) := by
  unfold State.observe
  try dsimp only
  repeat' (first | with_reducible assumption | intro _ | with_reducible apply State.modVr_keeps
                 | with_reducible apply State.stage_keeps | with_reducible apply keeps_ite | with_reducible apply keeps_ite_fst
                 | with_reducible apply keeps_ite_snd | with_reducible apply keeps_ite_snd_snd | with_reducible apply keeps_getD
                 | with_reducible apply foldl_keeps | with_reducible apply foldl_keeps_fst
                 | with_reducible apply foldl_keeps_snd | with_reducible apply foldl_keeps_snd_snd
                 | with_reducible apply foldl_keeps_fst_fst | split)

theorem State.raiseVr_keeps {z : State} (s : State) (src v : Nat) (hK : Keeps z s) : Keeps z (State.raiseVr s src v) := by
  unfold State.raiseVr
  try dsimp only
  repeat' (first | with_reducible assumption | intro _ | with_reducible apply State.raise_keeps | with_reducible apply keeps_ite
                 | with_reducible apply keeps_ite_fst | with_reducible apply keeps_ite_snd
                 | with_reducible apply keeps_ite_snd_snd | with_reducible apply keepsO_ite | with_reducible exact keepsO_none
                 | with_reducible apply keepsO_some | split)

theorem State.brownOut_keeps {z : State} (s : State) (c : Nat) (hK : Keeps z s) : Keeps z (State.brownOut s c) := by
  unfold State.brownOut
  try dsimp only
  repeat' (first | with_reducible assumption | intro _ | with_reducible apply State.modPower_keeps
                 | with_reducible apply State.loseStore_keeps | with_reducible apply State.raiseCore_keeps
                 | with_reducible apply keeps_ite | with_reducible apply keeps_ite_fst | with_reducible apply keeps_ite_snd
                 | with_reducible apply keeps_ite_snd_snd | split)

theorem State.searchCarrier_keeps {z : State} (s : State) (c : Nat) (near : Bool) (hK :
    Keeps z s) : Keeps z (State.searchCarrier s c near) := by
  unfold State.searchCarrier
  try dsimp only
  repeat' (first | with_reducible assumption | intro _ | with_reducible apply State.modPower_keeps
                 | with_reducible apply State.modVr_keeps | with_reducible apply State.loseRegs_keeps
                 | with_reducible apply State.loseStore_keeps | with_reducible apply State.goDark_keeps
                 | with_reducible apply State.rehold_keeps | with_reducible apply State.brownOut_keeps
                 | with_reducible apply keeps_ite | with_reducible apply keeps_ite_fst | with_reducible apply keeps_ite_snd
                 | with_reducible apply keeps_ite_snd_snd | with_reducible apply keepsO_ite | with_reducible exact keepsO_none
                 | with_reducible apply keepsO_some | split)

theorem State.failCoreVr_keeps {z : State} (s : State) (c : Nat) (near : Bool) (hK :
    Keeps z s) : Keeps z (State.failCoreVr s c near) := by
  unfold State.failCoreVr
  try dsimp only
  repeat' (first | with_reducible assumption | intro _ | with_reducible apply State.modPower_keeps
                 | with_reducible apply State.modVr_keeps | with_reducible apply State.coreOff_keeps
                 | with_reducible apply State.raiseCore_keeps | with_reducible apply State.goDark_keeps
                 | with_reducible apply State.searchCarrier_keeps | with_reducible apply keeps_ite
                 | with_reducible apply keeps_ite_fst | with_reducible apply keeps_ite_snd
                 | with_reducible apply keeps_ite_snd_snd | with_reducible apply keepsO_ite | with_reducible exact keepsO_none
                 | with_reducible apply keepsO_some | split)

theorem State.failServiceVr_keeps {z : State} (s : State) (r : Nat) (near : Bool) (hK :
    Keeps z s) : Keeps z (State.failServiceVr s r near) := by
  unfold State.failServiceVr
  try dsimp only
  repeat' (first | with_reducible assumption
                 | (intro _; first | exact ⟨id, id⟩ | exact ⟨fun _ => rfl, id⟩ | exact ⟨id, fun _ => rfl⟩ | exact ⟨fun _ => id, id, rfl, rfl⟩)
                 | intro _ | with_reducible apply State.each_keeps | with_reducible apply State.modBoot_keeps
                 | with_reducible apply State.modColumn_keeps | with_reducible apply State.modVr_keeps
                 | with_reducible apply State.coreOff_keeps | with_reducible apply State.markOut_keeps
                 | with_reducible apply State.raiseRegion_keeps | with_reducible apply State.endJobs_keeps
                 | with_reducible apply State.persistOn_keeps | exact BootKeeps.mk id id | with_reducible apply keeps_ite
                 | with_reducible apply keeps_ite_fst | with_reducible apply keeps_ite_snd
                 | with_reducible apply keeps_ite_snd_snd | with_reducible apply keepsO_ite | with_reducible exact keepsO_none
                 | with_reducible apply keepsO_some | split)

theorem State.failVr_keeps {z : State} (s : State) (v : Nat) (near : Bool) (hK :
    Keeps z s) : Keeps z (State.failVr s v near) := by
  unfold State.failVr
  try dsimp only
  repeat' (first | with_reducible assumption | intro _ | with_reducible apply State.failCoreVr_keeps
                 | with_reducible apply State.failServiceVr_keeps | with_reducible apply keeps_ite
                 | with_reducible apply keeps_ite_fst | with_reducible apply keeps_ite_snd
                 | with_reducible apply keeps_ite_snd_snd | split)

theorem State.disableLost_keeps {z : State} (s : State) (v : Nat) (hK : Keeps z s) : Keeps z (State.disableLost s v) := by
  unfold State.disableLost
  try dsimp only
  repeat' (first | with_reducible assumption | intro _ | with_reducible apply State.each_keeps
                 | with_reducible apply State.modVr_keeps | with_reducible apply State.raiseVr_keeps
                 | with_reducible apply State.failVr_keeps | with_reducible apply keeps_ite | with_reducible apply keeps_ite_fst
                 | with_reducible apply keeps_ite_snd | with_reducible apply keeps_ite_snd_snd | split)

theorem State.nextPeriod_keeps {z : State} (s : State) (v : Nat) (inp : PwmInput) (hK :
    Keeps z s) : Keeps z (State.nextPeriod s v inp) := by
  unfold State.nextPeriod
  try dsimp only
  repeat' (first | with_reducible assumption | intro _ | with_reducible apply State.modPower_keeps
                 | with_reducible apply State.modVr_keeps | with_reducible apply State.clampHold_keeps
                 | with_reducible apply State.softStart_keeps | with_reducible apply State.brownOut_keeps
                 | with_reducible apply State.disableLost_keeps | with_reducible apply keeps_ite
                 | with_reducible apply keeps_ite_fst | with_reducible apply keeps_ite_snd
                 | with_reducible apply keeps_ite_snd_snd | split)

theorem State.setStage_keeps {z : State} (s : State) (v k : Nat) (temp : BitVec 8) (hK :
    Keeps z s) : Keeps z (State.setStage s v k temp) := by
  unfold State.setStage
  try dsimp only
  repeat' (first | with_reducible assumption | intro _ | with_reducible apply State.modVr_keeps
                 | with_reducible apply State.stage_keeps | with_reducible apply keeps_ite | with_reducible apply keeps_ite_fst
                 | with_reducible apply keeps_ite_snd | with_reducible apply keeps_ite_snd_snd | split)

theorem State.joinRails_keeps {z : State} (s : State) (c d : CoreId) (hK : Keeps z s) : Keeps z (State.joinRails s c d) := by
  unfold State.joinRails
  try dsimp only
  repeat' (first | with_reducible assumption | intro _ | with_reducible apply State.modPower_keeps
                 | with_reducible apply State.vrOff_keeps | with_reducible apply keeps_ite | with_reducible apply keeps_ite_fst
                 | with_reducible apply keeps_ite_snd | with_reducible apply keeps_ite_snd_snd | with_reducible apply keepsO_ite
                 | with_reducible exact keepsO_none | with_reducible apply keepsO_some | split)

theorem State.writeCoreReq_keeps {z : State} (s : State) (r v : Nat) (hK : Keeps z s) : KeepsO z (State.writeCoreReq s r v) := by
  unfold State.writeCoreReq
  try dsimp only
  repeat' (first | with_reducible assumption | intro _ | with_reducible apply State.putReg_keeps
                 | with_reducible apply State.actOnRequest_keeps | with_reducible apply keeps_ite
                 | with_reducible apply keeps_ite_fst | with_reducible apply keeps_ite_snd
                 | with_reducible apply keeps_ite_snd_snd | with_reducible apply keepsO_ite | with_reducible exact keepsO_none
                 | with_reducible apply keepsO_some | split)

theorem State.rampCore_keeps {z : State} (s : State) (c : Nat) (first : Bool) (hK :
    Keeps z s) : Keeps z (State.rampCore s c first) := by
  unfold State.rampCore
  try dsimp only
  repeat' (first | with_reducible assumption | intro _ | with_reducible apply State.modPower_keeps
                 | with_reducible apply State.softStart_keeps | with_reducible apply State.startVr_keeps
                 | with_reducible apply State.searchCarrier_keeps | with_reducible apply keeps_ite
                 | with_reducible apply keeps_ite_fst | with_reducible apply keeps_ite_snd
                 | with_reducible apply keeps_ite_snd_snd | split)

theorem State.grant_keeps {z : State} (s : State) (r : Nat) (hK : Keeps z s) : Keeps z (State.grant s r) := by
  unfold State.grant
  try dsimp only
  repeat' (first | with_reducible assumption
                 | (intro _; first | exact ⟨id, id⟩ | exact ⟨fun _ => rfl, id⟩ | exact ⟨id, fun _ => rfl⟩ | exact ⟨fun _ => id, id, rfl, rfl⟩)
                 | intro _ | with_reducible apply State.each_keeps | with_reducible apply State.modBoot_keeps
                 | with_reducible apply State.modLoop_keeps | with_reducible apply State.restartSlots_keeps
                 | with_reducible apply State.softStart_keeps | with_reducible apply State.rampCore_keeps
                 | exact BootKeeps.mk id id | with_reducible apply keeps_ite | with_reducible apply keeps_ite_fst
                 | with_reducible apply keeps_ite_snd | with_reducible apply keeps_ite_snd_snd | with_reducible apply keepsO_ite
                 | with_reducible exact keepsO_none | with_reducible apply keepsO_some | split)

theorem State.afterUps_keeps {z : State} (s : State) (hK : Keeps z s) : Keeps z (State.afterUps s) := by
  unfold State.afterUps
  try dsimp only
  repeat' (first | with_reducible assumption
                 | (intro _; first | exact ⟨id, id⟩ | exact ⟨fun _ => rfl, id⟩ | exact ⟨id, fun _ => rfl⟩ | exact ⟨fun _ => id, id, rfl, rfl⟩)
                 | intro _ | with_reducible apply State.modBoot_keeps | exact BootKeeps.mk id id
                 | with_reducible apply keeps_ite | with_reducible apply keeps_ite_fst | with_reducible apply keeps_ite_snd
                 | with_reducible apply keeps_ite_snd_snd | split)

theorem State.endRamp_keeps {z : State} (s : State) (c : Nat) (hK : Keeps z s) : Keeps z (State.endRamp s c) := by
  unfold State.endRamp
  try dsimp only
  repeat' (first | with_reducible assumption | intro _ | with_reducible apply State.modPower_keeps
                 | with_reducible apply State.applyRequest_keeps | with_reducible apply State.forget_keeps
                 | with_reducible apply State.brownOut_keeps | with_reducible apply keeps_ite
                 | with_reducible apply keeps_ite_fst | with_reducible apply keeps_ite_snd
                 | with_reducible apply keeps_ite_snd_snd | split)

theorem State.writeVr_keeps {z : State} (s : State) (v o w : Nat) (hK : Keeps z s) : Keeps z (State.writeVr s v o w) := by
  unfold State.writeVr
  try dsimp only
  repeat' (first | with_reducible assumption | intro _ | with_reducible apply State.putReg_keeps
                 | with_reducible apply State.modVr_keeps | with_reducible apply keeps_ite | with_reducible apply keeps_ite_fst
                 | with_reducible apply keeps_ite_snd | with_reducible apply keeps_ite_snd_snd | split)

/-! ## Loops -/

theorem State.staleCheck_keeps {z : State} (s : State) (r : Nat) (hK : Keeps z s) : Keeps z (State.staleCheck s r) := by
  unfold State.staleCheck
  try dsimp only
  repeat' (first | with_reducible assumption | intro _ | with_reducible apply State.persistOn_keeps
                 | with_reducible apply State.persistOff_keeps | with_reducible apply keeps_ite
                 | with_reducible apply keeps_ite_fst | with_reducible apply keeps_ite_snd
                 | with_reducible apply keeps_ite_snd_snd | with_reducible apply keepsO_ite | with_reducible exact keepsO_none
                 | with_reducible apply keepsO_some | split)

theorem State.closeIntervals_keeps {z : State} (s : State) (r : Nat) (hK : Keeps z s) : Keeps z (State.closeIntervals s r) := by
  unfold State.closeIntervals
  try dsimp only
  repeat' (first | with_reducible assumption | intro _ | with_reducible apply State.modTlm_keeps
                 | with_reducible apply State.staleCheck_keeps | with_reducible apply keeps_ite
                 | with_reducible apply keeps_ite_fst | with_reducible apply keeps_ite_snd
                 | with_reducible apply keeps_ite_snd_snd | with_reducible apply foldl_keeps
                 | with_reducible apply foldl_keeps_fst | with_reducible apply foldl_keeps_snd
                 | with_reducible apply foldl_keeps_snd_snd | with_reducible apply foldl_keeps_fst_fst | split)

theorem State.addEnergies_keeps {z : State} (s : State) (hK : Keeps z s) : Keeps z (State.addEnergies s) := by
  unfold State.addEnergies
  try dsimp only
  repeat' (first | with_reducible assumption | intro _ | with_reducible apply State.setPower_keeps
                 | with_reducible apply State.each_keeps | with_reducible apply State.modSeq_keeps
                 | with_reducible apply keeps_ite | with_reducible apply keeps_ite_fst | with_reducible apply keeps_ite_snd
                 | with_reducible apply keeps_ite_snd_snd | with_reducible apply keepsO_ite | with_reducible exact keepsO_none
                 | with_reducible apply keepsO_some | with_reducible apply keepsO_map | with_reducible apply keepsO_mapOf
                 | with_reducible apply foldl_keeps | with_reducible apply foldl_keeps_fst
                 | with_reducible apply foldl_keeps_snd | with_reducible apply foldl_keeps_snd_snd
                 | with_reducible apply foldl_keeps_fst_fst | split)

theorem State.learn_keeps {z : State} (s : State) (c : Nat) (hK : Keeps z s) : Keeps z (State.learn s c) := by
  unfold State.learn
  try dsimp only
  repeat' (first | with_reducible assumption | intro _ | with_reducible apply State.modLoop_keeps
                 | with_reducible apply keeps_ite | with_reducible apply keeps_ite_fst | with_reducible apply keeps_ite_snd
                 | with_reducible apply keeps_ite_snd_snd | with_reducible apply keepsO_ite | with_reducible exact keepsO_none
                 | with_reducible apply keepsO_some | split)

theorem State.restartWindow_keeps {z : State} (s : State) (w : Nat) (hK : Keeps z s) : Keeps z (State.restartWindow s w) := by
  unfold State.restartWindow
  try dsimp only
  repeat' (first | with_reducible assumption | intro _ | with_reducible apply State.setPower_keeps
                 | with_reducible apply keeps_ite | with_reducible apply keeps_ite_fst | with_reducible apply keeps_ite_snd
                 | with_reducible apply keeps_ite_snd_snd | split)

theorem State.powerSample_keeps {z : State} (s : State) (hK : Keeps z s) : Keeps z (State.powerSample s) := by
  unfold State.powerSample
  try dsimp only
  repeat' (first | with_reducible assumption | intro _ | with_reducible apply State.setPower_keeps
                 | with_reducible apply State.putReg_keeps | with_reducible apply keeps_ite | with_reducible apply keeps_ite_fst
                 | with_reducible apply keeps_ite_snd | with_reducible apply keeps_ite_snd_snd | with_reducible apply keepsO_map
                 | with_reducible apply keepsO_mapOf | with_reducible apply foldl_keeps | with_reducible apply foldl_keeps_fst
                 | with_reducible apply foldl_keeps_snd | with_reducible apply foldl_keeps_snd_snd
                 | with_reducible apply foldl_keeps_fst_fst | split)

theorem State.capStats_keeps {z : State} (s : State) (hK : Keeps z s) : Keeps z (State.capStats s) := by
  unfold State.capStats
  try dsimp only
  repeat' (first | with_reducible assumption | intro _ | with_reducible apply State.each_keeps
                 | with_reducible apply State.putReg_keeps | with_reducible apply State.raiseBlock_keeps
                 | with_reducible apply keeps_ite | with_reducible apply keeps_ite_fst | with_reducible apply keeps_ite_snd
                 | with_reducible apply keeps_ite_snd_snd | split)

theorem State.reportShare_keeps {z : State} (s : State) (p : Nat) (need : Ratio) (sh : List Ratio) (hK :
    Keeps z s) : Keeps z (State.reportShare s p need sh) := by
  unfold State.reportShare
  try dsimp only
  repeat' (first | with_reducible assumption | intro _ | with_reducible apply State.putReg_keeps
                 | with_reducible apply keeps_ite | with_reducible apply keeps_ite_fst | with_reducible apply keeps_ite_snd
                 | with_reducible apply keeps_ite_snd_snd | with_reducible apply keeps_getD | split)

theorem State.computeOutputs_keeps {z : State} (s : State) (hK : Keeps z s) : Keeps z (State.computeOutputs s) := by
  unfold State.computeOutputs
  try dsimp only
  repeat' (first | with_reducible assumption | intro _ | with_reducible apply State.each_keeps
                 | with_reducible apply State.modPower_keeps | with_reducible apply State.reportShare_keeps
                 | with_reducible apply keeps_ite | with_reducible apply keeps_ite_fst | with_reducible apply keeps_ite_snd
                 | with_reducible apply keeps_ite_snd_snd | with_reducible apply keepsO_ite | with_reducible exact keepsO_none
                 | with_reducible apply keepsO_some | with_reducible apply keepsO_map | with_reducible apply keepsO_mapOf
                 | with_reducible apply keeps_getD | split)

theorem State.startInterval_keeps {z : State} (s : State) (hK : Keeps z s) : Keeps z (State.startInterval s) := by
  unfold State.startInterval
  try dsimp only
  repeat' (first | with_reducible assumption | intro _ | with_reducible apply State.setThermal_keeps
                 | with_reducible apply State.each_keeps | with_reducible apply State.modCore_keeps
                 | with_reducible apply keeps_ite | with_reducible apply keeps_ite_fst | with_reducible apply keeps_ite_snd
                 | with_reducible apply keeps_ite_snd_snd | with_reducible apply keepsO_ite | with_reducible exact keepsO_none
                 | with_reducible apply keepsO_some | with_reducible apply keeps_getD | split)

theorem State.judgeVpil_keeps {z : State} (s : State) (g : Nat) (hK : Keeps z s) : Keeps z (State.judgeVpil s g) := by
  unfold State.judgeVpil
  try dsimp only
  repeat' (first | with_reducible assumption | intro _ | with_reducible apply State.modLoop_keeps
                 | with_reducible apply keeps_ite | with_reducible apply keeps_ite_fst | with_reducible apply keeps_ite_snd
                 | with_reducible apply keeps_ite_snd_snd | split)

theorem State.paceSample_keeps {z : State} (s : State) (hK : Keeps z s) : Keeps z (State.paceSample s) := by
  unfold State.paceSample
  try dsimp only
  repeat' (first | with_reducible assumption | intro _ | with_reducible apply State.each_keeps
                 | with_reducible apply State.modPower_keeps | with_reducible apply keeps_ite
                 | with_reducible apply keeps_ite_fst | with_reducible apply keeps_ite_snd
                 | with_reducible apply keeps_ite_snd_snd | with_reducible apply keepsO_ite | with_reducible exact keepsO_none
                 | with_reducible apply keepsO_some | split)

theorem State.serviceSample_keeps {z : State} (s : State) (hK : Keeps z s) : Keeps z (State.serviceSample s) := by
  unfold State.serviceSample
  try dsimp only
  repeat' (first | with_reducible assumption | intro _ | with_reducible apply State.each_keeps
                 | with_reducible apply State.modVr_keeps | with_reducible apply State.modTlm_keeps
                 | with_reducible apply keeps_ite | with_reducible apply keeps_ite_fst | with_reducible apply keeps_ite_snd
                 | with_reducible apply keeps_ite_snd_snd | split)

theorem State.writeCap_keeps {z : State} (s : State) (w v : Nat) (hK : Keeps z s) : KeepsO z (State.writeCap s w v) := by
  unfold State.writeCap
  try dsimp only
  repeat' (first | with_reducible assumption | intro _ | with_reducible apply State.putReg_keeps
                 | with_reducible apply State.restartWindow_keeps | with_reducible apply keeps_ite
                 | with_reducible apply keeps_ite_fst | with_reducible apply keeps_ite_snd
                 | with_reducible apply keeps_ite_snd_snd | with_reducible apply keepsO_ite | with_reducible exact keepsO_none
                 | with_reducible apply keepsO_some | with_reducible apply keepsO_map | with_reducible apply keepsO_mapOf
                 | split)

theorem State.writeFloor_keeps {z : State} (s : State) (p v : Nat) (hK : Keeps z s) : KeepsO z (State.writeFloor s p v) := by
  unfold State.writeFloor
  try dsimp only
  repeat' (first | with_reducible assumption | intro _ | with_reducible apply State.each_keeps
                 | with_reducible apply State.putReg_keeps | with_reducible apply State.restartWindow_keeps
                 | with_reducible apply keeps_ite | with_reducible apply keeps_ite_fst | with_reducible apply keeps_ite_snd
                 | with_reducible apply keeps_ite_snd_snd | with_reducible apply keepsO_ite | with_reducible exact keepsO_none
                 | with_reducible apply keepsO_some | with_reducible apply keepsO_map | with_reducible apply keepsO_mapOf
                 | split)

theorem State.writeXhold_keeps {z : State} (s : State) (p v : Nat) (hK : Keeps z s) : Keeps z (State.writeXhold s p v) := by
  unfold State.writeXhold
  try dsimp only
  repeat' (first | with_reducible assumption | intro _ | with_reducible apply State.setPower_keeps
                 | with_reducible apply State.putReg_keeps | with_reducible apply State.rehold_keeps
                 | with_reducible apply keeps_ite | with_reducible apply keeps_ite_fst | with_reducible apply keeps_ite_snd
                 | with_reducible apply keeps_ite_snd_snd | split)

theorem State.writeLpeCtrl_keeps {z : State} (s : State) (r v : Nat) (hK : Keeps z s) : Keeps z (State.writeLpeCtrl s r v) := by
  unfold State.writeLpeCtrl
  try dsimp only
  repeat' (first | with_reducible assumption | intro _ | with_reducible apply State.putReg_keeps
                 | with_reducible apply State.modLoop_keeps | with_reducible apply keeps_ite
                 | with_reducible apply keeps_ite_fst | with_reducible apply keeps_ite_snd
                 | with_reducible apply keeps_ite_snd_snd | with_reducible apply keepsO_ite | with_reducible exact keepsO_none
                 | with_reducible apply keepsO_some | split)

theorem State.writeLpe_keeps {z : State} (s : State) (r o v : Nat) (loads : Bool) (hK :
    Keeps z s) : KeepsO z (State.writeLpe s r o v loads) := by
  unfold State.writeLpe
  try dsimp only
  repeat' (first | with_reducible assumption | intro _ | with_reducible apply State.each_keeps
                 | with_reducible apply State.putReg_keeps | with_reducible apply State.modPower_keeps
                 | with_reducible apply State.writeLpeCtrl_keeps | with_reducible apply keeps_ite
                 | with_reducible apply keeps_ite_fst | with_reducible apply keeps_ite_snd
                 | with_reducible apply keeps_ite_snd_snd | with_reducible apply keepsO_ite | with_reducible exact keepsO_none
                 | with_reducible apply keepsO_some | split)

/-! ## Thermal -/

theorem State.modSensor_keeps {z : State} (s : State) (n : Nat) (f : Sensor → Sensor) (hK :
    Keeps z s) : Keeps z (State.modSensor s n f) := by
  unfold State.modSensor
  try dsimp only
  repeat' (first | with_reducible assumption | intro _ | with_reducible apply State.setThermal_keeps
                 | with_reducible apply keeps_ite | with_reducible apply keeps_ite_fst | with_reducible apply keeps_ite_snd
                 | with_reducible apply keeps_ite_snd_snd | split)

theorem State.suspectSensor_keeps {z : State} (s : State) (n : Nat) (hK : Keeps z s) : Keeps z (State.suspectSensor s n) := by
  unfold State.suspectSensor
  try dsimp only
  repeat' (first | with_reducible assumption | intro _ | with_reducible apply State.mark_keeps
                 | with_reducible apply State.raise_keeps | with_reducible apply State.modSensor_keeps
                 | with_reducible apply keeps_ite | with_reducible apply keeps_ite_fst | with_reducible apply keeps_ite_snd
                 | with_reducible apply keeps_ite_snd_snd | with_reducible apply keepsO_ite | with_reducible exact keepsO_none
                 | with_reducible apply keepsO_some | split)

theorem State.judge_keeps {z : State} (s : State) (n : Nat) (hK : Keeps z s) : Keeps z (State.judge s n) := by
  unfold State.judge
  try dsimp only
  repeat' (first | with_reducible assumption | intro _ | with_reducible apply State.modSensor_keeps
                 | with_reducible apply State.suspectSensor_keeps | with_reducible apply keeps_ite
                 | with_reducible apply keeps_ite_fst | with_reducible apply keeps_ite_snd
                 | with_reducible apply keeps_ite_snd_snd | with_reducible apply keepsO_map | with_reducible apply keepsO_mapOf
                 | split)

theorem State.noteMax_keeps {z : State} (s : State) (k : Nat) (t : Int) (hK : Keeps z s) : Keeps z (State.noteMax s k t) := by
  unfold State.noteMax
  try dsimp only
  repeat' (first | with_reducible assumption | intro _ | with_reducible apply State.setThermal_keeps
                 | with_reducible apply keeps_ite | with_reducible apply keeps_ite_fst | with_reducible apply keeps_ite_snd
                 | with_reducible apply keeps_ite_snd_snd | with_reducible apply keepsO_ite | with_reducible exact keepsO_none
                 | with_reducible apply keepsO_some | split)

theorem State.tripBlock_keeps {z : State} (s : State) (n : Nat) (t : Int) (hK : Keeps z s) : Keeps z (State.tripBlock s n t) := by
  unfold State.tripBlock
  try dsimp only
  repeat' (first | with_reducible assumption
                 | (intro _; first | exact ⟨id, id⟩ | exact ⟨fun _ => rfl, id⟩ | exact ⟨id, fun _ => rfl⟩ | exact ⟨fun _ => id, id, rfl, rfl⟩)
                 | intro _ | with_reducible apply State.modBoot_keeps | with_reducible apply State.putReg_keeps
                 | with_reducible apply State.modPins_keeps | with_reducible apply State.railsOff_keeps
                 | with_reducible apply State.raiseBlock_keeps | with_reducible apply State.persistOn_keeps
                 | exact BootKeeps.mk id id | with_reducible apply keeps_ite | with_reducible apply keeps_ite_fst
                 | with_reducible apply keeps_ite_snd | with_reducible apply keeps_ite_snd_snd | with_reducible apply keepsO_ite
                 | with_reducible exact keepsO_none | with_reducible apply keepsO_some | split)

theorem State.thermEdges_keeps {z : State} (s : State) (hK : Keeps z s) : Keeps z (State.thermEdges s) := by
  unfold State.thermEdges
  try dsimp only
  repeat' (first | with_reducible assumption | intro _ | with_reducible apply State.setThermal_keeps
                 | with_reducible apply State.each_keeps | with_reducible apply State.raiseCore_keeps
                 | with_reducible apply State.raiseBlock_keeps | with_reducible apply keeps_ite
                 | with_reducible apply keeps_ite_fst | with_reducible apply keeps_ite_snd
                 | with_reducible apply keeps_ite_snd_snd | split)

theorem State.updateCore_keeps {z : State} (s : State) (c : Nat) (hK : Keeps z s) : Keeps z (State.updateCore s c) := by
  unfold State.updateCore
  try dsimp only
  repeat' (first | with_reducible assumption | intro _ | with_reducible apply State.setThermal_keeps
                 | with_reducible apply State.raiseCore_keeps | with_reducible apply State.noteMax_keeps
                 | with_reducible apply State.tripBlock_keeps | with_reducible apply keeps_ite
                 | with_reducible apply keeps_ite_fst | with_reducible apply keeps_ite_snd
                 | with_reducible apply keeps_ite_snd_snd | with_reducible apply keepsO_ite | with_reducible exact keepsO_none
                 | with_reducible apply keepsO_some | split)

theorem State.clearSuspect_keeps {z : State} (s : State) (n : Nat) (hK : Keeps z s) : Keeps z (State.clearSuspect s n) := by
  unfold State.clearSuspect
  try dsimp only
  repeat' (first | with_reducible assumption | intro _ | with_reducible apply State.modSensor_keeps
                 | with_reducible apply keeps_ite | with_reducible apply keeps_ite_fst | with_reducible apply keeps_ite_snd
                 | with_reducible apply keeps_ite_snd_snd | split)

theorem State.loseCoolant_keeps {z : State} (s : State) (hK : Keeps z s) : Keeps z (State.loseCoolant s) := by
  unfold State.loseCoolant
  try dsimp only
  repeat' (first | with_reducible assumption
                 | (intro _; first | exact ⟨id, id⟩ | exact ⟨fun _ => rfl, id⟩ | exact ⟨id, fun _ => rfl⟩ | exact ⟨fun _ => id, id, rfl, rfl⟩)
                 | intro _ | with_reducible apply State.setPower_keeps | with_reducible apply State.modBoot_keeps
                 | with_reducible apply State.putReg_keeps | with_reducible apply State.allToRetain_keeps
                 | with_reducible apply State.wakeCause_keeps | with_reducible apply State.raiseBlock_keeps
                 | with_reducible apply State.endJobs_keeps | with_reducible apply State.rehold_keeps | exact BootKeeps.mk id id
                 | with_reducible apply keeps_ite | with_reducible apply keeps_ite_fst | with_reducible apply keeps_ite_snd
                 | with_reducible apply keeps_ite_snd_snd | with_reducible apply keepsO_ite | with_reducible exact keepsO_none
                 | with_reducible apply keepsO_some | split)

theorem State.writeCool_keeps {z : State} (s : State) (v : Nat) (hK : Keeps z s) : KeepsO z (State.writeCool s v) := by
  unfold State.writeCool
  try dsimp only
  repeat' (first | with_reducible assumption
                 | (intro _; first | exact ⟨id, id⟩ | exact ⟨fun _ => rfl, id⟩ | exact ⟨id, fun _ => rfl⟩ | exact ⟨fun _ => id, id, rfl, rfl⟩)
                 | intro _ | with_reducible apply State.setPower_keeps | with_reducible apply State.modBoot_keeps
                 | with_reducible apply State.actOnRequests_keeps | with_reducible apply State.afterUps_keeps
                 | exact BootKeeps.mk id id | with_reducible apply keeps_ite | with_reducible apply keeps_ite_fst
                 | with_reducible apply keeps_ite_snd | with_reducible apply keeps_ite_snd_snd | with_reducible apply keepsO_ite
                 | with_reducible exact keepsO_none | with_reducible apply keepsO_some | split)

/-! ## Events -/

theorem State.withdrawOne_keeps {z : State} (s : State) (p k : Nat) (hK : Keeps z s) : Keeps z (State.withdrawOne s p k) := by
  unfold State.withdrawOne
  try dsimp only
  repeat' (first | with_reducible assumption | intro _ | with_reducible apply State.modEvq_keeps
                 | with_reducible apply keeps_ite | with_reducible apply keeps_ite_fst | with_reducible apply keeps_ite_snd
                 | with_reducible apply keeps_ite_snd_snd | with_reducible apply keepsO_ite | with_reducible exact keepsO_none
                 | with_reducible apply keepsO_some | with_reducible apply keepsO_map | with_reducible apply keepsO_mapOf
                 | split)

theorem State.withdraw_keeps {z : State} (s : State) (p k v : Nat) (hK : Keeps z s) : Keeps z (State.withdraw s p k v) := by
  unfold State.withdraw
  try dsimp only
  repeat' (first | with_reducible assumption | intro _ | with_reducible apply State.each_keeps
                 | with_reducible apply State.withdrawOne_keeps | with_reducible apply keeps_ite
                 | with_reducible apply keeps_ite_fst | with_reducible apply keeps_ite_snd
                 | with_reducible apply keeps_ite_snd_snd | split)

theorem State.failRecord_keeps {z : State} (s : State) (p : Nat) (index : BitVec 32) (hK :
    Keeps z s) : Keeps z (State.failRecord s p index) := by
  unfold State.failRecord
  try dsimp only
  repeat' (first | with_reducible assumption | intro _ | with_reducible apply State.modEvq_keeps
                 | with_reducible apply State.raise_keeps | with_reducible apply keeps_ite | with_reducible apply keeps_ite_fst
                 | with_reducible apply keeps_ite_snd | with_reducible apply keeps_ite_snd_snd | with_reducible apply keepsO_ite
                 | with_reducible exact keepsO_none | with_reducible apply keepsO_some | with_reducible apply foldl_keeps
                 | with_reducible apply foldl_keeps_fst | with_reducible apply foldl_keeps_snd
                 | with_reducible apply foldl_keeps_snd_snd | with_reducible apply foldl_keeps_fst_fst | split)

theorem State.dropOutbound_keeps {z : State} (s : State) (tid : Nat) (hK : Keeps z s) : Keeps z (State.dropOutbound s tid) := by
  unfold State.dropOutbound
  try dsimp only
  repeat' (first | with_reducible assumption | intro _ | with_reducible apply State.setHost_keeps
                 | with_reducible apply keeps_ite | with_reducible apply keeps_ite_fst | with_reducible apply keeps_ite_snd
                 | with_reducible apply keeps_ite_snd_snd | split)

theorem State.completeRecord_keeps {z : State} (s : State) (p : Nat) (r : EventRec) (ok : Bool) (hK :
    Keeps z s) : Keeps z (State.completeRecord s p r ok) := by
  unfold State.completeRecord
  try dsimp only
  repeat' (first | with_reducible assumption | intro _ | with_reducible apply State.modEvq_keeps
                 | with_reducible apply State.writePieces_keeps | with_reducible apply State.failRecord_keeps
                 | with_reducible apply State.dropOutbound_keeps | with_reducible apply keeps_ite
                 | with_reducible apply keeps_ite_fst | with_reducible apply keeps_ite_snd
                 | with_reducible apply keeps_ite_snd_snd | with_reducible apply keepsO_ite | with_reducible exact keepsO_none
                 | with_reducible apply keepsO_some | with_reducible apply keeps_getD | split)

theorem State.failRecords_keeps {z : State} (s : State) (hK : Keeps z s) : Keeps z (State.failRecords s) := by
  unfold State.failRecords
  try dsimp only
  repeat' (first | with_reducible assumption | intro _ | with_reducible apply State.each_keeps
                 | with_reducible apply State.modEvq_keeps | with_reducible apply State.failRecord_keeps
                 | with_reducible apply keeps_ite | with_reducible apply keeps_ite_fst | with_reducible apply keeps_ite_snd
                 | with_reducible apply keeps_ite_snd_snd | with_reducible apply keepsO_ite | with_reducible exact keepsO_none
                 | with_reducible apply keepsO_some | split)

theorem State.messageError_keeps {z : State} (s : State) (p : Nat) (hK : Keeps z s) : Keeps z (State.messageError s p) := by
  unfold State.messageError
  try dsimp only
  repeat' (first | with_reducible assumption | intro _ | with_reducible apply State.mark_keeps
                 | with_reducible apply State.modEvq_keeps | with_reducible apply keeps_ite | with_reducible apply keeps_ite_fst
                 | with_reducible apply keeps_ite_snd | with_reducible apply keeps_ite_snd_snd | split)

theorem State.writeTail_keeps {z : State} (s : State) (p v : Nat) (hK : Keeps z s) : KeepsO z (State.writeTail s p v) := by
  unfold State.writeTail
  try dsimp only
  repeat' (first | with_reducible assumption | intro _ | with_reducible apply State.modEvq_keeps
                 | with_reducible apply keeps_ite | with_reducible apply keeps_ite_fst | with_reducible apply keeps_ite_snd
                 | with_reducible apply keeps_ite_snd_snd | with_reducible apply keepsO_ite | with_reducible exact keepsO_none
                 | with_reducible apply keepsO_some | split)

theorem State.writeEvqCfg_keeps {z : State} (s : State) (p v : Nat) (hK : Keeps z s) : KeepsO z (State.writeEvqCfg s p v) := by
  unfold State.writeEvqCfg
  try dsimp only
  repeat' (first | with_reducible assumption | intro _ | with_reducible apply State.putReg_keeps
                 | with_reducible apply State.modEvq_keeps | with_reducible apply keeps_ite | with_reducible apply keeps_ite_fst
                 | with_reducible apply keeps_ite_snd | with_reducible apply keeps_ite_snd_snd | with_reducible apply keepsO_ite
                 | with_reducible exact keepsO_none | with_reducible apply keepsO_some | split)

theorem State.writeRing_keeps {z : State} (s : State) (p o v : Nat) (hK : Keeps z s) : KeepsO z (State.writeRing s p o v) := by
  unfold State.writeRing
  try dsimp only
  repeat' (first | with_reducible assumption | intro _ | with_reducible apply State.putReg_keeps
                 | with_reducible apply keeps_ite | with_reducible apply keeps_ite_fst | with_reducible apply keeps_ite_snd
                 | with_reducible apply keeps_ite_snd_snd | with_reducible apply keepsO_ite | with_reducible exact keepsO_none
                 | with_reducible apply keepsO_some | split)

theorem State.recheckRings_keeps {z : State} (s : State) (hK : Keeps z s) : Keeps z (State.recheckRings s) := by
  unfold State.recheckRings
  try dsimp only
  repeat' (first | with_reducible assumption | intro _ | with_reducible apply State.each_keeps
                 | with_reducible apply State.modEvq_keeps | with_reducible apply keeps_ite | with_reducible apply keeps_ite_fst
                 | with_reducible apply keeps_ite_snd | with_reducible apply keeps_ite_snd_snd | split)

theorem State.enterIdle_keeps {z : State} (s : State) (hK : Keeps z s) : Keeps z (State.enterIdle s).1 := by
  unfold State.enterIdle
  try dsimp only
  repeat' (first | with_reducible assumption
                 | (intro _; first | exact ⟨id, id⟩ | exact ⟨fun _ => rfl, id⟩ | exact ⟨id, fun _ => rfl⟩ | exact ⟨fun _ => id, id, rfl, rfl⟩)
                 | intro _ | with_reducible apply State.modBoot_keeps | with_reducible apply State.putReg_keeps
                 | with_reducible apply State.allToRetain_keeps | exact BootKeeps.mk id id | with_reducible apply keeps_ite
                 | with_reducible apply keeps_ite_fst | with_reducible apply keeps_ite_snd
                 | with_reducible apply keeps_ite_snd_snd | with_reducible apply keepsO_ite | with_reducible exact keepsO_none
                 | with_reducible apply keepsO_some | split)

theorem State.lateWake_keeps {z : State} (s : State) (hK : Keeps z s) : Keeps z (State.lateWake s) := by
  unfold State.lateWake
  try dsimp only
  repeat' (first | with_reducible assumption
                 | (intro _; first | exact ⟨id, id⟩ | exact ⟨fun _ => rfl, id⟩ | exact ⟨id, fun _ => rfl⟩ | exact ⟨fun _ => id, id, rfl, rfl⟩)
                 | intro _ | with_reducible apply State.modBoot_keeps | with_reducible apply State.wakeCause_keeps
                 | with_reducible apply State.afterUps_keeps | exact BootKeeps.mk id id | with_reducible apply keeps_ite
                 | with_reducible apply keeps_ite_fst | with_reducible apply keeps_ite_snd
                 | with_reducible apply keeps_ite_snd_snd | with_reducible apply keepsO_ite | with_reducible exact keepsO_none
                 | with_reducible apply keepsO_some | split)

/-! ## Tlm -/

theorem State.forced_keeps {z : State} (s : State) (r k code : Nat) (ovr : Bool) (hK :
    Keeps z s) : Keeps z (State.forced s r k code ovr).2.2 := by
  unfold State.forced
  try dsimp only
  repeat' (first | with_reducible assumption | intro _ | with_reducible apply State.putReg_keeps
                 | with_reducible apply State.modPerturb_keeps | with_reducible apply keeps_ite
                 | with_reducible apply keeps_ite_fst | with_reducible apply keeps_ite_snd
                 | with_reducible apply keeps_ite_snd_snd | split)

theorem State.putSnap_keeps {z : State} (s : State) (r b k : Nat) (x : TlmChan) (lo hi : Nat) (hK :
    Keeps z s) : Keeps z (State.putSnap s r b k x lo hi) := by
  unfold State.putSnap
  try dsimp only
  repeat' (first | with_reducible assumption | intro _ | with_reducible apply State.putReg_keeps
                 | with_reducible apply keeps_ite | with_reducible apply keeps_ite_fst | with_reducible apply keeps_ite_snd
                 | with_reducible apply keeps_ite_snd_snd | split)

theorem State.enterChan_keeps {z : State} (s : State) (r ch v : Nat) (hK : Keeps z s) : Keeps z (State.enterChan s r ch v) := by
  unfold State.enterChan
  try dsimp only
  repeat' (first | with_reducible assumption | intro _ | with_reducible apply State.each_keeps
                 | with_reducible apply State.modChanT_keeps | with_reducible apply State.putSnap_keeps
                 | with_reducible apply keeps_ite | with_reducible apply keeps_ite_fst | with_reducible apply keeps_ite_snd
                 | with_reducible apply keeps_ite_snd_snd | split)

theorem State.convert_keeps {z : State} (s : State) (r k ch code : Nat) (ovr : Bool) (hK :
    Keeps z s) : Keeps z (State.convert s r k ch code ovr) := by
  unfold State.convert
  try dsimp only
  repeat' (first | with_reducible assumption | intro _ | with_reducible apply State.putReg_keeps
                 | with_reducible apply State.mark_keeps | with_reducible apply State.raiseRegion_keeps
                 | with_reducible apply State.staleCheck_keeps | with_reducible apply State.forced_keeps
                 | with_reducible apply State.enterChan_keeps | with_reducible apply keeps_ite
                 | with_reducible apply keeps_ite_fst | with_reducible apply keeps_ite_snd
                 | with_reducible apply keeps_ite_snd_snd | with_reducible apply keepsO_ite | with_reducible exact keepsO_none
                 | with_reducible apply keepsO_some | split)

theorem State.keepSlots_keeps {z : State} (s : State) (r : Nat) (hK : Keeps z s) : Keeps z (State.keepSlots s r) := by
  unfold State.keepSlots
  try dsimp only
  repeat' (first | with_reducible assumption | intro _ | with_reducible apply State.each_keeps
                 | with_reducible apply State.modTlm_keeps | with_reducible apply keeps_ite | with_reducible apply keeps_ite_fst
                 | with_reducible apply keeps_ite_snd | with_reducible apply keeps_ite_snd_snd | with_reducible apply keepsO_ite
                 | with_reducible exact keepsO_none | with_reducible apply keepsO_some | split)

theorem State.endSlot_keeps {z : State} (s : State) (r k b next : Nat) (conv : Bool) (hK :
    Keeps z s) : Keeps z (State.endSlot s r k b next conv) := by
  unfold State.endSlot
  try dsimp only
  repeat' (first | with_reducible assumption | intro _ | with_reducible apply State.modTlm_keeps
                 | with_reducible apply keeps_ite | with_reducible apply keeps_ite_fst | with_reducible apply keeps_ite_snd
                 | with_reducible apply keeps_ite_snd_snd | with_reducible apply keepsO_ite | with_reducible exact keepsO_none
                 | with_reducible apply keepsO_some | split)

theorem State.writeSpot_keeps {z : State} (s : State) (r v : Nat) (hK : Keeps z s) : KeepsO z (State.writeSpot s r v) := by
  unfold State.writeSpot
  try dsimp only
  repeat' (first | with_reducible assumption | intro _ | with_reducible apply State.putReg_keeps
                 | with_reducible apply State.modTlm_keeps | with_reducible apply State.endSlot_keeps
                 | with_reducible apply keeps_ite | with_reducible apply keeps_ite_fst | with_reducible apply keeps_ite_snd
                 | with_reducible apply keeps_ite_snd_snd | with_reducible apply keepsO_ite | with_reducible exact keepsO_none
                 | with_reducible apply keepsO_some | split)

theorem State.writeSnap_keeps {z : State} (s : State) (r b v : Nat) (hK : Keeps z s) : Keeps z (State.writeSnap s r b v) := by
  unfold State.writeSnap
  try dsimp only
  repeat' (first | with_reducible assumption | intro _ | with_reducible apply State.each_keeps
                 | with_reducible apply State.modTlm_keeps | with_reducible apply State.putSnap_keeps
                 | with_reducible apply keeps_ite | with_reducible apply keeps_ite_fst | with_reducible apply keeps_ite_snd
                 | with_reducible apply keeps_ite_snd_snd | with_reducible apply foldl_keeps
                 | with_reducible apply foldl_keeps_fst | with_reducible apply foldl_keeps_snd
                 | with_reducible apply foldl_keeps_snd_snd | with_reducible apply foldl_keeps_fst_fst | split)

theorem State.writeRef_keeps {z : State} (s : State) (r v : Nat) (hK : Keeps z s) : Keeps z (State.writeRef s r v) := by
  unfold State.writeRef
  try dsimp only
  repeat' (first | with_reducible assumption | intro _ | with_reducible apply State.putReg_keeps
                 | with_reducible apply State.modTlm_keeps | with_reducible apply keeps_ite | with_reducible apply keeps_ite_fst
                 | with_reducible apply keeps_ite_snd | with_reducible apply keeps_ite_snd_snd | split)

theorem State.checkPillar_keeps {z : State} (s : State) (g : Nat) (excess mean : Ratio) (hK :
    Keeps z s) : Keeps z (State.checkPillar s g excess mean) := by
  unfold State.checkPillar
  try dsimp only
  repeat' (first | with_reducible assumption | intro _ | with_reducible apply State.putReg_keeps
                 | with_reducible apply State.modLoop_keeps | with_reducible apply State.raiseRegion_keeps
                 | with_reducible apply keeps_ite | with_reducible apply keeps_ite_fst | with_reducible apply keeps_ite_snd
                 | with_reducible apply keeps_ite_snd_snd | with_reducible apply keepsO_ite | with_reducible exact keepsO_none
                 | with_reducible apply keepsO_some | split)

theorem State.putWindow_keeps {z : State} (s : State) (r k o : Nat) (hK : Keeps z s) : Keeps z (State.putWindow s r k o) := by
  unfold State.putWindow
  try dsimp only
  repeat' (first | with_reducible assumption | intro _ | with_reducible apply State.putReg_keeps
                 | with_reducible apply keeps_ite | with_reducible apply keeps_ite_fst | with_reducible apply keeps_ite_snd
                 | with_reducible apply keeps_ite_snd_snd | split)

theorem State.closeWindow_keeps {z : State} (s : State) (r : Nat) (hK : Keeps z s) : Keeps z (State.closeWindow s r) := by
  unfold State.closeWindow
  try dsimp only
  repeat' (first | with_reducible assumption | intro _ | with_reducible apply State.each_keeps
                 | with_reducible apply State.putReg_keeps | with_reducible apply State.modTlm_keeps
                 | with_reducible apply State.putWindow_keeps | with_reducible apply keeps_ite
                 | with_reducible apply keeps_ite_fst | with_reducible apply keeps_ite_snd
                 | with_reducible apply keeps_ite_snd_snd | with_reducible apply foldl_keeps
                 | with_reducible apply foldl_keeps_fst | with_reducible apply foldl_keeps_snd
                 | with_reducible apply foldl_keeps_snd_snd | with_reducible apply foldl_keeps_fst_fst | split)

theorem State.closeEta_keeps {z : State} (s : State) (hK : Keeps z s) : Keeps z (State.closeEta s) := by
  unfold State.closeEta
  try dsimp only
  repeat' (first | with_reducible assumption | intro _ | with_reducible apply State.setPower_keeps
                 | with_reducible apply keeps_ite | with_reducible apply keeps_ite_fst | with_reducible apply keeps_ite_snd
                 | with_reducible apply keeps_ite_snd_snd | with_reducible apply keepsO_ite | with_reducible exact keepsO_none
                 | with_reducible apply keepsO_some | split)

theorem State.startSlots_keeps {z : State} (s : State) (r : Nat) (on : Nat → Bool) (hK :
    Keeps z s) : Keeps z (State.startSlots s r on) := by
  unfold State.startSlots
  try dsimp only
  repeat' (first | with_reducible assumption | intro _ | with_reducible apply State.each_keeps
                 | with_reducible apply State.modTlm_keeps | with_reducible apply keeps_ite | with_reducible apply keeps_ite_fst
                 | with_reducible apply keeps_ite_snd | with_reducible apply keeps_ite_snd_snd | split)

theorem State.writeTlm_keeps {z : State} (s : State) (r o v : Nat) (hK : Keeps z s) : Keeps z (State.writeTlm s r o v) := by
  unfold State.writeTlm
  try dsimp only
  repeat' (first | with_reducible assumption | intro _ | with_reducible apply State.putReg_keeps
                 | with_reducible apply State.keepSlots_keeps | with_reducible apply State.startSlots_keeps
                 | with_reducible apply keeps_ite | with_reducible apply keeps_ite_fst | with_reducible apply keeps_ite_snd
                 | with_reducible apply keeps_ite_snd_snd | split)

/-! ## Image -/

theorem State.writeSrcCfg_keeps {z : State} (s : State) (k v : Nat) (hK : Keeps z s) : Keeps z (State.writeSrcCfg s k v) := by
  unfold State.writeSrcCfg
  try dsimp only
  repeat' (first | with_reducible assumption | intro _ | with_reducible apply State.modCopies_keeps
                 | with_reducible apply keeps_ite | with_reducible apply keeps_ite_fst | with_reducible apply keeps_ite_snd
                 | with_reducible apply keeps_ite_snd_snd | split)

theorem State.writeFltCtrl_keeps {z : State} (s : State) (v : Nat) (hK : Keeps z s) : Keeps z (State.writeFltCtrl s v) := by
  unfold State.writeFltCtrl
  try dsimp only
  repeat' (first | with_reducible assumption | intro _ | with_reducible apply State.modCopies_keeps
                 | with_reducible apply keeps_ite | with_reducible apply keeps_ite_fst | with_reducible apply keeps_ite_snd
                 | with_reducible apply keeps_ite_snd_snd | split)

theorem State.writePinCfg_keeps {z : State} (s : State) (v : Nat) (hK : Keeps z s) : Keeps z (State.writePinCfg s v) := by
  unfold State.writePinCfg
  try dsimp only
  repeat' (first | with_reducible assumption | intro _ | with_reducible apply State.modCopies_keeps
                 | with_reducible apply State.hold_keeps | with_reducible apply keeps_ite | with_reducible apply keeps_ite_fst
                 | with_reducible apply keeps_ite_snd | with_reducible apply keeps_ite_snd_snd | split)

theorem State.writeRegionCfg_keeps {z : State} (s : State) (r x v : Nat) (loads : Bool) (hK :
    Keeps z s) : KeepsO z (State.writeRegionCfg s r x v loads) := by
  unfold State.writeRegionCfg
  try dsimp only
  repeat' (first | with_reducible assumption | intro _ | with_reducible apply State.putReg_keeps
                 | with_reducible apply State.writeVr_keeps | with_reducible apply State.writeLpe_keeps
                 | with_reducible apply State.writeRef_keeps | with_reducible apply State.writeTlm_keeps
                 | with_reducible apply keeps_ite | with_reducible apply keeps_ite_fst | with_reducible apply keeps_ite_snd
                 | with_reducible apply keeps_ite_snd_snd | with_reducible apply keepsO_ite | with_reducible exact keepsO_none
                 | with_reducible apply keepsO_some | split)

theorem State.writeConfig_keeps {z : State} (s : State) (o v : Nat) (loads : Bool) (hK :
    Keeps z s) : KeepsO z (State.writeConfig s o v loads) := by
  unfold State.writeConfig
  try dsimp only
  repeat' (first | with_reducible assumption | intro _ | with_reducible apply State.putReg_keeps
                 | with_reducible apply State.writePeer_keeps | with_reducible apply State.writeCap_keeps
                 | with_reducible apply State.writeFloor_keeps | with_reducible apply State.writeXhold_keeps
                 | with_reducible apply State.writeSrcCfg_keeps | with_reducible apply State.writeFltCtrl_keeps
                 | with_reducible apply State.writePinCfg_keeps | with_reducible apply State.writeRegionCfg_keeps
                 | with_reducible apply keeps_ite | with_reducible apply keeps_ite_fst | with_reducible apply keeps_ite_snd
                 | with_reducible apply keeps_ite_snd_snd | with_reducible apply keepsO_ite | with_reducible exact keepsO_none
                 | with_reducible apply keepsO_some | with_reducible apply keepsO_map | with_reducible apply keepsO_mapOf
                 | split)

theorem State.loadDefaults_keeps {z : State} (s : State) (hK : Keeps z s) : Keeps z (State.loadDefaults s) := by
  unfold State.loadDefaults
  try dsimp only
  repeat' (first | with_reducible assumption | intro _ | with_reducible apply State.setRegs_keeps
                 | with_reducible apply State.setPower_keeps | with_reducible apply State.each_keeps
                 | with_reducible apply State.putReg_keeps | with_reducible apply State.modPower_keeps
                 | with_reducible apply State.modLoop_keeps | with_reducible apply State.modCopies_keeps
                 | with_reducible apply State.hold_keeps | with_reducible apply State.writeRef_keeps
                 | with_reducible apply keeps_ite | with_reducible apply keeps_ite_fst | with_reducible apply keeps_ite_snd
                 | with_reducible apply keeps_ite_snd_snd | with_reducible apply keepsO_ite | with_reducible exact keepsO_none
                 | with_reducible apply keepsO_some | split)

/-- What a load in the making keeps. -/
structure KeepsL (z : State) (o : Option Loading) : Prop where
  keeps : ∀ a, o = some a → Keeps z a.st

theorem keepsL_none {z : State} : KeepsL z none := ⟨fun _ h => by cases h⟩
theorem keepsL_some {z : State} {a : Loading} (h : Keeps z a.st) : KeepsL z (some a) := ⟨fun _ e => by cases e; exact h⟩

theorem Loading.param_keeps {z : State} (a : Loading) (sec key v : Nat) (h : Keeps z a.st) : KeepsL z (a.param sec key v) := by
  unfold Loading.param
  dsimp only
  repeat' split
  all_goals first
    | exact keepsL_none
    | exact keepsL_some h
    | (refine keepsL_some ?_; dsimp only; exact State.modPower_keeps _ _ _ h)

theorem Loading.record_keeps {z : State} (a : Loading) (sec key v : Nat) (h : Keeps z a.st) : KeepsL z (a.record sec key v) := by
  unfold Loading.record
  split
  · exact Loading.param_keeps a sec key v h
  · split
    · exact keepsL_none
    · split
      · exact keepsL_none
      · split
        · exact keepsL_none
        · split
          · refine ⟨fun b hb => ?_⟩
            cases hw : a.st.writeConfig key v true with
            | none => rw [hw] at hb; cases hb
            | some t =>
              rw [hw] at hb; cases hb
              exact (State.writeConfig_keeps a.st key v true h).keeps t hw
          · exact keepsL_some h

theorem Loading.section_keeps {z : State} (sec : Nat) (bs : List Byte) (n i : Nat) (o : Option Loading) (h : KeepsL z o) :
    KeepsL z (Loading.section sec bs n i o) := by
  induction n generalizing i o with
  | zero => exact h
  | succ n ih =>
    refine ih (i + 1) _ ?_
    cases o with
    | none => exact keepsL_none
    | some a => exact Loading.record_keeps a _ _ _ (h.keeps a rfl)

theorem State.loadImage_keeps {z : State} (s : State) (bs : List Byte) (h : Keeps z s) : KeepsO z (State.loadImage s bs) := by
  have hl : ∀ (l : List Section) (o : Option Loading), KeepsL z o →
      KeepsL z (l.foldl (fun a x => Loading.section x.type (sectionBytes bs x) (x.length / 8) 0 a) o) := by
    intro l
    induction l with
    | nil => exact fun _ ho => ho
    | cons x l ih => exact fun o ho => ih _ (Loading.section_keeps _ _ _ _ _ ho)
  have hf := hl (sections bs) _ (keepsL_some (a := { st := s.loadDefaults, t := none, w := none }) (by
    dsimp only
    with_reducible exact State.loadDefaults_keeps s h))
  unfold State.loadImage
  dsimp only
  split
  · exact keepsO_none
  · rename_i x hx
    have hx := hf.keeps x hx
    clear hf hl
    repeat' (first | with_reducible assumption
                   | (intro _; first | exact ⟨id, id⟩ | exact ⟨fun _ => rfl, id⟩ | exact ⟨id, fun _ => rfl⟩ | exact ⟨fun _ => id, id, rfl, rfl⟩)
                   | intro _ | with_reducible apply ih | with_reducible apply hf | with_reducible apply State.each_keeps
                   | with_reducible apply State.modBoot_keeps | with_reducible apply State.putReg_keeps
                   | with_reducible apply State.loadTable_keeps | with_reducible apply State.restartWindow_keeps
                   | with_reducible apply State.recheckRings_keeps | with_reducible apply State.loadDefaults_keeps
                   | exact BootKeeps.mk id id | with_reducible apply keeps_ite | with_reducible apply keeps_ite_fst
                   | with_reducible apply keeps_ite_snd | with_reducible apply keeps_ite_snd_snd
                   | with_reducible apply keepsO_ite | with_reducible exact keepsO_none | with_reducible apply keepsO_some
                   | with_reducible apply keeps_getD | with_reducible apply foldl_keeps | with_reducible apply foldl_keeps_fst
                   | with_reducible apply foldl_keeps_snd | with_reducible apply foldl_keeps_snd_snd
                   | with_reducible apply foldl_keeps_fst_fst | split)

/-! ## Flash -/

theorem Nvm.completeCommand_keeps (n : Nvm) : NvmKeeps n n.completeCommand := by
  unfold Nvm.completeCommand
  repeat' split
  all_goals exact ⟨fun _ => id, id, rfl, rfl⟩

theorem State.nvmRefused_keeps {z : State} (s : State) (hK : Keeps z s) : Keeps z (State.nvmRefused s) := by
  unfold State.nvmRefused
  try dsimp only
  repeat' (first | with_reducible assumption | intro _ | with_reducible apply State.putReg_keeps
                 | with_reducible apply keeps_ite | with_reducible apply keeps_ite_fst | with_reducible apply keeps_ite_snd
                 | with_reducible apply keeps_ite_snd_snd | split)

theorem State.endUpdate_keeps {z : State} (s : State) (st : Nat) (hK : Keeps z s) : Keeps z (State.endUpdate s st) := by
  unfold State.endUpdate
  try dsimp only
  repeat' (first | with_reducible assumption
                 | (intro _; first | exact ⟨id, id⟩ | exact ⟨fun _ => rfl, id⟩ | exact ⟨id, fun _ => rfl⟩ | exact ⟨fun _ => id, id, rfl, rfl⟩)
                 | intro _ | with_reducible apply State.modNvm_keeps | with_reducible apply keeps_ite
                 | with_reducible apply keeps_ite_fst | with_reducible apply keeps_ite_snd
                 | with_reducible apply keeps_ite_snd_snd | split)

theorem State.flashCommand_keeps {z : State} (s : State) (j : FlashJob) (hK : Keeps z s) : Keeps z (State.flashCommand s j) := by
  unfold State.flashCommand
  try dsimp only
  repeat' (first | with_reducible assumption
                 | (intro _; first | exact ⟨id, id⟩ | exact ⟨fun _ => rfl, id⟩ | exact ⟨id, fun _ => rfl⟩ | exact ⟨fun _ => id, id, rfl, rfl⟩)
                 | intro _ | with_reducible apply State.modNvm_keeps | with_reducible apply State.nvmRefused_keeps
                 | with_reducible apply State.endUpdate_keeps | with_reducible apply keeps_ite
                 | with_reducible apply keeps_ite_fst | with_reducible apply keeps_ite_snd
                 | with_reducible apply keeps_ite_snd_snd | split)

theorem State.flashNext_keeps {z : State} (s : State) (hK : Keeps z s) : Keeps z (State.flashNext s) := by
  unfold State.flashNext
  try dsimp only
  repeat' (first | with_reducible assumption
                 | (intro _; first | exact ⟨id, id⟩ | exact ⟨fun _ => rfl, id⟩ | exact ⟨id, fun _ => rfl⟩ | exact ⟨fun _ => id, id, rfl, rfl⟩)
                 | intro _ | with_reducible apply State.modNvm_keeps | with_reducible apply State.flashCommand_keeps
                 | with_reducible apply keeps_ite | with_reducible apply keeps_ite_fst | with_reducible apply keeps_ite_snd
                 | with_reducible apply keeps_ite_snd_snd | split)

theorem State.flashFailed_keeps {z : State} (s : State) (hK : Keeps z s) : Keeps z (State.flashFailed s) := by
  unfold State.flashFailed
  try dsimp only
  repeat' (first | with_reducible assumption
                 | (intro _; first | exact ⟨id, id⟩ | exact ⟨fun _ => rfl, id⟩ | exact ⟨id, fun _ => rfl⟩ | exact ⟨fun _ => id, id, rfl, rfl⟩)
                 | intro _ | with_reducible apply State.modNvm_keeps | with_reducible apply State.drawn_keeps
                 | with_reducible apply State.endUpdate_keeps | with_reducible apply keeps_ite
                 | with_reducible apply keeps_ite_fst | with_reducible apply keeps_ite_snd
                 | with_reducible apply keeps_ite_snd_snd | split)

theorem State.abortUpdate_keeps {z : State} (s : State) (hK : Keeps z s) : Keeps z (State.abortUpdate s) := by
  unfold State.abortUpdate
  try dsimp only
  repeat' (first | with_reducible assumption | (intro _; with_reducible apply Nvm.completeCommand_keeps)
                 | (intro _; first | exact ⟨id, id⟩ | exact ⟨fun _ => rfl, id⟩ | exact ⟨id, fun _ => rfl⟩ | exact ⟨fun _ => id, id, rfl, rfl⟩)
                 | intro _ | with_reducible apply State.modNvm_keeps | with_reducible apply State.endUpdate_keeps
                 | with_reducible apply keeps_ite | with_reducible apply keeps_ite_fst | with_reducible apply keeps_ite_snd
                 | with_reducible apply keeps_ite_snd_snd | split)

theorem State.startUpdate_keeps {z : State} (s : State) (len : Nat) (hK : Keeps z s) : KeepsO z (State.startUpdate s len) := by
  unfold State.startUpdate
  try dsimp only
  repeat' (first | with_reducible assumption
                 | (intro _; first | exact ⟨id, id⟩ | exact ⟨fun _ => rfl, id⟩ | exact ⟨id, fun _ => rfl⟩ | exact ⟨fun _ => id, id, rfl, rfl⟩)
                 | intro _ | with_reducible apply State.modNvm_keeps | with_reducible apply State.flashNext_keeps
                 | with_reducible apply keeps_ite | with_reducible apply keeps_ite_fst | with_reducible apply keeps_ite_snd
                 | with_reducible apply keeps_ite_snd_snd | with_reducible apply keepsO_ite | with_reducible exact keepsO_none
                 | with_reducible apply keepsO_some | split)

theorem State.updateWord_keeps {z : State} (s : State) (v : Nat) (hK : Keeps z s) : KeepsO z (State.updateWord s v) := by
  unfold State.updateWord
  try dsimp only
  repeat' (first | with_reducible assumption
                 | (intro _; first | exact ⟨id, id⟩ | exact ⟨fun _ => rfl, id⟩ | exact ⟨id, fun _ => rfl⟩ | exact ⟨fun _ => id, id, rfl, rfl⟩)
                 | intro _ | with_reducible apply State.modNvm_keeps | with_reducible apply State.flashNext_keeps
                 | with_reducible apply keeps_ite | with_reducible apply keeps_ite_fst | with_reducible apply keeps_ite_snd
                 | with_reducible apply keeps_ite_snd_snd | with_reducible apply keepsO_ite | with_reducible exact keepsO_none
                 | with_reducible apply keepsO_some | split)

theorem State.finishUpdate_keeps {z : State} (s : State) (hK : Keeps z s) : KeepsO z (State.finishUpdate s) := by
  unfold State.finishUpdate
  try dsimp only
  repeat' (first | with_reducible assumption
                 | (intro _; first | exact ⟨id, id⟩ | exact ⟨fun _ => rfl, id⟩ | exact ⟨id, fun _ => rfl⟩ | exact ⟨fun _ => id, id, rfl, rfl⟩)
                 | intro _ | with_reducible apply State.modNvm_keeps | with_reducible apply State.flashNext_keeps
                 | with_reducible apply keeps_ite | with_reducible apply keeps_ite_fst | with_reducible apply keeps_ite_snd
                 | with_reducible apply keeps_ite_snd_snd | with_reducible apply keepsO_ite | with_reducible exact keepsO_none
                 | with_reducible apply keepsO_some | split)

theorem State.writeUpdCtrl_keeps {z : State} (s : State) (v : Nat) (hK : Keeps z s) : KeepsO z (State.writeUpdCtrl s v) := by
  unfold State.writeUpdCtrl
  try dsimp only
  repeat' (first | with_reducible assumption | intro _ | with_reducible apply State.abortUpdate_keeps
                 | with_reducible apply State.startUpdate_keeps | with_reducible apply State.finishUpdate_keeps
                 | with_reducible apply keeps_ite | with_reducible apply keeps_ite_fst | with_reducible apply keeps_ite_snd
                 | with_reducible apply keeps_ite_snd_snd | with_reducible apply keepsO_ite | with_reducible exact keepsO_none
                 | with_reducible apply keepsO_some | split)

theorem State.writeFuse_keeps {z : State} (s : State) (v : Nat) (hK : Keeps z s) : KeepsO z (State.writeFuse s v) := by
  unfold State.writeFuse
  try dsimp only
  repeat' (first | with_reducible assumption
                 | (intro _; first | exact ⟨id, id⟩ | exact ⟨fun _ => rfl, id⟩ | exact ⟨id, fun _ => rfl⟩ | exact ⟨fun _ => id, id, rfl, rfl⟩)
                 | intro _ | with_reducible apply State.modNvm_keeps | with_reducible apply State.nvmRefused_keeps
                 | with_reducible apply keeps_ite | with_reducible apply keeps_ite_fst | with_reducible apply keeps_ite_snd
                 | with_reducible apply keeps_ite_snd_snd | with_reducible apply keepsO_ite | with_reducible exact keepsO_none
                 | with_reducible apply keepsO_some | split)

/-! ## Supply -/

theorem State.refuseLoading_keeps {z : State} (s : State) (hK : Keeps z s) : Keeps z (State.refuseLoading s) := by
  unfold State.refuseLoading
  try dsimp only
  repeat' (first | with_reducible assumption | intro _ | with_reducible apply State.setJobs_keeps
                 | with_reducible apply State.each_keeps | with_reducible apply State.release_keeps
                 | with_reducible apply keeps_ite | with_reducible apply keeps_ite_fst | with_reducible apply keeps_ite_snd
                 | with_reducible apply keeps_ite_snd_snd | split)

theorem State.stopColumns_keeps {z : State} (s : State) (hK : Keeps z s) : Keeps z (State.stopColumns s) := by
  unfold State.stopColumns
  try dsimp only
  repeat' (first | with_reducible assumption | intro _ | with_reducible apply State.each_keeps
                 | with_reducible apply State.modColumn_keeps | with_reducible apply State.selfRefreshAll_keeps
                 | with_reducible apply State.nbStore_keeps | with_reducible apply keeps_ite
                 | with_reducible apply keeps_ite_fst | with_reducible apply keeps_ite_snd
                 | with_reducible apply keeps_ite_snd_snd | with_reducible apply keepsO_ite | with_reducible exact keepsO_none
                 | with_reducible apply keepsO_some | split)

theorem State.disableEngines_keeps {z : State} (s : State) (hK : Keeps z s) : Keeps z (State.disableEngines s) := by
  unfold State.disableEngines
  try dsimp only
  repeat' (first | with_reducible assumption | intro _ | with_reducible apply State.each_keeps
                 | with_reducible apply State.putReg_keeps | with_reducible apply State.setPgkEn_keeps
                 | with_reducible apply keeps_ite | with_reducible apply keeps_ite_fst | with_reducible apply keeps_ite_snd
                 | with_reducible apply keeps_ite_snd_snd | split)

theorem State.endService_keeps {z : State} (s : State) (hK : Keeps z s) : Keeps z (State.endService s) := by
  unfold State.endService
  try dsimp only
  repeat' (first | with_reducible assumption
                 | (intro _; first | exact ⟨id, id⟩ | exact ⟨fun _ => rfl, id⟩ | exact ⟨id, fun _ => rfl⟩ | exact ⟨fun _ => id, id, rfl, rfl⟩)
                 | intro _ | with_reducible apply tabWf_tabSet | with_reducible apply tabWf_filter | exact tabWf_nil
                 | with_reducible apply State.setSync_keeps | with_reducible apply State.setDma_keeps
                 | with_reducible apply State.setPgk_keeps | with_reducible apply State.setScouts_keeps
                 | with_reducible apply State.setPeers_keeps | with_reducible apply State.setLoops_keeps
                 | with_reducible apply State.setTlm_keeps | with_reducible apply State.setCommit_keeps
                 | with_reducible apply State.modBoot_keeps | with_reducible apply State.mapCores_keeps
                 | with_reducible apply State.railsOff_keeps | with_reducible apply State.modFaults_keeps
                 | with_reducible apply State.endJobs_keeps | with_reducible apply State.modHost_keeps
                 | with_reducible apply State.hold_keeps | with_reducible apply State.failRecords_keeps
                 | with_reducible apply State.abortUpdate_keeps | with_reducible apply State.refuseLoading_keeps
                 | with_reducible apply State.stopColumns_keeps | with_reducible apply State.disableEngines_keeps
                 | exact BootKeeps.mk id id | with_reducible apply keeps_ite | with_reducible apply keeps_ite_fst
                 | with_reducible apply keeps_ite_snd | with_reducible apply keeps_ite_snd_snd | with_reducible apply keepsO_ite
                 | with_reducible exact keepsO_none | with_reducible apply keepsO_some | with_reducible apply keepsO_map
                 | with_reducible apply keepsO_mapOf | split)

theorem State.enterConfig_keeps {z : State} (s : State) (hK : Keeps z s) : Keeps z (State.enterConfig s) := by
  unfold State.enterConfig
  try dsimp only
  repeat' (first | with_reducible assumption
                 | (intro _; first | exact ⟨id, id⟩ | exact ⟨fun _ => rfl, id⟩ | exact ⟨id, fun _ => rfl⟩ | exact ⟨fun _ => id, id, rfl, rfl⟩)
                 | intro _ | with_reducible apply State.setShadows_keeps | with_reducible apply State.modBoot_keeps
                 | with_reducible apply State.clearAvail_keeps | with_reducible apply State.lockPerturb_keeps
                 | with_reducible apply State.hold_keeps | exact BootKeeps.mk id id | with_reducible apply keeps_ite
                 | with_reducible apply keeps_ite_fst | with_reducible apply keeps_ite_snd
                 | with_reducible apply keeps_ite_snd_snd | split)

theorem State.tryConfig_keeps {z : State} (s : State) (hK : Keeps z s) : Keeps z (State.tryConfig s) := by
  unfold State.tryConfig
  try dsimp only
  repeat' (first | with_reducible assumption | intro _ | with_reducible apply State.enterConfig_keeps
                 | with_reducible apply keeps_ite | with_reducible apply keeps_ite_fst | with_reducible apply keeps_ite_snd
                 | with_reducible apply keeps_ite_snd_snd | split)

theorem State.takePillar_keeps {z : State} (s : State) (early : Bool) (hK : Keeps z s) : Keeps z (State.takePillar s early) := by
  unfold State.takePillar
  try dsimp only
  repeat' (first | with_reducible assumption
                 | (intro _; first | exact ⟨id, id⟩ | exact ⟨fun _ => rfl, id⟩ | exact ⟨id, fun _ => rfl⟩ | exact ⟨fun _ => id, id, rfl, rfl⟩)
                 | intro _ | with_reducible apply State.modBoot_keeps | with_reducible apply State.modPins_keeps
                 | exact BootKeeps.mk id id | with_reducible apply keeps_ite | with_reducible apply keeps_ite_fst
                 | with_reducible apply keeps_ite_snd | with_reducible apply keeps_ite_snd_snd | split)

theorem State.takePwr_keeps {z : State} (s : State) (hK : Keeps z s) : Keeps z (State.takePwr s) := by
  unfold State.takePwr
  try dsimp only
  repeat' (first | with_reducible assumption | intro _ | with_reducible apply State.modPins_keeps
                 | with_reducible apply keeps_ite | with_reducible apply keeps_ite_fst | with_reducible apply keeps_ite_snd
                 | with_reducible apply keeps_ite_snd_snd | split)

theorem State.takeRst_keeps {z : State} (s : State) (hK : Keeps z s) : Keeps z (State.takeRst s) := by
  unfold State.takeRst
  try dsimp only
  repeat' (first | with_reducible assumption | intro _ | with_reducible apply State.modPins_keeps
                 | with_reducible apply State.tryConfig_keeps | with_reducible apply keeps_ite
                 | with_reducible apply keeps_ite_fst | with_reducible apply keeps_ite_snd
                 | with_reducible apply keeps_ite_snd_snd | split)

theorem State.loseSupply_keeps {z : State} (s : State) (pillar pwr : Bool) (hK :
    Keeps z s) : Keeps z (State.loseSupply s pillar pwr) := by
  unfold State.loseSupply
  try dsimp only
  repeat' (first | with_reducible assumption
                 | (intro _; first | exact ⟨id, id⟩ | exact ⟨fun _ => rfl, id⟩ | exact ⟨id, fun _ => rfl⟩ | exact ⟨fun _ => id, id, rfl, rfl⟩)
                 | intro _ | with_reducible apply State.modBoot_keeps | with_reducible apply State.raiseBlock_keeps
                 | with_reducible apply State.persistOn_keeps | with_reducible apply State.endService_keeps
                 | exact BootKeeps.mk id id | with_reducible apply keeps_ite | with_reducible apply keeps_ite_fst
                 | with_reducible apply keeps_ite_snd | with_reducible apply keeps_ite_snd_snd | with_reducible apply keepsO_ite
                 | with_reducible exact keepsO_none | with_reducible apply keepsO_some | split)

theorem State.countGood_keeps {z : State} (s : State) (hK : Keeps z s) : Keeps z (State.countGood s) := by
  unfold State.countGood
  try dsimp only
  repeat' (first | with_reducible assumption
                 | (intro _; first | exact ⟨id, id⟩ | exact ⟨fun _ => rfl, id⟩ | exact ⟨id, fun _ => rfl⟩ | exact ⟨fun _ => id, id, rfl, rfl⟩)
                 | intro _ | with_reducible apply State.modBoot_keeps | with_reducible apply State.persistOff_keeps
                 | exact BootKeeps.mk id id | with_reducible apply keeps_ite | with_reducible apply keeps_ite_fst
                 | with_reducible apply keeps_ite_snd | with_reducible apply keeps_ite_snd_snd | with_reducible apply keepsO_ite
                 | with_reducible exact keepsO_none | with_reducible apply keepsO_some | split)

theorem State.resetBlock_keeps {z : State} (s : State) (hK : Keeps z s) : Keeps z (State.resetBlock s) := by
  unfold State.resetBlock
  try dsimp only
  repeat' (first | with_reducible assumption
                 | (intro _; first | exact ⟨id, id⟩ | exact ⟨fun _ => rfl, id⟩ | exact ⟨id, fun _ => rfl⟩ | exact ⟨fun _ => id, id, rfl, rfl⟩)
                 | intro _ | with_reducible apply State.setShadows_keeps | with_reducible apply State.modBoot_keeps
                 | with_reducible apply State.lockPerturb_keeps | with_reducible apply State.endService_keeps
                 | exact BootKeeps.mk id id | with_reducible apply keeps_ite | with_reducible apply keeps_ite_fst
                 | with_reducible apply keeps_ite_snd | with_reducible apply keeps_ite_snd_snd | split)

theorem State.reboot_keeps {z : State} (s : State) (hK : Keeps z s) : KeepsO z (State.reboot s) := by
  unfold State.reboot
  try dsimp only
  repeat' (first | with_reducible assumption
                 | (intro _; first | exact ⟨id, id⟩ | exact ⟨fun _ => rfl, id⟩ | exact ⟨id, fun _ => rfl⟩ | exact ⟨fun _ => id, id, rfl, rfl⟩)
                 | intro _ | with_reducible apply State.modBoot_keeps | with_reducible apply State.modPins_keeps
                 | with_reducible apply State.resetBlock_keeps | exact BootKeeps.mk id id | with_reducible apply keeps_ite
                 | with_reducible apply keeps_ite_fst | with_reducible apply keeps_ite_snd
                 | with_reducible apply keeps_ite_snd_snd | with_reducible apply keepsO_ite | with_reducible exact keepsO_none
                 | with_reducible apply keepsO_some | split)

theorem State.endReboot_keeps {z : State} (s : State) (hK : Keeps z s) : Keeps z (State.endReboot s) := by
  unfold State.endReboot
  try dsimp only
  repeat' (first | with_reducible assumption
                 | (intro _; first | exact ⟨id, id⟩ | exact ⟨fun _ => rfl, id⟩ | exact ⟨id, fun _ => rfl⟩ | exact ⟨fun _ => id, id, rfl, rfl⟩)
                 | intro _ | with_reducible apply State.modBoot_keeps | with_reducible apply State.modPins_keeps
                 | with_reducible apply State.enterConfig_keeps | exact BootKeeps.mk id id | with_reducible apply keeps_ite
                 | with_reducible apply keeps_ite_fst | with_reducible apply keeps_ite_snd
                 | with_reducible apply keeps_ite_snd_snd | with_reducible apply keepsO_ite | with_reducible exact keepsO_none
                 | with_reducible apply keepsO_some | split)

theorem State.leaveSafe_keeps {z : State} (s : State) (hK : Keeps z s) : Keeps z (State.leaveSafe s) := by
  unfold State.leaveSafe
  try dsimp only
  repeat' (first | with_reducible assumption
                 | (intro _; first | exact ⟨id, id⟩ | exact ⟨fun _ => rfl, id⟩ | exact ⟨id, fun _ => rfl⟩ | exact ⟨fun _ => id, id, rfl, rfl⟩)
                 | intro _ | with_reducible apply State.modBoot_keeps | with_reducible apply State.clearAvail_keeps
                 | with_reducible apply State.actOnRequests_keeps | with_reducible apply State.hold_keeps
                 | with_reducible apply State.afterUps_keeps | with_reducible apply State.tryConfig_keeps
                 | exact BootKeeps.mk id id | with_reducible apply keeps_ite | with_reducible apply keeps_ite_fst
                 | with_reducible apply keeps_ite_snd | with_reducible apply keeps_ite_snd_snd | split)

/-- A power cycle leaves the queue alone, keeps memory canonical and keeps the fuses; the latches end with it (R46). -/
theorem State.powerCycle_keeps {z : State} (s : State) (stby : Bool) (hK : Keeps z s) :
    (s.powerCycle stby).pending = z.pending ∧ (z.mem.wf = true → (s.powerCycle stby).mem.wf = true) ∧
      NvmKeeps z.nvm (s.powerCycle stby).nvm ∧ tabWf (fun _ => Core.initial) (s.powerCycle stby).cores = true ∧
      (tabWf checkDefault z.check = true → tabWf checkDefault (s.powerCycle stby).check = true) ∧
      tabWf counterDefault (s.powerCycle stby).sync.counters = true ∧
      tabWf (fun _ => Channel.initial) (s.powerCycle stby).dma = true ∧
      tabWf (fun _ => Peer.initial) (s.powerCycle stby).peers = true := by
  have ht : Keeps z (if s.boot.serviceUp ≠ 0 then s.stopColumns else s) :=
    keeps_ite (State.stopColumns_keeps s hK) hK
  refine ⟨ht.pending, fun hz => tabWf_filter memDefault _ _ (ht.mem hz), ht.nvm.trans ?_, rfl,
    fun hz => tabWf_filter checkDefault _ _ (ht.check hz), rfl, rfl, rfl⟩
  have hc := Nvm.completeCommand_keeps (if s.boot.serviceUp ≠ 0 then s.stopColumns else s).nvm
  exact ⟨hc.fuses, hc.lock, hc.ids⟩

theorem State.sampleEdge_keeps {z : State} (s : State) (hK : Keeps z s) : Keeps z (State.sampleEdge s) := by
  unfold State.sampleEdge
  try dsimp only
  repeat' (first | with_reducible assumption
                 | (intro _; first | exact ⟨id, id⟩ | exact ⟨fun _ => rfl, id⟩ | exact ⟨id, fun _ => rfl⟩ | exact ⟨fun _ => id, id, rfl, rfl⟩)
                 | intro _ | with_reducible apply State.modBoot_keeps | with_reducible apply State.drawn_keeps
                 | exact BootKeeps.mk id id | with_reducible apply keeps_ite | with_reducible apply keeps_ite_fst
                 | with_reducible apply keeps_ite_snd | with_reducible apply keeps_ite_snd_snd | with_reducible apply keepsO_ite
                 | with_reducible exact keepsO_none | with_reducible apply keepsO_some | split)

theorem State.acceptEdge_keeps {z : State} (s : State) (hK : Keeps z s) : Keeps z (State.acceptEdge s) := by
  unfold State.acceptEdge
  try dsimp only
  repeat' (first | with_reducible assumption
                 | (intro _; first | exact ⟨id, id⟩ | exact ⟨fun _ => rfl, id⟩ | exact ⟨id, fun _ => rfl⟩ | exact ⟨fun _ => id, id, rfl, rfl⟩)
                 | intro _ | with_reducible apply State.modBoot_keeps | with_reducible apply State.putReg_keeps
                 | exact BootKeeps.mk id id | with_reducible apply keeps_ite | with_reducible apply keeps_ite_fst
                 | with_reducible apply keeps_ite_snd | with_reducible apply keeps_ite_snd_snd | split)

theorem State.markEdge_keeps {z : State} (s : State) (hK : Keeps z s) : Keeps z (State.markEdge s) := by
  unfold State.markEdge
  try dsimp only
  repeat' (first | with_reducible assumption
                 | (intro _; first | exact ⟨id, id⟩ | exact ⟨fun _ => rfl, id⟩ | exact ⟨id, fun _ => rfl⟩ | exact ⟨fun _ => id, id, rfl, rfl⟩)
                 | intro _ | with_reducible apply State.modBoot_keeps | with_reducible apply State.putReg_keeps
                 | with_reducible apply State.acceptEdge_keeps | exact BootKeeps.mk id id | with_reducible apply keeps_ite
                 | with_reducible apply keeps_ite_fst | with_reducible apply keeps_ite_snd
                 | with_reducible apply keeps_ite_snd_snd | with_reducible apply keepsO_ite | with_reducible exact keepsO_none
                 | with_reducible apply keepsO_some | split)

/-! ## Boot -/

theorem State.bootResult_keeps {z : State} (s : State) (cause sec : Nat) (hK :
    Keeps z s) : Keeps z (State.bootResult s cause sec) := by
  unfold State.bootResult
  try dsimp only
  repeat' (first | with_reducible assumption | intro _ | with_reducible apply State.putReg_keeps
                 | with_reducible apply keeps_ite | with_reducible apply keeps_ite_fst | with_reducible apply keeps_ite_snd
                 | with_reducible apply keeps_ite_snd_snd | split)

theorem State.resetVrs_keeps {z : State} (s : State) (r : Nat) (hK : Keeps z s) : Keeps z (State.resetVrs s r) := by
  unfold State.resetVrs
  try dsimp only
  repeat' (first | with_reducible assumption | intro _ | with_reducible apply State.setRegs_keeps
                 | with_reducible apply keeps_ite | with_reducible apply keeps_ite_fst | with_reducible apply keeps_ite_snd
                 | with_reducible apply keeps_ite_snd_snd | split)

theorem State.startUp_keeps {z : State} (s : State) (r mask : Nat) (hK : Keeps z s) : Keeps z (State.startUp s r mask) := by
  unfold State.startUp
  try dsimp only
  repeat' (first | with_reducible assumption | intro _ | with_reducible apply State.modLoop_keeps
                 | with_reducible apply keeps_ite | with_reducible apply keeps_ite_fst | with_reducible apply keeps_ite_snd
                 | with_reducible apply keeps_ite_snd_snd | with_reducible apply keepsO_ite | with_reducible exact keepsO_none
                 | with_reducible apply keepsO_some | split)

theorem State.failBoot_keeps {z : State} (s : State) (cause sec : Nat) (hK :
    Keeps z s) : Keeps z (State.failBoot s cause sec) := by
  unfold State.failBoot
  try dsimp only
  repeat' (first | with_reducible assumption
                 | (intro _; first | exact ⟨id, id⟩ | exact ⟨fun _ => rfl, id⟩ | exact ⟨id, fun _ => rfl⟩ | exact ⟨fun _ => id, id, rfl, rfl⟩)
                 | intro _ | with_reducible apply State.each_keeps | with_reducible apply State.modBoot_keeps
                 | with_reducible apply State.railsOff_keeps | with_reducible apply State.raiseBlock_keeps
                 | with_reducible apply State.hold_keeps | with_reducible apply State.bootResult_keeps
                 | with_reducible apply State.resetVrs_keeps | with_reducible apply State.startUp_keeps
                 | exact BootKeeps.mk id id | with_reducible apply keeps_ite | with_reducible apply keeps_ite_fst
                 | with_reducible apply keeps_ite_snd | with_reducible apply keeps_ite_snd_snd | split)

theorem State.powerUpAll_keeps {z : State} (s : State) (hK : Keeps z s) : Keeps z (State.powerUpAll s) := by
  unfold State.powerUpAll
  try dsimp only
  repeat' (first | with_reducible assumption
                 | (intro _; first | exact ⟨id, id⟩ | exact ⟨fun _ => rfl, id⟩ | exact ⟨id, fun _ => rfl⟩ | exact ⟨fun _ => id, id, rfl, rfl⟩)
                 | intro _ | with_reducible apply State.each_keeps | with_reducible apply State.modBoot_keeps
                 | with_reducible apply State.putReg_keeps | with_reducible apply State.startUp_keeps | exact BootKeeps.mk id id
                 | with_reducible apply keeps_ite | with_reducible apply keeps_ite_fst | with_reducible apply keeps_ite_snd
                 | with_reducible apply keeps_ite_snd_snd | split)

theorem State.trainColumn_keeps {z : State} (s : State) (fails : List TrainFail) (c : Nat) (hK :
    Keeps z s) : Keeps z (State.trainColumn s fails c) := by
  unfold State.trainColumn
  try dsimp only
  repeat' (first | with_reducible assumption | intro _ | with_reducible apply State.modColumn_keeps
                 | with_reducible apply State.retire_keeps | with_reducible apply State.raiseCore_keeps
                 | with_reducible apply keeps_ite | with_reducible apply keeps_ite_fst | with_reducible apply keeps_ite_snd
                 | with_reducible apply keeps_ite_snd_snd | with_reducible apply keepsO_ite | with_reducible exact keepsO_none
                 | with_reducible apply keepsO_some | split)

theorem State.enterReady_keeps {z : State} (s : State) (hK : Keeps z s) : Keeps z (State.enterReady s) := by
  unfold State.enterReady
  try dsimp only
  repeat' (first | with_reducible assumption
                 | (intro _; first | exact ⟨id, id⟩ | exact ⟨fun _ => rfl, id⟩ | exact ⟨id, fun _ => rfl⟩ | exact ⟨fun _ => id, id, rfl, rfl⟩)
                 | intro _ | with_reducible apply State.setPower_keeps | with_reducible apply State.each_keeps
                 | with_reducible apply State.modBoot_keeps | with_reducible apply State.putReg_keeps
                 | with_reducible apply State.modPower_keeps | with_reducible apply State.actOnRequests_keeps
                 | with_reducible apply State.allToRetain_keeps | with_reducible apply State.raiseBlock_keeps
                 | with_reducible apply State.afterUps_keeps | exact BootKeeps.mk id id | with_reducible apply keeps_ite
                 | with_reducible apply keeps_ite_fst | with_reducible apply keeps_ite_snd
                 | with_reducible apply keeps_ite_snd_snd | with_reducible apply keepsO_ite | with_reducible exact keepsO_none
                 | with_reducible apply keepsO_some | split)

theorem State.enterHold_keeps {z : State} (s : State) (hK : Keeps z s) : KeepsO z (State.enterHold s) := by
  unfold State.enterHold
  try dsimp only
  repeat' (first | with_reducible assumption
                 | (intro _; first | exact ⟨id, id⟩ | exact ⟨fun _ => rfl, id⟩ | exact ⟨id, fun _ => rfl⟩ | exact ⟨fun _ => id, id, rfl, rfl⟩)
                 | intro _ | with_reducible apply State.modBoot_keeps | with_reducible apply State.hold_keeps
                 | exact BootKeeps.mk id id | with_reducible apply keeps_ite | with_reducible apply keeps_ite_fst
                 | with_reducible apply keeps_ite_snd | with_reducible apply keeps_ite_snd_snd | with_reducible apply keepsO_ite
                 | with_reducible exact keepsO_none | with_reducible apply keepsO_some | split)

theorem State.enterDpd_keeps {z : State} (s : State) (hK : Keeps z s) : KeepsO z (State.enterDpd s) := by
  unfold State.enterDpd
  try dsimp only
  repeat' (first | with_reducible assumption
                 | (intro _; first | exact ⟨id, id⟩ | exact ⟨fun _ => rfl, id⟩ | exact ⟨id, fun _ => rfl⟩ | exact ⟨fun _ => id, id, rfl, rfl⟩)
                 | intro _ | with_reducible apply State.modBoot_keeps | with_reducible apply State.endService_keeps
                 | exact BootKeeps.mk id id | with_reducible apply keeps_ite | with_reducible apply keeps_ite_fst
                 | with_reducible apply keeps_ite_snd | with_reducible apply keeps_ite_snd_snd | with_reducible apply keepsO_ite
                 | with_reducible exact keepsO_none | with_reducible apply keepsO_some | split)

theorem State.writeBootCtrl_keeps {z : State} (s : State) (v : Nat) (hK : Keeps z s) : KeepsO z (State.writeBootCtrl s v) := by
  unfold State.writeBootCtrl
  try dsimp only
  repeat' (first | with_reducible assumption | intro _ | with_reducible apply State.reboot_keeps
                 | with_reducible apply State.enterHold_keeps | with_reducible apply State.enterDpd_keeps
                 | with_reducible apply keeps_ite | with_reducible apply keeps_ite_fst | with_reducible apply keeps_ite_snd
                 | with_reducible apply keeps_ite_snd_snd | with_reducible apply keepsO_ite | with_reducible exact keepsO_none
                 | with_reducible apply keepsO_some | split)

/-! ## FaultCmds -/

theorem State.breakWire_keeps {z : State} (s : State) (k : Nat) (l : Option Nat) (hK :
    Keeps z s) : Keeps z (State.breakWire s k l) := by
  unfold State.breakWire
  try dsimp only
  repeat' (first | with_reducible assumption | intro _ | with_reducible apply State.raise_keeps | with_reducible apply keeps_ite
                 | with_reducible apply keeps_ite_fst | with_reducible apply keeps_ite_snd
                 | with_reducible apply keeps_ite_snd_snd | with_reducible apply keepsO_ite | with_reducible exact keepsO_none
                 | with_reducible apply keepsO_some | split)

theorem State.selfFail_keeps {z : State} (s : State) (hK : Keeps z s) : Keeps z (State.selfFail s) := by
  unfold State.selfFail
  try dsimp only
  repeat' (first | with_reducible assumption | intro _ | with_reducible apply State.each_keeps
                 | with_reducible apply State.modFaults_keeps | with_reducible apply State.enterGrave_keeps
                 | with_reducible apply State.raiseCore_keeps | with_reducible apply State.raiseBlock_keeps
                 | with_reducible apply keeps_ite | with_reducible apply keeps_ite_fst | with_reducible apply keeps_ite_snd
                 | with_reducible apply keeps_ite_snd_snd | with_reducible apply keepsO_ite | with_reducible exact keepsO_none
                 | with_reducible apply keepsO_some | split)

theorem State.compareCopies_keeps {z : State} (s : State) (hK : Keeps z s) : Keeps z (State.compareCopies s) := by
  unfold State.compareCopies
  try dsimp only
  repeat' (first | with_reducible assumption | intro _ | with_reducible apply State.selfFail_keeps
                 | with_reducible apply keeps_ite | with_reducible apply keeps_ite_fst | with_reducible apply keeps_ite_snd
                 | with_reducible apply keeps_ite_snd_snd | split)

theorem State.reraise_keeps {z : State} (s : State) (hK : Keeps z s) : Keeps z (State.reraise s) := by
  unfold State.reraise
  try dsimp only
  repeat' (first | with_reducible assumption | intro _ | with_reducible apply State.each_keeps
                 | with_reducible apply State.raise_keeps | with_reducible apply keeps_ite | with_reducible apply keeps_ite_fst
                 | with_reducible apply keeps_ite_snd | with_reducible apply keeps_ite_snd_snd | with_reducible apply keepsO_ite
                 | with_reducible exact keepsO_none | with_reducible apply keepsO_some | split)

theorem State.clearSticky_keeps {z : State} (s : State) (ks : List Nat) (hK : Keeps z s) : Keeps z (State.clearSticky s ks) := by
  unfold State.clearSticky
  try dsimp only
  repeat' (first | with_reducible assumption
                 | (intro _; first | exact ⟨id, id⟩ | exact ⟨fun _ => rfl, id⟩ | exact ⟨id, fun _ => rfl⟩ | exact ⟨fun _ => id, id, rfl, rfl⟩)
                 | intro _ | with_reducible apply State.each_keeps | with_reducible apply State.modBoot_keeps
                 | with_reducible apply State.modCopies_keeps | with_reducible apply State.reraise_keeps
                 | exact BootKeeps.mk id id | with_reducible apply keeps_ite | with_reducible apply keeps_ite_fst
                 | with_reducible apply keeps_ite_snd | with_reducible apply keeps_ite_snd_snd | split)

theorem State.writeSticky_keeps {z : State} (s : State) (k v : Nat) (hK : Keeps z s) : KeepsO z (State.writeSticky s k v) := by
  unfold State.writeSticky
  try dsimp only
  repeat' (first | with_reducible assumption | intro _ | with_reducible apply State.clearSticky_keeps
                 | with_reducible apply keeps_ite | with_reducible apply keeps_ite_fst | with_reducible apply keeps_ite_snd
                 | with_reducible apply keeps_ite_snd_snd | with_reducible apply keepsO_ite | with_reducible exact keepsO_none
                 | with_reducible apply keepsO_some | with_reducible apply keepsO_map | with_reducible apply keepsO_mapOf
                 | split)

theorem State.clearHeld_keeps {z : State} (s : State) (v : Nat) (hK : Keeps z s) : Keeps z (State.clearHeld s v) := by
  unfold State.clearHeld
  try dsimp only
  repeat' (first | with_reducible assumption | intro _ | with_reducible apply State.modCopies_keeps
                 | with_reducible apply keeps_ite | with_reducible apply keeps_ite_fst | with_reducible apply keeps_ite_snd
                 | with_reducible apply keeps_ite_snd_snd | split)

theorem State.writeInj_keeps {z : State} (s : State) (v : Nat) (hK : Keeps z s) : KeepsO z (State.writeInj s v) := by
  unfold State.writeInj
  try dsimp only
  repeat' (first | with_reducible assumption | intro _ | with_reducible apply State.modFaults_keeps
                 | with_reducible apply keeps_ite | with_reducible apply keeps_ite_fst | with_reducible apply keeps_ite_snd
                 | with_reducible apply keeps_ite_snd_snd | with_reducible apply keepsO_ite | with_reducible exact keepsO_none
                 | with_reducible apply keepsO_some | split)

theorem State.fireInjection_keeps {z : State} (s : State) (hK : Keeps z s) : Keeps z (State.fireInjection s) := by
  unfold State.fireInjection
  try dsimp only
  repeat' (first | with_reducible assumption | intro _ | with_reducible apply State.modFaults_keeps
                 | with_reducible apply State.raise_keeps | with_reducible apply State.goDark_keeps
                 | with_reducible apply State.breakWire_keeps | with_reducible apply State.selfFail_keeps
                 | with_reducible apply keeps_ite | with_reducible apply keeps_ite_fst | with_reducible apply keeps_ite_snd
                 | with_reducible apply keeps_ite_snd_snd | with_reducible apply keepsO_ite | with_reducible exact keepsO_none
                 | with_reducible apply keepsO_some | split)

/-! ## Perturb -/

theorem State.stepLfsr_keeps {z : State} (s : State) (hK : Keeps z s) : Keeps z (State.stepLfsr s) := by
  unfold State.stepLfsr
  try dsimp only
  repeat' (first | with_reducible assumption | intro _ | with_reducible apply State.modPerturb_keeps
                 | with_reducible apply keeps_ite | with_reducible apply keeps_ite_fst | with_reducible apply keeps_ite_snd
                 | with_reducible apply keeps_ite_snd_snd | split)

theorem State.writeUnlock_keeps {z : State} (s : State) (v : Nat) (hK : Keeps z s) : Keeps z (State.writeUnlock s v).1 := by
  unfold State.writeUnlock
  try dsimp only
  repeat' (first | with_reducible assumption | intro _ | with_reducible apply State.modPerturb_keeps
                 | with_reducible apply State.lockPerturb_keeps | with_reducible apply State.raiseBlock_keeps
                 | with_reducible apply keeps_ite | with_reducible apply keeps_ite_fst | with_reducible apply keeps_ite_snd
                 | with_reducible apply keeps_ite_snd_snd | with_reducible apply keepsO_ite | with_reducible exact keepsO_none
                 | with_reducible apply keepsO_some | split)

theorem State.writeTst_keeps {z : State} (s : State) (o v : Nat) (hK : Keeps z s) : KeepsO z (State.writeTst s o v) := by
  unfold State.writeTst
  try dsimp only
  repeat' (first | with_reducible assumption | intro _ | with_reducible apply State.putReg_keeps
                 | with_reducible apply State.modPerturb_keeps | with_reducible apply keeps_ite
                 | with_reducible apply keeps_ite_fst | with_reducible apply keeps_ite_snd
                 | with_reducible apply keeps_ite_snd_snd | with_reducible apply keepsO_ite | with_reducible exact keepsO_none
                 | with_reducible apply keepsO_some | split)

end Sys2Proof.Machine
end

