-- ==== Sys2Proof/Laws/KeepsTop.lean ====
section
/-! SUPPORT. What the operations of register writes, the host port, the side-band and the beat keep (`Keeps`, Laws/Keeps.lean): one lemma each, built from
the lemmas of the operations it calls. -/

namespace Sys2Proof.Machine

/-! ## Regs -/

theorem State.readReg_keeps {z : State} (s : State) (p : Path) (o : Nat) (hK : Keeps z s) : Keeps z (State.readReg s p o).2 := by
  unfold State.readReg
  try dsimp only
  repeat' (first | with_reducible assumption | intro _ | with_reducible apply State.setShadows_keeps
                 | with_reducible apply State.counterRead_keeps | with_reducible apply keeps_ite
                 | with_reducible apply keeps_ite_fst | with_reducible apply keeps_ite_snd
                 | with_reducible apply keeps_ite_snd_snd | with_reducible apply keepsO_ite | with_reducible exact keepsO_none
                 | with_reducible apply keepsO_some | split)

theorem State.tryWrite_keeps {z : State} (s : State) (t : Option State) (hK : Keeps z s) (ht : KeepsO z t) :
    Keeps z (State.tryWrite s t).1 := by
  cases t with
  | none => exact hK
  | some x => exact ht.keeps x rfl

theorem State.laterBeat_keeps {z : State} (s : State) (t : Option State) (hK : Keeps z s) (ht : KeepsO z t) :
    Keeps z (State.laterBeat s t).1 := by
  cases t with
  | none => exact hK
  | some x => exact ht.keeps x rfl

theorem State.writePart_keeps {z : State} (s : State) (q : Request) (o v : Nat) (hK :
    Keeps z s) : Keeps z (State.writePart s q o v).1 := by
  unfold State.writePart
  try dsimp only
  repeat' (first | with_reducible assumption | intro _ | with_reducible apply State.putReg_keeps
                 | with_reducible apply State.startLaunch_keeps | with_reducible apply State.partStop_keeps
                 | with_reducible apply State.writeCommit_keeps | with_reducible apply State.tryWrite_keeps
                 | with_reducible apply keeps_ite | with_reducible apply keeps_ite_fst | with_reducible apply keeps_ite_snd
                 | with_reducible apply keeps_ite_snd_snd | split)

theorem State.writeIdle_keeps {z : State} (s : State) (v : Nat) (hK : Keeps z s) : Keeps z (State.writeIdle s v).1 := by
  unfold State.writeIdle
  try dsimp only
  repeat' (first | with_reducible assumption | intro _ | with_reducible apply State.wakeCause_keeps
                 | with_reducible apply State.enterIdle_keeps | with_reducible apply keeps_ite
                 | with_reducible apply keeps_ite_fst | with_reducible apply keeps_ite_snd
                 | with_reducible apply keeps_ite_snd_snd | split)

theorem State.writeEvq_keeps {z : State} (s : State) (q : Request) (o v : Nat) (hK :
    Keeps z s) : Keeps z (State.writeEvq s q o v).1 := by
  unfold State.writeEvq
  try dsimp only
  repeat' (first | with_reducible assumption | intro _ | with_reducible apply State.putReg_keeps
                 | with_reducible apply State.modEvq_keeps | with_reducible apply State.withdraw_keeps
                 | with_reducible apply State.writeTail_keeps | with_reducible apply State.writeEvqCfg_keeps
                 | with_reducible apply State.writeRing_keeps | with_reducible apply State.tryWrite_keeps
                 | with_reducible apply State.writeIdle_keeps | with_reducible apply keeps_ite
                 | with_reducible apply keeps_ite_fst | with_reducible apply keeps_ite_snd
                 | with_reducible apply keeps_ite_snd_snd | split)

theorem State.writeFlt_keeps {z : State} (s : State) (q : Request) (o v : Nat) (hK : Keeps z s) :
    Keeps z (State.writeFlt s q o v).1 := by
  unfold State.writeFlt
  extract_lets x
  clear_value x
  try dsimp only
  repeat' (first | with_reducible assumption | intro _ | with_reducible apply State.writePinCfg_keeps
                 | with_reducible apply State.writeSticky_keeps | with_reducible apply State.clearHeld_keeps
                 | with_reducible apply State.writeInj_keeps | with_reducible apply State.tryWrite_keeps
                 | with_reducible apply State.laterBeat_keeps | with_reducible apply keeps_ite
                 | with_reducible apply keeps_ite_fst | with_reducible apply keeps_ite_snd
                 | with_reducible apply keeps_ite_snd_snd | split)

theorem State.writePwr_keeps {z : State} (s : State) (q : Request) (o v : Nat) (hK : Keeps z s) :
    Keeps z (State.writePwr s q o v).1 := by
  unfold State.writePwr
  extract_lets x
  clear_value x
  try dsimp only
  repeat' (first | with_reducible assumption | intro _ | with_reducible apply State.putReg_keeps
                 | with_reducible apply State.clearSlot_keeps | with_reducible apply State.writeCoreReq_keeps
                 | with_reducible apply State.clearSuspect_keeps | with_reducible apply State.writeCool_keeps
                 | with_reducible apply State.tryWrite_keeps | with_reducible apply keeps_ite
                 | with_reducible apply keeps_ite_fst | with_reducible apply keeps_ite_snd
                 | with_reducible apply keeps_ite_snd_snd | split)

theorem State.ring_keeps {z : State} (s : State) (q : Request) (r k : Nat) (hK : Keeps z s) : Keeps z (State.ring s q r k).1 := by
  unfold State.ring
  try dsimp only
  repeat' (first | with_reducible assumption | intro _ | with_reducible apply State.bellRefusal_keeps
                 | with_reducible apply State.takeBell_keeps | with_reducible apply keeps_ite
                 | with_reducible apply keeps_ite_fst | with_reducible apply keeps_ite_snd
                 | with_reducible apply keeps_ite_snd_snd | with_reducible apply keepsO_ite | with_reducible exact keepsO_none
                 | with_reducible apply keepsO_some | split)

theorem State.writeDma_keeps {z : State} (s : State) (q : Request) (r x v : Nat) (hK :
    Keeps z s) : Keeps z (State.writeDma s q r x v).1 := by
  unfold State.writeDma
  try dsimp only
  repeat' (first | with_reducible assumption | intro _ | with_reducible apply State.putReg_keeps
                 | with_reducible apply State.bellRefusal_keeps | with_reducible apply State.abortChan_keeps
                 | with_reducible apply State.writeAlloc_keeps | with_reducible apply State.tryWrite_keeps
                 | with_reducible apply State.ring_keeps | with_reducible apply keeps_ite | with_reducible apply keeps_ite_fst
                 | with_reducible apply keeps_ite_snd | with_reducible apply keeps_ite_snd_snd | with_reducible apply keepsO_ite
                 | with_reducible exact keepsO_none | with_reducible apply keepsO_some | split)

theorem State.writeSyn_keeps {z : State} (s : State) (q : Request) (r x v : Nat) (hK :
    Keeps z s) : Keeps z (State.writeSyn s q r x v).1 := by
  unfold State.writeSyn
  try dsimp only
  repeat' (first | with_reducible assumption | intro _ | with_reducible apply State.putReg_keeps
                 | with_reducible apply State.writeCounter_keeps | with_reducible apply State.writeAdd_keeps
                 | with_reducible apply State.writeHwatch_keeps | with_reducible apply State.laterBeat_keeps
                 | with_reducible apply keeps_ite | with_reducible apply keeps_ite_fst | with_reducible apply keeps_ite_snd
                 | with_reducible apply keeps_ite_snd_snd | split)

theorem State.writeRegion_keeps {z : State} (s : State) (q : Request) (r x v : Nat) (hK :
    Keeps z s) : Keeps z (State.writeRegion s q r x v).1 := by
  unfold State.writeRegion
  try dsimp only
  repeat' (first | with_reducible assumption | intro _ | with_reducible apply State.putReg_keeps
                 | with_reducible apply State.clearSuspect_keeps | with_reducible apply State.writeSpot_keeps
                 | with_reducible apply State.writeSnap_keeps | with_reducible apply State.tryWrite_keeps
                 | with_reducible apply State.writeDma_keeps | with_reducible apply State.writeSyn_keeps
                 | with_reducible apply keeps_ite | with_reducible apply keeps_ite_fst | with_reducible apply keeps_ite_snd
                 | with_reducible apply keeps_ite_snd_snd | split)

theorem State.writePgk_keeps {z : State} (s : State) (q : Request) (o v : Nat) (hK :
    Keeps z s) : Keeps z (State.writePgk s q o v).1 := by
  unfold State.writePgk
  try dsimp only
  repeat' (first | with_reducible assumption | intro _ | with_reducible apply State.putReg_keeps
                 | with_reducible apply State.writePgkCtrl_keeps | with_reducible apply State.writePgkCall_keeps
                 | with_reducible apply State.writeScout_keeps | with_reducible apply State.tryWrite_keeps
                 | with_reducible apply keeps_ite | with_reducible apply keeps_ite_fst | with_reducible apply keeps_ite_snd
                 | with_reducible apply keeps_ite_snd_snd | split)

theorem State.writeBoot_keeps {z : State} (s : State) (q : Request) (o v : Nat) (hK :
    Keeps z s) : Keeps z (State.writeBoot s q o v).1 := by
  unfold State.writeBoot
  try dsimp only
  repeat' (first | with_reducible assumption
                 | (intro _; first | exact ⟨id, id⟩ | exact ⟨fun _ => rfl, id⟩ | exact ⟨id, fun _ => rfl⟩ | exact ⟨fun _ => id, id, rfl, rfl⟩)
                 | intro _ | with_reducible apply State.modNvm_keeps | with_reducible apply State.updateWord_keeps
                 | with_reducible apply State.writeUpdCtrl_keeps | with_reducible apply State.writeFuse_keeps
                 | with_reducible apply State.writeBootCtrl_keeps | with_reducible apply State.tryWrite_keeps
                 | exact BootKeeps.mk id id | with_reducible apply keeps_ite | with_reducible apply keeps_ite_fst
                 | with_reducible apply keeps_ite_snd | with_reducible apply keeps_ite_snd_snd | split)

theorem State.writeTstReg_keeps {z : State} (s : State) (q : Request) (o v : Nat) (hK :
    Keeps z s) : Keeps z (State.writeTstReg s q o v).1 := by
  unfold State.writeTstReg
  try dsimp only
  repeat' (first | with_reducible assumption | intro _ | with_reducible apply State.writeUnlock_keeps
                 | with_reducible apply State.writeTst_keeps | with_reducible apply State.tryWrite_keeps
                 | with_reducible apply keeps_ite | with_reducible apply keeps_ite_fst | with_reducible apply keeps_ite_snd
                 | with_reducible apply keeps_ite_snd_snd | split)

theorem State.writeCoreReg_keeps {z : State} (s : State) (o v : Nat) (hK : Keeps z s) : Keeps z (State.writeCoreReg s o v).1 := by
  unfold State.writeCoreReg
  try dsimp only
  repeat' (first | with_reducible assumption | intro _ | with_reducible apply State.modCore_keeps
                 | with_reducible apply keeps_ite | with_reducible apply keeps_ite_fst | with_reducible apply keeps_ite_snd
                 | with_reducible apply keeps_ite_snd_snd | split)

theorem State.writeReg_keeps {z : State} (s : State) (q : Request) (o v : Nat) (hK :
    Keeps z s) : Keeps z (State.writeReg s q o v).1 := by
  unfold State.writeReg
  try dsimp only
  repeat' (first | with_reducible assumption
                 | (intro _; first | exact ⟨id, id⟩ | exact ⟨fun _ => rfl, id⟩ | exact ⟨id, fun _ => rfl⟩ | exact ⟨fun _ => id, id, rfl, rfl⟩)
                 | intro _ | with_reducible apply State.writePeer_keeps | with_reducible apply State.writeConfig_keeps
                 | with_reducible apply State.tryWrite_keeps | with_reducible apply State.writePart_keeps
                 | with_reducible apply State.writeEvq_keeps | with_reducible apply State.writeFlt_keeps
                 | with_reducible apply State.writePwr_keeps | with_reducible apply State.writeRegion_keeps
                 | with_reducible apply State.writePgk_keeps | with_reducible apply State.writeBoot_keeps
                 | with_reducible apply State.writeTstReg_keeps | with_reducible apply State.writeCoreReg_keeps
                 | exact BootKeeps.mk id id | with_reducible apply keeps_ite | with_reducible apply keeps_ite_fst
                 | with_reducible apply keeps_ite_snd | with_reducible apply keeps_ite_snd_snd | split)

theorem State.sideWrite_keeps {z : State} (s : State) (tid : Option Nat) (o v : Nat) (hK :
    Keeps z s) : Keeps z (State.sideWrite s tid o v) := by
  unfold State.sideWrite
  try dsimp only
  repeat' (first | with_reducible assumption | intro _ | with_reducible apply State.answer_keeps
                 | with_reducible apply State.hold_keeps | with_reducible apply State.writeReg_keeps
                 | with_reducible apply keeps_ite | with_reducible apply keeps_ite_fst | with_reducible apply keeps_ite_snd
                 | with_reducible apply keeps_ite_snd_snd | split)

/-! ## Host -/

theorem State.countRefusal_keeps {z : State} (s : State) (tag cause : Nat) (hK :
    Keeps z s) : Keeps z (State.countRefusal s tag cause) := by
  unfold State.countRefusal
  try dsimp only
  repeat' (first | with_reducible assumption | intro _ | with_reducible apply State.addField_keeps
                 | with_reducible apply State.raise_keeps | with_reducible apply keeps_ite | with_reducible apply keeps_ite_fst
                 | with_reducible apply keeps_ite_snd | with_reducible apply keeps_ite_snd_snd | with_reducible apply keepsO_ite
                 | with_reducible exact keepsO_none | with_reducible apply keepsO_some | split)

theorem State.hostRefuse_keeps {z : State} (s : State) (q : Request) (cause : Nat) (hK :
    Keeps z s) : Keeps z (State.hostRefuse s q cause) := by
  unfold State.hostRefuse
  try dsimp only
  repeat' (first | with_reducible assumption | intro _ | with_reducible apply State.answer_keeps
                 | with_reducible apply State.countRefusal_keeps | with_reducible apply keeps_ite
                 | with_reducible apply keeps_ite_fst | with_reducible apply keeps_ite_snd
                 | with_reducible apply keeps_ite_snd_snd | split)

theorem State.takeRegister_keeps {z : State} (s : State) (h : HeldTx) (hK : Keeps z s) : Keeps z (State.takeRegister s h) := by
  unfold State.takeRegister
  try dsimp only
  repeat' (first | with_reducible assumption | intro _ | with_reducible apply State.answer_keeps
                 | with_reducible apply State.answerRead_keeps | with_reducible apply State.hold_keeps
                 | with_reducible apply State.readReg_keeps | with_reducible apply State.writeReg_keeps
                 | with_reducible apply State.hostRefuse_keeps | with_reducible apply keeps_ite
                 | with_reducible apply keeps_ite_fst | with_reducible apply keeps_ite_snd
                 | with_reducible apply keeps_ite_snd_snd | with_reducible apply keeps_getD | split)

theorem State.takePort_keeps {z : State} (s : State) (h : HeldTx) (c : Nat) (hK :
    Keeps z s) : Keeps z (State.takePort s h c) := by
  unfold State.takePort
  try dsimp only
  repeat' (first | with_reducible assumption | intro _ | with_reducible apply State.nbArrive_keeps
                 | with_reducible apply State.answer_keeps | with_reducible apply State.answerRead_keeps
                 | with_reducible apply State.hold_keeps | with_reducible apply State.hostRefuse_keeps
                 | with_reducible apply keeps_ite | with_reducible apply keeps_ite_fst | with_reducible apply keeps_ite_snd
                 | with_reducible apply keeps_ite_snd_snd | with_reducible apply keepsO_ite | with_reducible exact keepsO_none
                 | with_reducible apply keepsO_some | split)

theorem State.takePeer_keeps {z : State} (s : State) (h : HeldTx) (n : Nat) (hK :
    Keeps z s) : Keeps z (State.takePeer s h n) := by
  unfold State.takePeer
  try dsimp only
  repeat' (first | with_reducible assumption | intro _ | with_reducible apply State.peerRead_keeps
                 | with_reducible apply State.peerWrite_keeps | with_reducible apply State.hostRefuse_keeps
                 | with_reducible apply keeps_ite | with_reducible apply keeps_ite_fst | with_reducible apply keeps_ite_snd
                 | with_reducible apply keeps_ite_snd_snd | with_reducible apply keeps_getD | split)

/-- What taking a transaction keeps. -/
structure KeepsT (z : State) (o : Taken) : Prop where
  keeps : ∀ t, o = .done t → Keeps z t

theorem keepsT_done {z t : State} (h : Keeps z t) : KeepsT z (.done t) := ⟨fun _ e => by cases e; exact h⟩
theorem keepsT_wait {z : State} : KeepsT z .wait := ⟨fun _ e => by cases e⟩
theorem keepsT_ite {z : State} {c : Prop} [Decidable c] {a b : Taken} (ha : KeepsT z a) (hb : KeepsT z b) :
    KeepsT z (if c then a else b) := by
  split <;> assumption

theorem State.takeMemory_keeps {z : State} (s : State) (h : HeldTx) (l : List Piece) (hK : Keeps z s) :
    KeepsT z (State.takeMemory s h l) := by
  unfold State.takeMemory
  try dsimp only
  repeat' (first | with_reducible assumption | intro _ | with_reducible apply keepsT_ite | with_reducible apply keepsT_done
                 | with_reducible exact keepsT_wait | with_reducible apply State.answer_keeps
                 | with_reducible apply State.answerRead_keeps | with_reducible apply State.hostRefuse_keeps
                 | with_reducible apply State.readPieces_keeps | with_reducible apply State.writePieces_keeps
                 | with_reducible apply keeps_ite | split)

theorem State.takeAddress_keeps {z : State} (s : State) (h : HeldTx) (hK : Keeps z s) : KeepsT z (State.takeAddress s h) := by
  unfold State.takeAddress
  split
  · exact keepsT_done (State.hostRefuse_keeps _ _ _ hK)
  · dsimp only
    split
    · exact keepsT_done (State.hostRefuse_keeps _ _ _ (State.raise_keeps _ _ hK))
    · exact keepsT_done (State.hostRefuse_keeps _ _ _ hK)
    · exact keepsT_done (State.hostRefuse_keeps _ _ _ hK)
    · exact keepsT_done (State.hostRefuse_keeps _ _ _ hK)
    · exact keepsT_done (State.hostRefuse_keeps _ _ _ hK)
    · exact keepsT_done (State.takePeer_keeps _ _ _ hK)
    · exact keepsT_done (State.takePort_keeps _ _ _ hK)
    · exact State.takeMemory_keeps _ _ _ hK

theorem State.hostArrive_keeps {z : State} (s : State) (h : HeldTx) (hK : Keeps z s) : Keeps z (State.hostArrive s h) := by
  unfold State.hostArrive
  try dsimp only
  repeat' (first | with_reducible assumption | with_reducible apply State.hostRefuse_keeps
                 | with_reducible apply State.hold_keeps | with_reducible apply State.wakeCause_keeps
                 | with_reducible apply State.takeRegister_keeps | with_reducible apply keeps_ite
                 | exact (State.takeAddress_keeps s h hK).keeps _ (by assumption) | split)

theorem State.hostTake_keeps {z : State} (s : State) (h : HeldTx) (hK : Keeps z s) : Keeps z (State.hostTake s h) := by
  unfold State.hostTake
  try dsimp only
  repeat' (first | with_reducible assumption | intro _ | with_reducible apply State.wokenBy_keeps | with_reducible apply State.wakeCause_keeps
                 | with_reducible apply State.hostArrive_keeps | with_reducible apply keeps_ite
                 | with_reducible apply keeps_ite_fst | with_reducible apply keeps_ite_snd
                 | with_reducible apply keeps_ite_snd_snd | split)

theorem State.serveHost_keeps {z : State} (s : State) (hK : Keeps z s) : Keeps z (State.serveHost s) := by
  unfold State.serveHost
  try dsimp only
  repeat' (first | with_reducible assumption | intro _ | with_reducible apply State.each_keeps
                 | with_reducible apply State.pumpHost_keeps | with_reducible apply State.answer_keeps
                 | with_reducible apply State.modHost_keeps | with_reducible apply State.sideWrite_keeps
                 | with_reducible apply State.hostRefuse_keeps | with_reducible apply State.hostArrive_keeps
                 | with_reducible apply keeps_ite | with_reducible apply keeps_ite_fst | with_reducible apply keeps_ite_snd
                 | with_reducible apply keeps_ite_snd_snd | split)

theorem State.hostInbound_keeps {z : State} (s : State) (hdr : HostHeader) (opc : BitVec 8) (data : List Byte) (hK :
    Keeps z s) : Keeps z (State.hostInbound s hdr opc data) := by
  unfold State.hostInbound
  try dsimp only
  repeat' (first | with_reducible assumption | intro _ | with_reducible apply State.wokenBy_keeps | with_reducible apply State.wakeCause_keeps
                 | with_reducible apply State.hostRefuse_keeps | with_reducible apply State.hostTake_keeps
                 | with_reducible apply keeps_ite | with_reducible apply keeps_ite_fst | with_reducible apply keeps_ite_snd
                 | with_reducible apply keeps_ite_snd_snd | with_reducible apply keepsO_ite | with_reducible exact keepsO_none
                 | with_reducible apply keepsO_some | split)

theorem State.pathWrite_keeps {z : State} (s : State) (p : Path) (o v : Nat) (hK :
    Keeps z s) : Keeps z (State.pathWrite s p o v) := by
  unfold State.pathWrite
  try dsimp only
  repeat' (first | with_reducible assumption | intro _ | with_reducible apply State.sideWrite_keeps
                 | with_reducible apply State.hostTake_keeps | with_reducible apply keeps_ite
                 | with_reducible apply keeps_ite_fst | with_reducible apply keeps_ite_snd
                 | with_reducible apply keeps_ite_snd_snd | with_reducible apply keepsO_ite | with_reducible exact keepsO_none
                 | with_reducible apply keepsO_some | split)

theorem State.outAnswer_keeps {z : State} (s : State) (o : Outbound) (r : Option (List Byte)) (hK :
    Keeps z s) : Keeps z (State.outAnswer s o r) := by
  unfold State.outAnswer
  try dsimp only
  repeat' (first | with_reducible assumption | intro _ | with_reducible apply State.pumpHost_keeps
                 | with_reducible apply State.forgetAccess_keeps | with_reducible apply State.modHost_keeps
                 | with_reducible apply State.dropOutbound_keeps | with_reducible apply State.messageError_keeps
                 | with_reducible apply keeps_ite | with_reducible apply keeps_ite_fst | with_reducible apply keeps_ite_snd
                 | with_reducible apply keeps_ite_snd_snd | with_reducible apply keepsO_ite | with_reducible exact keepsO_none
                 | with_reducible apply keepsO_some | with_reducible apply keepsO_map | with_reducible apply keepsO_mapOf
                 | split)

theorem State.countOut_keeps {z : State} (s : State) (hK : Keeps z s) : Keeps z (State.countOut s) := by
  unfold State.countOut
  try dsimp only
  repeat' (first | with_reducible assumption | intro _ | with_reducible apply State.addField_keeps
                 | with_reducible apply keeps_ite | with_reducible apply keeps_ite_fst | with_reducible apply keeps_ite_snd
                 | with_reducible apply keeps_ite_snd_snd | split)

/-! ## Alert -/

theorem State.tierError_keeps {z : State} (s : State) (c : Nat) (job : Option (PartId × Fin 16)) (tag : Option Nat) (hK :
    Keeps z s) : Keeps z (State.tierError s c job tag) := by
  unfold State.tierError
  try dsimp only
  repeat' (first | with_reducible assumption | intro _ | with_reducible apply State.raise_keeps | with_reducible apply keeps_ite
                 | with_reducible apply keeps_ite_fst | with_reducible apply keeps_ite_snd
                 | with_reducible apply keeps_ite_snd_snd | split)

theorem State.endInError_keeps {z : State} (s : State) (c : Nat) (a : ColumnAccess) (hK :
    Keeps z s) : Keeps z (State.endInError s c a) := by
  unfold State.endInError
  try dsimp only
  repeat' (first | with_reducible assumption | intro _ | with_reducible apply State.modChan_keeps
                 | with_reducible apply State.modPeer_keeps | with_reducible apply State.failDescriptor_keeps
                 | with_reducible apply State.dropAccesses_keeps | with_reducible apply State.completeOp_keeps
                 | with_reducible apply State.drive_keeps | with_reducible apply State.abandonSequence_keeps
                 | with_reducible apply State.dmaFail_keeps | with_reducible apply State.modHost_keeps
                 | with_reducible apply State.owe_keeps | with_reducible apply State.peerNack_keeps
                 | with_reducible apply State.hostRefuse_keeps | with_reducible apply State.tierError_keeps
                 | with_reducible apply keeps_ite | with_reducible apply keeps_ite_fst | with_reducible apply keeps_ite_snd
                 | with_reducible apply keeps_ite_snd_snd | with_reducible apply keepsO_ite | with_reducible exact keepsO_none
                 | with_reducible apply keepsO_some | with_reducible apply keepsO_map | with_reducible apply keepsO_mapOf
                 | with_reducible apply keeps_getD | split)

theorem State.failAccess_keeps {z : State} (s : State) (c : Nat) (hK : Keeps z s) : Keeps z (State.failAccess s c) := by
  unfold State.failAccess
  try dsimp only
  repeat' (first | with_reducible assumption | intro _ | with_reducible apply State.drawn_keeps
                 | with_reducible apply State.tierError_keeps | with_reducible apply State.endInError_keeps
                 | with_reducible apply keeps_ite | with_reducible apply keeps_ite_fst | with_reducible apply keeps_ite_snd
                 | with_reducible apply keeps_ite_snd_snd | with_reducible apply keepsO_ite | with_reducible exact keepsO_none
                 | with_reducible apply keepsO_some | with_reducible apply keeps_getD | split)

/-! ## Side -/

theorem State.onSide_keeps {z : State} (s : State) (f : State → State) (h : Keeps z s)
    (hf : ∀ t, Keeps z t → Keeps z (f t)) : Keeps z (State.onSide s f) := by
  unfold State.onSide
  try dsimp only
  repeat' (first | with_reducible assumption | intro _ | with_reducible apply hf | with_reducible apply keeps_ite
                 | with_reducible apply keeps_ite_fst | with_reducible apply keeps_ite_snd
                 | with_reducible apply keeps_ite_snd_snd | split)

theorem State.modSide_keeps {z : State} (s : State) (f : Sideband → Sideband) (hK : Keeps z s) : Keeps z (State.modSide s f) := by
  unfold State.modSide
  try dsimp only
  repeat' (first | with_reducible assumption | intro _ | with_reducible apply State.setSide_keeps
                 | with_reducible apply keeps_ite | with_reducible apply keeps_ite_fst | with_reducible apply keeps_ite_snd
                 | with_reducible apply keeps_ite_snd_snd | split)

theorem State.ccc_keeps {z : State} (s : State) (f : State → State) (h : Keeps z s)
    (hf : ∀ t, Keeps z t → Keeps z (f t)) : Keeps z (State.ccc s f) := by
  unfold State.ccc
  try dsimp only
  repeat' (first | with_reducible assumption | intro _ | with_reducible apply hf | with_reducible apply State.onSide_keeps
                 | with_reducible apply State.modSide_keeps | with_reducible apply keeps_ite
                 | with_reducible apply keeps_ite_fst | with_reducible apply keeps_ite_snd
                 | with_reducible apply keeps_ite_snd_snd | split)

theorem State.respond_keeps {z : State} (s : State) (code : Nat) (data : List Byte) (hK :
    Keeps z s) : Keeps z (State.respond s code data) := by
  unfold State.respond
  try dsimp only
  repeat' (first | with_reducible assumption | intro _ | with_reducible apply State.sideAnswer_keeps
                 | with_reducible apply keeps_ite | with_reducible apply keeps_ite_fst | with_reducible apply keeps_ite_snd
                 | with_reducible apply keeps_ite_snd_snd | split)

theorem State.sideRead_keeps {z : State} (s : State) (o : Nat) (hK : Keeps z s) : Keeps z (State.sideRead s o) := by
  unfold State.sideRead
  try dsimp only
  repeat' (first | with_reducible assumption | intro _ | with_reducible apply State.answer_keeps
                 | with_reducible apply State.answerRead_keeps | with_reducible apply State.readReg_keeps
                 | with_reducible apply keeps_ite | with_reducible apply keeps_ite_fst | with_reducible apply keeps_ite_snd
                 | with_reducible apply keeps_ite_snd_snd | with_reducible apply keepsO_ite | with_reducible exact keepsO_none
                 | with_reducible apply keepsO_some | split)

theorem State.sideReadPair_keeps {z : State} (s : State) (o : Nat) (hK : Keeps z s) : Keeps z (State.sideReadPair s o) := by
  unfold State.sideReadPair
  try dsimp only
  repeat' (first | with_reducible assumption | intro _ | with_reducible apply State.answer_keeps
                 | with_reducible apply State.answerRead_keeps | with_reducible apply keeps_ite
                 | with_reducible apply keeps_ite_fst | with_reducible apply keeps_ite_snd
                 | with_reducible apply keeps_ite_snd_snd | with_reducible apply keepsO_ite | with_reducible exact keepsO_none
                 | with_reducible apply keepsO_some | split)

/-! ## Beat -/

theorem State.takeHold_keeps {z : State} (s : State) (c : Nat) (hK : Keeps z s) : Keeps z (State.takeHold s c) := by
  unfold State.takeHold
  try dsimp only
  repeat' (first | with_reducible assumption | intro _ | with_reducible apply State.each_keeps
                 | with_reducible apply State.modCore_keeps | with_reducible apply keeps_ite
                 | with_reducible apply keeps_ite_fst | with_reducible apply keeps_ite_snd
                 | with_reducible apply keeps_ite_snd_snd | split)

theorem State.issueErrors_keeps {z : State} (s : State) (c : Nat) (hK : Keeps z s) : Keeps z (State.issueErrors s c) := by
  unfold State.issueErrors
  try dsimp only
  repeat' (first | with_reducible assumption | intro _ | with_reducible apply State.settle_keeps
                 | with_reducible apply State.scheduleError_keeps | with_reducible apply State.bundleError_keeps
                 | with_reducible apply State.fetchCount_keeps | with_reducible apply keeps_ite
                 | with_reducible apply keeps_ite_fst | with_reducible apply keeps_ite_snd
                 | with_reducible apply keeps_ite_snd_snd | split)

theorem State.addPair_keeps {z : State} (s : State) (o n : Nat) (hK : Keeps z s) : Keeps z (State.addPair s o n) := by
  unfold State.addPair
  try dsimp only
  repeat' (first | with_reducible assumption | intro _ | with_reducible apply State.putReg_keeps
                 | with_reducible apply keeps_ite | with_reducible apply keeps_ite_fst | with_reducible apply keeps_ite_snd
                 | with_reducible apply keeps_ite_snd_snd | split)

theorem State.countPace_keeps {z : State} (s : State) (n : Nat) (hK : Keeps z s) : Keeps z (State.countPace s n) := by
  unfold State.countPace
  try dsimp only
  repeat' (first | with_reducible assumption | intro _ | with_reducible apply State.addPair_keeps
                 | with_reducible apply keeps_ite | with_reducible apply keeps_ite_fst | with_reducible apply keeps_ite_snd
                 | with_reducible apply keeps_ite_snd_snd | split)

theorem State.timeJobs_keeps {z : State} (s : State) (hK : Keeps z s) : Keeps z (State.timeJobs s) := by
  unfold State.timeJobs
  try dsimp only
  repeat' (first | with_reducible assumption | intro _ | with_reducible apply State.setJobs_keeps
                 | with_reducible apply keeps_ite | with_reducible apply keeps_ite_fst | with_reducible apply keeps_ite_snd
                 | with_reducible apply keeps_ite_snd_snd | with_reducible apply keepsO_ite | with_reducible exact keepsO_none
                 | with_reducible apply keepsO_some | with_reducible apply keepsO_map | with_reducible apply keepsO_mapOf
                 | split)

theorem State.endBeat_keeps {z : State} (s : State) (hK : Keeps z s) : Keeps z (State.endBeat s) := by
  unfold State.endBeat
  try dsimp only
  repeat' (first | with_reducible assumption | intro _ | with_reducible apply State.each_keeps
                 | with_reducible apply State.markFences_keeps | with_reducible apply State.fireInjection_keeps
                 | with_reducible apply State.takeHold_keeps | with_reducible apply State.issueErrors_keeps
                 | with_reducible apply State.countPace_keeps | with_reducible apply State.timeJobs_keeps
                 | with_reducible apply keeps_ite | with_reducible apply keeps_ite_fst | with_reducible apply keeps_ite_snd
                 | with_reducible apply keeps_ite_snd_snd | split)

theorem State.decideHold_keeps {z : State} (s : State) (c : Nat) (hK : Keeps z s) : Keeps z (State.decideHold s c) := by
  unfold State.decideHold
  try dsimp only
  repeat' (first | with_reducible assumption | intro _ | with_reducible apply State.modCore_keeps
                 | with_reducible apply State.judgeHold_keeps | with_reducible apply keeps_ite
                 | with_reducible apply keeps_ite_fst | with_reducible apply keeps_ite_snd
                 | with_reducible apply keeps_ite_snd_snd | split)

theorem State.beginBeat_keeps {z : State} (s : State) (hK : Keeps z s) : Keeps z (State.beginBeat s) := by
  unfold State.beginBeat
  try dsimp only
  repeat' (first | with_reducible assumption | intro _ | with_reducible apply State.setBeat_keeps
                 | with_reducible apply State.setMarks_keeps | with_reducible apply State.each_keeps
                 | with_reducible apply State.finishLock_keeps | with_reducible apply State.shareHold_keeps
                 | with_reducible apply State.stepLfsr_keeps | with_reducible apply State.decideHold_keeps
                 | with_reducible apply keeps_ite | with_reducible apply keeps_ite_fst | with_reducible apply keeps_ite_snd
                 | with_reducible apply keeps_ite_snd_snd | split)

theorem State.watch_keeps {z : State} (s : State) (hK : Keeps z s) : Keeps z (State.watch s) := by
  unfold State.watch
  try dsimp only
  repeat' (first | with_reducible assumption | intro _ | with_reducible apply State.startCopies_keeps
                 | with_reducible apply State.afterUps_keeps | with_reducible apply State.thermEdges_keeps
                 | with_reducible apply State.lateWake_keeps | with_reducible apply State.countGood_keeps
                 | with_reducible apply State.endReboot_keeps | with_reducible apply State.leaveSafe_keeps
                 | with_reducible apply State.markEdge_keeps | with_reducible apply State.compareCopies_keeps
                 | with_reducible apply State.reraise_keeps | with_reducible apply keeps_ite
                 | with_reducible apply keeps_ite_fst | with_reducible apply keeps_ite_snd
                 | with_reducible apply keeps_ite_snd_snd | split)

end Sys2Proof.Machine
end

