-- ==== Sys2Proof/Laws/RegisterRows.lean ====
section
/-! SUPPORT. What a command that is one register write does, on a path that reaches the register: its register's rule and nothing
else, whether the rule takes the write, refuses it, or answers later. -/

namespace Sys2Proof.Machine

theorem State.answer_quiet (s : State) (p : Path) (r : Reply) : s.answer (asks p) r = s := by
  cases p <;> cases r <;> rfl

/-- A refusal with cause 5 is not counted. -/
theorem State.hostRefuse_quiet (s : State) (p : Path) : s.hostRefuse (asks p) 5 = s := by
  simp [State.hostRefuse, State.countRefusal, State.answer_quiet]

theorem bytesLe_leBytes4 (v : Nat) (h : v < 2 ^ 32) : bytesLe (leBytes 4 v) = v := by
  simp [leBytes, bytesLe]; omega

/-- The reply of a register's rule that a row carries no message for. -/
theorem State.pathWrite_rule {s t : State} {p : Path} {o v : Nat} {r : Reply} (h : s.pathAdmits p o = true) (hv : v < 2 ^ 32)
    (hw : s.writeReg (asks p) o v = (t, r)) (hr : r = .ok ∨ r = .err 5 ∨ r = .later) : s.pathWrite p o v = t := by
  cases p with
  | side =>
    simp only [State.pathAdmits, Bool.and_eq_true, decide_eq_true_eq, Bool.or_eq_true, Bool.not_eq_true', decide_eq_false_iff_not] at h
    obtain ⟨⟨h4, hwin⟩, hopen, hg⟩ := h
    have hg' : (decide (s.blockState = 6) && !alwaysOnReg o) = false := by
      rcases hg with hg | hg <;> simp [hg]
    have hq : (⟨.side, none⟩ : Request) = asks .side := rfl
    simp only [State.pathWrite, hopen, if_true, State.sideWrite, h4, ne_eq, not_true_eq_false, if_false, hg',
      show ¬ windowSize ≤ o by omega, Nat.mod_eq_of_lt hv, hq, hw, Bool.false_eq_true]
    rcases hr with rfl | rfl | rfl <;> simp [State.answer_quiet]
  | host tag =>
    simp only [State.pathAdmits, Bool.and_eq_true, decide_eq_true_eq, Bool.not_eq_true'] at h
    obtain ⟨⟨h4, hwin⟩, ⟨⟨⟨hready, hshut⟩, hawake⟩, hwait⟩, hadm⟩ := h
    have hreg : regOf (windowBase + o) = some o := by simp [regOf, hwin]
    have hp : (⟨.host tag, none⟩ : Request) = asks (.host tag) := rfl
    have hshut' : s.hostShut (HeldTx.mk (asks (.host tag)) false (windowBase + o) 4 (leBytes 4 v) .wait) = false := hshut
    have hwait' : s.mustWait (HeldTx.mk (asks (.host tag)) false (windowBase + o) 4 (leBytes 4 v) .wait) = false := hwait
    have hidle : s.boot.base ≠ .idle := by
      simp only [State.awake, Bool.and_eq_true, Bool.not_eq_true', decide_eq_false_iff_not] at hawake
      exact hawake.1
    have htag : reqTag (asks (.host tag)) = tag.val := rfl
    simp only [State.pathWrite, hready, Bool.not_true, Bool.not_false, Bool.false_eq_true, if_false, if_true, Nat.mod_eq_of_lt hv, hp,
      State.hostTake, quietRead, Bool.false_and, State.wokenBy, hawake, State.hostArrive, hshut', hidle, decide_false, hwait', hreg,
      State.takeRegister, State.regShape, h4, Nat.add_sub_cancel_left, htag, hadm, bytesLe_leBytes4 v hv, hw,
      decide_true, Bool.and_self, Bool.true_or, show ¬ (4 : Nat) = 8 by decide]
    rcases hr with rfl | rfl | rfl <;> simp [State.answer_quiet, State.hostRefuse_quiet]

end Sys2Proof.Machine
end

