-- ==== Sys2Proof/Tests/Slice0.lean ====
section
/-! SUPPORT. Tests and witnesses. A `test_` theorem checks one step against numbers worked out by hand from the spec; a `witness_`
theorem shows states and operands that meet the hypotheses of the statement it names, clause by clause, at boundary values. -/

set_option Elab.async false

namespace Sys2Proof.Tests

open Sys2Proof Sys2Proof.Machine

/-! ## States -/

def pinsUp : Pins :=
  { State.reset.pins with
    stbyOk := true, pillarOk := true, pwrGood := true, rstN := true, coolantOk := true, pillarSeen := true, pwrSeen := true,
    rstSeen := true, alarmZ := false }

def bootUp : Boot :=
  { Boot.initial with
    base := .ready, step := .done, configured := true, serviceUp := 0xFFFF, tiers := 16, wtiers := 4, recoverOk := true }

/-- The block in READY at beat 5,000,000, every region in partition 0. -/
def ready : State :=
  { State.reset with
    beat := 5000000, pins := pinsUp, boot := bootUp, regs := [(0x100000, 0x8000FFFF), (0x100004, 0xFFFFFFFF)] }

def live : CorePower := { CorePower.initial with state := .on, storeLost := false, avail := true }

/-- A slot word: opcode in [63:56] and fields by their lowest bit. -/
def word (op : Nat) (fields : List (Nat × Nat)) : Nat := op * 2 ^ 56 + natSum (fields.map fun f => f.2 * 2 ^ f.1)

/-- Core 3 runs job 0 of partition 0 with a schedule of 8 bundles at the foot of its store; the words of its first bundle, and the
slots already issued. -/
def running (m v l c : Nat) (slots : BitVec 4) : State :=
  ({ ready with
      cores := [(3, { Core.initial with
        seq := { Sequencer.idle with bound := true, job := some (0, 0), len := 8, slots := slots, members := 0x8008 },
        regs := { CoreRegs.zero with s := [(2, 0x300000)] }, power := live })]
      dma := [(511, { Channel.initial with state := .idle })]
      jobs := [(0, { Job.initial with state := .running, cores := [⟨3, 0, false, 0, 8⟩] })] }).writeMem
    (storeAddr 3 0) (leBytes 8 m ++ leBytes 8 v ++ leBytes 8 l ++ leBytes 8 c)

/-- The bundle with `w` in slot `i` and NOPs elsewhere. -/
def alone (i : SlotName) (w : Nat) (slots : BitVec 4) : State :=
  match i with
  | .m => running w 0 0 0 slots
  | .v => running 0 w 0 0 slots
  | .l => running 0 0 w 0 slots
  | .c => running 0 0 0 w slots

/-- The bundle breaks no rule, and its slot `i` is ready once the slots before it have issued. -/
def issues (i : SlotName) (op w : Nat) : Bool :=
  (alone i w 0).bundleCause 3 = 0 && (alone i w 0).slotReady 3 .m (if i = .m then op else 0) &&
    (alone i w (BitVec.ofNat 4 (2 ^ slotIndex i - 1))).slotReady 3 i op

/-! ## Slots: words written out from the spec's layouts -/

/-- R106 to R111. -/
theorem witness_MatrixSlotIssues :
    ([(0x00, word 0x00 []), (0x01, word 0x01 [(54, 3), (52, 3)]), (0x02, word 0x02 [(52, 15), (46, 63)]),
      (0x03, word 0x03 [(52, 15)])].all fun p => issues .m p.1 p.2) = true := by decide +kernel

/-- V words by their named fields: Vd 63, Va 62, Vb 61, Vc 60 (R112). -/
def vWords : List (Nat × Nat) :=
  let d := (50, 63)
  let a := (44, 62)
  [(0x00, word 0x00 [])] ++ [0x01, 0x02, 0x03, 0x05, 0x06, 0x09, 0x0A, 0x0B].map (fun o => (o, word o [d, a, (38, 61)])) ++
    [0x04, 0x08].map (fun o => (o, word o [d, a, (38, 61), (32, 60)])) ++
    [0x0C, 0x10, 0x11, 0x12].map (fun o => (o, word o [d, a])) ++
    [(0x07, word 0x07 [d, a, (38, 61), (28, 3)]), (0x0D, word 0x0D [d, (15, 31)]), (0x0E, word 0x0E [(50, 31), a, (20, 255)]),
      (0x0F, word 0x0F [d, a, (20, 255)]), (0x13, word 0x13 [d, a, (28, 13), (20, 1)]), (0x14, word 0x14 [(50, 31), a]),
      (0x15, word 0x15 [a, (20, 3)]), (0x16, word 0x16 [(50, 31), (20, 3), (27, 1)]), (0x17, word 0x17 [d, a, (20, 3)])]

theorem witness_VectorSlotIssues : (vWords.all fun p => issues .v p.1 p.2) = true := by decide +kernel

/-- L words (R113): own-store offsets at both ends of the signed immediate. -/
theorem witness_OwnStoreSlotIssues :
    ([(0x00, word 0x00 []), (0x01, word 0x01 [(50, 63), (45, 31), (23, 1024)]), (0x02, word 0x02 [(50, 63), (45, 31), (23, 1024)]),
      (0x03, word 0x03 [(50, 31), (45, 31), (23, 8)]), (0x04, word 0x04 [(50, 31), (45, 31), (23, 2 ^ 22 - 8)]),
      (0x05, word 0x05 [(54, 3), (50, 8), (45, 31), (23, 1024)])].all fun p => issues .l p.1 p.2) = true := by decide +kernel

theorem witness_LongSlotIssues :
    ([(0x08, word 0x08 [(50, 63), (45, 1), (40, 2), (24, 65535)]), (0x09, word 0x09 [(50, 63), (45, 1), (40, 2), (24, 65535)]),
      (0x0A, word 0x0A [(50, 63), (44, 63), (39, 1)]), (0x0C, word 0x0C [(52, 15), (46, 63), (41, 1)]),
      (0x10, word 0x10 [(50, 63)]), (0x12, word 0x12 [(52, 15), (47, 31)])].all fun p => issues .l p.1 p.2) = true ∧
    ([0, 1, 2, 3, 4].all fun sub =>
      let w := word 0x11 [(50, 63), (47, sub), (42, 31), (37, 30), (32, 29)]
      issues .l 0x11 w && ((alone .l w 3).atIssue 3).coreJob 3 = some (0, 0) &&
        fld (((alone .l w 3).settle 3).slotWord 3 .l) 47 3 = sub) = true := by decide +kernel

theorem witness_ScalarSlotIssues :
    (([0x00].map (fun o => (o, word o [])) ++
      [0x20, 0x21, 0x22, 0x23, 0x24, 0x25, 0x26, 0x27, 0x28, 0x29, 0x2A].map (fun o => (o, word o [(51, 31), (46, 30), (41, 29)])) ++
      [(0x20, word 0x20 [(51, 31), (46, 30), (40, 1), (0, 2 ^ 32 - 1)]), (0x2B, word 0x2B [(51, 31), (40, 1), (0, 2 ^ 32 - 1)])]).all
        fun p => issues .c p.1 p.2) = true := by decide +kernel

theorem witness_ControlSlotIssues :
    ([(0x01, word 0x01 [(0, 2 ^ 32 - 1), (54, 3)]), (0x02, word 0x02 [(50, 63), (32, 65535)]), (0x03, word 0x03 [(36, 65535)]),
      (0x04, word 0x04 [(53, 4)]), (0x08, word 0x08 [(34, 7)]), (0x09, word 0x09 [(51, 31)]), (0x0A, word 0x0A [(51, 31)]),
      (0x0B, word 0x0B [(51, 31)]), (0x0F, word 0x0F []), (0x10, word 0x10 [(48, 255)]), (0x11, word 0x11 [(40, 1)])].all
        fun p => issues .c p.1 p.2) = true := by decide +kernel

/-- An idle core issues nothing; an unassigned V opcode is CAUSE 1 whatever the M slot holds. -/
theorem witness_CoresThatIssueNothing :
    ready.mayIssue 3 = false ∧
    ([word 0x00 [], word 0x01 [], word 0x02 [], word 0x03 []].all fun m =>
      let s := running m (word 0xFF []) 0 0 0
      let t := s.settle 3
      s.mayIssue 3 && (t.core 3).seq.bound && (t.core 3).seq.slots = 0 && t.bundleCause 3 = 1 && !t.bundleBad 3 &&
        decide (opcodeOf (t.slotWord 3 .l) ≠ 0x12) && opcodeOf (t.slotWord 3 .m) = opcodeOf m) = true := by decide +kernel

theorem witness_StagingSlotsFrame :
    let s := running (word 0x01 []) 0 0 0 0
    s.coresWf = true ∧ ((s.atIssue 3).core 3).seq.ended = false ∧ ((.mma 3, .m, 0x01) ∈ slotRows 3) ∧ stagingOnly .m 0x01 = true ∧
      s.slotReady 3 .m 0x01 = true ∧ (∃ t, exec (.mma 3) s = .next t) := by
  refine ⟨by decide +kernel, by decide +kernel, by decide +kernel, by decide +kernel, by decide +kernel, _, rfl⟩

/-- SADD of 2^64 - 1 and 1 is staged as 0, one core beat on (R117). -/
theorem test_sadd_wraps :
    (match exec (.sadd 3) ((running 0 0 0 (word 0x20 [(51, 4), (46, 2), (40, 1), (0, 1)]) 7).modCore 3 fun x => x.putS 2 (2 ^ 64 - 1)) with
      | .next t => decide ((t.core 3).staged = [⟨1, 0, .scalar 4 0, 0⟩]) && decide ((t.core 3).seq.beat = 1) && decide ((t.core 3).seq.next = 1)
      | _ => false) = true := by decide +kernel

/-- SLT is signed and SLTU is not (R117). -/
theorem test_slt_signed :
    let s := fun op => (running 0 0 0 (word op [(51, 4), (46, 2), (40, 1), (0, 1)]) 7).modCore 3 fun x => x.putS 2 (2 ^ 64 - 1)
    (match exec (.slt 3) (s 0x29) with
      | .next t => decide ((t.core 3).staged = [⟨1, 0, .scalar 4 1, 0⟩])
      | _ => false) = true ∧
    (match exec (.sltu 3) (s 0x2A) with
      | .next t => decide ((t.core 3).staged = [⟨1, 0, .scalar 4 0, 0⟩])
      | _ => false) = true := by decide +kernel

/-! ## Worked examples of the spec -/

/-- Example after R156: the check byte of 3, and bit 1 flipped. -/
theorem test_tier_code : eccEncode 3 = 0x0C ∧ eccDecode 1 0x0C = .corrected 3 := by decide +kernel

/-- Example after R161: core 158, row 1,165, bank 2, burst 5 of tier 4. -/
theorem test_tier_address :
    let s := { ready with boot := { bootUp with tiers := 20 } }
    colCore 0x13C52345678 = 158 ∧ colOff 0x13C52345678 = 0x52345678 ∧ s.tierBase 4 = 0x40000000 ∧
      (s.setRow 158 4 2 (some 1165)).burstAt 158 4 2 5 = .mem (0x13C52345678 - 632) := by decide +kernel

/-- Example after R164: the striped window over regions 4 and 5. -/
theorem test_striped_window :
    (⟨true, 0x40000000, 0x4000000, 0x30⟩ : Window).place 70 (0x40000000 + 0x123000) = (67, 0x40C09000) := by decide +kernel

/-- Example of R16 and R17: core 158 stands at x = 6, y = 11. -/
theorem test_mesh_place : meshX 158 = 6 ∧ meshY 158 = 11 ∧ coreAt 6 11 = 158 := by decide +kernel

/-- Worked beat table of the sync unit: transit times to region 5. -/
theorem test_transit : transit 0 5 = 1 ∧ transit 3 5 = 1 ∧ transit 15 5 = 2 ∧ regionDist 0 9 = 3 := by decide +kernel

/-- Example after R381: OFFSET 0x028, GAIN 0x8045, code 0x5DC. -/
theorem test_telemetry_trim : corrected 0x00288045 0x5DC = 24010 := by decide +kernel

/-- Examples of the current-limit law and of the shares of a cap window. -/
theorem test_current_limit : currentLaw 7 ⟨216, 10⟩ ⟨216, 10⟩ = 663 := by decide +kernel

theorem test_cap_shares :
    (shareOut [.ofNat 900, .ofNat 450] [400, 500] (.ofNat 300) (.ofNat 150)).zipWith capRaw [.ofNat 900, .ofNat 450] = [625, 1024] ∧
      (shareOut [.ofNat 900, .ofNat 800] [400, 500] (.ofNat 300) (.ofNat 150)).zipWith capRaw [.ofNat 900, .ofNat 800] =
        [561, 712] := by decide +kernel

/-- Example of the register map: DMA_CH_STATUS31 of region 9. -/
theorem test_register_map : dmaReg 9 31 4 = 0x11A03E4 ∧ coreRegBase 158 + 0x110 = 0x33C0110 := by decide +kernel

/-! ## Numbers -/

/-- Example *Length one* after R151: 2^(+0) is 1.0, 2^(−Inf) is +0; a block of 1.0 and zeros has the scale byte 0x77
and the E4M3 element 0x78. -/
theorem test_exp2_and_element :
    fpExp2 0 = 0x3F800000 ∧ fpExp2 0xFF800000 = 0 ∧ 
      mxBlock 3 (0x3F800000 :: List.replicate 31 0) = (0x77, 0x78 :: List.replicate 31 0, false) := by decide +kernel

/-- R126, R136, R139: −0 orders below +0, a NaN narrows to the canonical one, a value past the range saturates. -/
theorem test_order_and_narrowing :
    fpMax 0x80000000 0 = 0 ∧ fpMin 0 0x80000000 = 0x80000000 ∧ narrow fmtBf16 0x7FC00001 = (0x7FC0, false) ∧
      (narrow fmtE4M3 0x44000000).2 = true := by decide +kernel

/-! ## Ill-formed commands are refused by `Instr.wf` -/

def header : HostHeader := { opc := 1, tag := 7, tid := 1023, addr := 4095, len := 1 }

theorem test_wf_refuses :
    ([.act 0 20 0 0, .rd 0 30 0 0 false, .wr 0 20 0 0 false ⟨List.replicate 1024 0, List.replicate 128 0⟩,
      .wr 0 0 0 0 false ⟨[], List.replicate 128 0⟩, .wr 0 0 0 0 false ⟨List.replicate 1024 0, []⟩, .pre 0 20 0 false,
      .ref 0 20, .sre 0 20, .srx 0 20, .mrr 0 20 0, .mrw 0 20 0 0, .nbl 0 20 0 0, .nbgo 0 20 1, .nbs 0 20, .nba 0 20,
      .nbRecordWrite .side 0 [], .nbRecordWrite .side 0 [0], .hostRd { header with opc := 2 }, .hostRd { header with tag := 8 },
      .hostRd { header with tid := 1024 }, .hostRd { header with len := 0 }, .hostRd { header with len := 2 },
      .hostWr { header with opc := 2 } [], .hostWr header [0], .phaseBalance 0 [], .cccUnsupported 0x8D, .pldmUnsupported 2 0x11,
      .entdaa 0, .setdasa 0, .read32 0 0x4000000, .write32 0 0x4000000 0, .read64 0 0x4000000, .readLo 0 0x4000000,
      .registerWrite .side 0x4000000 0].all fun i => !Instr.wf i) = true := by decide +kernel

theorem test_wf_takes :
    ([.act 0 19 31 (BitVec.ofNat _ 0xFFFF), .ref 0 31, .wr 0 19 31 7 true ⟨List.replicate 1024 0, List.replicate 128 0⟩, .hostRd header,
      .hostWr { header with opc := 2 } [0], .phaseBalance 0 [0, 0, 0, 0, 0, 0, 0, 0], .entdaa 1, .registerWrite .side 0x3FFFFFC 0].all
        Instr.wf) = true := by decide +kernel

/-! ## The queue -/

/-- A step takes the command at the front and leaves the rest; with none waiting the block idles. -/
theorem test_step_takes_front :
    (match step { State.reset with pending := [.stbyOkAssert, .blockBeat] } with
      | .next t => t.pins.stbyOk && decide (t.pending = [.blockBeat])
      | _ => false) = true ∧ step State.reset = .next State.reset := ⟨by decide +kernel, rfl⟩

theorem witness_StepRunsFront : ({ State.reset with pending := [.blockBeat] } : State).pending = [.blockBeat] := rfl

/-! ## Memory, results on their way, operations -/

/-- Every table empty or canonical, core 3 live. -/
def quiet : State := running 0 0 0 0 0

def withCore (f : Core → Core) : State := quiet.modCore 3 f

theorem witness_TierCodeCorrectsAndDetects :
    (2 ^ 64 - 1 : Nat) < 2 ^ 64 ∧ Nat.xor (eccEncode 3) 0x0C = 0 ∧ Nat.xor (eccEncode 1) 0x0C = eccColumns.getD 1 0 ∧
      Nat.xor (eccEncode 3) 0x8C = 2 ^ 7 ∧
      Nat.xor (eccEncode 0) 0x03 = 3 ∧ 3 ∉ eccColumns ∧ (∀ j, j < 8 → 3 ≠ 2 ^ j) := by decide +kernel

theorem witness_WrittenWordsDecodeClean : quiet.tablesWf = true ∧ ([0xFF] : List Byte) ≠ [] ∧ 7 / 8 ≤ 0 ∧ 0 ≤ (7 + 1 - 1) / 8 := by
  decide +kernel

def onItsWay (r : Result) (due : Nat) : State := withCore fun x => { x with staged := [⟨due, 0, r, 0⟩] }

theorem witness_StagedResultsLand :
    (onItsWay (.scalar 4 1) 1).coresWf = true ∧
    ((onItsWay (.scalar 4 1) 1).core 3).staged.all (fun g => decide (0 < g.due)) = true ∧
    ([Result.scalar 31 1, .vec 63 0 [1], .tile 3 0 [1], .store 0x3FFFFF [1], .accClear 15, .land ⟨0, true, false, 0, 0, []⟩,
      .group 3 0x300000 [1]].all fun r =>
        let x := (onItsWay r 0).core 3
        x.staged = [⟨0, 0, r, 0⟩] && decide (0 ≤ x.seq.beat.toNat) && (onItsWay r 0).coresWf && (onItsWay r 0).atCoreBeat 3) = true ∧
    (((quiet.core 3).accSet 0).land ⟨0, true, false, 0, 0, []⟩).2 = false ∧
    (let x := quiet.core 3
     x.seq.bound && !meetsSchedule x.seq (0x300000 % 0x400000) 1) = true ∧
    (let s := (onItsWay (.group 4 0x300000 [1]) 6).modSeq 3 fun q => { q with bound := false }
     !(s.core 3).seq.bound && s.senderDue ⟨6, 0, .group 4 0x300000 [1], 0⟩) = true := by decide +kernel

def outstanding (k : OpKind) : State :=
  withCore fun x => { x with ops := [⟨9, 63, 0, true, k, false, some (0, 0), [], 0, [], none⟩], nextOp := 10 }

theorem witness_LongOperationsComplete :
    (([.load (storeAddr 3 0x1000) 0x300000 16, .loadV (storeAddr 3 0x1000) 63] : List OpKind).all fun k =>
      let s := outstanding k
      match (s.core 3).op 9 with
      | some o =>
        let r := s.readPieces (s.opJob 3 o) none (s.opPieces o)
        s.opReady 3 o && !o.refused && !s.hostFailed (opIssuer 3 o.id) && !s.failedAccess (opIssuer 3 o.id) && !r.2.1 && r.2.2 = s &&
          o.kind = k && o.dirty = [] && o.early = [] && !anyUnavailable (s.opPieces o) && s.mem.wf && decide ((mergeData (s.opPieces o) r.1 (s.answerData (opIssuer 3 9))).length ≤ 0x400000) &&
          !((s.core 3).seq.bound && meetsSchedule (s.core 3).seq 0x300000 16)
      | none => false) = true ∧
    (let s := outstanding (.store (storeAddr 3 0x300000) [1])
     match (s.core 3).op 9 with
     | some o => s.opReady 3 o && !o.refused && !s.hostFailed (opIssuer 3 o.id) && !anyUnavailable (s.opPieces o) &&
          !(s.opPieces o).any (fun q => match q.1 with | .mem x => s.hitsSchedule x q.2 | _ => false)
     | none => false) = true ∧
    (let s := outstanding (.port 3 0)
     Option.isSome ((s.core 3).op 9) && (s.column 3).portDone 0) = true ∧
    (let s := outstanding (.fence [7] 0 0)
     match (s.core 3).op 9 with
     | some o => o.metAt.isNone && decide (o.beatAt < s.now) && s.fenceDone 3 [7] 0 0 && s.coresWf &&
         (((s.markFences.core 3).op 9).bind (·.metAt)).any (fun b => decide (b < s.now + 1))
     | none => false) = true := by decide +kernel

/-- A word of core 3's store whose check byte says that two bits are wrong. -/
def spoilt : State := quiet.setCheck (tabSet checkDefault quiet.check ((storeAddr 3 0x300000) / 8) 3)

theorem witness_PieceWritesFrame :
    (let l : List Piece := [(.mem (storeAddr 3 0x300000), 8), (.mem 0, 1024), (.host, 5)]
     quiet.mem.wf && natSum (l.map (·.2)) = 1037 && l.all (wholePiece quiet)) = true ∧
    (let a := storeAddr 3 0x300001
     let lo := a / granule a * granule a
     let bad := fun (s : State) => (s.readMem lo ((a + 1 + granule a - 1) / granule a * granule a - lo)).1.bad
     !quiet.hitsSchedule a 1 && decide (a + 1 ≤ lo + granule a) && decide (1 ≠ granule a) && !bad quiet && bad spoilt) = true := by
  decide +kernel

theorem witness_CoreStoreWritesFrame :
    quiet.mem.wf = true ∧ ([1, 2] : List Byte).length ≤ 0x400000 ∧
    (let s := withCore fun x => { x with power := { x.power with zeroing := true } }
     s.mem.wf && s.coresWf && (s.core 3).power.zeroing) = true := by decide +kernel

/-! ## Sync unit -/

def withPackets (ps : List Packet) : State := quiet.setSync { quiet.sync with packets := ps }

theorem witness_CounterPacketsTaken :
    ([.add 0 65535 1 (.core none), .register 5000000 65535 0 true (.core 3 63), .cancel 0 65535 (.core 3 63)].all fun (p : Packet) =>
      (withPackets [p]).duePackets 65535 = [p]) = true ∧
    quiet.tablesWf = true ∧ natSum ([((0xFFFFFFFF : BitVec 32), Origin.core none)].map fun a => a.1.toNat) + (quiet.counter 5).toNat ≤ 0xFFFFFFFF := by
  decide +kernel

/-- A watch for 1 on a counter that holds `n`. -/
def watched (n : BitVec 32) : State :=
  quiet.setSync { quiet.sync with counters := tabSet counterDefault [] 20500 n, watches := [⟨20500, 1, true, .core 3 0⟩] }

theorem witness_WatchesFireAndWake :
    ([watched 0, watched 1].all fun s =>
      s.sync.watches = [⟨20500, 1, true, .core 3 0⟩] && s.tablesWf && !bitOf (s.regN 0x1F0003C) 0) = true ∧
    ((watched 0).counter 20500).toNat < 1 ∧ 1 ≤ ((watched 1).counter 20500).toNat ∧
    (let n : Packet := .notify 5000000 20500 (.core 3 63)
     let s := withPackets [n]
     s.dueNotice 3 63 = some n && (s.core 3).slot 63 = .idle &&
        ((s.modCore 3 fun x => x.putSlot 63 (.armed 20500 1 true)).core 3).slot 63 ≠ .idle) = true ∧
    (let f : Fenced := ⟨0, 5, 1, some (0, 0), [], 0, 0⟩
     let s := withCore fun x => { x with outbox := [f] }
     (s.core 3).outbox = [f] && s.fenceDone 3 f.ops f.gst f.own) = true ∧
    (let q : WaitFor := ⟨false, false, 1⟩
     let s := withCore fun x => { x with seq := { x.seq with waiting := some q } }
     (s.core 3).seq.waiting = some q && (s.core 3).seq.bound && q.indexes.all ((s.core 3).isSet q.watch false)) = true ∧
    (let s := quiet.modJob 0 0 fun y => { y with quiet := 200000 }
     (s.job 0 0).state = .running && decide (200000 ≤ (s.job 0 0).quiet)) = true := by decide +kernel

theorem witness_ZeroWatchFiresOnArrival :
    (let p : Packet := .register 0 65535 0 true (.core 3 63)
     let s := withPackets [p]
     s.tablesWf && s.duePackets 65535 = [p] && s.sync.watches.all (fun w => !decide (w.counter = 65535))) = true ∧
    ([Path.side, .host 0].all fun p =>
      ready.duePackets (4096 * 15 + 4095) = [] && !ready.hadBeat (4096 * 15 + 4095) && ready.pathAdmits p (synHwatch 15) && ready.reg (synHwatchVal 15) = 0 && !bitOf (ready.regN (synHwatch 15)) 30 &&
        ready.sync.watches.all (fun w => !decide (w.counter = 4096 * 15 + 4095))) = true := by decide +kernel

/-! ## DMA, page keeper, scout -/

def withRegs (s : State) (l : List (Nat × Nat)) : State := l.foldl (fun t p => t.putReg p.1 p.2) s

/-- A window of 8 MiB over every column at 0x4000_0000, a page table of four pages at its foot, its summaries 64 KiB further. -/
def tableBase : Nat := colAddr 3 0x40000000

def paged : State :=
  let s := withRegs quiet [(partBase 0 + 0x10, 2 ^ 31 + 4 * 2 ^ 12 + 512), (partBase 0 + 0x14, 0xFFFF), (pgkReg 0 0, 1),
    (pgkReg 0 0x8, tableBase % 2 ^ 32), (pgkReg 0 0xC, tableBase / 2 ^ 32), (pgkReg 0 0x10, (tableBase + 0x10000) % 2 ^ 32),
    (pgkReg 0 0x14, tableBase / 2 ^ 32), (pgkReg 0 0x18, 4)]
  { s with
    cores := tabSet (fun _ => Core.initial) s.cores 0 { Core.initial with power := live }
    boot := { s.boot with tiers := 16, wtiers := 4 } }

/-- Entries of the four pages: FREE, SHARED, LEASED to the limit, referenced to the limit. -/
def entries : List PageEntry :=
  [⟨tableBase + 0x20000, 0xFFFFFFFF, 0, 0⟩, ⟨tableBase + 0x24000, 0, 1, 3⟩, ⟨tableBase + 0x28000, 0, 0xFFFF, 1⟩, ⟨tableBase + 0x2C000, 0, 0, 0xFFFF⟩]

def tableUp : State :=
  (paged.writeMem tableBase (entries.flatMap PageEntry.bytes)).modKeeper 0 fun x =>
    { x with ready := true, table := paged.regTable 0 }

def onChan (x : Channel) : State := { quiet with dma := [(4, x)] }

/-- A flat descriptor of `len` bytes from core 3's store to itself. -/
def descriptor (w0 : Nat) : List Byte :=
  leBytes 8 w0 ++ leBytes 8 0 ++ leBytes 8 (storeAddr 3 0x300000) ++ leBytes 8 (storeAddr 3 0x200000)

def fetching : Channel := { Channel.initial with state := .running, alloc := 2, fetching := some false, owner := some (.host 0) }

/-- The descriptor of `w0` stands at the foot of a channel's ring; one over the same bytes with `f` done to the state. -/
def fetchAt (a w0 : Nat) : State := (onChan { fetching with cur := a }).writeMem (storeAddr 3 0x100000) (descriptor w0)

/-- What the channel's descriptor read returns. -/
def fetched (s : State) : Got :=
  let t := s.modChan 0 4 fun y => { y with attr := y.owner }
  (t.readOwned 0 (s.chan 0 4).cur 32 (t.ringerJob (t.chan 0 4).attr) (t.ringerTag (t.chan 0 4).attr)).1

theorem witness_DescriptorIsChecked :
    ([0x10, 0x20].all fun cur =>
      let s := fetchAt (storeAddr 3 0x100000 + cur) 0
      let z := s.modChan 0 4 Channel.goOn
      let x := z.chan 0 4
      x.fetchReady && x.fetching = some false && !z.dmaHeld 0 && z.regionOwner 0 = some 0 && decide (x.cur % 32 = cur % 32)) = true ∧
    (let legal := 2 ^ 63 + 64
     let src := storeAddr 3 0x300000
     let dst := storeAddr 3 0x200000
     decide (fetched (fetchAt 0x80000000000 0) = .refused) &&
     decide (fetched (fetchAt (storeAddr 3 0x100000) legal) = .bytes (descriptor legal)) &&
     decide (fetched { spoilt with dma := [(4, { fetching with cur := src })] } = .bad) &&
     decide (fetched ((fetchAt src 0).modPower 3 fun p => { p with zeroing := true }) = .wait) &&
     illegalDescriptor 4 (legal + 2 ^ 48) 0 src dst true && !illegalDescriptor 4 legal 0 src dst true &&
     !illegalDescriptor 4 (2 ^ 63 + 2 ^ 61) (2 ^ 48) src dst true &&
     allData ((fetchAt 0 0).locateAll 0 src 64 ++ (fetchAt 0 0).locateAll 0 dst 64) &&
     !allData ((fetchAt 0 0).locateAll 0 0x80000000000 64)) = true := by decide +kernel

def copying : Running :=
  { word0 := BitVec.ofNat 64 (2 ^ 63 + 64), next := 0, dst := storeAddr 3 0x300000, src := storeAddr 3 0x200000,
    segs := [⟨storeAddr 3 0x200000, storeAddr 3 0x300000, 64⟩], moved := 0, snap := [], crc := 0, sum := 0, tail := [],
    lastEnd := 0, checked := true, basin := [], reading := some 0 }

/-- Everything of the descriptor has been read and written. -/
def issuedAll (sig : Bool) : Running :=
  { copying with segs := [], reading := none, word0 := BitVec.ofNat 64 (2 ^ 63 + (if sig then 2 ^ 62 else 0)) }

theorem witness_DescriptorsMoveAndEnd :
    (let x := { fetching with fetching := none, running := some copying, attr := some (Ringer.host 0) }
     let s := onChan x
     let l := s.locateAll 0 (storeAddr 3 0x200000) 64
     let r := s.readPieces (s.ringerJob x.attr) (s.ringerTag x.attr) l
     s.regionOwner 0 = some 0 && x.readReady && !s.dmaHeld 0 && allData l && !s.readWaits l && s.answered (.dma 0 4 0) &&
       !s.failedAccess (.dma 0 4 0) && !r.2.1 && r.2.2 = s) = true ∧
    (let w := (0, [(storeAddr 3 0x300000, ([1, 2] : List Byte))])
     let s := onChan { fetching with writes := [w], attr := some (.host 0) }
     let l := s.writeAt 0 w.2
     (s.chan 0 4).writes.find? (s.dmaWriteReady 0 4) = some w && !s.failedAccess (.dma 0 4 0) && allData l && decide (l ≠ []) &&
     !(s.writePieces none (some 0) l (w.2.flatMap (·.2))).2) = true ∧
    ([true, false].all fun sig =>
      let f : Finishing := ⟨(issuedAll sig).word0, 0, none, 1⟩
      let s := onChan { fetching with fetching := none, running := some (issuedAll sig), attr := some (.host 0) }
      let t := s.dmaGo 0 4
      let u := (onChan { fetching with finishing := [f] }).dmaGo 0 4
      (u.chan 0 4).earlierComplete = some f && (t.chan 0 4).complete && !s.dmaHeld 0 && (t.chan 0 4).running = some (issuedAll sig) &&
        (t.chan 0 4).attr = some (.host 0)) = true ∧
    ([1, 3].all fun c => ((onChan { fetching with failed := some c }).chan 0 4).failed = some c) = true ∧
    (let s := onChan { Channel.initial with state := .draining }
     (s.chan 0 4).state = .draining && (s.chan 0 4).writes = []) = true := by decide +kernel

theorem witness_ReshufflesInvert :
    (List.replicate 64 (0 : Byte)).length = 64 ∧ (List.replicate 1024 (0 : Byte)).length = 1024 ∧ 7 < 2 * 4 ∧ 1 < 4 / 2 := by
  decide +kernel

/-- R265: PLANE_SPLIT puts bit 0 of nibbles 0 to 7 into byte 0, TRANSPOSE moves byte 1 to 32, INTERLEAVE by 2 of bytes. -/
theorem test_reshuffles :
    (planeSplit (0x11 :: List.replicate 63 0)).take 2 = [3, 0] ∧ ((transpose ((List.range 1024).map fun i => BitVec.ofNat 8 i)).getD 32 0) = 1 ∧
      (placed 0 1 (interleaved 2 2) 0 [1, 2, 3, 4]).flatMap (·.2) = [1, 3, 2, 4] := by decide +kernel

def call (op : PgkOp) (pn : BitVec 32) (n : Nat) : PgkCall := ⟨0, 0, op, pn, n, .host .side, 0, none, false, false⟩

/-- Page 1 in every operation, and the limits of the counts. -/
theorem witness_PagesAreCounted :
    (∀ e ∈ entries, e.addr < 2 ^ 48 ∧ e.next < 2 ^ 32 ∧ e.lease < 2 ^ 16 ∧ e.ref < 2 ^ 16) ∧
    ([call .pin 0 1, call .pin 1 1, call .pin 2 1, call .unpin 1 2, call .unpin 1 1, call .share 0 1, call .share 3 1, call .share 1 1,
      call .free 0 1, call .free 1 1, call .query 1 1].all fun x =>
        !x.down && tableUp.tableUp x.part && decide (x.pn.toNat < (tableUp.table x.part).count) && !x.copied && decide (x.op ≠ .writeIntent) &&
          (tableUp.readEntry x.part x.pn.toNat x.job).1 = entries[x.pn.toNat]?) = true := by decide +kernel

/-- The counts at their limits: status 1, 4, 3 (R195). -/
theorem test_page_limits :
    ((tableUp.runCall (call .pin 0 1)).1 = some (callResult 1 false 0 0 0)) ∧
    ((tableUp.runCall (call .pin 2 1)).1 = some (callResult 4 false (entries.getD 2 ⟨0, 0, 0, 0⟩).state 1 2)) ∧
    ((tableUp.runCall (call .unpin 1 2)).1 = some (callResult 3 false (entries.getD 1 ⟨0, 0, 0, 0⟩).state 3 1)) := by decide +kernel

theorem witness_KeeperCallsAndTables :
    (let x := call .pin 1 1
     let s := tableUp.setPgk { tableUp.pgk with calls := [x] }
     let u := s.startCopies
     u.call 0 = some x && !x.copying && !u.callBehind x && !u.awaitsCopy x && !u.readWaits (u.callPieces x)) = true ∧
    (let x := { call .writeIntent 1 1 with copyTo := some 2 }
     let s := tableUp.setPgk { tableUp.pgk with calls := [x] }
     let going : State := { s with dma := [(0, { fetching with fetching := none, running := some (issuedAll false), attr := some (.keeper 0) })] }
     let t := (s.writeEntry 0 2 { (entries.getD 2 ⟨0, 0, 0, 0⟩) with next := 0, lease := 0, ref := 1 } x.job).writeEntry 0 1
       { (entries.getD 1 ⟨0, 0, 0, 0⟩) with ref := 2 } x.job
     s.call 0 = some x && x.copyTo = some 2 && !x.copied && !s.readWaits (s.callPieces x) &&
     (s.table x.part).region = 0 && (s.table x.part).chan = 0 &&
     ((going.dmaGo 0 0).chan 0 0).attr = some (.keeper 0) && ((going.dmaGo 0 0).chan 0 0).complete &&
     ((s.dmaGo 0 0).chan 0 0).running = none && ((s.dmaGo 0 0).chan 0 0).failed = none && ((s.dmaGo 0 0).chan 0 0).writes = [] &&
     s.readEntry 0 1 x.job = (entries[1]?, s) && s.readEntry 0 2 x.job = (entries[2]?, s) && !(t.keeper 0).broken) = true ∧
    (let s := paged.modKeeper 0 fun x => { x with scanning := true }
     let bad := s.putReg (pgkReg 0 0x18) 0
     let up := fun (v : State) => v.modKeeper 0 fun x => { x with table := v.regTable 0 }
     (s.keeper 0).scanning && !(s.keeper 0).closing && (bad.keeper 0).scanning && !bad.keeperConfigOk 0 && s.keeperConfigOk 0 &&
     !s.readWaits (s.locateAll 0 (s.regTable 0).base (16 * (s.regTable 0).count)) &&
     (State.scanGo 0 false 4 0 (up s)).1 = .failed 0 && (State.scanGo 0 false 4 0 (up tableUp)).1 = .ok &&
     (State.scanGo 0 false 4 0 (up (tableUp.setCheck [((tableBase / 8), 3)]))).1 = .broken) = true ∧
    (let s := paged.modKeeper 0 fun x => { x with closing := true }
     (s.keeper 0).closing && !s.pgk.calls.any (fun x => x.part = 0)) = true := by decide +kernel

/-- Scout registers: a ring of 4 slots at core 3's store, counter 0; a request of one query and one page of the table. -/
def request (seq : Nat) : List Byte :=
  [seq + 2 ^ 32, storeAddr 3 0x180000, 2 ^ 32, 1 + 1 * 2 ^ 17 + 1 * 2 ^ 28, storeAddr 3 0x190000, storeAddr 3 0x1A0000, 5, 0].flatMap (leBytes 8)

def scouting (seq : Nat) : State :=
  ((withRegs tableUp [(sctReg 0 0, storeAddr 3 0x140000 % 2 ^ 32), (sctReg 0 4, storeAddr 3 0x140000 / 2 ^ 32), (sctReg 0 8, 2 ^ 31 + 4 * 2 ^ 16)]).modScout
    0 fun x => { x with fired := [none] }).writeMem (storeAddr 3 0x140000) (request seq)

def served (status : Nat) : ScoutReq :=
  { words := (List.range 8).map fun k => BitVec.ofNat 64 (wordAt (request 0) k), status := status, job := none }

theorem witness_ScoutServesRequests :
    (let got := fun (s : State) =>
       let t := s.modScout 0 fun y => { y with fired := y.fired.tail }
       (t.readOwned 0 (t.addrReg (sctReg 0 0) + 64 * (t.regN (sctReg 0 0xC) % max 1 (t.scoutSize 0))) 64 none none).1
     (scouting 0).regionOwner 0 = some 0 && !(scouting 0).shut && decide (((scouting 0).scout 0).fired = [none]) && ((scouting 0).scout 0).serving.isNone &&
     decide (got (scouting 0) = .bytes (request 0)) && decide (got (scouting 1) = .bytes (request 1)) && (served 0).seq = 0 &&
     (scouting 0).regN (sctReg 0 0xC) = 0) = true ∧
    ([0, 1].all fun st =>
      let s := (scouting 0).modScout 0 fun x => { x with serving := some (served st) }
      !s.waitsFor (s.locateAll 0 (served st).out (served st).outLen) && (s.scout 0).serving = some (served st) && (served st).status = st) = true ∧
    (let s := (scouting 0).modScout 0 fun x => { x with serving := some (served 0) }
     let q := served 0
     let g := s.readOwned 0 q.qaddr (512 * q.queries) q.job none
     !s.readWaits (s.scoutPieces 0 q) && decide (g = (.bytes (List.replicate 512 0), s)) &&
     match (State.scoutScan 0 q (queryVectors q.queries (List.replicate 512 0)) q.count 0 s).1 with
       | .ok cands _ => decide (cands.length ≤ 1)
       | _ => false) = true := by decide +kernel

/-- Four candidates, the first and the last forced, two kept. -/
theorem witness_SelectionKeepsForcedAndBest :
    (let q : ScoutReq := { words := [0, 0, 0, BitVec.ofNat 64 (4 + 3 * 2 ^ 17 + 2 ^ 28 + 2 ^ 36)], status := 0, job := none }
     let l : List Candidate := [⟨0, 0, .ninf⟩, ⟨1, 0, .val 5⟩, ⟨2, 0, .val 7⟩, ⟨3, 0, .nan⟩]
     q.k = 3 && q.keepFirst = 1 && q.keepLast = 1 && decide (q.keepFirst + q.keepLast ≤ q.k) &&
     decide (List.Pairwise (fun a b => a.place < b.place) l) && l.all (fun c => decide (c.place < q.count)) &&
     (selectPages q l).map (·.place) = [0, 2, 3]) = true := by decide +kernel

/-! ## Columns -/

theorem witness_TierCommandsAct :
    quiet.tiersAt 0 = [0] ∧ quiet.tiersAt 15 = [15] ∧ ((quiet.column 3).tier 15).selfRef = false ∧
    (let s := quiet.setRow 3 15 31 (some 0)
     let u := fun cmd => (s.modColumn 3 fun x => { x with retries := 0 }).drive 3 15 cmd
     decide ((u (.rd 31 7 false)).burstAt 3 15 31 7 ≠ .nowhere) && decide ((u (.rd 31 7 false)).burstAt 3 15 31 7 ≠ .train 255) &&
       decide ((u (.rd 31 7 false)).burstAt 3 15 31 7 = (u (.wr 31 7 true)).burstAt 3 15 31 7)) = true ∧
    (List.replicate 1024 (0 : Byte)).length = 1024 ∧ (List.replicate 128 (0 : Byte)).length = 128 ∧ badPacket 1 = true ∧
    (quiet.column 3).retries = 0 ∧ ((quiet.modColumn 3 fun x => { x with retries := 2 }).column 3).retries = 2 ∧
    (let q : NbRecord := ⟨[0, 0, 0, 0], 0, none⟩
     let s := quiet.modColumn 3 fun x => { x with active := some q }
     let z := (quiet.modColumn 3 fun x => { x with active := some q, passed := true })
     (s.column 3).active = some q && q.tier = 0 && ([0, 15].all fun t =>
       decide (t < z.boot.tiers) && (z.column 3).passed && !((z.column 3).tier t).selfRef &&
       decide ((z.column 3).nextRef z.boot.tiers t ((z.column 3).tier t).refLast ≤ z.now))) = true ∧
    85 < (86 : BitVec 8).toNat ∧ (85 : BitVec 8).toNat ≤ 85 ∧
    (let hot := quiet.modColumn 3 fun x => { x with hot := true }
     let cool := quiet.modColumn 3 fun x => { x with hot := true, coolSince := some 3000000 }
     (hot.column 3).hot && (hot.column 3).coolSince = none && (cool.column 3).coolSince = some 3000000 && (cool.column 3).hot &&
     !(cool.column 3).tempLost && decide (3000000 + 2000000 ≤ cool.now)) = true ∧
    (quiet.serviceOn 0 && !(quiet.column 3).tempLost && decide ((quiet.column 3).lastFrame + 256000 ≤ quiet.now)) = true := by
  decide +kernel

/-- A near-bank ADD of 32 `n` BF16 elements in tier `t`, rows of a window at the foot of the column. -/
def recordIn (t n : Nat) : List Byte :=
  [1 * 2 ^ 58 + t * 2 ^ 56 + 2 ^ 53 + n * 2 ^ 36, 2 * 2 ^ 49 + 0 * 2 ^ 34 + 1 * 2 ^ 19, 0, 0].flatMap (leBytes 8)

def record : List Byte := recordIn 0 1

def lowWindow : State := withRegs quiet [(partBase 0 + 0x10, 2 ^ 31 + 4 * 2 ^ 12), (partBase 0 + 0x14, 0xFFFF)]

def nbRecord (t n : Nat) : NbRecord := ⟨(List.range 4).map fun k => BitVec.ofNat 64 (wordAt (recordIn t n) k), 0, none⟩

def active : NbRecord := nbRecord 0 1

theorem witness_NearBankCommandsAct :
    ({ quiet with boot := { quiet.boot with base := .train } } : State).boot.base = .train ∧ quiet.tiersAt 3 = [3] ∧
    ((quiet.column 3).tier 3).selfRef = false ∧ 3 < quiet.boot.wtiers ∧ (1 : BitVec 17) ≠ 0 ∧ (0x1FFFF : BitVec 17) ≠ 0 ∧
    (let q := nbRecord 3 1
     let loaded := quiet.modTier 3 3 fun x => { x with record := [(0, q.words.getD 0 0), (1, q.words.getD 1 0)] }
     let s := loaded.modColumn 3 fun x => { x with active := some q }
     let u := fun (z : State) cmd => (z.modColumn 3 fun x => { x with retries := 0 }).drive 3 3 cmd
     ((u s (.nbgo 1)).column 3).active = some q && q.tier = 3 && !(((u s (.nbgo 1)).column 3).tier 3).seqDone &&
     ((u loaded (.nbgo 1)).column 3).active.isNone && ((u loaded (.nbgo 1)).loadedRecord 3 3).wellFormed 4 &&
     ((u loaded (.nbgo 1)).loadedRecord 3 3).tier = 3 &&
     ((u s .nba).column 3).active = some q && ((u quiet .nba).column 3).active.isNone) = true := by
  decide +kernel

def slicing (f : Tier → Tier) : State :=
  (lowWindow.modColumn 3 fun x => { x with active := some active }).modTier 3 0 fun x => f { x with mode := [(3, some 24)] }

theorem witness_NearBankSequencesAct :
    (lowWindow.ownsRegion 0 (regionOf 3) && !lowWindow.shut && decide (record ≠ []) && record.length % 32 = 0 &&
      (((recordsOf record).map fun w => ({ words := w, port := 0, job := none } : NbRecord)).all (lowWindow.nbValid 0 3))) = true ∧
    (let s := lowWindow.modColumn 3 fun x => { x with queue := [active] }
     (s.column 3).active = none && (s.column 3).queue = [active] && !((s.column 3).tier active.tier).selfRef &&
       decide (((s.column 3).tier active.tier).refUntil ≤ s.now)) = true ∧
    (let s := slicing fun x => { x with running := true, slice := 1, sliceAt := 0 }
     let long := s.modColumn 3 fun x => { x with active := some (nbRecord 0 65) }
     let stopped := s.modColumn 3 fun x => { x with abandon := true }
     let hurt := s.setCheck (tabSet checkDefault s.check (colAddr 3 0 / 8) 3)
     (s.column 3).active = some active && ((s.column 3).tier active.tier).running && s.nbBad 3 active 0 1 = none &&
     !(s.column 3).abandon && active.total = 1 && (nbRecord 0 65).total = 2 && (long.nbBad 3 (nbRecord 0 65) 0 1).isNone &&
     (stopped.column 3).abandon && (stopped.nbBad 3 active 0 1).isNone && (hurt.nbBad 3 active 0 1).isSome &&
     decide (s.sliceBeats 3 active 1 + 4000 ≤ s.now)) = true ∧
    (let s := slicing fun x => { x with seqDone := true }
     (s.column 3).active = some active && ((s.column 3).tier active.tier).seqDone) = true := by decide +kernel

/-! ## Host port and peer ports -/

def hdr (opc tag : Nat) (addr len : Nat) : HostHeader :=
  { opc := BitVec.ofNat 8 opc, tag := BitVec.ofNat 8 tag, tid := 1023, addr := BitVec.ofNat 48 addr, len := BitVec.ofNat 32 len }

theorem witness_HostTransactionsAct :
    (let h := hdr 1 0 (windowBase + 0x300080) 4
     ready.hostTakes (hostTx h true []) && !headerMalformed h 1 && regOf h.addr.toNat = some 0x300080 && ready.regShape 0x300080 4 &&
     ready.admits 0 0x300080 false && !bankRefused (.host 0) 0x300080) = true ∧
    (let h := hdr 1 0 (storeAddr 3 0x3FFFFF) 1
     let r := quiet.readPieces none (some 0) [(.mem (storeAddr 3 0x3FFFFF), 1)]
     quiet.hostTakes (hostTx h true []) && !headerMalformed h 1 && regOf h.addr.toNat = none &&
     decide (quiet.locateAll 0 h.addr.toNat 1 = [(.mem (storeAddr 3 0x3FFFFF), 1)]) && !quiet.keeperOwned h.addr.toNat 1 &&
     !quiet.readWaits [(.mem (storeAddr 3 0x3FFFFF), 1)] && decide (h.addr.toNat < 0x80000000000) && !r.2.1) = true ∧
    (let data := leBytes 4 7
     let h := hdr 2 0 (windowBase + partBase 0 + 0x50) 4
     ready.hostTakes (hostTx h false data) && !headerMalformed h 2 && decide (data.length = h.len.toNat) &&
     regOf h.addr.toNat = some (partBase 0 + 0x50) && ready.regShape (partBase 0 + 0x50) 4 && ready.admits 0 (partBase 0 + 0x50) true &&
     decide ((ready.writeReg ⟨.host 0, some 1023⟩ (partBase 0 + 0x50) 7).2 = .ok)) = true ∧
    (let data := leBytes 4 7
     let h := hdr 2 1 (windowBase + partBase 0 + 0x50) 4
     ready.hostTakes (hostTx h false data) && !headerMalformed h 2 && !ready.admits 1 (partBase 0 + 0x50) true) = true ∧
    (let data := leBytes 4 7
     let h := hdr 2 0 (storeAddr 3 0x300000) 4
     quiet.hostTakes (hostTx h false data) && !headerMalformed h 2 && regOf h.addr.toNat = none &&
     decide (quiet.locateAll 0 h.addr.toNat 4 = [(.mem (storeAddr 3 0x300000), 4)]) && !quiet.keeperOwned h.addr.toNat 4 &&
     !quiet.waitsFor [(.mem (storeAddr 3 0x300000), 4)] && !quiet.hitsSchedule (storeAddr 3 0x300000) 4 &&
     !(quiet.writePieces none (some 0) [(.mem (storeAddr 3 0x300000), 4)] data).2) = true ∧
    (let h := hdr 1 0 (windowBase + 4095) 2
     ready.hostReady && !ready.hostShut (hostTx h true []) && headerMalformed h 1 && ready.awake) = true := by
  decide +kernel

/-- An outbound transaction of TID 1,023 sent at beat 0, with a timeout of 100 µs. -/
def outbound (read : Bool) : State :=
  (withRegs ready [(0x102000, 100)]).modHost fun x => { x with outbound := [⟨0, 1023, 0, read, 0x80000000000, 16, [], .host 0 5, some 0, none⟩] }

theorem witness_OutboundAnswersAct :
    ([true, false].all fun rd =>
      (outbound rd).hostOpen && match (outbound rd).outWaiting 1023 with
        | some o => o.read = rd && o.len = 16 && decide (o.sentAt.getD 0 + 2000 * fld ((outbound rd).regN 0x102000) 0 16 ≤ (outbound rd).now)
        | none => false) = true ∧
    ((outbound true).outWaiting 0 = none) ∧
    ((outbound true).host.outbound.filter Outbound.isOpen).length = 1 := by decide +kernel

/-- Port 1 is UP, partition 0's, with the window of `paged` as import window and counters 0 to 15 open. -/
def linked : State :=
  (withRegs paged [(peerBase 1, 2 ^ 31), (peerBase 1 + 8, 512), (peerBase 1 + 0xC, 4), (peerBase 1 + 0x10, 15 * 65536),
    (peerBase 1 + 0x14, 100), (peerBase 1 + 0x18, 10 * 2 ^ 24)]).modPeer 1 fun x => { x with link := .up }

theorem witness_PeerAccessesAct :
    (linked.linkUp 1 && linked.awake && !linked.peerShut && decide ((linked.peer 1).buffered = [])) = true ∧
    peerShape 8 0 = false ∧ peerShape 1024 0x3FC00 = true ∧
    (let a := 0x40000000
     let l := linked.locateAll (linked.portOwner 1) a 1024
     let r := linked.readPieces none none l
     linked.inWindow 1 a 1024 && decide (l ≠ []) && allMem l && !linked.touchesEntries a 1024 && !linked.waitsFor l && !linked.readWaits l &&
     !(linked.writePieces none none l (List.replicate 1024 1)).2 && !r.2.1 && !linked.inWindow 1 0x3FC00 1024) = true ∧
    (fld (linked.regN (peerBase 1 + 0x10)) 0 16 ≤ 15 ∧ 15 ≤ fld (linked.regN (peerBase 1 + 0x10)) 16 16) := by decide +kernel

theorem witness_PeerAnswersAct :
    ([(false, OutMsg.peerWr 1 5 0 []), (true, OutMsg.peerRd 1 5 0 64)].all fun m =>
      let a : PeerAccess := ⟨5, .host 0 5, false, m.1, m.2, 0, some 0, none⟩
      let s := linked.modPeer 1 fun x => { x with accesses := [a], owedReq := 1 }
      s.linkUp 1 && s.awaiting 1 5 = some a && decide (a.sentAt.getD 0 + 2000 * fld (s.regN (peerBase 1 + 0x14)) 0 16 ≤ s.now) &&
        decide (0 < (s.peer 1).owedReq)) = true ∧ 1 ≤ (4 : BitVec 8).toNat ∧ (4 : BitVec 8).toNat ≤ 4 := by decide +kernel

theorem witness_PeerLinksAndPace :
    (let s := withRegs ready [(peerBase 1, 2 ^ 31)]
     !bitOf s.pins.linkUp.toNat 1 && s.peerEn 1 && (s.peer 1).link = .down) = true ∧ (linked.peer 1).link = .up ∧
    (let s := linked.modPeer 1 fun x => { x with link := .init }
     (s.peer 1).link = .init && fld 0x0200 8 8 = 2 && decide (fld 0x0300 8 8 ≠ 2) && decide ((s.peer 1).since + 2000000 ≤ s.now)) = true ∧
    (linked.linkUp 1 && decide (linked.boot.base ≠ .idle) && linked.tablesWf && decide ((linked.peer 1).paceAt + 2000 * pacePeriod linked 1 ≤ linked.now) &&
      (linked.partPace 1 (linked.now - (linked.peer 1).paceAt)).1 = 0 && (linked.peer 1).tx.f = 0) = true ∧
    (let s := linked.modPeer 1 fun x => { x with inForce := true, tx := ⟨1, 10, 0, 0⟩ }
     (s.peer 1).inForce && decide ((s.peer 1).rxBeat + 4000 * (s.peer 1).rx.period ≤ s.now) && decide (1 ≤ (s.peer 1).tx.f)) = true ∧
    1024 ≤ (1024 : BitVec 16).toNat ∧ (12 : BitVec 8).toNat ≤ 12 ∧ 1 ≤ (64 : BitVec 8).toNat ∧ (64 : BitVec 8).toNat ≤ 64 := by decide +kernel

/-! ## Writes of registers -/

def paths : List Path := [.side, .host 0]

theorem witness_RegisterWriteFollowsItsRule :
    (paths.all fun p => ready.pathAdmits p (partBase 0 + 0x50) && decide ((ready.writeReg (asks p) (partBase 0 + 0x50) 7).2 = .ok)) = true ∧
    ready.pathAdmits (.host 0) 0x400F00 = true ∧ (ready.writeReg (asks (.host 0)) 0x400F00 1).2 = .err 5 := by decide +kernel

theorem witness_SideBandRegistersRefuseHosts :
    ([lpeReg 15 0, capReg 2, floorReg 7, 0x30008C, 0x200004, 0x400F00, 0x1E00008, 0x1E00010, 0x1E00014, 0x1E08060, 0x1F00000].all
      (ready.pathAdmits (.host 0))) = true := by decide +kernel

theorem witness_EngineRegisterWrites :
    (let k := 4096 * 15 + 4095
     let had := ready.setSync { ready.sync with taken := [(k, ready.now + 1)] }
     !ready.hadBeat k && had.hadBeat k && (ready.duePackets k).isEmpty && ready.sync.watches.all (fun w => !decide (w.counter = k)) &&
       ready.tablesWf && had.pathAdmits .side (synBase 15 + 4 * 4095) &&
       !bitOf (ready.regN (synHwatch 15)) 30 && bitOf ((withRegs ready [(synHwatch 15, 2 ^ 30)]).regN (synHwatch 15)) 30) = true ∧
    (let off := (scouting 0).putReg (sctReg 0 8) 0
     let fits := fun n ctr => decide (counterRegion ctr = 0) && decide (off.addrReg (sctReg 0 0) % 64 = 0) &&
       match off.regionOwner 0 with | some q => allMem (off.locateAll q (off.addrReg (sctReg 0 0)) (64 * n)) | none => false
     off.pathAdmits .side (sctReg 0 8) && !off.scoutEn 0 && fits 4096 4095 && !fits 1 4096 && (scouting 0).scoutEn 0) = true ∧
    (paths.all fun p =>
      ready.pathAdmits p (synBase 15 + 4 * 4095) && ready.pathAdmits p (synBase 0 + 0x4000) && ready.pathAdmits p (synHwatch 15) &&
        ready.pathAdmits p (sctReg 15 8) && ready.pathAdmits p (dmaBase 15 + 0x400) && ready.pathAdmits p (dmaReg 15 31 0)) = true ∧
    ([ChanState.off, .idle, .running, .parked, .halted, .draining].all fun st =>
      ((onChan { Channel.initial with state := st }).chan 0 4).state = st && !(onChan { Channel.initial with state := st }).keeperHolds 0 4) = true ∧
    (paged.keeperHolds 0 0 && !ready.keeperHolds 15 31) = true ∧
    ((64 : BitVec 7).toNat ≠ 1 ∧ (64 : BitVec 7).toNat ≤ 64 ∧
      ready.allocated 0 - (ready.chan 0 4).alloc + (64 : BitVec 7).toNat ≤ 128 ∧ (ready.chan 0 4).state = .off) := by decide +kernel

theorem witness_KeeperAndPeerWrites :
    (paths.all fun p => ready.pathAdmits p (pgkReg 0 0x2C) && !(ready.keeper 0).callBusy && ready.pathAdmits p (pgkReg 0 0) &&
      !ready.pgkEn 0 && paged.pgkEn 0 && !(ready.keeper 0).scanning && !(ready.keeper 0).closing && paged.pathAdmits p (pgkReg 0 0) &&
      linked.pathAdmits p (peerBase 1)) = true ∧
    (linked.peer 1).link = .up ∧ (ready.peer 1).link ≠ .up := by decide +kernel

/-- The converters of region 15 are off. -/
def idleConv : State := withRegs ready ((List.range 8).map fun k => (convReg 15 k, 0))

theorem witness_PowerAndTelemetryWrites :
    (ready.pathAdmits .side (lpeReg 15 0) && ready.pathAdmits .side (capReg 2) && ready.pathAdmits .side (floorReg 7)) = true ∧
    (let caps := (List.range 3).map ready.capOf
     capsKeep caps ((List.range 8).map ready.floorOf) &&
     !capsKeep ((List.range 3).map fun k => if k = 2 then 400 else ready.capOf k) [1400, 0, 0, 0, 0, 0, 0, 0] &&
     !capsKeep caps [1400, 1400, 0, 0, 0, 0, 0, 0]) = true ∧
    (paths.all fun p => ready.pathAdmits p (0x401000 + 4 * 15) && idleConv.pathAdmits p (tlmReg 15 0xC0) && !idleConv.converting 15 7 &&
        (idleConv.slotNow 15 7).isNone && (idleConv.modTlm 15 fun x => { x with spots := [(7, 0, 0)] }).converting 15 7 &&
      ready.pathAdmits p (tlmReg 0 0xD0) && ready.pathAdmits p 0x403200 && ready.ownsSlot 0 31 && ready.pathAdmits p (sensorReg 1087) &&
      bitOf (ready.clears (sensorReg 1087) (2 ^ 31)) 31) = true ∧
    (quiet.putReg 0x401000 0).requestsAct = true ∧
    (let s : State := { ready with boot := { bootUp with safe := true } }
     s.pathAdmits .side 0x401000 && !(s.putReg 0x401000 0).requestsAct) = true ∧
    ((coresOf 0).any fun c => quiet.railOn c && (quiet.core c).seq.bound && decide (fld 0 (2 * (c % 16)) 2 ≠ 2)) = true ∧
    (let s := { ready with thermal := { ready.thermal with sensors := [(1087, { Sensor.initial with suspect := true })] } }
     (s.sensor 1087).suspect && !(s.sensor 1087).cut) = true ∧
    (let s : State := { ready with boot := { bootUp with coolant := true } }
     s.pathAdmits .side coolReg && s.blockState = 7 && s.boot.recoverOk && s.boot.coolant) = true := by decide +kernel

theorem witness_FaultAndEventWrites :
    (paths.all fun p => ready.mayClear p && ready.pathAdmits p 0x30003C && ready.pathAdmits p pinReg && ready.pathAdmits p (evqBase 0 + 0x7C) &&
      ready.pathAdmits p (evqBase 0 + 0x10) && ready.pathAdmits p (evqBase 0 + 8)) = true ∧
    ready.pathAdmits .side 0x30008C = true ∧ kindSource 331 = true ∧ kindSource 282 = true ∧ placeOk 282 (some 255) = true ∧
    bitOf (tabGet (fun _ => 0#32) ready.marks pinReg).toNat 31 = false ∧
    (let ks := ((bitsOf 32 0x80000001).map fun j => 32 * 10 + j).filter fun j => !reservedSource j
     !ks.isEmpty && !ks.any (fun j => (ready.timed (ready.source j)).hasActed ready.now) && !ready.boot.safe && ready.pins.refclk) = true ∧
    (let s := ready.modEvq 0 fun y => { y with en := true, head := 5, tail := 0xFFFFFFFF }
     (s.evq 0).en && decide (((5 : BitVec 32) - (s.evq 0).tail).toNat ≤ ((s.evq 0).head - (s.evq 0).tail).toNat) && !(ready.evq 0).en) = true ∧
    (ready.pathAdmits .side 0x200004 && !ready.boot.entering && ready.idleRefusal = 0 && decide (quiet.idleRefusal = 2)) = true ∧
    (let s : State := { ready with boot := { bootUp with base := .idle } }
     s.pathAdmits .side 0x200004 && s.boot.base = .idle) = true := by decide +kernel

/-- A launch record of one core: handle 2, energy slot 31 cleared. -/
def launching : State :=
  ((withRegs ready [(partBase 0 + 0x50, storeAddr 3 0 % 2 ^ 32), (partBase 0 + 0x54, storeAddr 3 0 / 2 ^ 32)]).modCore 3 fun x =>
    { x with power := live }).writeMem (storeAddr 3 0)
      (leBytes 8 (2 + 2 ^ 4 + 31 * 2 ^ 5 + 2 ^ 10 + 2 ^ 11) ++ leBytes 24 0 ++ leBytes 8 (3 + 4 * 2 ^ 30))

theorem witness_PartitionWrites :
    (paths.all fun p => launching.pathAdmits p (launchGo 0) && launching.pathAdmits p (partBase 0 + 0x5C)) = true ∧
    (launching.pathAdmits .side 0x101000 && !launching.commit.busy && launching.commitCause = none) = true ∧
    ((withRegs quiet [(stageBase 0 + 4, 1)]).commitCause = some (1, 0)) ∧
    ((List.range 16).any (fun j => (launching.job 0 j).state = .loading) = false) ∧
    (!launching.readWaits (launching.locateAll 0 (launching.launchAddr 0) 32) &&
      !launching.readWaits (launching.locateAll 0 (launching.launchAddr 0 + 32) 8)) = true ∧
    (match launching.readRecord 0 (launching.launchAddr 0) 32 with
      | (some h, u) => match u.readRecord 0 (launching.launchAddr 0 + 32) (8 * fld (recordWord h 0) 11 9) with
        | (some bs, t) => decide (fld (recordWord h 0) 11 9 = 1) && decide (t.launchCause 0 h ((List.range (bs.length / 8)).map (recordWord bs)) = 0)
        | _ => false
      | _ => false) = true := by decide +kernel

def updating : State := ready.modNvm fun n => { n with updStatus := 1, updLen := 448, updCount := 444 }

theorem witness_BootAndUpdateWrites :
    ([0x400F00, 0x1E00008, 0x1E00010, 0x1E00014, 0x1E08060, 0x1F00000].all (ready.pathAdmits .side)) = true ∧
    (ready.blockState = 4 && !ready.jobs.any (fun e => e.2.busy) &&
      !ready.dma.any (fun e => e.2.state = .running || e.2.state = .draining) && ready.busyReason = 0) = true ∧
    ({ ready with boot := { bootUp with hold := true } } : State).blockState = 2 ∧
    (decide (ready.blockState ∉ [0, 1, 3]) && decide (ready.nvm.updStatus ≠ 1) && 262336 % 16 = 0 && 448 % 16 = 0) = true ∧
    (updating.nvm.updStatus = 1 && decide (updating.nvm.updCount + 4 ≤ updating.nvm.updLen) && updating.pathAdmits .side 0x1E00014 &&
      decide (updating.nvm.buffer.length + 4 ≤ 4096)) = true ∧
    (let s := updating.modNvm fun n => { n with updCount := 448 }
     s.nvm.updCount = s.nvm.updLen && !s.nvm.finishing) = true ∧
    (12 : BitVec 4).toNat ≤ 12 ∧ ready.nvm.fuseStatus ≠ 1 ∧ ready.nvm.lock = false ∧
    (let s := ready.setThermal { ready.thermal with sensors := [(1056, ⟨false, true, true, 200, 0, false, 0⟩)] }
     s.pathAdmits .side 0x1E08060 && s.nvmOk && !s.nvm.lock && decide (s.nvm.fuseStatus ≠ 1)) = true ∧
    ready.perturb.unlocked = false ∧ ready.perturb.first = none ∧ ready.now ≤ 3000000 + 2000000 ∧ ready.blockState ∈ [2, 4, 8] := by decide +kernel

/-! ## Loops, regulators, power states, telemetry -/

def atBeat (n : Nat) (s : State) : State := { s with beat := BitVec.ofNat 64 n }

theorem witness_SluiceHoldsItsFraction :
    (quiet.coresWf && quiet.loopsApplied && decide ((quiet.core 3).power.acc < 1024) && (quiet.groupOf 3 = [])) = true ∧
    ((withCore fun x => { x with seq := { x.seq with held := true }, power := { x.power with acc := 1024 } }).holdPending 3) = true ∧
    ((withCore fun x => { x with seq := { x.seq with held := true }, power := { x.power with acc := 1023 } }).holdPending 3) = false := by
  decide +kernel

theorem witness_AllowancesAndOutputs :
    ((withCore fun x => { x with power := { x.power with loops := { LoopOut.full with thm := 512 } } }).sources 3).any
      (fun x => decide (x.2 = 512)) = true ∧
    (withRegs quiet [(lpeReg 0 0x18, 0)]).coef 0 24 = (withRegs quiet [(lpeReg 0 0x18, 0)]).coef (3 / 16) 24 ∧ quiet.coef (3 / 16) 16 ≠ 0 := by
  decide +kernel

theorem witness_LoopsSampleAndApply :
    (let s := atBeat 4000 quiet
     s.now % 2000 = 0 ∧ s.now ≠ 0 ∧ s.power.sampled ≠ s.now + 1) ∧
    (let s := atBeat 4064 quiet
     s.coresWf = true ∧ s.now % 2000 = 64 ∧ s.power.applied ≠ s.now + 1) ∧
    (let s := quiet.modLoop 15 fun x => { x with openSince := some 3000000 }
     (s.loop 15).openSince = some 3000000 ∧ 3000000 + 2000000 ≤ s.now) ∧
    (let h : Hint := ⟨255, 4000000, 500, false, none⟩
     let s := withCore fun x => { x with hints := [h] }
     !h.prep && h.pending && decide (h.issued + 2000 * h.lead ≤ s.now + 2000 * fld (s.regN (lpeReg 0 0x10)) 16 4)) = true ∧
    (let h : Hint := ⟨255, 4000000, 500, true, some 4000000⟩
     h.over 5000000 = true) ∧
    (let s := withRegs (atBeat (781250 * 3) quiet) [(lpeReg 0 0x14, 0x080000)]
     s.now % 200000000 = 781250 * 3 ∧ s.powered 3 = true ∧ (s.core 3).power.vf < s.floorTop 3 ∧ 0 < fld (s.regN (lpeReg 0 0x14)) 16 8 ∧
       (95 : BitVec 8).toNat ≥ 95) := by decide +kernel

/-- Core 3's regulator runs, with shedding enabled, its rail at the set-point. -/
def regulated : State :=
  let s := withRegs (quiet.modVr 3 fun x => { x with state := .run }) [(vrBase 3, 0x1F1F)]
  s.modVr 3 fun x => { x with sensed := s.setUV 3 }

def withVr (f : Vr → Vr) : State := regulated.modVr 3 f

/-- Eight sensors at `u` µV. -/
def inputs (u : Nat) : PwmInput := ⟨List.replicate 8 u, u, 1800000, [], []⟩

theorem witness_RegulatorsRun :
    (let inp := inputs 700000
     let t := (regulated.observe 3 inp).startDue 3
     let u := t.modVr 3 fun y => y.judge inp
     regulated.now % 16 = 0 && decide ((regulated.vr 3).periodAt ≠ regulated.now + 1) && (t.vr 3).running && !(u.vr 3).clamp && (u.vr 3).running &&
       (List.range 8).all (fun p => !bitOf (u.vr 3).lost.toNat p) && (u.vr 3).state = .run &&
       !((((quiet.observe 4 inp).startDue 4)).vr 4).running) = true ∧
    ([fun (x : Vr) => { x with lxsRun := [(7, 4)] }, fun x => { x with senseRun := [(7, 16)] },
      fun x => { x with state := .softStart, starts := 16, followed := 0x7F }].all fun f =>
        let x := (withVr f).vr 3
        x.running && bitOf x.enabled.toNat 7 && (decide (4 ≤ runOf x.lxsRun 7) || decide (16 ≤ runOf x.senseRun 7) ||
          (x.state = .softStart && decide (16 ≤ x.starts) && !bitOf x.followed.toNat 7))) = true ∧
    ((withVr fun x => { x with outs := [900000] }).overShed 3 && !regulated.overShed 3) = true ∧
    (64 ≤ runOf ((withVr fun x => { x with devRun := [(7, 64)] }).vr 3).devRun 7) ∧
    (let s := withVr fun x => { x with target := 700000 }
     let l := sensorsIn (List.replicate 8 600000) (s.excludedOf 3)
     decide (l ≠ []) && decide (Int.ofNat (leastOf l) < (s.vr 3).target - Int.ofNat (20000 + 5000 * fld (s.vrCtrl 3) 16 4))) = true ∧
    ((regulated.vr 3).running && (regulated.vr 3).state = .run && decide ((regulated.vr 3).enabled = 0xFF) && bitOf (regulated.vrCtrl 3) 3 &&
      decide ((regulated.vr 3).lastBal = 0) && (regulated.vr 3).switching.contains 7 && !bitOf (regulated.vr 3).suspect.toNat 7 &&
      regulated.shedEn 3 && decide (1 < (regulated.vr 3).level) && (regulated.vr 3).suspended.isNone &&
      decide ((regulated.vr 3).lastStep + 20000 ≤ regulated.now) && !regulated.hintStands 3 &&
      decide (0 < (regulated.vr 3).level / 2 * fld ((withRegs regulated [(vrBase 3 + 4, 5)]).regN (vrBase 3 + 4)) 0 8 * 100) &&
      !(regulated.vr 3).tripped) = true ∧
    (let s := regulated.modVr 3 fun x => { x with suspended := some 5000000 }
     (s.vr 3).suspended = some 5000000 ∧ 5000000 ≤ s.now) ∧
    (withRegs regulated [(vrBase 3, 0)]).shedEn 3 = false := by decide +kernel

theorem witness_RegulatorAlarmsAct :
    ([6, 7].all fun n =>
      let s := withVr fun x => { x with ocRun := 64, hiccups := List.replicate n 0 }
      (s.vr 3).running && decide (64 ≤ (s.vr 3).ocRun) && ((s.vr 3).hiccups.filter fun b => decide (s.now < b + 20000000)).length = n) = true ∧
    (∀ n, clampTo 4 64 n ≤ 64) ∧
    (let s := quiet.modVr 256 fun x => { x with state := .hiccup, hiccupAt := 4900000 }
     (s.vr 256).state = .hiccup ∧ (s.vr 256).hiccupAt + 100000 ≤ s.now) ∧
    110 ≤ (110 : BitVec 8).toNat ∧ 125 ≤ (125 : BitVec 8).toNat ∧ (regulated.vr 3).otWarn = false ∧
    ((regulated.modVr 3 fun x => { x with otWarn := true }).vr 3).otWarn = true ∧
    ((regulated.vr 3).state = .run ∧ ∀ k < 4, (tabGet stageDefault (regulated.vr 3).stage k).toNat ≤ 105) ∧
    ([true, false].all fun lost =>
      let s := (withVr fun x => { x with state := .hiccup, hiccupAt := 4900000 }).modPower 3 fun p => { p with storeLost := lost }
      let t := s.softStart 3 (s.setUV 3) false
      (s.vr 3).state = .hiccup && (t.core 3).power.storeLost = lost && t.railOn 3) = true ∧
    ([(1, false), (3, false), (3, true)].all fun k =>
      let s := (withVr fun x => { x with farSince := [(7, 4998001)], remoteSince := if k.2 then 4998001 else 0 }).modPower 3 fun q =>
        { q with sense := true, excluded := BitVec.ofNat 8 k.1 }
      (s.vr 3).running && !bitOf (s.core 3).power.excluded.toNat 7 && lasted s.now (runOf (s.vr 3).farSince 7) 2000 && s.remoteFails 3 = k.2 &&
        (s.core 3).power.sense && (s.core 3).power.senseNext.isNone &&
        (popCount 8 ((s.core 3).power.excluded ||| phaseBit 7).toNat = 3) = (k.1 = 3)) = true ∧
    ([2, 3].all fun n => popCount 8 (2 ^ n - 1) = n) = true ∧
    (let s := withVr fun x => { x with lowSince := 4999901 }
     s.railOn 3 && !(s.core 3).power.brownOut && lasted s.now (s.vr 3).lowSince 100) = true := by
  refine ⟨by decide +kernel, fun n => ?_, by decide +kernel⟩
  unfold clampTo
  split
  · omega
  · split <;> omega

theorem witness_PowerStatesMove :
    ([(PowerState.ramping, true), (.on, false)].all fun k =>
      let s := ((regulated.modVr 2 fun x => { x with state := .run, sensed := (regulated.vr 3).sensed + 10000 }).modPower 2 fun p =>
        { p with state := .on }).modPower 3 fun p => { p with state := k.1, tying := some 2, fell := k.2 }
      let u : State := { s with boot := { s.boot with base := .config } }
      (s.core 3).power.tying = some 2 && s.pstate 2 = .on && (s.vr 2).state = .run && (s.core 3).power.fell = k.2 &&
        decide (natDist (s.vr 3).sensed (s.vr 2).sensed ≤ 10000) && !u.requestsAct && !bitOf 0 0) = true ∧
    (let s := quiet.modPower 3 fun p => { p with tying := some 4 }
     (s.core 3).power.tying = some 4 ∧ (s.vr 4).state ≠ .run) ∧
    (let s := withCore fun x => { x with power := { x.power with state := .transit, goal := .retain } }
     (s.core 3).power.state = .transit ∧ (s.core 3).power.goal = .retain ∧
       ({ s with boot := { s.boot with base := .config } }).requestsAct = false) ∧
    (let s := quiet.modLoop 15 fun x => { x with pendingUp := some (4600000, 1) }
     s.grantable 15 = true ∧ s.serviceOn 15 = true ∧ (s.loop 15).pendingUp = some (4600000, 1) ∧ (s.loop 15).ramping = none ∧
       4600000 + 400000 ≤ s.now) ∧
    (let s := (quiet.modLoop 0 fun x => { x with ramping := some (4800000, 8) }).modPower 3 fun p => { p with state := .ramping, goal := .on }
     (s.loop 0).ramping = some (4800000, 8) ∧ s.pstate 3 = .ramping ∧ bitOf (8 : BitVec 16).toNat 3 = true ∧ 4800000 + 200000 ≤ s.now ∧
       s.railNear 3 10000 = false ∧ ((regulated.modLoop 0 fun x => { x with ramping := some (4800000, 8) }).railNear 3 10000 = true) ∧
       (let s := (regulated.modLoop 0 fun x => { x with ramping := some (4800000, 8) }).modPower 3 fun p => { p with state := .ramping, goal := .on }
        let u : State := { s with boot := { s.boot with base := .config } }
        u.coresWf = true ∧ u.now % 2000 = 0 ∧ u.requestsAct = false ∧ u.pstate 3 = .ramping ∧ u.railNear 3 10000 = true ∧ (u.vr 256).state ≠ .softStart ∧
        (coresOf 0).all (fun c => decide ((u.core c).power.partner = none) && decide ((u.core c).power.goal ≠ .tied) &&
          !(u.core c).power.zeroing) = true)) := by decide +kernel

theorem witness_TelemetryAndSensorsAct :
    ([(4999877, 38), (4999876, 38), (4999876, 39)].all fun k =>
      let s := quiet.modTlm 15 fun x => { x with slots := [(7, some k)] }
      s.serviceOn 15 && ((s.tlmR 15).spots.find? (fun p => p.1 = 7)).isNone && s.slotNow 15 7 = some (k.1, 0, k.2) &&
        decide (k.1 + 124 ≤ s.now) = decide (k.1 = 4999876)) = true ∧
    (let s := quiet.modTlm 15 fun y => { y with spots := [(7, 3, 0)] }
     s.serviceOn 15 && decide ((s.tlmR 15).spots.find? (fun p => p.1 = 7) = some (7, 3, 0)) && decide (0 + 124 ≤ s.now)) = true ∧
    (let near := quiet.modVr 256 fun x => { x with nearSince := 4960001 }
     let used := near.modTlm 0 fun x => { x with settled := true }
     let pinned := (withRegs quiet [(tlmReg 0 0, 1)]).modPins fun p =>
       { p with vrefUV := 1150000, vrefSince := since quiet.now 4800001 (decide (1150000 ≤ 1150000) && decide (1150000 ≤ 1250000)) }
     let low := quiet.modTlm 0 fun x => { x with refLow := 3000001 }
     near.serviceOn 0 && !near.refUsable 0 && near.refGood 0 && used.refUsable 0 && !quiet.refGood 0 && pinned.refGood 0 && !pinned.refUsable 0 &&
       !low.refUsable 0 && lasted low.now (low.tlmR 0).refLow 2000000) = true ∧
    (let s := quiet.modChanT 0 38 fun x => { x with stale := 16 }
     (s.tlmChan 0 38).stale = 16 ∧ s.domainOn 0 38 = true) ∧
    (let s := (atBeat 6000000 quiet).setPower { quiet.power with sampled := 6000001 }
     s.now % 2000000 = 0 ∧ s.power.sampled = s.now + 1 ∧ s.power.windowed ≠ s.now + 1) ∧
    ([15, 1055, 1059].all fun n => (quiet.modVr 271 fun x => { x with live := true }).sensorOn n && (quiet.sensor n).convAt = 0) = true ∧ quiet.pins.coolantOk = true ∧
    (let s := quiet.modSensor 1055 fun x => { x with suspect := true, convAt := 4999001 }
     let t := (s.modSensor 1055 fun x => { x with valid := true, fresh := true, temp := 944, convAt := s.now + 1 }).judge 1055
     let u := (quiet.modSensor 1059 fun x => { x with valid := true, fresh := true, temp := 944, convAt := s.now + 1 }).judge 1059
     decide ((s.sensor 1055).convAt + 1000 ≤ s.now + 1) && !t.inUse 1055 && u.inUse 1059 && decide (944 ≤ (944 : BitVec 16).toInt)) = true ∧
    (let s := quiet.modPins fun p => { p with coolantOk := false }
     s.pins.stbyOk = true ∧ s.pins.coolantOk = false ∧ s.boot.lossSeen = false ∧ s.boot.sinceCoolant + 2000 ≤ s.now) ∧
    (let s := (atBeat 2000000000 quiet).modBoot fun b => { b with recoverOk := false }
     s.pins.coolantOk = true ∧ s.boot.recoverOk = false ∧ s.boot.sinceCoolant + 2000000000 ≤ s.now) := by decide +kernel

/-! ## Jobs, faults, events, reset, boot, side-band -/

theorem witness_JobsStartAndTablesApply :
    (let s := (quiet.modCore 3 fun x => { x with seq := .idle }).modJob 0 0 fun y => { y with state := .loading }
     let x := s.job 0 0
     let cs := x.cores.map fun e => e.core.val
     x.state = .loading && s.launchOpen 0 && !cs.any (fun c => !s.ownsRegion 0 (regionOf c)) && decide (s.coresCause cs = 0) && s.coresWf &&
       decide (cs.Nodup) && decide (cs = [3])) = true ∧
    (let s := (quiet.modBoot fun b => { b with coolant := true }).modJob 0 0 fun y => { y with state := .loading }
     (s.job 0 0).state = .loading ∧ s.launchOpen 0 = false) ∧
    (let s := quiet.setCommit { quiet.commit with busy := true, doneAt := 5000000 }
     s.commit.busy = true ∧ s.commit.doneAt ≤ s.now) := by decide +kernel

theorem witness_FaultReportsAct :
    quiet.locked = true ∧ kindSource 272 = true ∧ placeOk 275 none = true ∧ kindSource 331 = true ∧ placeOk 331 none = true ∧
    placeOk 280 (some 255) = true ∧ quiet.faults.broken.any (fun e => e = (275, none)) = false ∧
    (quiet.sensor 1087).cut = false ∧ (quiet.tlmChan 15 39).cut = false ∧
    (let s := quiet.modCopies fun f => f.put 275 { f.src 275 with closes := some 5000000 }
     (s.source 275).closes = some 5000000 ∧ 5000000 ≤ s.now) ∧
    (let s := quiet.modFaults fun f => { f with pulse := true, pulseEnd := 5000000 }
     s.faults.pulse = true ∧ s.faults.pulseEnd ≤ s.now ∧ s.faults.one.hold = false ∧
       (s.modCopies fun f => { f with hold := true }).faults.one.hold = true) ∧
    (let x := quiet.source 282
     let l := [4000000, 4000001, 4000000 + windowBeats x.w - 1]
     x.closes = none ∧ x.promoted = false ∧ x.last = none ∧ x.w ≠ 0 ∧ 1 ≤ x.n ∧ x.n ≤ 255 ∧ l.Pairwise (· < ·) ∧
       x.cleared = none ∧ ∀ b ∈ l, b < l.headD 0 + windowBeats x.w) := by decide +kernel

/-- Partition 0's queue runs with a ring of 64 records in the host window, and `f` done to it. -/
def queued (f : EventPart → EventPart) : State :=
  (withRegs quiet [(0x200000, 1), (partBase 0 + 8, 0x10000), (evqBase 0 + 4, 0x800), (evqBase 0 + 0x1C, 0x800)]).modEvq 0 fun x => f { x with en := true }

def eventRec : EventRec :=
  { src := 275, index := 0, selected := 4999996, withdrawn := none, written := false, complete := false, addr := 0, bytes := [],
    tid := none, took := (0, 0, 0, 0) }

theorem witness_EventQueuesAct :
    (quiet.pins.stbyOk && quiet.mayArrive 0 275 4 && (queued id).mayArrive 0 352 0) = true ∧
    (Pending.clear.pend = false ∧ ({ Pending.clear with pend := true } : Pending).last = none) ∧
    (let s := queued fun x => { x with pending := [(275, { Pending.clear with pend := true, was := (true, 1, 2, 0) })] }
     let full := s.modEvq 0 fun x => { x with head := 64 }
     s.recorderOn 0 && decide (s.selectable 0 = [275]) && s.hasRoom 0 && !full.hasRoom 0 && full.recorderOn 0 && !(full.evq 0).fullSent &&
       decide ((s.evq 0).lastSel = none)) = true ∧
    (let s := queued fun x => { x with recs := [eventRec] }
     decide ((s.evq 0).recs.find? (fun r => !r.written) = some eventRec) && decide (eventRec.selected + 4 ≤ s.now) && s.hostOpen &&
       decide (s.locate 0 (s.ringAddr 0 + 0) = .host)) = true ∧
    (let r := { eventRec with written := true, addr := storeAddr 3 0x300000, bytes := List.replicate 16 1 }
     let s := queued fun x => { x with recs := [r] }
     decide ((s.evq 0).recs.find? (fun r => r.written && !r.complete && !(s.recordReply r = some none)) = some r) &&
       !s.waitsFor (s.locateAll 0 r.addr 16) && allMem (s.locateAll 0 r.addr 16) && !s.boot.grave && !(s.writePieces none (some 0) (s.locateAll 0 r.addr 16) r.bytes).2) = true ∧
    ([some [], none].all fun (a : Option (List Byte)) =>
      let r := { eventRec with written := true, tid := some 7 }
      let s := (queued fun x => { x with recs := [r] }).modHost fun h =>
        { h with outbound := [⟨7, 9, 0, false, 0x80000000000, 16, [], .event 0 0, some 0, some a⟩] }
      decide ((s.evq 0).recs.find? (fun r => r.written && !r.complete && !(s.recordReply r = some none)) = some r) &&
        decide (s.recordReply r = some (some a.isSome))) = true ∧
    (let s := queued fun x => { x with head := 1 }
     let a := s.addrReg (evqBase 0 + 0x18)
     s.messageDue 0 && s.hostOpen && decide (s.locate 0 a = .host) && decide (s.locate 0 (a + 3) = .host) &&
       (withRegs s [(evqBase 0 + 0x1C, 0)]).messageDue 0) = true ∧
    (withRegs quiet [(evqBase 0 + 0x1C, 0)]).locate 0 ((withRegs quiet [(evqBase 0 + 0x1C, 0)]).addrReg (evqBase 0 + 0x18)) ≠ .host ∧
    (let s := (quiet.modPower 3 fun p => { p with state := .retain }).modBoot fun b => { b with entering := true }
     s.boot.entering && s.allDown && decide (s.boot.base = .ready)) = true := by decide +kernel

/-- The always-on domain waits for its status inputs, all low. -/
def waits (n : Nat) : State :=
  atBeat n { State.reset with pins := { State.reset.pins with stbyOk := true }, boot := { Boot.initial with step := .waitPillar } }

theorem witness_StatusInputsAreTaken :
    State.reset.pins.stbyOk = false ∧
    (let s : State := { State.reset with
       pins := { State.reset.pins with stbyOk := true }, boot := { Boot.initial with step := .refLock } }
     s.pins.stbyOk = true ∧ s.boot.step = .refLock ∧ s.pins.refclk = true) ∧
    ([waits 2000000, waits 1999999].all fun s =>
      !s.pins.pillarOk && !s.pins.pillarSeen && s.locked) = true ∧ (waits 2000000).now = 2000000 ∧
    (let s := (waits 1000000).modPins fun p => { p with pillarOk := true }
     s.pins.pillarOk && !s.pins.pillarSeen && s.locked && decide (1000000 ≤ s.now)) = true ∧
    ([waits 1200000, waits 1199999].all fun u =>
      let s := u.modPins fun p => { p with pillarOk := true, pillarSeen := true, pillarAt := 1000000 }
      !s.pins.pwrGood && !s.pins.pwrSeen && s.pins.pillarSeen) = true ∧
    ([waits 1400000, waits 1399999].all fun u =>
      let s := u.modPins fun p => { p with pillarOk := true, pillarSeen := true, pwrGood := true, pwrSeen := true, pwrAt := 1200000 }
      !s.pins.rstN && !s.pins.rstSeen && s.pins.pwrSeen && s.boot.rebootAt.isNone) = true ∧
    (let s := ready.modBoot fun b => { b with dpd := true, dpdLow := true, step := .waitRelease }
     s.boot.dpd && s.boot.dpdLow && s.stepFour) = true := by decide +kernel

/-! ### A signed image

The image holds its two tier parameters and no other record. The key and the signature were made outside the model, with a
secret number chosen for this test. -/

def image : List Byte :=
  leBytes 256 0x48000000200000010800000013615bbfe00000010000000a0000000080000000000000000000000a0000000070000000000000000000000a0000000060000000000000000000000a0000000050000000000000000000000a0000000040000000000000000000000a0000000030000000000000000000000a0000000020000000000000000000000a00000000100000000000000000000000035ca15c612345678000001000008000243325351

def publicKey : List Byte :=
  (leBytes 96 0xbfd152465458e5b9f1a903eafef03095ebfd52c5f9ea97be74de9194355fcfb40ec097315adf6afdefba21f44b625b4817058eff9a1ad175a4675e9c730cb028ec76aec544f7a56d58164d8cfc0402b489c4e74c918dc3a77f5c219d31b8e245).reverse

def signature : List Byte :=
  (leBytes 96 0xf05683dcb6ed6d477878ac10380bd34e33353417283a5ffcff93efdc94c4687a3db94fc9b306d32a819239fbeea4045261ecffac971035ec8fd4ba549fddd00dc5dacf65b717f6508a566efea027459330b2f1ae91069364f2c9134efc5c85fc).reverse

def signed : List Byte := image ++ publicKey ++ signature

/-- The reset sequence stands at a step. -/
def atBoot (t : BootStep) : State :=
  { ready with
    boot := { Boot.initial with base := .config, step := t, configured := true, image := signed, tiers := 16, wtiers := 4 }
    nvm := { Nvm.initial with keyHash := sha384 publicKey } }

set_option maxRecDepth 100000 in
/-- The example message "abc" of FIPS 180-4. -/
theorem test_sha384_abc :
    sha384 [0x61, 0x62, 0x63] =
      0xcb00753f45a35e8bb5a03d699ac65007272c32ab0eded1631a8b605a43ff5bed8086072ba1e7cc2358baeca134c825a7 := by
  decide +kernel

set_option maxRecDepth 100000 in
/-- R476, R477: the signed image passes every check; with another digest its signature does not verify. -/
theorem test_signed_image :
    readCheck signed = (0, 0xFF) ∧ verifyCheck (sha384 publicKey) signed = 0 ∧
      ecdsaOk publicKey signature (sha384 image + 1) = false := by decide +kernel

set_option maxRecDepth 100000 in
/-- The clauses under the outcome of loadImage, and under SAFE or GRAVE after training, name between them every outcome. -/
theorem witness_BootSequenceAdvances :
    (atBoot .sfdp).atStep .sfdp = true ∧ (atBoot .imageRead).atStep .imageRead = true ∧ imageShort signed = false ∧
    (readCheck signed).1 = 0 ∧ imageShort (List.replicate 160 0) = false ∧ (readCheck (List.replicate 160 0)).1 = 2 ∧
    (atBoot .verify).atStep .verify = true ∧ verifyCheck (atBoot .verify).nvm.keyHash (atBoot .verify).boot.image = 0 ∧
    verifyCheck 0 signed = 5 ∧
    (let s := (atBoot .train).modBoot fun b => { b with base := .train }
     s.boot.step = .train && s.boot.base = .train && !s.boot.safe && !s.boot.grave && !s.boot.hold && s.pins.refclk) = true := by
  decide +kernel

theorem witness_LossesAndResetsAct :
    ((true && quiet.pins.pillarOk) || (false && quiet.pins.pwrGood)) = true ∧ quiet.boot.dpd = false ∧ quiet.blockState ≠ 0 ∧
    (let s := quiet.modLoop 15 fun x => { x with vpilBad := 10 }
     10 ≤ (s.loop 15).vpilBad ∧ s.pins.pillarOk = true ∧ s.pins.pillarSeen = true) ∧
    quiet.pins.refclk = true ∧ quiet.locked = true ∧ quiet.pins.rstN = true ∧
    (quiet.modPins fun p => { p with refclk := false }).pins.refclk = false ∧
    (let s := quiet.modBoot fun b => { b with serviceUp := 0 }
     s.pins.stbyOk = true ∧ s.boot.serviceUp = 0 ∧ s.mem.wf = true) := by decide +kernel

theorem witness_BeatsAndEpochs :
    quiet.pins.refclk = true ∧ quiet.locked = true ∧ (quiet.modPins fun p => { p with refclk := false }).pins.refclk = false ∧
    ([quiet, atBeat 5000064 quiet, quiet.modSeq 3 fun x => { x with slots := 15 }].all fun s =>
      !s.beatDone) = true ∧ (atBeat 5000001 (quiet.modSeq 3 fun x => { x with held := true })).beatDone = true ∧
    ([(5000005, false, 0), (5000006, false, 4999961), (5000008, true, 0)].all fun k =>
      let s := quiet.modBoot fun b => { b with epochLock := true, epochAt := k.1 + 1 - 1998000, epochSeen := k.2.2 }
      let marked := s.modBoot fun b => { b with epochMark := some 5000000, epochAt := if k.2.1 then 5000001 - 1997999 else 5000001 - 1998000 }
      s.locked && s.boot.epochMark.isNone && (s.boot.epochSeen = 0 || decide (s.boot.epochSeen + 39 ≤ s.now)) && s.pins.refclk &&
        ([5000005, 5000006, 5000007].any fun m => s.edgeEarly m = k.2.1) && marked.edgeEarly marked.now = k.2.1 &&
        marked.boot.epochMark = some marked.now && !bitOf (s.regN 0x400F00) 0 && bitOf ((withRegs s [(0x400F00, 1)]).regN 0x400F00) 0) = true ∧
    (let s := quiet.modBoot fun b => { b with epochLock := true, epochAt := 1 }
     s.boot.epochLock = true ∧ s.sinceEdge = some 5000000 ∧ s.regN 0x400F08 ≤ 5000000) := by decide +kernel

theorem witness_FlashAndFusesEnd :
    ([FlashJob.erasing, .programming, .verifying].all fun j =>
      let s := (atBeat 200000000 quiet).modNvm fun n => { n with job := j }
      decide (s.nvm.job = j) && decide (s.nvm.jobAt + 200000000 ≤ s.now)) = true ∧
    ([0, 11, 12].all fun w =>
      let s := quiet.modNvm fun n => { n with fuseStatus := 1, fuseWord := w }
      decide (s.nvm.fuseStatus = 1) && decide (s.nvm.fuseWord = w)) = true ∧ (0 : BitVec 384) &&& ~~~(fuseBits 0 0) = 0 := by decide +kernel

theorem witness_SideBandAnswers :
    ready.sideOpen = true ∧ ready.side.da = 0 ∧
    (let s := ready.modSide fun x => { x with i3c := true, da := 9, ibiOn := true, waiting := 1 }
     s.sideOpen && s.side.i3c && decide (s.side.da ≠ 0) && s.side.ibiOn && decide (0 < s.side.waiting)) = true ∧
    maxOf ready.temperatures = none ∧
    (maxOf (quiet.setThermal { quiet.thermal with coreT := [(3, some 400)] }).temperatures).isSome = true ∧
    bankRefused .side 0x1FFFFFC = false ∧ ready.blockState ≠ 6 ∧ (ready.pairAt 0x30).isSome = true ∧
    (ready.writeReg ⟨.side, some 0⟩ (0x300080) 0).2 = .ok := by decide +kernel

theorem witness_StepKeepsTables :
    (let s : State := { quiet with pending := [.coolantOkFall] }
     s.tablesWf && match step s with | .next t => t.tablesWf && decide (t.pending = []) | _ => false) = true := by decide +kernel

theorem witness_StepKeepsFusesAndLatches :
    (let s : State := { quiet with pending := [.blockBeat, .powerCycle], boot := { quiet.boot with grave := true, trip := true }
                                   nvm := { Nvm.initial with keyHash := 1, lock := true } }
     s.pending.head? = some .blockBeat ∧ Instr.blockBeat ≠ .powerCycle ∧ Instr.blockBeat ≠ .vstbyLow ∧ s.boot.grave = true ∧
       s.boot.trip = true ∧ s.nvm.keyHash.getLsbD 0 = true ∧ s.nvm.lock = true) ∧
    (match step ({ quiet with pending := [.blockBeat], boot := { quiet.boot with trip := true } } : State) with
      | .next t => t.boot.trip
      | _ => false) = true := by decide +kernel

end Sys2Proof.Tests
end

section
/-! SUPPORT. What every command keeps: the facts of `Keeps` about the operations (Laws/Keeps.lean and after), put together for each
row of the operation table. A power cycle alone keeps less (R46): the latches of GRAVE and of a thermal trip are cleared. -/

namespace Sys2Proof.Machine

open State

/-- The command gives a next state, and that state keeps what `z` had. -/
def KeepsNext (z : State) (o : Host.Outcome State Fault Refusal) : Prop := ∃ t, o = .next t ∧ Keeps z t

theorem KeepsNext.of {z t : State} (h : Keeps z t) : KeepsNext z (.next t) := ⟨t, rfl, h⟩

/-- A row that is one register write keeps what its path's write keeps. -/
theorem KeepsNext.path (s : State) (p : Path) (o v : Nat) : KeepsNext s (.next (s.pathWrite p o v)) :=
  .of (pathWrite_keeps s p o v (.refl s))

/-- A slot row keeps what its effect keeps. -/
theorem KeepsNext.slot (s : State) (c : Nat) (i : SlotName) (op : Nat) {effect : Nat → State → State}
    (hf : ∀ w t, Keeps s t → Keeps s (effect w t)) : KeepsNext s (.next (s.issueSlot c i op effect)) :=
  .of (issueSlot_keeps s c i op effect (.refl s) hf)

/-- A common command of the side-band keeps what its answer keeps. -/
theorem KeepsNext.ccc (s : State) {f : State → State} (hf : ∀ t, Keeps s t → Keeps s (f t)) : KeepsNext s (.next (s.ccc f)) :=
  .of (ccc_keeps s f (.refl s) hf)

/-- A message of the side-band keeps what its answer keeps. -/
theorem KeepsNext.side (s : State) {f : State → State} (hf : ∀ t, Keeps s t → Keeps s (f t)) :
    KeepsNext s (.next (s.onSide f)) :=
  .of (onSide_keeps s f (.refl s) hf)

/-! ## Tier columns -/

theorem execNbRecordWrite_keeps (path : Path) (col : CoreId) (data : List Byte) (s : State) :
    KeepsNext s (execNbRecordWrite path col data s) := by
  refine .of ?_
  split
  · exact keeps_ite (nbArrive_keeps _ _ _ _ _ _ (.refl _)) (.refl _)
  · exact .refl _

theorem execNbSequenceStart_keeps (col : CoreId) (s : State) : KeepsNext s (execNbSequenceStart col s) := by
  refine .of (keeps_ite ?_ (.refl _))
  split
  · exact .refl _
  · exact startSlice_keeps _ _ _ (loadSequence_keeps _ _ _ (modColumn_keeps _ _ _ (.refl _)))

theorem execNbSliceEnd_keeps (col : CoreId) (s : State) : KeepsNext s (execNbSliceEnd col s) := by
  refine .of (keeps_ite (.refl _) ?_)
  split
  · exact .refl _
  · refine keeps_ite (.refl _) ?_
    split
    · exact nbUncorrectable_keeps _ _ _ _ (.refl _)
    · exact keeps_ite (drive_keeps _ _ _ _ (abandonSequence_keeps _ _ _ (.refl _))) (endSlice_keeps _ _ _ _ (.refl _))

theorem execNbOverrun_keeps (col : CoreId) (s : State) : KeepsNext s (execNbOverrun col s) := by
  refine .of (keeps_ite (.refl _) ?_)
  split
  · exact .refl _
  · exact keeps_ite (.refl _) (raise_keeps _ _ (drive_keeps _ _ _ _ (abandonSequence_keeps _ _ _ (.refl _))))

theorem execNbSequenceDone_keeps (col : CoreId) (s : State) : KeepsNext s (execNbSequenceDone col s) := by
  refine .of (keeps_ite (.refl _) ?_)
  split
  · exact .refl _
  · exact payRefs_keeps _ _ _ (modTier_keeps _ _ _ _ (modColumn_keeps _ _ _ (nbStore_keeps _ _ _ _ (.refl _))))

theorem execAct_keeps (col : CoreId) (pos bank : BitVec 5) (row : BitVec 11) (s : State) :
    KeepsNext s (execAct col pos bank row s) :=
  .of (tierCommand_keeps _ _ _ _ _ (.refl _) (fun _ _ ht => setRow_keeps _ _ _ _ _ ht))

theorem execRd_keeps (col : CoreId) (pos bank : BitVec 5) (burst : BitVec 3) (auto : Bool) (s : State) :
    KeepsNext s (execRd col pos bank burst auto s) := by
  refine .of (contend_keeps _ _ _ (tierCommand_keeps _ _ _ _ _ (.refl _) (fun _ _ ht => ?_)))
  extract_lets v
  have hv : Keeps s v := by
    dsimp only [v]
    split
    · exact pinBurst_keeps _ _ _ _ ht
    · split
      · exact pinBurst_keeps _ _ _ _ ht
      · exact pinOpen_keeps _ _ ht
    · exact pinOpen_keeps _ _ ht
  exact keeps_ite (setRow_keeps _ _ _ _ _ hv) hv

theorem execWr_keeps (col : CoreId) (pos bank : BitVec 5) (burst : BitVec 3) (auto : Bool) (sent : Burst) (s : State) :
    KeepsNext s (execWr col pos bank burst auto sent s) := by
  refine .of (keeps_ite (.refl _) (tierCommand_keeps _ _ _ _ _ (.refl _) (fun _ _ ht => ?_)))
  extract_lets v
  have hv : Keeps s v := by
    dsimp only [v]
    split
    · exact writeBurst_keeps _ _ _ _ ht
    · exact modTier_keeps _ _ _ _ ht
    · exact ht
  exact pinBurst_keeps _ _ _ _ (keeps_ite (setRow_keeps _ _ _ _ _ hv) hv)

theorem execPre_keeps (col : CoreId) (pos bank : BitVec 5) (all : Bool) (s : State) :
    KeepsNext s (execPre col pos bank all s) :=
  .of (tierCommand_keeps _ _ _ _ _ (.refl _) (fun _ _ ht => keeps_ite (modTier_keeps _ _ _ _ ht) (setRow_keeps _ _ _ _ _ ht)))

theorem execRef_keeps (col : CoreId) (pos : BitVec 5) (s : State) : KeepsNext s (execRef col pos s) :=
  .of (tierCommand_keeps _ _ _ _ _ (.refl _) (fun _ _ ht => modTier_keeps _ _ _ _ (issueRefs_keeps _ _ _ _ ht)))

theorem execSre_keeps (col : CoreId) (pos : BitVec 5) (s : State) : KeepsNext s (execSre col pos s) :=
  .of (tierCommand_keeps _ _ _ _ _ (.refl _) (fun _ _ ht => modTier_keeps _ _ _ _ ht))

theorem execSrx_keeps (col : CoreId) (pos : BitVec 5) (s : State) : KeepsNext s (execSrx col pos s) :=
  .of (keeps_ite (each_keeps _ _ _ (drive_keeps _ _ _ _ (modColumn_keeps _ _ _ (.refl _)))
    (fun _ _ ht => modTier_keeps _ _ _ _ ht)) (.refl _))

theorem execMrr_keeps (col : CoreId) (pos : BitVec 5) (reg : BitVec 4) (s : State) : KeepsNext s (execMrr col pos reg s) :=
  .of (contend_keeps _ _ _ (tierCommand_keeps _ _ _ _ _ (.refl _) (fun _ _ ht => pinValue_keeps _ _ _ ht)))

theorem execMrw_keeps (col : CoreId) (pos : BitVec 5) (reg : BitVec 4) (value : BitVec 32) (s : State) :
    KeepsNext s (execMrw col pos reg value s) :=
  .of (tierCommand_keeps _ _ _ _ _ (.refl _) (fun _ _ ht => modTier_keeps _ _ _ _ ht))

theorem execNbl_keeps (col : CoreId) (pos : BitVec 5) (k : BitVec 2) (value : BitVec 64) (s : State) :
    KeepsNext s (execNbl col pos k value s) :=
  .of (tierCommand_keeps _ _ _ _ _ (.refl _) (fun _ _ ht => keeps_ite (modTier_keeps _ _ _ _ ht) ht))

theorem execNbgo_keeps (col : CoreId) (pos : BitVec 5) (units : BitVec 17) (s : State) :
    KeepsNext s (execNbgo col pos units s) :=
  .of (tierCommand_keeps _ _ _ _ _ (.refl _) (fun _ _ ht => keeps_ite (nbgoAt_keeps _ _ _ _ ht) ht))

theorem execNbs_keeps (col : CoreId) (pos : BitVec 5) (s : State) : KeepsNext s (execNbs col pos s) :=
  .of (contend_keeps _ _ _ (tierCommand_keeps _ _ _ _ _ (.refl _) (fun _ _ ht => keeps_ite (pinValue_keeps _ _ _ ht) ht)))

theorem execNba_keeps (col : CoreId) (pos : BitVec 5) (s : State) : KeepsNext s (execNba col pos s) := by
  refine .of (tierCommand_keeps _ _ _ _ _ (.refl _) (fun _ _ ht => ?_))
  split
  · exact keeps_ite (abandonSequence_keeps _ _ _ ht) ht
  · exact modTier_keeps _ _ _ _ ht

theorem execTierCommandReject_keeps (col : CoreId) (packet : BitVec 96) (s : State) :
    KeepsNext s (execTierCommandReject col packet s) :=
  .of (keeps_ite (modColumn_keeps _ _ _ (.refl _)) (.refl _))

theorem execRefreshDue_keeps (col : CoreId) (tier : Fin 20) (s : State) : KeepsNext s (execRefreshDue col tier s) := by
  refine .of (keeps_ite (.refl _) ?_)
  extract_lets x busy t
  have ht : Keeps s t := modTier_keeps _ _ _ _ (.refl _)
  exact keeps_ite (modTier_keeps _ _ _ _ ht) (issueRefs_keeps _ _ _ _ (drive_keeps _ _ _ _ ht))

theorem execTierTempFrame_keeps (col : CoreId) (temp : BitVec 8) (s : State) : KeepsNext s (execTierTempFrame col temp s) :=
  .of (persistOff_keeps _ _ _ (modColumn_keeps _ _ _ (.refl _)))

theorem execColumnCool_keeps (col : CoreId) (s : State) : KeepsNext s (execColumnCool col s) := by
  refine .of ?_
  dsimp only
  split
  · exact keeps_ite (modColumn_keeps _ _ _ (.refl _)) (.refl _)
  · exact .refl _

theorem execTierTempLost_keeps (col : CoreId) (s : State) : KeepsNext s (execTierTempLost col s) :=
  .of (keeps_ite (raiseCore_keeps _ _ _ _ (persistOn_keeps _ _ _ (modColumn_keeps _ _ _ (.refl _)))) (.refl _))

/-! ## Loads, stores and fences -/

theorem execGroupStoreLanding_keeps (core : CoreId) (s : State) : KeepsNext s (execGroupStoreLanding core s) :=
  .of (keeps_ite (commitDue_keeps _ _ _ (.refl _)) (commitWhere_keeps _ _ _ (.refl _)))

theorem execLoadComplete_keeps (core : CoreId) (op : Nat) (s : State) : KeepsNext s (execLoadComplete core op s) := by
  refine .of ?_
  split
  · exact .refl _
  · split
    · exact keeps_ite (finishLoad_keeps _ _ _ (.refl _)) (.refl _)
    · exact keeps_ite (finishLoad_keeps _ _ _ (.refl _)) (.refl _)
    · exact .refl _

theorem execStoreComplete_keeps (core : CoreId) (op : Nat) (s : State) : KeepsNext s (execStoreComplete core op s) := by
  refine .of ?_
  split
  · exact .refl _
  · split
    · exact keeps_ite (finishStore_keeps _ _ _ _ (.refl _)) (.refl _)
    · refine keeps_ite ?_ (.refl _)
      extract_lets t
      have ht : Keeps s t := modColumn_keeps _ _ _ (.refl _)
      exact keeps_ite (opRefused_keeps _ _ _ ht) (completeOp_keeps _ _ _ ht)
    · exact .refl _

theorem execFenceComplete_keeps (core : CoreId) (op : Nat) (s : State) : KeepsNext s (execFenceComplete core op s) := by
  refine .of ?_
  split
  · exact .refl _
  · split
    · split
      · exact keeps_ite (completeOp_keeps _ _ _ (.refl _)) (.refl _)
      · exact .refl _
    · exact .refl _

/-! ## Sync network -/

theorem execSignalArrival_keeps (counter : Fin 65536) (s : State) : KeepsNext s (execSignalArrival counter s) :=
  .of (counterArrival_keeps _ _ _ (.refl _))

theorem execWatchRegistrationArrival_keeps (counter : Fin 65536) (s : State) :
    KeepsNext s (execWatchRegistrationArrival counter s) :=
  .of (counterArrival_keeps _ _ _ (.refl _))

theorem execWatchCancelArrival_keeps (counter : Fin 65536) (s : State) : KeepsNext s (execWatchCancelArrival counter s) :=
  .of (counterArrival_keeps _ _ _ (.refl _))

theorem execNotificationArrival_keeps (core : CoreId) (slot : Fin 64) (s : State) :
    KeepsNext s (execNotificationArrival core slot s) := by
  refine .of ?_
  split
  · dsimp only
    split
    · exact addField_keeps _ _ _ _ _ (setSync_keeps _ _ (.refl _) id)
    · exact modCore_keeps _ _ _ (setSync_keeps _ _ (.refl _) id)
  · exact .refl _

theorem execOutboxRelease_keeps (core : CoreId) (s : State) : KeepsNext s (execOutboxRelease core s) := by
  refine .of ?_
  split
  · exact .refl _
  · exact keeps_ite (sendSignal_keeps _ _ _ _ _ _ (modCore_keeps _ _ _ (.refl _))) (.refl _)

theorem execDeadlock_keeps (part : PartId) (job : Fin 16) (s : State) : KeepsNext s (execDeadlock part job s) :=
  .of (keeps_ite (raise_keeps _ _ (modJob_keeps _ _ _ _ (each_keeps _ _ _ (.refl _) (fun _ _ ht => declare_keeps _ _ _ ht))))
    (.refl _))

/-! ## Control slot -/

theorem execWaitResume_keeps (core : CoreId) (s : State) : KeepsNext s (execWaitResume core s) := by
  refine .of (keeps_ite ?_ (.refl _))
  split
  · exact modSeq_keeps _ _ _ (modCore_keeps _ _ _ (.refl _))
  · exact .refl _

theorem execHintPrepStart_keeps (core : CoreId) (phase : BitVec 8) (s : State) :
    KeepsNext s (execHintPrepStart core phase s) :=
  .of (keeps_ite (setBoost_keeps _ _ (modCore_keeps _ _ _ (.refl _))) (.refl _))

theorem execHintPrepEnd_keeps (core : CoreId) (phase : BitVec 8) (s : State) : KeepsNext s (execHintPrepEnd core phase s) :=
  .of (keeps_ite (setBoost_keeps _ _ (each_keeps _ _ _ (modCore_keeps _ _ _ (.refl _))
    (fun _ _ ht => hintExpired_keeps _ _ ht))) (.refl _))

/-! ## DMA -/

theorem execDescriptorFetch_keeps (region : RegionId) (chan : ChanId) (s : State) :
    KeepsNext s (execDescriptorFetch region chan s) := by
  refine .of ?_
  extract_lets t
  have ht : Keeps s t := modChan_keeps _ _ _ _ (.refl _)
  exact keeps_ite (fetchReturn_keeps _ _ _ ht) (.refl _)

theorem execDmaReadReturn_keeps (region : RegionId) (chan : ChanId) (s : State) :
    KeepsNext s (execDmaReadReturn region chan s) := by
  refine .of (keeps_ite (.refl _) ?_)
  split
  · split
    · exact .refl _
    · refine keeps_ite (.refl _) (keeps_ite (dmaFail_keeps _ _ _ _ (dmaOutside_keeps _ _ _ _ (dropAccesses_keeps _ _
        (.refl _)))) (keeps_ite (dmaFail_keeps _ _ _ _ (dropAccesses_keeps _ _ (.refl _))) ?_))
      extract_lets d bs t
      have ht : Keeps s t := drawn_keeps _ (dropAccesses_keeps _ _ (readPieces_keeps _ _ _ _ (.refl _)))
      exact keeps_ite (dmaFail_keeps _ _ _ _ ht) (keeps_ite (dmaLand_keeps _ _ _ _ _ _ _ ht) ht)
  · exact .refl _

theorem execDmaWriteResponse_keeps (region : RegionId) (chan : ChanId) (s : State) :
    KeepsNext s (execDmaWriteResponse region chan s) := by
  refine .of ?_
  extract_lets x
  split
  · exact .refl _
  · extract_lets who a l ok t t' d t''
    have ht : Keeps s t := modChan_keeps _ _ _ _ (.refl _)
    have ht' : Keeps s t' := keeps_ite (failDescriptor_keeps _ _ _ _ _ (dmaOutside_keeps _ _ _ _ ht)) (keeps_ite
      (failDescriptor_keeps _ _ _ _ _ ht) ht)
    have hd : Keeps s d.1 := keeps_ite_fst (writePieces_keeps _ _ _ _ _ ht') ht'
    have ht'' : Keeps s t'' := keeps_ite (keeps_ite (failDescriptor_keeps _ _ _ _ _ (modChan_keeps _ _ _ _ hd)) hd) hd
    exact dmaGo_keeps _ _ _ (dropAccesses_keeps _ _ ht'')

theorem execDescriptorComplete_keeps (region : RegionId) (chan : ChanId) (s : State) :
    KeepsNext s (execDescriptorComplete region chan s) := by
  refine .of ?_
  extract_lets t x
  have ht : Keeps s t := dmaGo_keeps _ _ _ (.refl _)
  split
  · exact modChan_keeps _ _ _ _ (dmaSignal_keeps _ _ _ _ ht)
  · refine keeps_ite ht ?_
    split
    · exact ht
    · exact modChan_keeps _ _ _ _ (dmaSignal_keeps _ _ _ _ ht)
    · exact ht

theorem execDescriptorError_keeps (region : RegionId) (chan : ChanId) (s : State) :
    KeepsNext s (execDescriptorError region chan s) := by
  refine .of ?_
  extract_lets x
  split
  · exact .refl _
  · extract_lets t
    have ht : Keeps s t := dmaSweep_keeps _ _ _ (modChan_keeps _ _ _ _ (.refl _))
    exact keeps_ite ht (dmaEvent_keeps _ _ _ _ ht)

theorem execDmaDrainEnd_keeps (region : RegionId) (chan : ChanId) (s : State) :
    KeepsNext s (execDmaDrainEnd region chan s) :=
  .of (keeps_ite (modChan_keeps _ _ _ _ (.refl _)) (.refl _))

/-! ## Page keeper -/

theorem execPgkCallComplete_keeps (call : Nat) (s : State) : KeepsNext s (execPgkCallComplete call s) := by
  refine .of ?_
  extract_lets t
  have ht : Keeps s t := startCopies_keeps _ (.refl _)
  split
  · exact ht
  · exact keeps_ite ht (startCopies_keeps _ (countRefused_keeps _ _ _ (answerCall_keeps _ _ _ _ (dropCall_keeps _ _
      (runCall_keeps _ _ ht)))))

theorem execPageCopyComplete_keeps (call : Nat) (s : State) : KeepsNext s (execPageCopyComplete call s) := by
  refine .of ?_
  split
  · exact .refl _
  · split
    · exact .refl _
    · refine keeps_ite (.refl _) ?_
      extract_lets t y
      have ht : Keeps s t := dmaGo_keeps _ _ _ (.refl _)
      exact keeps_ite (endCopy_keeps _ _ _ (modChan_keeps _ _ _ _ ht)) (keeps_ite (failCopy_keeps _ _ _ (.refl _)) ht)

theorem execPgkScanDone_keeps (part : PartId) (s : State) : KeepsNext s (execPgkScanDone part s) := by
  refine .of (keeps_ite (.refl _) (keeps_ite (scanFail_keeps _ _ _ (.refl _)) (keeps_ite (.refl _) ?_)))
  dsimp only
  split
  · exact scanFail_keeps _ _ _ (scanGo_keeps _ _ _ _ _ (modKeeper_keeps _ _ _ (.refl _)))
  · exact breakTable_keeps _ _ _ (modKeeper_keeps _ _ _ (scanGo_keeps _ _ _ _ _ (modKeeper_keeps _ _ _ (.refl _))))
  · exact modKeeper_keeps _ _ _ (linkGo_keeps _ _ _ _ (modKeeper_keeps _ _ _ (scanGo_keeps _ _ _ _ _ (modKeeper_keeps _ _ _
      (.refl _)))))

theorem execPgkDisableDone_keeps (part : PartId) (s : State) : KeepsNext s (execPgkDisableDone part s) :=
  .of (keeps_ite (modKeeper_keeps _ _ _ (.refl _)) (.refl _))

/-! ## Scout -/

theorem execScoutRequest_keeps (region : RegionId) (s : State) : KeepsNext s (execScoutRequest region s) := by
  refine .of ?_
  extract_lets r x job t seq
  split
  · exact .refl _
  · refine keeps_ite (.refl _) ?_
    extract_lets g
    have hg : Keeps s g.2 := readOwned_keeps _ _ _ _ _ _ (modScout_keeps _ _ _ (.refl _))
    split
    · exact .refl _
    · exact keeps_ite (raise_keeps _ _ (scoutNext_keeps _ _ (addField_keeps _ _ _ _ _ hg))) (modScout_keeps _ _ _ hg)
    · exact scoutNext_keeps _ _ hg

theorem execScoutDone_keeps (region : RegionId) (s : State) : KeepsNext s (execScoutDone region s) := by
  refine .of ?_
  dsimp only
  split
  · refine keeps_ite (.refl _) (keeps_ite (scoutRefuse_keeps _ _ _ _ _ (.refl _)) (keeps_ite (.refl _) ?_))
    split
    · split
      · exact scoutFinish_keeps _ _ _ _ (scoutHeader_keeps _ _ _ _ _ _ (scoutLists_keeps _ _ _ _ (scoutScan_keeps _ _ _ _ _ _
          (readOwned_keeps _ _ _ _ _ _ (.refl _)))))
      · exact scoutRefuse_keeps _ _ _ _ _ (scoutScan_keeps _ _ _ _ _ _ (readOwned_keeps _ _ _ _ _ _ (.refl _)))
      · exact scoutUnread_keeps _ _ _ _ (scoutScan_keeps _ _ _ _ _ _ (readOwned_keeps _ _ _ _ _ _ (.refl _)))
    · exact scoutUnread_keeps _ _ _ _ (readOwned_keeps _ _ _ _ _ _ (.refl _))
  · exact .refl _

/-! ## Jobs -/

theorem execJobStart_keeps (part : PartId) (job : Fin 16) (s : State) : KeepsNext s (execJobStart part job s) := by
  refine .of (keeps_ite (.refl _) (keeps_ite (release_keeps _ _ _ (modJob_keeps _ _ _ _ (.refl _))) (release_keeps _ _ _
    (modJob_keeps _ _ _ _ (each_keeps _ _ _ (each_keeps _ _ _ ?_ (fun _ _ ht => startCore_keeps _ _ _ _ _ ht))
    (fun _ _ ht => shareHold_keeps _ _ ht))))))
  split
  · exact keeps_ite (clearSlot_keeps _ _ (.refl _)) (.refl _)
  · exact .refl _

theorem execCommitApply_keeps (s : State) : KeepsNext s (execCommitApply s) :=
  .of (keeps_ite (setCommit_keeps _ _ (loadTable_keeps _ _ (.refl _))) (.refl _))

/-! ## Peer ports -/

theorem execPeerWr_keeps (port : PortId) (tid : BitVec 10) (len : BitVec 32) (addr : BitVec 48) (data : List Byte) (s : State) :
    KeepsNext s (execPeerWr port tid len addr data s) :=
  .of (keeps_ite (.refl _) (keeps_ite (peerMalformed_keeps _ _ _ (owe_keeps _ _ _ _ (.refl _))) (peerArrive_keeps _ _ _
    (.refl _))))

theorem execPeerRd_keeps (port : PortId) (tid : BitVec 10) (len : BitVec 32) (addr : BitVec 48) (s : State) :
    KeepsNext s (execPeerRd port tid len addr s) :=
  .of (keeps_ite (.refl _) (keeps_ite (peerMalformed_keeps _ _ _ (owe_keeps _ _ _ _ (.refl _))) (peerArrive_keeps _ _ _
    (.refl _))))

theorem execPeerSig_keeps (port : PortId) (tid : BitVec 10) (amount : BitVec 32) (counter : BitVec 16) (s : State) :
    KeepsNext s (execPeerSig port tid amount counter s) :=
  .of (keeps_ite (.refl _) (peerArrive_keeps _ _ _ (.refl _)))

theorem execAck_keeps (port : PortId) (tid : BitVec 10) (s : State) : KeepsNext s (execAck port tid s) := by
  refine .of (keeps_ite (.refl _) ?_)
  split
  · exact keeps_ite (peerMalformed_keeps _ _ _ (.refl _)) (peerWake_keeps _ (endAccess_keeps _ _ _ _ (.refl _)))
  · exact peerWake_keeps _ (lateAnswer_keeps _ _ _ (.refl _))

theorem execNack_keeps (port : PortId) (tid : BitVec 10) (cause : BitVec 8) (s : State) :
    KeepsNext s (execNack port tid cause s) := by
  refine .of (keeps_ite (.refl _) (keeps_ite (peerMalformed_keeps _ _ _ (.refl _)) ?_))
  split
  · exact peerWake_keeps _ (endAccess_keeps _ _ _ _ (addField_keeps _ _ _ _ _ (.refl _)))
  · exact peerWake_keeps _ (lateAnswer_keeps _ _ _ (.refl _))

theorem execRdata_keeps (port : PortId) (tid : BitVec 10) (len : BitVec 32) (data : List Byte) (s : State) :
    KeepsNext s (execRdata port tid len data s) := by
  refine .of (keeps_ite (.refl _) ?_)
  split
  · exact keeps_ite (peerWake_keeps _ (endAccess_keeps _ _ _ _ (.refl _))) (peerMalformed_keeps _ _ _ (.refl _))
  · exact peerWake_keeps _ (lateAnswer_keeps _ _ _ (.refl _))

theorem execCrd_keeps (port : PortId) (req data : BitVec 16) (s : State) : KeepsNext s (execCrd port req data s) :=
  .of (keeps_ite (.refl _) (peerWake_keeps _ (pump_keeps _ _ (modPeer_keeps _ _ _ (.refl _)))))

theorem execPeerMessageMalformed_keeps (port : PortId) (tid : Option (BitVec 10)) (s : State) :
    KeepsNext s (execPeerMessageMalformed port tid s) :=
  .of (keeps_ite (peerWake_keeps _ (peerMalformed_keeps _ _ _ (.refl _))) (.refl _))

theorem execCreditReturnDue_keeps (port : PortId) (s : State) : KeepsNext s (execCreditReturnDue port s) :=
  .of (keeps_ite (send_keeps _ _ (modPeer_keeps _ _ _ (.refl _))) (.refl _))

theorem execPeerAccessTimeout_keeps (port : PortId) (tid : BitVec 10) (s : State) :
    KeepsNext s (execPeerAccessTimeout port tid s) := by
  refine .of ?_
  split
  · exact keeps_ite (endAccess_keeps _ _ _ _ (modPeer_keeps _ _ _ (addField_keeps _ _ _ _ _ (.refl _)))) (.refl _)
  · exact .refl _

theorem execPeerLinkUp_keeps (port : PortId) (s : State) : KeepsNext s (execPeerLinkUp port s) := by
  refine .of ?_
  extract_lets t
  have ht : Keeps s t := modPins_keeps _ _ (.refl _)
  exact keeps_ite (peerInitiate_keeps _ _ ht) ht

theorem execPeerLinkDown_keeps (port : PortId) (s : State) : KeepsNext s (execPeerLinkDown port s) := by
  refine .of ?_
  extract_lets t
  have ht : Keeps s t := modPins_keeps _ _ (.refl _)
  exact keeps_ite (raiseBlock_keeps _ _ (loseLink_keeps _ _ ht)) (modPeer_keeps _ _ _ ht)

theorem execInit_keeps (port : PortId) (blockId : BitVec 32) (req data : BitVec 16) (s : State) :
    KeepsNext s (execInit port blockId req data s) := by
  refine .of ?_
  dsimp only
  split
  · exact keeps_ite (pump_keeps _ _ (modPeer_keeps _ _ _ (.refl _))) (raiseBlock_keeps _ _ (modPeer_keeps _ _ _ (.refl _)))
  · exact modPeer_keeps _ _ _ (.refl _)
  · exact .refl _

theorem execPeerInitTimeout_keeps (port : PortId) (s : State) : KeepsNext s (execPeerInitTimeout port s) :=
  .of (keeps_ite (raiseBlock_keeps _ _ (modPeer_keeps _ _ _ (.refl _))) (.refl _))

theorem execPace_keeps (port : PortId) (f : BitVec 16) (reason period : BitVec 8) (seq : BitVec 32) (s : State) :
    KeepsNext s (execPace port f reason period seq s) := by
  refine .of (keeps_ite (.refl _) (keeps_ite (peerMalformed_keeps _ _ _ (.refl _)) ?_))
  extract_lets t t'
  have ht : Keeps s t := modPeer_keeps _ _ _ (.refl _)
  have ht' : Keeps s t' := keeps_ite ht (each_keeps _ _ _ ht (fun _ _ hu => modJob_keeps _ _ _ _ hu))
  exact peerWake_keeps _ ht'

theorem execPaceExpire_keeps (port : PortId) (s : State) : KeepsNext s (execPaceExpire port s) :=
  .of (keeps_ite (modPeer_keeps _ _ _ (.refl _)) (.refl _))

theorem execPacePeriodEnd_keeps (port : PortId) (s : State) : KeepsNext s (execPacePeriodEnd port s) := by
  refine .of (keeps_ite ?_ (.refl _))
  extract_lets p t
  have ht : Keeps s t := modPeer_keeps _ _ _ (.refl _)
  exact keeps_ite (send_keeps _ _ (modPeer_keeps _ _ _ ht)) ht

/-! ## Regulators -/

theorem execPhaseBalance_keeps (vr : VrId) (mA : List Int) (s : State) : KeepsNext s (execPhaseBalance vr mA s) :=
  .of (keeps_ite (modVr_keeps _ _ _ (.refl _)) (.refl _))

theorem execPhaseSuspect_keeps (vr : VrId) (ph : Fin 8) (s : State) : KeepsNext s (execPhaseSuspect vr ph s) :=
  .of (keeps_ite (raiseVr_keeps _ _ _ (modVr_keeps _ _ _ (.refl _))) (.refl _))

theorem execPhaseDisable_keeps (vr : VrId) (ph : Fin 8) (s : State) : KeepsNext s (execPhaseDisable vr ph s) :=
  .of (keeps_ite (modVr_keeps _ _ _ (.refl _)) (.refl _))

theorem execPwmPeriod_keeps (vr : VrId) (inp : PwmInput) (s : State) : KeepsNext s (execPwmPeriod vr inp s) := by
  refine .of (keeps_ite (.refl _) ?_)
  extract_lets t
  have ht : Keeps s t := startDue_keeps _ _ (observe_keeps _ _ _ (.refl _))
  exact keeps_ite (nextPeriod_keeps _ _ _ ht) ht

theorem execShedStep_keeps (vr : VrId) (meanMA : Nat) (s : State) : KeepsNext s (execShedStep vr meanMA s) :=
  .of (keeps_ite (modVr_keeps _ _ _ (.refl _)) (.refl _))

theorem execAddBack_keeps (vr : VrId) (s : State) : KeepsNext s (execAddBack vr s) :=
  .of (keeps_ite (modVr_keeps _ _ _ (.refl _)) (.refl _))

theorem execUndershootTrip_keeps (trip : Trip) (s : State) : KeepsNext s (execUndershootTrip trip s) :=
  .of (keeps_ite (modVr_keeps _ _ _ (.refl _)) (.refl _))

theorem execShedSuspendEnd_keeps (vr : VrId) (s : State) : KeepsNext s (execShedSuspendEnd vr s) := by
  refine .of ?_
  split
  · exact keeps_ite (modVr_keeps _ _ _ (.refl _)) (.refl _)
  · exact .refl _

theorem execHiccup_keeps (vr : VrId) (s : State) : KeepsNext s (execHiccup vr s) := by
  refine .of (keeps_ite ?_ (.refl _))
  extract_lets recent t
  have ht : Keeps s t := raiseVr_keeps _ _ _ (modVr_keeps _ _ _ (.refl _))
  exact keeps_ite (failVr_keeps _ _ _ ht) ht

theorem execHiccupEnd_keeps (vr : VrId) (s : State) : KeepsNext s (execHiccupEnd vr s) := by
  refine .of (keeps_ite ?_ (.refl _))
  extract_lets t
  have ht : Keeps s t := softStart_keeps _ _ _ _ (.refl _)
  exact keeps_ite (modPower_keeps _ _ _ ht) ht

theorem execStageWarning_keeps (vr : VrId) (stage : Fin 4) (temp : BitVec 8) (s : State) :
    KeepsNext s (execStageWarning vr stage temp s) := by
  refine .of ?_
  extract_lets t
  have ht : Keeps s t := setStage_keeps _ _ _ _ (.refl _)
  exact keeps_ite ht (raiseVr_keeps _ _ _ (modVr_keeps _ _ _ ht))

theorem execOtWarnClear_keeps (vr : VrId) (s : State) : KeepsNext s (execOtWarnClear vr s) :=
  .of (keeps_ite (modVr_keeps _ _ _ (.refl _)) (.refl _))

theorem execStageShutdown_keeps (vr : VrId) (stage : Fin 4) (temp : BitVec 8) (s : State) :
    KeepsNext s (execStageShutdown vr stage temp s) := by
  refine .of ?_
  extract_lets t
  have ht : Keeps s t := setStage_keeps _ _ _ _ (.refl _)
  exact keeps_ite (failVr_keeps _ _ _ ht) ht

theorem execSenseExclude_keeps (core : CoreId) (sensor : Fin 8) (s : State) : KeepsNext s (execSenseExclude core sensor s) := by
  refine .of (keeps_ite ?_ (.refl _))
  extract_lets t
  have ht : Keeps s t := modPower_keeps _ _ _ (.refl _)
  exact keeps_ite (keeps_ite (failVr_keeps _ _ _ ht) (raiseCore_keeps _ _ _ _ (modPower_keeps _ _ _ ht))) ht

theorem execSenseRemoteFallback_keeps (core : CoreId) (s : State) : KeepsNext s (execSenseRemoteFallback core s) :=
  .of (keeps_ite (keeps_ite (failVr_keeps _ _ _ (.refl _)) (raiseCore_keeps _ _ _ _ (modPower_keeps _ _ _ (.refl _))))
    (.refl _))

theorem execBrownOut_keeps (core : CoreId) (s : State) : KeepsNext s (execBrownOut core s) :=
  .of (keeps_ite (brownOut_keeps _ _ (.refl _)) (.refl _))

theorem execTieClose_keeps (core : CoreId) (s : State) : KeepsNext s (execTieClose core s) := by
  refine .of ?_
  extract_lets p
  split
  · exact .refl _
  · refine keeps_ite (searchCarrier_keeps _ _ _ (modPower_keeps _ _ _ (.refl _))) (keeps_ite (keeps_ite (rehold_keeps _
      (softStart_keeps _ _ _ _ (joinRails_keeps _ _ _ (.refl _)))) (.refl _)) (keeps_ite ?_ (.refl _)))
    extract_lets t
    have ht : Keeps s t := joinRails_keeps _ _ _ (.refl _)
    exact rehold_keeps _ (keeps_ite (applyRequest_keeps _ _ _ ht) ht)

theorem execRetainComplete_keeps (core : CoreId) (s : State) : KeepsNext s (execRetainComplete core s) := by
  refine .of (keeps_ite ?_ (.refl _))
  extract_lets t t'
  have ht : Keeps s t := modPower_keeps _ _ _ (vrOff_keeps _ _ (.refl _))
  have ht' : Keeps s t' := keeps_ite (loseStore_keeps _ _ ht) ht
  exact keeps_ite (keeps_ite (pendUp_keeps _ _ _ (applyRequest_keeps _ _ _ ht')) (applyRequest_keeps _ _ _ ht')) ht'

theorem execRetentionFault_keeps (region : RegionId) (s : State) : KeepsNext s (execRetentionFault region s) :=
  .of (raiseRegion_keeps _ _ _ _ (each_keeps _ _ _ (modBoot_keeps _ _ (.refl _) (fun _ => ⟨id, id⟩)) (fun _ _ ht => keeps_ite
    (loseStore_keeps _ _ ht) ht)))

theorem execPowerUpGrant_keeps (region : RegionId) (s : State) : KeepsNext s (execPowerUpGrant region s) :=
  .of (keeps_ite (grant_keeps _ _ (.refl _)) (.refl _))

theorem execInrushForce_keeps (region : RegionId) (s : State) : KeepsNext s (execInrushForce region s) := by
  refine .of ?_
  split
  · refine keeps_ite ?_ (.refl _)
    extract_lets hit t
    have ht : Keeps s t := modLoop_keeps _ _ _ (grant_keeps _ _ (.refl _))
    exact rehold_keeps _ (putReg_keeps _ _ _ ht)
  · exact .refl _

theorem execCoreStoreReady_keeps (core : CoreId) (s : State) : KeepsNext s (execCoreStoreReady core s) :=
  .of (keeps_ite (modPower_keeps _ _ _ (zeroStore_keeps _ _ (.refl _))) (.refl _))

theorem execRampEnd_keeps (region : RegionId) (s : State) : KeepsNext s (execRampEnd region s) := by
  refine .of (keeps_ite (.refl _) ?_)
  extract_lets late t
  have ht : Keeps s t := each_keeps _ _ _ (.refl _) (fun _ _ hu => endRamp_keeps _ _ hu)
  split
  · exact ht
  · refine keeps_ite ht ?_
    extract_lets u
    have hu : Keeps s u := each_keeps _ _ _ ht (fun _ _ hv => endRamp_keeps _ _ hv)
    exact afterUps_keeps _ (modLoop_keeps _ _ _ hu)

theorem execRampTimeout_keeps (vr : VrId) (s : State) : KeepsNext s (execRampTimeout vr s) := by
  refine .of ?_
  split
  · exact keeps_ite (failVr_keeps _ _ _ (.refl _)) (.refl _)
  · exact .refl _

/-! ## Loop engine -/

theorem execLoopSample_keeps (s : State) : KeepsNext s (execLoopSample s) := by
  refine .of (keeps_ite (.refl _) ?_)
  extract_lets t t' t'' t'''
  have ht : Keeps s t := each_keeps _ _ _ (.refl _) (fun _ _ hu => judgeVpil_keeps _ _ (closeIntervals_keeps _ _ hu))
  have ht' : Keeps s t' := powerSample_keeps _ (addEnergies_keeps _ ht)
  have ht'' : Keeps s t'' := each_keeps _ _ _ ht' (fun _ _ hu => learn_keeps _ _ hu)
  have ht''' : Keeps s t''' := paceSample_keeps _ (serviceSample_keeps _ (capStats_keeps _ (computeOutputs_keeps _ ht'')))
  exact setPower_keeps _ _ (startInterval_keeps _ ht''')

theorem execLoopApply_keeps (s : State) : KeepsNext s (execLoopApply s) := by
  refine .of (keeps_ite (.refl _) ?_)
  extract_lets t t'
  have ht : Keeps s t := each_keeps _ _ _ (.refl _) (fun _ _ hu => modPower_keeps _ _ _ hu)
  have ht' : Keeps s t' := each_keeps _ _ _ ht (fun _ _ hu => modLoop_keeps _ _ _ hu)
  exact rehold_keeps _ (setPower_keeps _ _ ht')

theorem execLoopOpenExpired_keeps (region : RegionId) (s : State) : KeepsNext s (execLoopOpenExpired region s) := by
  refine .of ?_
  split
  · exact keeps_ite (raiseRegion_keeps _ _ _ _ (modLoop_keeps _ _ _ (putReg_keeps _ _ _ (.refl _)))) (.refl _)
  · exact .refl _

theorem execMarginTrim_keeps (core : CoreId) (passAt passBelow : Bool) (roscPct : BitVec 8) (s : State) :
    KeepsNext s (execMarginTrim core passAt passBelow roscPct s) := by
  refine .of (keeps_ite (.refl _) ?_)
  extract_lets dn aged run t t' t'' u v
  have ht : Keeps s t := modPower_keeps _ _ _ (.refl _)
  have ht' : Keeps s t' := keeps_ite ht (raiseCore_keeps _ _ _ _ ht)
  have ht'' : Keeps s t'' := keeps_ite (raiseCore_keeps _ _ _ _ ht') ht'
  have hu : Keeps s u := raiseCore_keeps _ _ _ _ ht''
  have hv : Keeps s v := retire_keeps _ _ hu
  exact keeps_ite (keeps_ite hu (keeps_ite (raiseCore_keeps _ _ _ _ hv) hv)) ht''

/-! ## Thermal sensors and coolant -/

theorem execSensorConversion_keeps (sensor : SensorId) (reading : BitVec 16) (s : State) :
    KeepsNext s (execSensorConversion sensor reading s) := by
  refine .of (keeps_ite (.refl _) ?_)
  extract_lets t u
  have ht : Keeps s t := judge_keeps _ _ (modSensor_keeps _ _ _ (.refl _))
  refine keeps_ite (thermEdges_keeps _ (updateCore_keeps _ _ ht)) (keeps_ite ?_ (thermEdges_keeps _ ht))
  have hu : Keeps s u := keeps_ite (noteMax_keeps _ _ _ ht) ht
  exact thermEdges_keeps _ (keeps_ite (tripBlock_keeps _ _ _ hu) hu)

theorem execCoolantOkFall_keeps (s : State) : KeepsNext s (execCoolantOkFall s) :=
  .of (keeps_ite (modBoot_keeps _ _ (modPins_keeps _ _ (.refl _)) (fun _ => ⟨id, id⟩)) (.refl _))

theorem execCoolantLoss_keeps (s : State) : KeepsNext s (execCoolantLoss s) :=
  .of (keeps_ite (loseCoolant_keeps _ (modBoot_keeps _ _ (.refl _) (fun _ => ⟨id, id⟩))) (.refl _))

theorem execCoolantOkRise_keeps (s : State) : KeepsNext s (execCoolantOkRise s) :=
  .of (keeps_ite (.refl _) (modBoot_keeps _ _ (modPins_keeps _ _ (.refl _)) (fun _ => ⟨id, id⟩)))

theorem execCoolantRecoverOk_keeps (s : State) : KeepsNext s (execCoolantRecoverOk s) :=
  .of (keeps_ite (each_keeps _ _ _ (modBoot_keeps _ _ (.refl _) (fun _ => ⟨id, id⟩)) (fun _ _ ht => arrive_keeps _ _ _ _ ht))
    (.refl _))

/-! ## Event queues -/

theorem execEventArrival_keeps (part : PartId) (src : Fin 512) (cls : BitVec 3) (s : State) :
    KeepsNext s (execEventArrival part src cls s) :=
  .of (keeps_ite (arrive_keeps _ _ _ _ (.refl _)) (.refl _))

theorem execRecordSelect_keeps (part : PartId) (s : State) : KeepsNext s (execRecordSelect part s) := by
  refine .of (keeps_ite (.refl _) ?_)
  split
  · exact .refl _
  · exact keeps_ite (modEvq_keeps _ _ _ (.refl _)) (keeps_ite (.refl _) (raise_keeps _ _ (modEvq_keeps _ _ _ (.refl _))))

theorem execRecordWrite_keeps (part : PartId) (s : State) : KeepsNext s (execRecordWrite part s) := by
  refine .of ?_
  extract_lets p size
  split
  · exact .refl _
  · refine keeps_ite (.refl _) ?_
    extract_lets a k bs host t tid
    have ht : Keeps s t := keeps_ite (sendOutbound_keeps _ _ _ _ _ _ (.refl _)) (.refl _)
    exact modEvq_keeps _ _ _ ht

theorem execRecordComplete_keeps (part : PartId) (ok : Bool) (s : State) : KeepsNext s (execRecordComplete part ok s) := by
  refine .of ?_
  dsimp only
  split
  · exact completeRecord_keeps _ _ _ _ (.refl _)
  · exact .refl _

theorem execMessageSend_keeps (part : PartId) (s : State) : KeepsNext s (execMessageSend part s) := by
  refine .of (keeps_ite (.refl _) ?_)
  extract_lets t a
  have ht : Keeps s t := modEvq_keeps _ _ _ (.refl _)
  exact keeps_ite (sendOutbound_keeps _ _ _ _ _ _ ht) (messageError_keeps _ _ ht)

theorem execIdleReached_keeps (s : State) : KeepsNext s (execIdleReached s) :=
  .of (keeps_ite (modBoot_keeps _ _ (.refl _) (fun _ => ⟨id, id⟩)) (.refl _))

/-! ## Telemetry -/

theorem execAdcConversion_keeps (region : RegionId) (conv : Fin 8) (code : BitVec 12) (ovr : Bool) (s : State) :
    KeepsNext s (execAdcConversion region conv code ovr s) := by
  refine .of (keeps_ite (.refl _) ?_)
  split
  · exact keeps_ite (.refl _) (convert_keeps _ _ _ _ _ _ (modTlm_keeps _ _ _ (endSlot_keeps _ _ _ _ _ _ (.refl _))))
  · split
    · exact .refl _
    · refine keeps_ite (.refl _) ?_
      extract_lets conv' t
      have ht : Keeps s t := endSlot_keeps _ _ _ _ _ _ (.refl _)
      exact keeps_ite (convert_keeps _ _ _ _ _ _ ht) ht

theorem execRefSettle_keeps (vref : VrefReading) (s : State) : KeepsNext s (execRefSettle vref s) := by
  refine .of ?_
  extract_lets r uv t
  have ht : Keeps s t := modPins_keeps _ _ (.refl _)
  exact keeps_ite (persistOff_keeps _ _ _ (modTlm_keeps _ _ _ ht)) ht

theorem execTlmRefTimeout_keeps (region : RegionId) (s : State) : KeepsNext s (execTlmRefTimeout region s) :=
  .of (keeps_ite (raiseRegion_keeps _ _ _ _ (persistOn_keeps _ _ _ (.refl _))) (.refl _))

theorem execTlmStale_keeps (region : RegionId) (chan : Fin 40) (s : State) : KeepsNext s (execTlmStale region chan s) :=
  .of (keeps_ite (raiseRegion_keeps _ _ _ _ (staleCheck_keeps _ _ (modChanT_keeps _ _ _ _ (.refl _)))) (.refl _))

theorem execTelemetryWindowEnd_keeps (s : State) : KeepsNext s (execTelemetryWindowEnd s) := by
  refine .of (keeps_ite (.refl _) ?_)
  extract_lets temp gs pk mid means t t'
  have ht : Keeps s t := closeEta_keeps _ (each_keeps _ _ _ (.refl _) (fun _ _ hu => closeWindow_keeps _ _ hu))
  have ht' : Keeps s t' := each_keeps _ _ _ ht (fun _ _ hu => checkPillar_keeps _ _ _ _ hu)
  exact setDraws_keeps _ _ (setPower_keeps _ _ ht')

/-! ## Flash and fuses -/

theorem execFlashOperationDone_keeps (ok : Bool) (s : State) : KeepsNext s (execFlashOperationDone ok s) := by
  refine .of ?_
  split
  · exact .refl _
  · exact flashNext_keeps _ (modNvm_keeps _ _ (.refl _) Nvm.completeCommand_keeps)
  · exact keeps_ite (flashNext_keeps _ (modNvm_keeps _ _ (.refl _) Nvm.completeCommand_keeps)) (flashFailed_keeps _ (.refl _))
  · exact modNvm_keeps _ _ (drawn_keeps _ (endUpdate_keeps _ _ (.refl _))) fun _ => ⟨fun _ => id, id, rfl, rfl⟩

theorem execFlashTimeout_keeps (s : State) : KeepsNext s (execFlashTimeout s) :=
  .of (keeps_ite (flashFailed_keeps _ (.refl _)) (.refl _))

theorem execFuseProgramDone_keeps (ok : Bool) (s : State) : KeepsNext s (execFuseProgramDone ok s) := by
  refine .of (keeps_ite (.refl _) ?_)
  extract_lets data set t
  have hlock : ∀ n : Nvm, NvmKeeps n { n with lock := n.lock || set } := fun n => ⟨fun _ => id, fun h => by simp [h], rfl, rfl⟩
  have hfuse : ∀ n : Nvm, NvmKeeps n { n with keyHash := n.keyHash ||| fuseBits s.nvm.fuseWord data } :=
    fun n => ⟨fun i h => by simp [h], id, rfl, rfl⟩
  have ht : Keeps s t := keeps_ite (modNvm_keeps _ _ (.refl _) hlock) (modNvm_keeps _ _ (.refl _) hfuse)
  exact modNvm_keeps _ _ (keeps_ite ht (drawn_keeps _ ht)) fun _ => ⟨fun _ => id, id, rfl, rfl⟩

/-! ## Supply and reset -/

theorem execStbyOkAssert_keeps (s : State) : KeepsNext s (execStbyOkAssert s) :=
  .of (keeps_ite (.refl _) (modBoot_keeps _ _ (modPins_keeps _ _ (.refl _)) (fun _ => ⟨id, id⟩)))

theorem execReferenceLock_keeps (s : State) : KeepsNext s (execReferenceLock s) := by
  refine .of (keeps_ite ?_ (.refl _))
  extract_lets t
  have ht : Keeps s t := modBoot_keeps _ _ (modPins_keeps _ _ (.refl _)) (fun _ => ⟨id, id⟩)
  exact each_keeps _ _ _ (modNvm_keeps _ _ ht (fun _ => ⟨fun _ => id, id, rfl, rfl⟩)) (fun _ _ hu => modPower_keeps _ _ _ hu)

theorem execPillarOkAssert_keeps (s : State) : KeepsNext s (execPillarOkAssert s) :=
  .of (keeps_ite (.refl _) (takePillar_keeps _ _ (modPins_keeps _ _ (.refl _))))

theorem execPwrGoodAssert_keeps (s : State) : KeepsNext s (execPwrGoodAssert s) :=
  .of (keeps_ite (.refl _) (takePwr_keeps _ (modPins_keeps _ _ (.refl _))))

theorem execRstNRelease_keeps (s : State) : KeepsNext s (execRstNRelease s) :=
  .of (keeps_ite (.refl _) (takeRst_keeps _ (modPins_keeps _ _ (.refl _))))

theorem execMinimumIntervalEnd_keeps (input : StatusPin) (s : State) : KeepsNext s (execMinimumIntervalEnd input s) := by
  refine .of ?_
  split
  · exact takePillar_keeps _ _ (.refl _)
  · exact takePwr_keeps _ (.refl _)
  · exact takeRst_keeps _ (.refl _)

theorem execSupplyLoss_keeps (pillar pwrGood : Bool) (s : State) : KeepsNext s (execSupplyLoss pillar pwrGood s) :=
  .of (keeps_ite (.refl _) (loseSupply_keeps _ _ _ (modPins_keeps _ _ (.refl _))))

theorem execPillarVoltageFault_keeps (region : RegionId) (s : State) : KeepsNext s (execPillarVoltageFault region s) :=
  .of (keeps_ite (loseSupply_keeps _ _ _ (.refl _)) (.refl _))

theorem execRefclkLost_keeps (s : State) : KeepsNext s (execRefclkLost s) := by
  refine .of (keeps_ite (.refl _) ?_)
  extract_lets t
  have ht : Keeps s t := modPins_keeps _ _ (.refl _)
  exact keeps_ite ht (raiseBlock_keeps _ _ (persistOn_keeps _ _ _ (modBoot_keeps _ _ (endJobs_keeps _ ht) (fun _ => ⟨id, id⟩))))

theorem execReferenceClockReturn_keeps (s : State) : KeepsNext s (execReferenceClockReturn s) :=
  .of (keeps_ite (.refl _) (modBoot_keeps _ _ (modPins_keeps _ _ (.refl _)) (fun _ => ⟨id, id⟩)))

theorem execRstNAssert_keeps (s : State) : KeepsNext s (execRstNAssert s) :=
  .of (keeps_ite (resetBlock_keeps _ (modBoot_keeps _ _ (modPins_keeps _ _ (.refl _)) (fun _ => ⟨id, id⟩))) (.refl _))

theorem execDpdReturn_keeps (s : State) : KeepsNext s (execDpdReturn s) :=
  .of (keeps_ite (enterConfig_keeps _ (.refl _)) (.refl _))

theorem execEpochEdge_keeps (s : State) : KeepsNext s (execEpochEdge s) :=
  .of (keeps_ite (sampleEdge_keeps _ (.refl _)) (.refl _))

theorem execEpochEarly_keeps (s : State) : KeepsNext s (execEpochEarly s) :=
  .of (keeps_ite (sampleEdge_keeps _ (.refl _)) (.refl _))

theorem execEpochLost_keeps (s : State) : KeepsNext s (execEpochLost s) :=
  .of (keeps_ite (raiseBlock_keeps _ _ (modBoot_keeps _ _ (.refl _) (fun _ => ⟨id, id⟩))) (.refl _))

/-! ## Boot -/

theorem execSfdpReadComplete_keeps (signature has144 : Bool) (s : State) :
    KeepsNext s (execSfdpReadComplete signature has144 s) :=
  .of (keeps_ite (.refl _) (keeps_ite (modBoot_keeps _ _ (.refl _) (fun _ => ⟨id, id⟩)) (failBoot_keeps _ _ _ (.refl _))))

theorem execImageReadComplete_keeps (read : List Byte) (s : State) : KeepsNext s (execImageReadComplete read s) :=
  .of (keeps_ite (.refl _) (keeps_ite (modBoot_keeps _ _ (.refl _) (fun _ => ⟨id, id⟩)) (failBoot_keeps _ _ _ (.refl _))))

theorem execImageVerifyComplete_keeps (s : State) : KeepsNext s (execImageVerifyComplete s) := by
  refine .of (keeps_ite (.refl _) ?_)
  extract_lets c t
  have ht : Keeps s t := modNvm_keeps _ _ (.refl _) fun _ => ⟨fun _ => id, id, rfl, rfl⟩
  refine keeps_ite (failBoot_keeps _ _ _ ht) ?_
  split
  next => exact failBoot_keeps _ _ _ ht
  next u hu => exact powerUpAll_keeps _ (bootResult_keeps _ _ _ ((loadImage_keeps _ _ ht).keeps u hu))

theorem execTrainingComplete_keeps (fails : List TrainFail) (s : State) : KeepsNext s (execTrainingComplete fails s) := by
  refine .of (keeps_ite (.refl _) ?_)
  extract_lets t t'
  have ht : Keeps s t := each_keeps _ _ _ (.refl _) (fun _ _ hu => trainColumn_keeps _ _ _ hu)
  have ht' : Keeps s t' := each_keeps _ _ _ ht (fun _ _ hu => keeps_ite (retire_keeps _ _ hu) hu)
  exact keeps_ite ht' (enterReady_keeps _ ht')

/-! ## Fault collector -/

theorem execFaultEvent_keeps (src : Fin 512) (loc : Option (Fin 272)) (job : Option (PartId × Fin 16)) (tag : Option PartId) (s : State) :
    KeepsNext s (execFaultEvent src loc job tag s) :=
  .of (keeps_ite (raise_keeps _ _ (.refl _)) (.refl _))

theorem execBrokenWire_keeps (src : Fin 512) (loc : Option (Fin 272)) (reading : Option ReadingWire) (s : State) :
    KeepsNext s (execBrokenWire src loc reading s) := by
  refine .of (keeps_ite (.refl _) ?_)
  split
  · exact keeps_ite (.refl _) (raise_keeps _ _ (modSensor_keeps _ _ _ (suspectSensor_keeps _ _ (.refl _))))
  · exact keeps_ite (.refl _) (raiseRegion_keeps _ _ _ _ (raiseRegion_keeps _ _ _ _ (persistOn_keeps _ _ _ (modTlm_keeps _ _ _
      (.refl _)))))
  · exact keeps_ite (breakWire_keeps _ _ _ (modFaults_keeps _ _ (.refl _))) (.refl _)

theorem execCollectorMismatch_keeps (s : State) : KeepsNext s (execCollectorMismatch s) :=
  .of (keeps_ite (selfFail_keeps _ (.refl _)) (.refl _))

theorem execFaultWindowClose_keeps (src : Fin 512) (s : State) : KeepsNext s (execFaultWindowClose src s) := by
  refine .of ?_
  split
  · exact keeps_ite (modCopies_keeps _ _ (.refl _)) (.refl _)
  · exact .refl _

theorem execErrPulseEnd_keeps (s : State) : KeepsNext s (execErrPulseEnd s) := by
  refine .of (keeps_ite ?_ (.refl _))
  extract_lets t
  have ht : Keeps s t := modFaults_keeps _ _ (.refl _)
  exact keeps_ite (mark_keeps _ _ _ (modCopies_keeps _ _ ht)) ht

/-! ## Host port -/

theorem execHostRd_keeps (hdr : HostHeader) (s : State) : KeepsNext s (execHostRd hdr s) :=
  .of (hostInbound_keeps _ _ _ _ (.refl _))

theorem execHostWr_keeps (hdr : HostHeader) (data : List Byte) (s : State) : KeepsNext s (execHostWr hdr data s) :=
  .of (hostInbound_keeps _ _ _ _ (.refl _))

theorem execCpl_keeps (tid : BitVec 10) (data : List Byte) (s : State) : KeepsNext s (execCpl tid data s) := by
  refine .of (keeps_ite (.refl _) ?_)
  split
  · exact keeps_ite (outAnswer_keeps _ _ _ (.refl _)) (addField_keeps _ _ _ _ _ (.refl _))
  · exact countOut_keeps _ (.refl _)

theorem execWrsp_keeps (tid : BitVec 10) (s : State) : KeepsNext s (execWrsp tid s) := by
  refine .of (keeps_ite (.refl _) ?_)
  split
  · exact keeps_ite (addField_keeps _ _ _ _ _ (.refl _)) (outAnswer_keeps _ _ _ (.refl _))
  · exact countOut_keeps _ (.refl _)

theorem execErr_keeps (tid : BitVec 10) (cause : BitVec 8) (s : State) : KeepsNext s (execErr tid cause s) := by
  refine .of (keeps_ite (.refl _) ?_)
  split
  · exact countOut_keeps _ (outAnswer_keeps _ _ _ (.refl _))
  · exact countOut_keeps _ (.refl _)

theorem execHostTimeout_keeps (tid : BitVec 10) (s : State) : KeepsNext s (execHostTimeout tid s) := by
  refine .of ?_
  split
  · exact keeps_ite (countOut_keeps _ (outAnswer_keeps _ _ _ (.refl _))) (.refl _)
  · exact .refl _

/-! ## Tier alerts -/

theorem execVcAlert_keeps (col : CoreId) (onCommand : Bool) (s : State) : KeepsNext s (execVcAlert col onCommand s) :=
  .of (keeps_ite (raiseCore_keeps _ _ _ _ (.refl _)) (keeps_ite (raiseCore_keeps _ _ _ _ (modColumn_keeps _ _ _ (.refl _)))
    (failAccess_keeps _ _ (modColumn_keeps _ _ _ (.refl _)))))

/-! ## Block beat -/

theorem execSluiceHold_keeps (core : CoreId) (s : State) : KeepsNext s (execSluiceHold core s) :=
  .of (keeps_ite (takeHold_keeps _ _ (.refl _)) (.refl _))

theorem execBlockBeat_keeps (s : State) : KeepsNext s (execBlockBeat s) :=
  .of (keeps_ite (serveHost_keeps _ (servePeers_keeps _ (watch_keeps _ (beginBeat_keeps _ (endBeat_keeps _ (.refl _))))))
    (.refl _))

/-! ## Matrix slot -/

theorem execMmaLanding_keeps (core : CoreId) (s : State) : KeepsNext s (execMmaLanding core s) :=
  .of (commitDue_keeps _ _ _ (.refl _))

theorem execFixedResultVisible_keeps (core : CoreId) (s : State) : KeepsNext s (execFixedResultVisible core s) :=
  .of (commitDue_keeps _ _ _ (.refl _))

/-! ## Side-band readings -/

theorem execGetSensorReading_keeps (id : BitVec 16) (s : State) : KeepsNext s (execGetSensorReading id s) := by
  refine .side s fun _ ht => ?_
  split
  · split
    · exact respond_keeps _ _ _ ht
    · exact drawn_keeps _ (respond_keeps _ _ _ ht)
  · exact respond_keeps _ _ _ ht
  · exact respond_keeps _ _ _ ht
  · exact respond_keeps _ _ _ ht
  · exact respond_keeps _ _ _ ht

theorem execGetStateSensorReadings_keeps (id : BitVec 16) (s : State) : KeepsNext s (execGetStateSensorReadings id s) := by
  refine .side s fun _ ht => ?_
  split
  · exact respond_keeps _ _ _ ht
  · exact respond_keeps _ _ _ ht
  · exact respond_keeps _ _ _ ht
  · exact respond_keeps _ _ _ ht

/-! ## Every command -/

/-- Every command but a power cycle gives a next state that keeps the queue, the canonical tables, the fuses and the latches. -/
theorem exec_keeps (i : Instr) (s : State) (hp : i ≠ .powerCycle) (hv : i ≠ .vstbyLow) : KeepsNext s (exec i s) := by
  cases i with
  | mnop _ => exact .slot s _ _ _ fun _ _ h => h
  | mma _ => exact .slot s _ _ _ fun _ _ h => mmaEffect_keeps _ _ _ h
  | mout _ => exact .slot s _ _ _ fun _ _ h => moutEffect_keeps _ _ _ h
  | mclr _ => exact .slot s _ _ _ fun _ _ h => mclrEffect_keeps _ _ _ h
  | mmaLanding core => exact execMmaLanding_keeps core s
  | fixedResultVisible core => exact execFixedResultVisible_keeps core s
  | vnop _ => exact .slot s _ _ _ fun _ _ h => h
  | vadd _ => exact .slot s _ _ _ fun _ _ h => vBinary_keeps _ _ _ _ _ h
  | vsub _ => exact .slot s _ _ _ fun _ _ h => vBinary_keeps _ _ _ _ _ h
  | vmul _ => exact .slot s _ _ _ fun _ _ h => vBinary_keeps _ _ _ _ _ h
  | vfma _ => exact .slot s _ _ _ fun _ _ h => vTernary_keeps _ _ _ _ _ h
  | vmax _ => exact .slot s _ _ _ fun _ _ h => vBinary_keeps _ _ _ _ _ h
  | vmin _ => exact .slot s _ _ _ fun _ _ h => vBinary_keeps _ _ _ _ _ h
  | vcmp _ => exact .slot s _ _ _ fun _ _ h => vcmpEffect_keeps _ _ _ h
  | vsel _ => exact .slot s _ _ _ fun _ _ h => vTernary_keeps _ _ _ _ _ h
  | vand _ => exact .slot s _ _ _ fun _ _ h => vBinary_keeps _ _ _ _ _ h
  | vor _ => exact .slot s _ _ _ fun _ _ h => vBinary_keeps _ _ _ _ _ h
  | vxor _ => exact .slot s _ _ _ fun _ _ h => vBinary_keeps _ _ _ _ _ h
  | vmov _ => exact .slot s _ _ _ fun _ _ h => vUnary_keeps _ _ _ _ _ h
  | vbcst _ => exact .slot s _ _ _ fun _ _ h => vbcstEffect_keeps _ _ _ h
  | vget _ => exact .slot s _ _ _ fun _ _ h => vgetEffect_keeps _ _ _ h
  | vrot _ => exact .slot s _ _ _ fun _ _ h => vrotEffect_keeps _ _ _ h
  | vexp2 _ => exact .slot s _ _ _ fun _ _ h => vUnary_keeps _ _ _ _ _ h
  | vrcp _ => exact .slot s _ _ _ fun _ _ h => vUnary_keeps _ _ _ _ _ h
  | vrsq _ => exact .slot s _ _ _ fun _ _ h => vUnary_keeps _ _ _ _ _ h
  | vcvt _ => exact .slot s _ _ _ fun _ _ h => vcvtEffect_keeps _ _ _ h
  | vrmax _ => exact .slot s _ _ _ fun _ _ h => vrmaxEffect_keeps _ _ _ h
  | vxadd _ => exact .slot s _ _ _ fun _ _ h => vxaddEffect_keeps _ _ _ h
  | vxrd _ => exact .slot s _ _ _ fun _ _ h => vxrdEffect_keeps _ _ _ h
  | vnscl _ => exact .slot s _ _ _ fun _ _ h => vnsclEffect_keeps _ _ _ h
  | lnop _ => exact .slot s _ _ _ fun _ _ h => h
  | ldv _ => exact .slot s _ _ _ fun _ _ h => ldvEffect_keeps _ _ _ h
  | stv _ => exact .slot s _ _ _ fun _ _ h => stvEffect_keeps _ _ _ h
  | lds _ => exact .slot s _ _ _ fun _ _ h => ldsEffect_keeps _ _ _ h
  | sts _ => exact .slot s _ _ _ fun _ _ h => stsEffect_keeps _ _ _ h
  | ldt _ => exact .slot s _ _ _ fun _ _ h => ldtEffect_keeps _ _ _ h
  | vld _ => exact .slot s _ _ _ fun _ _ h => vldEffect_keeps _ _ _ h
  | vst _ => exact .slot s _ _ _ fun _ _ h => vstEffect_keeps _ _ _ h
  | vldv _ => exact .slot s _ _ _ fun _ _ h => vldvEffect_keeps _ _ _ h
  | gst _ => exact .slot s _ _ _ fun _ _ h => gstEffect_keeps _ _ _ h
  | groupStoreLanding core => exact execGroupStoreLanding_keeps core s
  | fence _ => exact .slot s _ _ _ fun _ _ h => fenceEffect_keeps _ _ _ h
  | pin _ => exact .of (pgkSlot_keeps s _ _ (.refl s))
  | unpin _ => exact .of (pgkSlot_keeps s _ _ (.refl s))
  | share _ => exact .of (pgkSlot_keeps s _ _ (.refl s))
  | writeIntent _ => exact .of (pgkSlot_keeps s _ _ (.refl s))
  | free _ => exact .of (pgkSlot_keeps s _ _ (.refl s))
  | dbell _ => exact .slot s _ _ _ fun _ _ h => dbellEffect_keeps _ _ _ h
  | cnop _ => exact .slot s _ _ _ fun _ _ h => h
  | wait _ => exact .slot s _ _ _ fun _ _ h => waitEffect_keeps _ _ _ h
  | waitResume core => exact execWaitResume_keeps core s
  | watch _ => exact .slot s _ _ _ fun _ _ h => watchEffect_keeps _ _ _ h
  | signal _ => exact .slot s _ _ _ fun _ _ h => signalEffect_keeps _ _ _ _ h
  | signalF _ => exact .slot s _ _ _ fun _ _ h => signalEffect_keeps _ _ _ _ h
  | br _ => exact .slot s _ _ _ fun _ _ h => branch_keeps _ _ _ _ h
  | brz _ => exact .slot s _ _ _ fun _ _ h => branch_keeps _ _ _ _ h
  | brnz _ => exact .slot s _ _ _ fun _ _ h => branch_keeps _ _ _ _ h
  | brdec _ => exact .slot s _ _ _ fun _ _ h => brdecEffect_keeps _ _ _ h
  | endSched _ => exact .slot s _ _ _ fun _ _ h => endEffect_keeps _ _ _ h
  | phase _ => exact .slot s _ _ _ fun _ _ h => phaseEffect_keeps _ _ _ h
  | hint _ => exact .slot s _ _ _ fun _ _ h => hintEffect_keeps _ _ _ h
  | sadd _ => exact .slot s _ _ _ fun _ _ h => scalarEffect_keeps _ _ _ _ _ h
  | ssub _ => exact .slot s _ _ _ fun _ _ h => scalarEffect_keeps _ _ _ _ _ h
  | smul _ => exact .slot s _ _ _ fun _ _ h => scalarEffect_keeps _ _ _ _ _ h
  | sand _ => exact .slot s _ _ _ fun _ _ h => scalarEffect_keeps _ _ _ _ _ h
  | sor _ => exact .slot s _ _ _ fun _ _ h => scalarEffect_keeps _ _ _ _ _ h
  | sxor _ => exact .slot s _ _ _ fun _ _ h => scalarEffect_keeps _ _ _ _ _ h
  | sshl _ => exact .slot s _ _ _ fun _ _ h => scalarEffect_keeps _ _ _ _ _ h
  | sshr _ => exact .slot s _ _ _ fun _ _ h => scalarEffect_keeps _ _ _ _ _ h
  | ssra _ => exact .slot s _ _ _ fun _ _ h => scalarEffect_keeps _ _ _ _ _ h
  | slt _ => exact .slot s _ _ _ fun _ _ h => scalarEffect_keeps _ _ _ _ _ h
  | sltu _ => exact .slot s _ _ _ fun _ _ h => scalarEffect_keeps _ _ _ _ _ h
  | smovhi _ => exact .slot s _ _ _ fun _ _ h => smovhiEffect_keeps _ _ _ h
  | loadComplete core op => exact execLoadComplete_keeps core op s
  | storeComplete core op => exact execStoreComplete_keeps core op s
  | fenceComplete core op => exact execFenceComplete_keeps core op s
  | pgkCallComplete call => exact execPgkCallComplete_keeps call s
  | pageCopyComplete call => exact execPageCopyComplete_keeps call s
  | sluiceHold core => exact execSluiceHold_keeps core s
  | outboxRelease core => exact execOutboxRelease_keeps core s
  | signalArrival counter => exact execSignalArrival_keeps counter s
  | watchRegistrationArrival counter => exact execWatchRegistrationArrival_keeps counter s
  | watchCancelArrival counter => exact execWatchCancelArrival_keeps counter s
  | notificationArrival core slot => exact execNotificationArrival_keeps core slot s
  | synCntWrite _ _ _ => exact .path s _ _ _
  | synAddWrite _ _ _ => exact .path s _ _ _
  | hostWatchArm _ _ _ => exact .path s _ _ _
  | hostWatchCancel _ _ _ => exact .path s _ _ _
  | deadlock part job => exact execDeadlock_keeps part job s
  | dmaDbell _ _ _ => exact .path s _ _ _
  | descriptorFetch region chan => exact execDescriptorFetch_keeps region chan s
  | dmaReadReturn region chan => exact execDmaReadReturn_keeps region chan s
  | dmaWriteResponse region chan => exact execDmaWriteResponse_keeps region chan s
  | descriptorComplete region chan => exact execDescriptorComplete_keeps region chan s
  | descriptorError region chan => exact execDescriptorError_keeps region chan s
  | dmaAbort _ _ _ => exact .path s _ _ _
  | dmaDrainEnd region chan => exact execDmaDrainEnd_keeps region chan s
  | dmaAllocWrite _ _ _ _ => exact .path s _ _ _
  | pgkCallPin _ _ _ => exact .path s _ _ _
  | pgkCallUnpin _ _ _ => exact .path s _ _ _
  | pgkCallShare _ _ _ => exact .path s _ _ _
  | pgkCallWriteIntent _ _ => exact .path s _ _ _
  | pgkCallFree _ _ => exact .path s _ _ _
  | query _ _ => exact .path s _ _ _
  | pgkEnable _ _ _ _ => exact .path s _ _ _
  | pgkScanDone part => exact execPgkScanDone_keeps part s
  | pgkDisable _ _ => exact .path s _ _ _
  | pgkDisableDone part => exact execPgkDisableDone_keeps part s
  | scoutRequest region => exact execScoutRequest_keeps region s
  | scoutDone region => exact execScoutDone_keeps region s
  | scoutEnable _ _ _ _ => exact .path s _ _ _
  | nbRecordWrite path col data => exact execNbRecordWrite_keeps path col data s
  | nbSequenceStart col => exact execNbSequenceStart_keeps col s
  | nbSliceEnd col => exact execNbSliceEnd_keeps col s
  | nbOverrun col => exact execNbOverrun_keeps col s
  | nbSequenceDone col => exact execNbSequenceDone_keeps col s
  | act col pos bank row => exact execAct_keeps col pos bank row s
  | rd col pos bank burst auto => exact execRd_keeps col pos bank burst auto s
  | wr col pos bank burst auto sent => exact execWr_keeps col pos bank burst auto sent s
  | pre col pos bank all => exact execPre_keeps col pos bank all s
  | ref col pos => exact execRef_keeps col pos s
  | sre col pos => exact execSre_keeps col pos s
  | srx col pos => exact execSrx_keeps col pos s
  | mrr col pos reg => exact execMrr_keeps col pos reg s
  | mrw col pos reg value => exact execMrw_keeps col pos reg value s
  | nbl col pos k value => exact execNbl_keeps col pos k value s
  | nbgo col pos units => exact execNbgo_keeps col pos units s
  | nbs col pos => exact execNbs_keeps col pos s
  | nba col pos => exact execNba_keeps col pos s
  | tierCommandReject col packet => exact execTierCommandReject_keeps col packet s
  | vcAlert col onCommand => exact execVcAlert_keeps col onCommand s
  | refreshDue col tier => exact execRefreshDue_keeps col tier s
  | tierTempFrame col temp => exact execTierTempFrame_keeps col temp s
  | columnCool col => exact execColumnCool_keeps col s
  | tierTempLost col => exact execTierTempLost_keeps col s
  | hostRd hdr => exact execHostRd_keeps hdr s
  | hostWr hdr data => exact execHostWr_keeps hdr data s
  | cpl tid data => exact execCpl_keeps tid data s
  | wrsp tid => exact execWrsp_keeps tid s
  | err tid cause => exact execErr_keeps tid cause s
  | hostTimeout tid => exact execHostTimeout_keeps tid s
  | peerWr port tid len addr data => exact execPeerWr_keeps port tid len addr data s
  | peerRd port tid len addr => exact execPeerRd_keeps port tid len addr s
  | peerSig port tid amount counter => exact execPeerSig_keeps port tid amount counter s
  | ack port tid => exact execAck_keeps port tid s
  | nack port tid cause => exact execNack_keeps port tid cause s
  | rdata port tid len data => exact execRdata_keeps port tid len data s
  | crd port req data => exact execCrd_keeps port req data s
  | pace port f reason period seq => exact execPace_keeps port f reason period seq s
  | init port blockId req data => exact execInit_keeps port blockId req data s
  | peerMessageMalformed port tid => exact execPeerMessageMalformed_keeps port tid s
  | peerLinkUp port => exact execPeerLinkUp_keeps port s
  | peerLinkDown port => exact execPeerLinkDown_keeps port s
  | peerInitTimeout port => exact execPeerInitTimeout_keeps port s
  | peerAccessTimeout port tid => exact execPeerAccessTimeout_keeps port tid s
  | creditReturnDue port => exact execCreditReturnDue_keeps port s
  | pacePeriodEnd port => exact execPacePeriodEnd_keeps port s
  | paceExpire port => exact execPaceExpire_keeps port s
  | peerEnable _ _ => exact .path s _ _ _
  | peerDisable _ _ => exact .path s _ _ _
  | loopSample => exact execLoopSample_keeps s
  | loopApply => exact execLoopApply_keeps s
  | loopOpen _ _ _ => exact .path s _ _ _
  | loopClose _ _ _ => exact .path s _ _ _
  | loopOpenExpired region => exact execLoopOpenExpired_keeps region s
  | capWrite _ _ _ => exact .path s _ _ _
  | floorWrite _ _ _ => exact .path s _ _ _
  | hintPrepStart core phase => exact execHintPrepStart_keeps core phase s
  | hintPrepEnd core phase => exact execHintPrepEnd_keeps core phase s
  | marginTrim core passAt passBelow roscPct => exact execMarginTrim_keeps core passAt passBelow roscPct s
  | pwmPeriod vr inp => exact execPwmPeriod_keeps vr inp s
  | phaseBalance vr mA => exact execPhaseBalance_keeps vr mA s
  | phaseSuspect vr ph => exact execPhaseSuspect_keeps vr ph s
  | phaseDisable vr ph => exact execPhaseDisable_keeps vr ph s
  | shedStep vr meanMA => exact execShedStep_keeps vr meanMA s
  | addBack vr => exact execAddBack_keeps vr s
  | undershootTrip trip => exact execUndershootTrip_keeps trip s
  | shedSuspendEnd vr => exact execShedSuspendEnd_keeps vr s
  | hiccup vr => exact execHiccup_keeps vr s
  | hiccupEnd vr => exact execHiccupEnd_keeps vr s
  | stageWarning vr stage temp => exact execStageWarning_keeps vr stage temp s
  | stageShutdown vr stage temp => exact execStageShutdown_keeps vr stage temp s
  | senseExclude core sensor => exact execSenseExclude_keeps core sensor s
  | senseRemoteFallback core => exact execSenseRemoteFallback_keeps core s
  | brownOut core => exact execBrownOut_keeps core s
  | tieClose core => exact execTieClose_keeps core s
  | corePowerRequest _ _ _ => exact .path s _ _ _
  | retainComplete core => exact execRetainComplete_keeps core s
  | powerUpGrant region => exact execPowerUpGrant_keeps region s
  | inrushForce region => exact execInrushForce_keeps region s
  | rampEnd region => exact execRampEnd_keeps region s
  | rampTimeout vr => exact execRampTimeout_keeps vr s
  | retentionFault region => exact execRetentionFault_keeps region s
  | adcConversion region conv code ovr => exact execAdcConversion_keeps region conv code ovr s
  | tlmSpot _ _ _ _ => exact .path s _ _ _
  | tlmSnap _ _ _ => exact .path s _ _ _
  | refSettle vref => exact execRefSettle_keeps vref s
  | tlmRefTimeout region => exact execTlmRefTimeout_keeps region s
  | tlmStale region chan => exact execTlmStale_keeps region chan s
  | telemetryWindowEnd => exact execTelemetryWindowEnd_keeps s
  | jobEnergyClear _ _ => exact .path s _ _ _
  | sensorConversion sensor reading => exact execSensorConversion_keeps sensor reading s
  | sensorSuspectClear _ _ => exact .path s _ _ _
  | coolantOkFall => exact execCoolantOkFall_keeps s
  | coolantLoss => exact execCoolantLoss_keeps s
  | coolantOkRise => exact execCoolantOkRise_keeps s
  | coolantRecoverOk => exact execCoolantRecoverOk_keeps s
  | resume _ => exact .path s _ _ _
  | faultEvent src loc job tag => exact execFaultEvent_keeps src loc job tag s
  | brokenWire src loc reading => exact execBrokenWire_keeps src loc reading s
  | collectorMismatch => exact execCollectorMismatch_keeps s
  | faultWindowClose src => exact execFaultWindowClose_keeps src s
  | faultClear _ _ _ => exact .path s _ _ _
  | faultInjectArm _ _ => exact .path s _ _ _
  | errPulseEnd => exact execErrPulseEnd_keeps s
  | errHeldClear _ => exact .path s _ _ _
  | eventArrival part src cls => exact execEventArrival_keeps part src cls s
  | eventWithdraw _ _ _ _ => exact .path s _ _ _
  | recordSelect part => exact execRecordSelect_keeps part s
  | recordWrite part => exact execRecordWrite_keeps part s
  | recordComplete part ok => exact execRecordComplete_keeps part ok s
  | messageSend part => exact execMessageSend_keeps part s
  | evqTailWrite _ _ _ => exact .path s _ _ _
  | evqEnable _ _ _ => exact .path s _ _ _
  | evqDisable _ _ _ => exact .path s _ _ _
  | idleEnter _ => exact .path s _ _ _
  | idleReached => exact execIdleReached_keeps s
  | idleWake _ => exact .path s _ _ _
  | launch _ _ => exact .path s _ _ _
  | jobStart part job => exact execJobStart_keeps part job s
  | partStop _ _ _ => exact .path s _ _ _
  | partitionCommit _ _ => exact .path s _ _ _
  | commitApply => exact execCommitApply_keeps s
  | entdaa _ => exact .ccc s fun _ ht => keeps_ite (send_keeps _ _ (modSide_keeps _ _ ht)) ht
  | setdasa _ => exact .ccc s fun _ ht => keeps_ite (modSide_keeps _ _ ht) (sideSend_keeps _ _ ht)
  | rstdaa => exact .ccc s fun _ ht => modSide_keeps _ _ ht
  | enec => exact .ccc s fun _ ht => modSide_keeps _ _ ht
  | disec => exact .ccc s fun _ ht => modSide_keeps _ _ ht
  | getpid => exact .ccc s fun _ ht => sideSend_keeps _ _ ht
  | getbcr => exact .ccc s fun _ ht => sideSend_keeps _ _ ht
  | getdcr => exact .ccc s fun _ ht => sideSend_keeps _ _ ht
  | getstatus => exact .ccc s fun _ ht => drawn_keeps _ (sideSend_keeps _ _ ht)
  | getmrl => exact .ccc s fun _ ht => sideSend_keeps _ _ ht
  | setmrl _ => exact .ccc s fun _ ht => modSide_keeps _ _ ht
  | getmwl => exact .ccc s fun _ ht => sideSend_keeps _ _ ht
  | setmwl _ => exact .ccc s fun _ ht => modSide_keeps _ _ ht
  | cccUnsupported _ => exact .ccc s fun _ ht => sideSend_keeps _ _ ht
  | ibi => exact .side s fun _ ht => keeps_ite (sideSend_keeps _ _ (modSide_keeps _ _ ht)) ht
  | setEndpointId _ => exact .side s fun _ ht => keeps_ite (respond_keeps _ _ _ ht) (respond_keeps _ _ _ (modSide_keeps _ _ ht))
  | getEndpointId => exact .side s fun _ ht => respond_keeps _ _ _ ht
  | getMctpVersionSupport => exact .side s fun _ ht => drawn_keeps _ (respond_keeps _ _ _ ht)
  | getMessageTypeSupport => exact .side s fun _ ht => respond_keeps _ _ _ ht
  | getTid => exact .side s fun _ ht => respond_keeps _ _ _ ht
  | getPldmVersion _ => exact .side s fun _ ht => keeps_ite (drawn_keeps _ (respond_keeps _ _ _ ht)) (respond_keeps _ _ _ ht)
  | getPldmTypes => exact .side s fun _ ht => respond_keeps _ _ _ ht
  | getPldmCommands _ => exact .side s fun _ ht => keeps_ite (respond_keeps _ _ _ ht) (respond_keeps _ _ _ ht)
  | getPdrRepositoryInfo => exact .side s fun _ ht => drawn_keeps _ (respond_keeps _ _ _ ht)
  | getPdr _ => exact .side s fun _ ht => keeps_ite (respond_keeps _ _ _ ht) (drawn_keeps _ (respond_keeps _ _ _ ht))
  | getSensorReading _ => exact execGetSensorReading_keeps _ s
  | getStateSensorReadings _ => exact execGetStateSensorReadings_keeps _ s
  | pldmUnsupported _ _ => exact .side s fun _ ht => respond_keeps _ _ _ ht
  | read32 _ _ => exact .side s fun _ ht => keeps_ite (sideRead_keeps _ _ ht) ht
  | write32 _ _ _ => exact .side s fun _ ht => keeps_ite (sideWrite_keeps _ _ _ _ ht) ht
  | read64 _ _ => exact .side s fun _ ht => keeps_ite (sideReadPair_keeps _ _ ht) ht
  | readLo _ _ => exact .side s fun _ ht => keeps_ite (sideRead_keeps _ _ ht) ht
  | stbyOkAssert => exact execStbyOkAssert_keeps s
  | pillarOkAssert => exact execPillarOkAssert_keeps s
  | pwrGoodAssert => exact execPwrGoodAssert_keeps s
  | rstNRelease => exact execRstNRelease_keeps s
  | rstNAssert => exact execRstNAssert_keeps s
  | supplyLoss pillar pwrGood => exact execSupplyLoss_keeps pillar pwrGood s
  | powerCycle => exact absurd rfl hp
  | vstbyLow => exact absurd rfl hv
  | pillarVoltageFault region => exact execPillarVoltageFault_keeps region s
  | refclkLost => exact execRefclkLost_keeps s
  | epochEdge => exact execEpochEdge_keeps s
  | epochEarly => exact execEpochEarly_keeps s
  | epochLost => exact execEpochLost_keeps s
  | epochArm _ => exact .path s _ _ _
  | imageReadComplete image => exact execImageReadComplete_keeps image s
  | imageVerifyComplete => exact execImageVerifyComplete_keeps s
  | trainingComplete fails => exact execTrainingComplete_keeps fails s
  | hold _ => exact .path s _ _ _
  | reboot _ => exact .path s _ _ _
  | dpd _ => exact .path s _ _ _
  | dpdReturn => exact execDpdReturn_keeps s
  | start _ _ => exact .path s _ _ _
  | updateData _ _ => exact .path s _ _ _
  | finish _ => exact .path s _ _ _
  | abort _ => exact .path s _ _ _
  | flashOperationDone ok => exact execFlashOperationDone_keeps ok s
  | flashTimeout => exact execFlashTimeout_keeps s
  | fuseProgram _ _ => exact .path s _ _ _
  | fuseProgramDone ok => exact execFuseProgramDone_keeps ok s
  | tstUnlock _ _ => exact .path s _ _ _
  | tstLock _ => exact .path s _ _ _
  | registerWrite _ _ _ => exact .path s _ _ _
  | blockBeat => exact execBlockBeat_keeps s
  | referenceClockReturn => exact execReferenceClockReturn_keeps s
  | referenceLock => exact execReferenceLock_keeps s
  | minimumIntervalEnd input => exact execMinimumIntervalEnd_keeps input s
  | sfdpReadComplete signature has144 => exact execSfdpReadComplete_keeps signature has144 s
  | coreStoreReady core => exact execCoreStoreReady_keeps core s
  | otWarnClear vr => exact execOtWarnClear_keeps vr s

/-! ## Canonical tables -/

theorem State.tablesWf_iff {s : State} : s.tablesWf = true ↔
    s.mem.wf = true ∧ tabWf (fun _ => Core.initial) s.cores = true ∧ tabWf checkDefault s.check = true ∧
      tabWf counterDefault s.sync.counters = true ∧ tabWf (fun _ => Channel.initial) s.dma = true ∧
      tabWf (fun _ => Peer.initial) s.peers = true := by
  simp [State.tablesWf, State.coresWf, and_assoc]

theorem Keeps.tablesWf {s t : State} (h : Keeps s t) (hs : s.tablesWf = true) : t.tablesWf = true := by
  obtain ⟨hmem, hcores, hcheck, hcounters, hdma, hpeers⟩ := tablesWf_iff.1 hs
  exact tablesWf_iff.2 ⟨h.mem hmem, h.cores hcores, h.check hcheck, h.counters hcounters, h.dma hdma, h.peers hpeers⟩

/-- A power cycle leaves the queue, and canonical tables canonical: most of them empty (R46). -/
theorem State.powerCycle_tablesWf (s : State) (stby : Bool) (hs : s.tablesWf = true) : (s.powerCycle stby).tablesWf = true := by
  obtain ⟨hmem, -, hcheck, -⟩ := tablesWf_iff.1 hs
  obtain ⟨-, kmem, -, kcores, kcheck, kcounters, kdma, kpeers⟩ := powerCycle_keeps s stby (.refl s)
  exact tablesWf_iff.2 ⟨kmem hmem, kcores, kcheck hcheck, kcounters, kdma, kpeers⟩

/-- The rows of a power cycle: what the block does when `STBY_OK` was high, nothing otherwise. -/
theorem powerCycleRow_tables (s : State) (stby : Bool) :
    let t := if s.pins.stbyOk then s.powerCycle stby else s
    (s.tablesWf = true → t.tablesWf = true) ∧ t.pending = s.pending := by
  dsimp only
  split
  · exact ⟨s.powerCycle_tablesWf stby, (powerCycle_keeps s stby (.refl s)).1⟩
  · exact ⟨id, rfl⟩

/-- Every command gives a next state, with canonical tables where they were canonical, and the queue as it was. -/
theorem exec_tables (i : Instr) (s : State) :
    ∃ t, exec i s = .next t ∧ (s.tablesWf = true → t.tablesWf = true) ∧ t.pending = s.pending := by
  by_cases hp : i = .powerCycle
  · subst hp
    exact ⟨_, rfl, powerCycleRow_tables s false⟩
  by_cases hv : i = .vstbyLow
  · subst hv
    exact ⟨_, rfl, powerCycleRow_tables s true⟩
  obtain ⟨t, ht, hk⟩ := exec_keeps i s hp hv
  exact ⟨t, ht, hk.tablesWf, hk.pending⟩

/-- Settles O58: a step runs the command at the front of the queue on the state with the queue's rest, and no command touches
that rest. -/
theorem stepKeepsTables : Obligations.StepKeepsTables := by
  unfold Obligations.StepKeepsTables
  intro s t h
  unfold step at h
  cases hq : s.pending with
  | nil =>
    rw [hq] at h
    cases h
    exact ⟨id, by simp [hq]⟩
  | cons c rest =>
    rw [hq] at h
    obtain ⟨u, hu, hwf, hrest⟩ := exec_tables c (s.setPending rest)
    cases h.symm.trans hu
    exact ⟨hwf, hrest⟩

end Sys2Proof.Machine
end

section
/-! SUPPORT. The beat is the state's clock: only the beginning of a beat and a power cycle set it. Every operation that a beat of a sync
counter can lead to, fault actions included, leaves it as it is. -/

namespace Sys2Proof.Machine

open State

/-! ## Branches and repetitions -/

theorem State.ite_beat {p : Prop} [Decidable p] (s t : State) : (if p then s else t).beat = if p then s.beat else t.beat :=
  apply_ite State.beat p s t

theorem State.ite_fst_beat {α : Type} {p : Prop} [Decidable p] (a b : State × α) :
    (if p then a else b).1.beat = if p then a.1.beat else b.1.beat :=
  apply_ite (fun x : State × α => x.1.beat) p a b

theorem State.each_beat {α : Type} {f : α → State → State} (h : ∀ a s, (f a s).beat = s.beat) (l : List α) (s : State) :
    (State.each l f s).beat = s.beat :=
  List.foldlRecOn (motive := fun t => t.beat = s.beat) l _ rfl fun t ht a _ => (h a t).trans ht

theorem State.foldl_beat {α β : Type} {f : State × β → α → State × β} (h : ∀ p a, (f p a).1.beat = p.1.beat) (l : List α)
    (p : State × β) : (l.foldl f p).1.beat = p.1.beat :=
  List.foldlRecOn (motive := fun q => q.1.beat = p.1.beat) l f rfl fun q hq a _ => (h q a).trans hq

/-! ## Fields of the state -/

section Fields
variable (s : State)

@[simp] theorem State.drawn_beat : s.drawn.beat = s.beat := rfl
@[simp] theorem State.putReg_beat (o v : Nat) : (s.putReg o v).beat = s.beat := rfl
@[simp] theorem State.modCore_beat (c : Nat) (f : Core → Core) : (s.modCore c f).beat = s.beat := rfl
@[simp] theorem State.putCore_beat (c : Nat) (x : Core) : (s.putCore c x).beat = s.beat := rfl
@[simp] theorem State.modSeq_beat (c : Nat) (f : Sequencer → Sequencer) : (s.modSeq c f).beat = s.beat := rfl
@[simp] theorem State.modPower_beat (c : Nat) (f : CorePower → CorePower) : (s.modPower c f).beat = s.beat := rfl
@[simp] theorem State.modChan_beat (r k : Nat) (f : Channel → Channel) : (s.modChan r k f).beat = s.beat := rfl
@[simp] theorem State.modColumn_beat (c : Nat) (f : Column → Column) : (s.modColumn c f).beat = s.beat := rfl
@[simp] theorem State.modLoop_beat (r : Nat) (f : RegionLoop → RegionLoop) : (s.modLoop r f).beat = s.beat := rfl
@[simp] theorem State.modJob_beat (p j : Nat) (f : Job → Job) : (s.modJob p j f).beat = s.beat := rfl
@[simp] theorem State.modScout_beat (r : Nat) (f : Scout → Scout) : (s.modScout r f).beat = s.beat := rfl
@[simp] theorem State.modBoot_beat (f : Boot → Boot) : (s.modBoot f).beat = s.beat := rfl
@[simp] theorem State.modFaults_beat (f : Faults → Faults) : (s.modFaults f).beat = s.beat := rfl
@[simp] theorem State.modCopies_beat (f : FaultCopy → FaultCopy) : (s.modCopies f).beat = s.beat := rfl
@[simp] theorem State.sendSync_beat (k : Packet) : (s.sendSync k).beat = s.beat := rfl
@[simp] theorem State.addField_beat (o lo len n : Nat) : (s.addField o lo len n).beat = s.beat := rfl
@[simp] theorem State.putCounter_beat (k : Nat) (v : BitVec 32) : (s.putCounter k v).beat = s.beat := rfl
@[simp] theorem State.putShares_beat (k : Nat) (l : Shares) : (s.putShares k l).beat = s.beat := rfl
@[simp] theorem State.enterWatch_beat (w : WatchEntry) : (s.enterWatch w).beat = s.beat := rfl
@[simp] theorem State.removeWatch_beat (k : Nat) (w : Watcher) : (s.removeWatch k w).beat = s.beat := rfl

@[simp] theorem State.mark_beat (o bits : Nat) : (s.mark o bits).beat = s.beat := by
  simp [State.mark, State.ite_beat]

end Fields

/-! ## Memory and staged results -/

section Results
variable (s : State)

@[simp] theorem State.markRows_beat (a n : Nat) (v : Bool) : (s.markRows a n v).beat = s.beat := by
  unfold State.markRows
  split
  · rfl
  · refine State.each_beat (fun k t => ?_) _ _
    dsimp only
    split <;> simp

@[simp] theorem State.writeMem_beat (a : Nat) (bs : List Byte) : (s.writeMem a bs).beat = s.beat := by
  simp [State.writeMem, State.ite_beat]

@[simp] theorem State.writeStore_beat (c off : Nat) (bs : List Byte) : (s.writeStore c off bs).beat = s.beat := by
  simp [State.writeStore]

@[simp] theorem State.commitOne_beat (c : Nat) (g : Staged) : (s.commitOne c g).1.beat = s.beat := by
  unfold State.commitOne
  dsimp only
  split <;> simp [State.ite_beat]

@[simp] theorem State.commitList_beat (c : Nat) (l : List Staged) : (s.commitList c l).1.beat = s.beat := by
  unfold State.commitList
  rw [State.foldl_beat]
  exact fun p g => State.commitOne_beat p.1 c g

@[simp] theorem State.commitWhere_beat (c : Nat) (due : Staged → Bool) : (s.commitWhere c due).1.beat = s.beat := by
  simp [State.commitWhere]

end Results

/-! ## Core power -/

section CorePower
variable (s : State)

@[simp] theorem State.vrOff_beat (v : Nat) : (s.vrOff v).beat = s.beat := rfl
@[simp] theorem State.loseRegs_beat (c : Nat) : (s.loseRegs c).beat = s.beat := rfl
@[simp] theorem State.loseStore_beat (c : Nat) : (s.loseStore c).beat = s.beat := rfl
@[simp] theorem State.setPstate_beat (c : Nat) (v : PowerState) : (s.setPstate c v).beat = s.beat := rfl
@[simp] theorem State.toTransit_beat (c : Nat) (v : PowerState) : (s.toTransit c v).beat = s.beat := rfl
@[simp] theorem State.coreOff_beat (c : Nat) (v : PowerState) : (s.coreOff c v).beat = s.beat := rfl
@[simp] theorem State.dropRequests_beat (r : Nat) : (s.dropRequests r).beat = s.beat := rfl
@[simp] theorem State.markOut_beat (c : Nat) : (s.markOut c).beat = s.beat := rfl

@[simp] theorem State.applyRequest_beat (c : Nat) (up : Bool) : (s.applyRequest c up).1.beat = s.beat := by
  unfold State.applyRequest
  dsimp only
  rw [State.ite_fst_beat]
  split
  · rfl
  · split
    case h_4 | h_5 =>
      rw [State.ite_fst_beat, State.ite_fst_beat]
      cases (s.core c).power.partner <;> simp [State.ite_fst_beat, State.ite_beat]
    all_goals simp [State.ite_fst_beat]

@[simp] theorem State.pendUp_beat (r : Nat) (l : List Nat) : (s.pendUp r l).beat = s.beat := by
  simp [State.pendUp, State.ite_beat]

@[simp] theorem State.actOnRequest_beat (r : Nat) (up : Bool) : (s.actOnRequest r up).beat = s.beat := by
  simp only [State.actOnRequest, State.pendUp_beat, State.dropRequests_beat]
  rw [State.foldl_beat]
  exact fun p c => State.applyRequest_beat p.1 c up

@[simp] theorem State.actOnRequests_beat : s.actOnRequests.beat = s.beat := by
  unfold State.actOnRequests
  rw [State.each_beat]
  exact fun r t => State.actOnRequest_beat t r true

@[simp] theorem State.railsOff_beat (service : Bool) : (s.railsOff service).beat = s.beat := by
  simp only [State.railsOff, State.ite_beat, State.modBoot_beat]
  rw [State.each_beat (f := fun r u => u.vrOff (256 + r)) (fun _ _ => rfl), ite_self, State.each_beat, State.each_beat]
  · simp [State.ite_beat]
  · simp

@[simp] theorem State.selfRefreshAll_beat : s.selfRefreshAll.beat = s.beat := by
  unfold State.selfRefreshAll
  rw [State.each_beat]
  simp

@[simp] theorem State.retire_beat (c : Nat) : (s.retire c).beat = s.beat := by
  unfold State.retire
  dsimp only
  split <;> simp [State.ite_beat]

end CorePower
/-! ## Waking and stopping -/

section Stopping
variable (s : State)

@[simp] theorem State.drivePin_beat (cls : Nat) : (s.drivePin cls).beat = s.beat := by simp [State.drivePin, State.ite_beat]

@[simp] theorem State.arriveQuiet_beat (p k cls : Nat) : (s.arriveQuiet p k cls).beat = s.beat := rfl
@[simp] theorem State.recordWake_beat (cause k : Nat) : (s.recordWake cause k).beat = s.beat := rfl

@[simp] theorem State.beginWake_beat (cause k : Nat) (act : Bool) : (s.beginWake cause k act).beat = s.beat := by
  simp only [State.beginWake, State.ite_beat, State.actOnRequests_beat, ite_self]
  rw [State.each_beat]
  · simp
  · simp [State.ite_beat]

@[simp] theorem State.wakeCause_beat (cause k : Nat) (act : Bool) : (s.wakeCause cause k act).beat = s.beat := by
  unfold State.wakeCause
  cases s.boot.wakeMet <;> simp [State.ite_beat]

@[simp] theorem State.arrive_beat (p k cls : Nat) : (s.arrive p k cls).beat = s.beat := by simp [State.arrive, State.ite_beat]

@[simp] theorem State.cancelWatches_beat (c : Nat) : (s.cancelWatches c).beat = s.beat := by
  unfold State.cancelWatches
  rw [State.each_beat, State.modCore_beat]
  intro e t
  split
  · split <;> simp
  · rfl

@[simp] theorem State.landGroups_beat (c : Nat) : (s.landGroups c).beat = s.beat := by
  unfold State.landGroups
  rw [State.each_beat]
  simp [State.ite_beat]

@[simp] theorem State.haltCore_beat (c cause : Nat) (ended : Bool) : (s.haltCore c cause ended).1.beat = s.beat := by
  simp [State.haltCore]

@[simp] theorem State.haltChannels_beat (j : PartId × Fin 16) : (s.haltChannels j).beat = s.beat := by
  unfold State.haltChannels
  rw [State.each_beat]
  simp [State.ite_beat]

@[simp] theorem State.dropRecords_beat (j : PartId × Fin 16) : (s.dropRecords j).beat = s.beat := by
  unfold State.dropRecords
  rw [State.each_beat]
  simp

@[simp] theorem State.stopJob_beat (j : PartId × Fin 16) : (s.stopJob j).1.beat = s.beat := by
  simp only [State.stopJob, State.ite_fst_beat, State.dropRecords_beat, State.haltChannels_beat, State.modJob_beat]
  rw [State.foldl_beat, ite_self]
  simp [State.ite_fst_beat]

@[simp] theorem State.stopJobs_beat : s.stopJobs.1.beat = s.beat := by
  unfold State.stopJobs
  rw [State.foldl_beat]
  intro p x
  split <;> simp

@[simp] theorem State.lockPerturb_beat : s.lockPerturb.beat = s.beat := rfl

@[simp] theorem State.enterSafe_beat : s.enterSafe.1.beat = s.beat := by simp [State.enterSafe]

@[simp] theorem State.enterGrave_beat : s.enterGrave.1.beat = s.beat := by simp [State.enterGrave]

end Stopping

/-! ## Events -/

section Events
variable (s : State)

@[simp] theorem State.hitSource_beat (k : Nat) (parts : List Nat) : (s.hitSource k parts).1.beat = s.beat := by
  simp only [State.hitSource, State.ite_beat, State.wakeCause_beat, ite_self]
  rw [State.each_beat]
  · simp
  · simp

/-- An event and those that its actions raise, by induction on their depth. -/
theorem State.raiseN_beat : ∀ (fuel : Nat) (ev : Ev) (s : State), (State.raiseN fuel ev s).beat = s.beat
  | 0, _, _ => rfl
  | fuel + 1, ev, s => by
    have ih := State.raiseN_beat fuel
    unfold State.raiseN
    rw [State.ite_beat, State.each_beat, State.foldl_beat, ite_self]
    · exact fun p k => State.hitSource_beat p.1 k _
    · intro h t
      dsimp only
      rw [State.each_beat (fun c u => ih _ u)]
      have hmap : ∀ (cores : List Nat) (f : Nat → State → State), (∀ c u, (f c u).beat = u.beat) →
          (if h.1 < 272 ∧ 1 ≤ h.2 then State.each cores f t else t).beat = t.beat := fun cores f hf => by
        rw [State.ite_beat, State.each_beat hf, ite_self]
      cases ev.job <;> simp only [State.ite_fst_beat, State.stopJob_beat, State.enterSafe_beat, State.enterGrave_beat, ite_self]
      all_goals
        refine hmap _ _ fun c u => ?_
        simp [State.ite_beat, ih]

@[simp] theorem State.raise_beat (ev : Ev) : (s.raise ev).beat = s.beat := State.raiseN_beat 4 ev s

@[simp] theorem State.endJob_beat (j : PartId × Fin 16) : (s.endJob j).beat = s.beat := by
  unfold State.endJob
  rw [State.each_beat, State.stopJob_beat]
  exact fun c t => State.raise_beat t _

end Events

/-! ## Sync counters -/

section Counters
variable (s : State)

@[simp] theorem State.answerAdd_beat (sat : Bool) (o : Origin) : (s.answerAdd sat o).beat = s.beat := by
  unfold State.answerAdd
  split <;> rfl

@[simp] theorem State.stirWatchers_beat (k : Nat) : (s.stirWatchers k).beat = s.beat := by
  unfold State.stirWatchers
  rw [State.each_beat]
  intro w t
  rw [State.ite_beat]
  split
  · split
    · split <;> rfl
    · rfl
  · rfl

@[simp] theorem State.addSum_beat (k : Nat) (adds : List (BitVec 32 × Origin)) : (s.addSum k adds).beat = s.beat := by
  simp only [State.addSum, State.ite_beat]
  rw [State.each_beat, State.ite_beat, State.ite_beat, State.each_beat]
  · simp
  · simp
  · simp

@[simp] theorem State.fire_beat (w : WatchEntry) : (s.fire w).beat = s.beat := by
  unfold State.fire
  dsimp only
  split
  · simp [State.ite_beat]
  · simp [State.ite_beat]
  · split <;> simp [State.ite_beat]

@[simp] theorem State.evaluate_beat (k : Nat) : (s.evaluate k).beat = s.beat := by
  unfold State.evaluate
  rw [State.each_beat]
  simp [State.ite_beat]

@[simp] theorem State.counterBeat_beat (k : Nat) (ps : List Packet) (v : Option (BitVec 32)) :
    (s.counterBeat k ps v).beat = s.beat := by
  simp only [State.counterBeat, State.evaluate_beat]
  rw [State.each_beat, State.addSum_beat]
  · cases v <;> simp only [State.putShares_beat, State.putCounter_beat]
    all_goals
      rw [State.each_beat (fun w t => State.removeWatch_beat t k w), State.setSync_beat]
  · intro p t
    split
    · simp [State.ite_beat]
    · rfl

theorem State.catchUp_beat (k : Nat) : ∀ (fuel : Nat) (s : State), (State.catchUp k fuel s).beat = s.beat
  | 0, _ => rfl
  | fuel + 1, s => by
    unfold State.catchUp
    simp [State.ite_beat, State.catchUp_beat k fuel]

@[simp] theorem State.caughtUp_beat (k : Nat) : (s.caughtUp k).beat = s.beat := State.catchUp_beat k _ s

@[simp] theorem State.caughtUp_now (k : Nat) : (s.caughtUp k).now = s.now := congrArg BitVec.toNat (s.caughtUp_beat k)

end Counters

end Sys2Proof.Machine
end

section
/-! SUPPORT. A register write that its rule must serve in a later beat waits, on either path. -/

namespace Sys2Proof.Machine

/-- The transaction that a command without a message of its own makes. -/
def pathTx (p : Path) (o v : Nat) : HeldTx :=
  { req := asks p, read := false, addr := windowBase + o, len := 4, data := leBytes 4 v, why := .wait }

/-- What the checks of a path come to where they all pass: the register's rule, whose reply decides what follows. -/
theorem State.pathWrite_retry {s t : State} {p : Path} {o v : Nat} (h : s.pathAdmits p o = true) (hv : v < 2 ^ 32)
    (hw : s.writeReg (asks p) o v = (t, .retry)) : s.pathWrite p o v = s.hold (pathTx p o v) := by
  cases p with
  | side =>
    simp only [State.pathAdmits, Bool.and_eq_true, decide_eq_true_eq, Bool.or_eq_true, Bool.not_eq_true', decide_eq_false_iff_not] at h
    obtain ⟨⟨h4, hwin⟩, hopen, hg⟩ := h
    have hg' : (decide (s.blockState = 6) && !alwaysOnReg o) = false := by
      rcases hg with hg | hg <;> simp [hg]
    have hq : (⟨.side, none⟩ : Request) = asks .side := rfl
    simp only [State.pathWrite, hopen, if_true, State.sideWrite, h4, ne_eq, not_true_eq_false, if_false, hg', Bool.false_eq_true,
      show ¬ windowSize ≤ o by omega, Nat.mod_eq_of_lt hv, hq, hw, pathTx]
  | host tag =>
    simp only [State.pathAdmits, Bool.and_eq_true, decide_eq_true_eq, Bool.not_eq_true'] at h
    obtain ⟨⟨h4, hwin⟩, ⟨⟨⟨hready, hshut⟩, hawake⟩, hwait⟩, hadm⟩ := h
    have hreg : regOf (windowBase + o) = some o := by simp [regOf, hwin]
    have hshut' : s.hostShut (pathTx (.host tag) o v) = false := hshut
    have hwait' : s.mustWait (pathTx (.host tag) o v) = false := hwait
    have hidle : s.boot.base ≠ .idle := by
      simp only [State.awake, Bool.and_eq_true, Bool.not_eq_true', decide_eq_false_iff_not] at hawake
      exact hawake.1
    have htake : s.takeRegister (pathTx (.host tag) o v) = s.hold (pathTx (.host tag) o v) := by
      have htag : reqTag (asks (.host tag)) = tag.val := rfl
      simp [State.takeRegister, pathTx, State.regShape, h4, htag, hadm, bytesLe_leBytes4 v hv, hw]
    have harrive : s.hostArrive (pathTx (.host tag) o v) = s.hold (pathTx (.host tag) o v) := by
      have hregTx : regOf (pathTx (.host tag) o v).addr = some o := hreg
      simp only [State.hostArrive, hshut', hidle, hwait', hregTx, htake, decide_false, Bool.false_and, Bool.false_eq_true, if_false]
    have hrow : s.pathWrite (.host tag) o v = s.hostTake (pathTx (.host tag) o v) := by
      simp only [State.pathWrite, hready, Nat.mod_eq_of_lt hv, pathTx, asks, Bool.not_true, Bool.false_eq_true, if_false]
    have hquiet : quietRead (pathTx (.host tag) o v) = false := rfl
    rw [hrow, State.hostTake, hquiet, harrive]
    simp [State.wokenBy, hawake]

end Sys2Proof.Machine
end

section
/-! SUPPORT. The writes of the DMA, sync and scout registers: which rule of the register file each of them meets. -/

namespace Sys2Proof.Machine

/-! ## The registers of the engines -/

/-- No section of the image loads a register of a region's DMA engine or sync unit. -/
theorem regionMask_engines {x : Nat} (hlo : 0xA0000 ≤ x) (hhi : x < 0xE0000) : regionMask x = none := by
  simp [regionMask, show ¬ x < 0x1000 by omega, show ¬ x = 0x1000 by omega, show ¬ x = 0x20020 by omega, show ¬ x < 0x20020 by omega,
    show ¬ x < 0x41000 by omega, show ¬ x < 0x61000 by omega, show ¬ x = 0xE0000 by omega]

/-- A region's block and the offset in it, of a register of the block. -/
theorem regionBase_split {r x : Nat} (hr : r < 16) (hx : x < 0x100000) :
    (regionBase r + x - 0x800000) / 0x100000 = r ∧ (regionBase r + x - 0x800000) % 0x100000 = x ∧
      0x800000 ≤ regionBase r + x ∧ regionBase r + x < 0x1800000 := by
  unfold regionBase
  omega

theorem imageLoads_of_imageMask {o : Nat} (h : imageMask o = none) : imageLoads o = false ∧ hostBarred o = false := by
  have : imageLoads o = false := by simp [imageLoads, h]
  exact ⟨this, by simp [hostBarred, this]⟩

theorem imageMask_engines {r x : Nat} (hr : r < 16) (hlo : 0xA0000 ≤ x) (hhi : x < 0xE0000) : imageMask (regionBase r + x) = none := by
  obtain ⟨-, hmod, hge, hlt⟩ := regionBase_split hr (show x < 0x100000 by omega)
  simp [imageMask, hmod, hge, hlt, regionMask_engines hlo hhi]

theorem writeReg_engines {s : State} {q : Request} {r x v : Nat} (hr : r < 16) (hlo : 0xA0000 ≤ x) (hhi : x < 0xE0000) :
    s.writeReg q (regionBase r + x) v = s.writeRegion q r x v := by
  obtain ⟨hdiv, hmod, hge, hlt⟩ := regionBase_split hr (show x < 0x100000 by omega)
  obtain ⟨hload, hbar⟩ := imageLoads_of_imageMask (imageMask_engines hr hlo hhi)
  have hout : ∀ n, n ≤ 0x800000 → ¬ regionBase r + x < n := fun n hn => by omega
  unfold State.writeReg
  rw [hbar, hload, Bool.and_false, Bool.false_and, if_neg Bool.false_ne_true, if_neg Bool.false_ne_true, if_neg (hout _ (by decide)),
    if_neg (hout _ (by decide)), if_neg (hout _ (by decide)), if_neg (hout _ (by decide)), if_neg (hout _ (by decide)), if_pos hlt, hdiv, hmod]

theorem writeReg_dma {s : State} {q : Request} {r x v : Nat} (hr : r < 16) (hx : x < 0x1000) :
    s.writeReg q (dmaBase r + x) v = s.writeDma q r x v := by
  have ho : dmaBase r + x = regionBase r + (0xA0000 + x) := Nat.add_assoc ..
  rw [ho, writeReg_engines hr (by omega) (by omega)]
  simp [State.writeRegion, show 0xA0000 + x < 0xA1000 by omega, show ¬ 0xA0000 + x < 0x80108 by omega,
    show ¬ 0xA0000 + x = 0x600C0 by omega, show ¬ 0xA0000 + x = 0x600C8 by omega, show ¬ 0xA0000 + x = 0x600CC by omega,
    show ¬ 0xA0000 + x = 0x600D0 by omega]

theorem writeReg_syn {s : State} {q : Request} {r x v : Nat} (hr : r < 16) (hx : x < 0x9000) :
    s.writeReg q (synBase r + x) v = s.writeSyn q r x v := by
  have ho : synBase r + x = regionBase r + (0xC0000 + x) := Nat.add_assoc ..
  rw [ho, writeReg_engines hr (by omega) (by omega)]
  simp [State.writeRegion, show 0xC0000 + x < 0xC9000 by omega, show ¬ 0xC0000 + x < 0x80108 by omega,
    show ¬ 0xC0000 + x < 0xA1000 by omega, show ¬ 0xC0000 + x = 0x600C0 by omega,
    show ¬ 0xC0000 + x = 0x600C8 by omega, show ¬ 0xC0000 + x = 0x600CC by omega,
    show ¬ 0xC0000 + x = 0x600D0 by omega]

section Rules
variable {s : State} {q : Request}

theorem writeReg_counter (k : Fin 65536) (v : BitVec 32) :
    s.writeReg q (synBase (k.val / 4096) + 4 * (k.val % 4096)) v.toNat = s.laterBeat (s.writeCounter k v) := by
  have hk : 4096 * (k.val / 4096) + 4 * (k.val % 4096) / 4 = k.val := by omega
  rw [writeReg_syn (by omega) (by omega)]
  simp only [State.writeSyn, show 4 * (k.val % 4096) < 0x4000 by omega, hk, w32, BitVec.ofNat_toNat, BitVec.setWidth_eq, if_true]

theorem writeReg_addition (k : Fin 65536) (v : BitVec 32) :
    s.writeReg q (synBase (k.val / 4096) + 0x4000 + 4 * (k.val % 4096)) v.toNat = (s.writeAdd k v q.path q.tid, .later) := by
  have hk : 4096 * (k.val / 4096) + (0x4000 + 4 * (k.val % 4096) - 0x4000) / 4 = k.val := by omega
  rw [Nat.add_assoc, writeReg_syn (by omega) (by omega)]
  simp only [State.writeSyn, show ¬ 0x4000 + 4 * (k.val % 4096) < 0x4000 by omega, show 0x4000 + 4 * (k.val % 4096) < 0x8000 by omega,
    hk, w32, BitVec.ofNat_toNat, BitVec.setWidth_eq, if_false, if_true]

theorem writeReg_hostWatch (r : RegionId) (v : Nat) : s.writeReg q (synHwatch r) v = s.laterBeat (s.writeHwatch r v) := by
  have hr : (⟨r.val % 16, Nat.mod_lt _ (by decide)⟩ : RegionId) = r := Fin.ext (Nat.mod_eq_of_lt r.isLt)
  rw [show synHwatch r.val = synBase r.val + 0x8004 from rfl, writeReg_syn r.isLt (by decide)]
  simp [State.writeSyn, hr]

theorem writeReg_doorbell (r : RegionId) (k : ChanId) : s.writeReg q (dmaBase r + 0x400) k.val = s.ring q r k := by
  have hk : fld k.val 0 5 = k.val := by simp [fld]
  rw [writeReg_dma r.isLt (by decide)]
  simp [State.writeDma, hk]

theorem writeReg_chanCtrl (r : RegionId) (k : ChanId) (v : Nat) : s.writeReg q (dmaReg r k 0) v =
    if !bitOf v 31 then s.tryWrite (s.writeAlloc r k (fld v 0 7))
    else if s.keeperHolds r k then (s.bellRefusal r k none q.tag, .err 5) else (s.abortChan r k, .ok) := by
  have hr : (⟨r.val % 16, Nat.mod_lt _ (by decide)⟩ : RegionId) = r := Fin.ext (Nat.mod_eq_of_lt r.isLt)
  have hk : (⟨k.val % 32, Nat.mod_lt _ (by decide)⟩ : ChanId) = k := Fin.ext (Nat.mod_eq_of_lt k.isLt)
  have hdiv : (0x20 * k.val + 0) / 0x20 = k.val := by omega
  have hmod : (0x20 * k.val + 0) % 0x20 = 0 := by omega
  rw [show dmaReg r.val k.val 0 = dmaBase r.val + (0x20 * k.val + 0) from Nat.add_assoc .., writeReg_dma r.isLt (by omega)]
  simp only [State.writeDma, show 0x20 * k.val + 0 < 0x400 by omega, if_true, hdiv, hmod, hr, hk]

/-- No section of the image loads a register of a scout engine either. -/
theorem writeReg_scoutCtrl (r : RegionId) (v : Nat) : s.writeReg q (sctReg r 8) v = (s.writeScout r v, .ok) := by
  have hlo : 0x1801000 ≤ sctReg r 8 := by unfold sctReg; omega
  have hhi : sctReg r 8 < 0x1801200 := by unfold sctReg; omega
  have hdiv : (sctReg r 8 - 0x1801000) / 0x20 = r.val := by unfold sctReg; omega
  have hmod : sctReg r 8 % 0x20 = 8 := by unfold sctReg; omega
  have hout : ∀ n, n ≤ 0x1801000 → ¬ sctReg r 8 < n := fun n hn => by omega
  have hmask : imageMask (sctReg r 8) = none := by
    generalize sctReg r 8 = o at *
    have hne : ∀ n, n < 0x1801000 ∨ 0x1801200 ≤ n → ¬ o = n := fun n hn => by omega
    simp [imageMask, hout, hne]
    omega
  obtain ⟨hload, hbar⟩ := imageLoads_of_imageMask hmask
  unfold State.writeReg
  rw [hbar, hload, Bool.and_false, Bool.false_and, if_neg Bool.false_ne_true, if_neg Bool.false_ne_true, if_neg (hout _ (by decide)),
    if_neg (hout _ (by decide)), if_neg (hout _ (by decide)), if_neg (hout _ (by decide)), if_neg (hout _ (by decide)),
    if_neg (hout _ (by decide)), if_pos (by omega), State.writePgk, if_neg (hout _ (by decide)), if_pos ⟨hlo, hhi⟩, hdiv, hmod]
  rfl

end Rules

end Sys2Proof.Machine
end

section
/-! PROOF. Writes of registers by commands that carry no transaction: REGISTER_WRITE. -/

open Sys2Proof

namespace Sys2Proof.Machine

/-- Settles O34: such a command is its path's write, and a path that admits it follows the register's rule. -/
theorem registerWriteFollowsItsRule : Obligations.RegisterWriteFollowsItsRule := by
  unfold Obligations.RegisterWriteFollowsItsRule
  intro s t p o v hp
  have rule : ∀ r, s.writeReg (asks p) o.toNat v.toNat = (t, r) → r = .ok ∨ r = .err 5 ∨ r = .later →
      exec (.registerWrite p o v) s = .next t := fun r hw hr =>
    congrArg Host.Outcome.next (State.pathWrite_rule hp v.isLt hw hr)
  exact ⟨fun hw => rule _ hw (.inl rfl), fun hw => rule _ hw (.inr (.inl rfl))⟩

end Sys2Proof.Machine
end

section
/-! PROOF. A descriptor read that returns for the first time (R252 to R255, R260): what each outcome of the read, and each verdict of the
checks, leads to. -/

open Sys2Proof

namespace Sys2Proof.Machine

/-- DESCRIPTOR_FETCH in a channel that can take the return. -/
theorem execDescriptorFetch_ready {s : State} {r : RegionId} {k : ChanId}
    (hready : ((s.modChan r k Channel.goOn).chan r k).fetchReady = true)
    (hheld : (s.modChan r k Channel.goOn).dmaHeld r = false) :
    exec (.descriptorFetch r k) s = .next ((s.modChan r k Channel.goOn).fetchReturn r k) := by
  have hs : s.dmaHeld r = false := hheld
  show Host.Outcome.next _ = _
  simp only [hready, hs, Bool.not_false, Bool.and_self, if_true]

/-! ## The read -/

/-- The state in which a first read is judged: the descriptor is attributed to the channel's last ringer (R257). -/
def State.attributed (s : State) (r : RegionId) (k : ChanId) : State := s.modChan r k fun y => { y with attr := y.owner }

/-- Job and tag that the accesses for the descriptor are counted against. -/
def State.attrJob (s : State) (r : RegionId) (k : ChanId) : Option (PartId × Fin 16) := s.ringerJob (s.chan r k).attr
def State.attrTag (s : State) (r : RegionId) (k : ChanId) : Option Nat := s.ringerTag (s.chan r k).attr

/-- What the read of a whole descriptor at the channel's address finds. -/
def State.descriptorRead (s : State) (r : RegionId) (k : ChanId) (p : Nat) : Got × State :=
  let t := s.attributed r k
  t.readOwned p (s.chan r k).cur 32 (t.attrJob r k) (t.attrTag r k)

/-- What becomes of a channel in state `s` whose descriptor read has left `u` and found `g`. -/
def State.descriptorReturned (s u : State) (r : RegionId) (k : ChanId) (p : Nat) : Got → State
  | .wait => s
  | .refused => u.dmaRefuse r k p (s.chan r k).cur 32
  | .bad => u.dmaFail r k 3
  | .bytes bs => u.dmaDescriptor r k p bs ((s.attributed r k).attrJob r k) ((s.attributed r k).attrTag r k)

section FirstRead
variable {s : State} {r : RegionId} {k : ChanId} {p : Nat}
variable (hfetch : (s.chan r k).fetching = some false) (howner : (s.attributed r k).regionOwner r = some p)
include hfetch howner

theorem State.fetchReturn_misaligned (hcur : (s.chan r k).cur % 32 ≠ 0) :
    s.fetchReturn r k = (s.attributed r k).dmaFail r k 2 := by
  unfold State.attributed at *
  simp [State.fetchReturn, hfetch, howner, hcur]

theorem State.fetchReturn_aligned (hcur : (s.chan r k).cur % 32 = 0) :
    s.fetchReturn r k = s.descriptorReturned (s.descriptorRead r k p).2 r k p (s.descriptorRead r k p).1 := by
  unfold State.descriptorRead State.descriptorReturned State.attrJob State.attrTag State.attributed at *
  simp only [State.fetchReturn, hfetch, howner, hcur, Option.getD_some, Bool.false_eq_true, if_false, ne_eq, not_true_eq_false]
    <;> rfl

end FirstRead

/-! ## The checks of a whole descriptor -/

/-- R253: the descriptor's words are illegal for the channel. -/
def State.descriptorIllegal (s : State) (k : ChanId) (p : Nat) (bs : List Byte) : Bool :=
  illegalDescriptor k (wordAt bs 0) (wordAt bs 1) (wordAt bs 2) (wordAt bs 3)
    (s.ownsRegion p (counterRegion (fld (wordAt bs 0) 32 16)))

/-- The stretch of a flat descriptor, none where LEN is 0. -/
def flatSegs (bs : List Byte) : List Segment :=
  if fld (wordAt bs 0) 0 32 = 0 then []
  else [{ src := fld (wordAt bs 2) 0 48, dst := fld (wordAt bs 3) 0 48, len := fld (wordAt bs 0) 0 32 }]

/-- What a flat descriptor reads and, without NOWRITE, writes. -/
def State.flatPieces (s : State) (p : Nat) (bs : List Byte) : List Piece :=
  if fld (wordAt bs 0) 0 32 = 0 then []
  else s.locateAll p (fld (wordAt bs 2) 0 48) (fld (wordAt bs 0) 0 32) ++
    (if bitOf (wordAt bs 0) 58 then [] else s.locateAll p (fld (wordAt bs 3) 0 48) (fld (wordAt bs 0) 0 32))

/-- A flat descriptor as it starts. -/
def flatStart (bs : List Byte) : Running :=
  { word0 := BitVec.ofNat 64 (wordAt bs 0), next := fld (wordAt bs 1) 0 48, dst := fld (wordAt bs 3) 0 48,
    src := fld (wordAt bs 2) 0 48, segs := flatSegs bs, moved := 0, snap := [], crc := 0xFFFFFFFF#32, sum := 0, tail := [],
    lastEnd := if bitOf (wordAt bs 0) 58 then fld (wordAt bs 3) 0 48 else fld (wordAt bs 3) 0 48 + fld (wordAt bs 0) 0 32,
    checked := false, basin := [], reading := none }

section Checks
variable {s : State} {r : RegionId} {k : ChanId} {p : Nat} {bs : List Byte} {job : Option (PartId × Fin 16)} {tag : Option Nat}

theorem State.dmaDescriptor_illegal (h : s.descriptorIllegal k p bs = true) :
    s.dmaDescriptor r k p bs job tag = s.dmaFail r k 1 := by
  unfold State.descriptorIllegal at h
  simp [State.dmaDescriptor, h]

theorem State.dmaDescriptor_list (h : s.descriptorIllegal k p bs = false)
    (hl : bitOf (wordAt bs 0) 61 = true ∨ bitOf (wordAt bs 0) 60 = true) : s.dmaDescriptor r k p bs job tag =
      s.dmaList r k p (wordAt bs 0) (wordAt bs 1) (wordAt bs 2) (wordAt bs 3) job tag := by
  unfold State.descriptorIllegal at h
  simp [State.dmaDescriptor, h, hl]

theorem State.dmaDescriptor_flat (h : s.descriptorIllegal k p bs = false) (h61 : bitOf (wordAt bs 0) 61 = false)
    (h60 : bitOf (wordAt bs 0) 60 = false) : s.dmaDescriptor r k p bs job tag =
      s.dmaStart r k p (wordAt bs 0) (wordAt bs 1) (wordAt bs 2) (wordAt bs 3) (flatSegs bs) := by
  unfold State.descriptorIllegal at h
  simp [State.dmaDescriptor, h, h61, h60, flatSegs]

/-- The stretches that a descriptor's start checks are those of its one segment. -/
theorem State.flatSegs_pieces : ((flatSegs bs).flatMap fun g => s.locateAll p g.src g.len ++
    (if bitOf (wordAt bs 0) 58 then [] else s.locateAll p g.dst g.len)) = s.flatPieces p bs := by
  by_cases hn : fld (wordAt bs 0) 0 32 = 0 <;> simp [flatSegs, State.flatPieces, hn]

theorem State.dmaStart_refused (h : allData (s.flatPieces p bs) = false) :
    s.dmaStart r k p (wordAt bs 0) (wordAt bs 1) (wordAt bs 2) (wordAt bs 3) (flatSegs bs) =
      (s.dmaOutside r k (s.flatPieces p bs)).dmaFail r k 2 := by
  simp [State.dmaStart, State.flatSegs_pieces, h]

theorem State.dmaStart_flat (h : allData (s.flatPieces p bs) = true) :
    s.dmaStart r k p (wordAt bs 0) (wordAt bs 1) (wordAt bs 2) (wordAt bs 3) (flatSegs bs) =
      (s.modChan r k fun y => { y with running := some (flatStart bs), fetching := none }).dmaIssueRead r k := by
  have hend : (match (flatSegs bs).getLast? with
      | some g => g.dst + g.len
      | none => fld (wordAt bs 3) 0 48) = fld (wordAt bs 3) 0 48 + fld (wordAt bs 0) 0 32 := by
    by_cases hn : fld (wordAt bs 0) 0 32 = 0 <;> simp [flatSegs, hn]
  simp only [State.dmaStart, State.flatSegs_pieces, h, Bool.not_true, Bool.false_eq_true, if_false, flatStart, ← hend]
    <;> rfl

end Checks

/-- Settles O19: the outcomes of the read one by one, then the verdicts of the checks. -/
theorem descriptorIsChecked : Obligations.DescriptorIsChecked := by
  unfold Obligations.DescriptorIsChecked
  intro s r k p z x t a g hready hfetch hheld howner
  have hexec : exec (.descriptorFetch r k) s = .next (z.fetchReturn r k) := execDescriptorFetch_ready hready hheld
  refine ⟨fun hcur => hexec.trans (congrArg _ (State.fetchReturn_misaligned hfetch howner hcur)), fun hcur => ?_⟩
  have hreturn : ∀ {f}, g.1 = f → exec (.descriptorFetch r k) s = .next (z.descriptorReturned g.2 r k p f) := by
    rintro _ rfl
    exact hexec.trans (congrArg _ (State.fetchReturn_aligned hfetch howner hcur))
  refine ⟨hreturn, hreturn, hreturn, fun bs hbs => ⟨fun hi => ?_, fun hi hl => ?_, fun hi h61 h60 => ⟨fun hd => ?_, fun hd => ?_⟩⟩⟩
  all_goals refine (hreturn hbs).trans (congrArg _ ?_)
  · exact State.dmaDescriptor_illegal hi
  · exact State.dmaDescriptor_list hi hl
  · exact (State.dmaDescriptor_flat hi h61 h60).trans (State.dmaStart_refused hd)
  · exact (State.dmaDescriptor_flat hi h61 h60).trans (State.dmaStart_flat hd)

end Sys2Proof.Machine
end

section
/-! PROOF. Writes of the sync, scout and DMA registers (R14, R215, R227 to R243, R249, R257, R268): each row is its path's write, whose
effect is the register's rule. -/

open Sys2Proof

namespace Sys2Proof.Machine

/-! ## The counters (R233, R237) -/

/-- The beat at counter `k` whose steps are marked as those of beat `b`. -/
def State.beatAt (s : State) (b k : Nat) (ps : List Packet) (v : Option (BitVec 32)) : State :=
  (s.setSync { s.sync with taken := tabSet (fun _ => 0) s.sync.taken k (b + 1) }).counterBeat k ps v

theorem State.beatNow_of_now {s : State} {b : Nat} (h : s.now = b) (k : Nat) (ps : List Packet) (v : Option (BitVec 32)) :
    s.beatNow k ps v = s.beatAt b k ps v := by
  subst h
  rfl

theorem State.writeCounter_serves {s : State} {k : Nat} (h : s.hadBeat k = false) (v : BitVec 32) :
    s.writeCounter k v = some ((s.caughtUp k).beatAt s.now k ((s.caughtUp k).packetsNow k) (some v)) := by
  simp [State.writeCounter, h, State.beatNow_of_now]

theorem State.writeCounter_waits {s : State} {k : Nat} (h : s.hadBeat k = true) (v : BitVec 32) : s.writeCounter k v = none := by
  simp [State.writeCounter, h]

section Counter
variable {s : State} {p : Path} {k : Fin 65536} {v : BitVec 32}
variable (hp : s.pathAdmits p (synBase (k.val / 4096) + 4 * (k.val % 4096)) = true)
include hp

theorem execSynCntWrite_serves (h : s.hadBeat k = false) :
    exec (.synCntWrite p k v) s = .next ((s.caughtUp k).beatAt s.now k ((s.caughtUp k).packetsNow k) (some v)) := by
  refine congrArg Host.Outcome.next (State.pathWrite_rule hp v.isLt ?_ (.inl rfl))
  rw [writeReg_counter, State.writeCounter_serves h]
  rfl

theorem execSynCntWrite_waits (h : s.hadBeat k = true) : exec (.synCntWrite p k v) s =
    .next (s.hold (pathTx p (synBase (k.val / 4096) + 4 * (k.val % 4096)) v.toNat)) := by
  refine congrArg Host.Outcome.next (State.pathWrite_retry (t := s) hp v.isLt ?_)
  rw [writeReg_counter, State.writeCounter_waits h]
  rfl

end Counter

/-- With nothing due, no earlier beat is outstanding. -/
theorem State.caughtUp_of_none {s : State} {k : Nat} (h : s.duePackets k = []) : s.caughtUp k = s := by
  simp [State.caughtUp, h, State.catchUp]

/-- A beat in which nothing arrives, at a counter that nothing watches, takes the host's value alone. -/
theorem State.counterBeat_quiet {s : State} {k : Nat} (v : BitVec 32)
    (h : s.sync.watches.all (fun w => !decide (w.counter = k)) = true) :
    s.counterBeat k [] (some v) = (s.putCounter k v).putShares k (addShare [] none v.toNat) := by
  have hset : s.setSync { s.sync with packets := s.sync.packets.filter fun _ => true } = s := by
    rw [List.filter_eq_self.2 fun _ _ => rfl]
    rfl
  have hbeat : s.counterBeat k [] (some v) =
      (((s.setSync { s.sync with packets := s.sync.packets.filter fun _ => true }).putCounter k v).putShares k
        (addShare [] none v.toNat)).evaluate k := rfl
  have hnone : (((s.putCounter k v).putShares k (addShare [] none v.toNat)).sync.watches.filter fun w => w.counter = k) = [] := by
    simpa [List.filter_eq_nil_iff, State.putShares, State.putCounter] using h
  rw [hbeat, hset, State.evaluate, hnone]
  rfl

/-- A direct write with nothing due and nothing watching (R233). -/
theorem State.beatAt_quiet {s : State} {b k : Nat} (v : BitVec 32) (hw : s.tablesWf = true)
    (h : s.sync.watches.all (fun w => !decide (w.counter = k)) = true) :
    let t := s.beatAt b k [] (some v)
    t.counter k = v ∧ (∀ j, j ≠ k → t.counter j = s.counter j) ∧ t.mem = s.mem ∧ t.cores = s.cores ∧
      t.sync.watches = s.sync.watches ∧ t.sync.packets = s.sync.packets := by
  obtain ⟨-, -, -, hcounters, -⟩ := State.tablesWf_iff.1 hw
  have hbeat : s.beatAt b k [] (some v) = (((s.setSync { s.sync with taken := tabSet (fun _ => 0) s.sync.taken k (b + 1) }).putCounter
      k v).putShares k (addShare [] none v.toNat)) := State.counterBeat_quiet v h
  rw [hbeat]
  exact ⟨tabGet_tabSet_self _ k v _ hcounters, fun j hj => tabGet_tabSet_ne _ hj v _ hcounters, rfl, rfl, rfl, rfl⟩

theorem execSynAddWrite_sends {s : State} {p : Path} (k : Fin 65536) (v : BitVec 32)
    (hp : s.pathAdmits p (synBase (k.val / 4096) + 0x4000 + 4 * (k.val % 4096)) = true) :
    exec (.synAddWrite p k v) s = .next (s.sendSync (.add (s.now + 2) k v (.host p none))) :=
  congrArg Host.Outcome.next (State.pathWrite_rule hp v.isLt (writeReg_addition k v) (.inr (.inr rfl)))

/-! ## The host watch (R243) -/

section HostWatch
variable {s : State} {p : Path} {r : RegionId} {c : BitVec 12}

/-- The fields of SYN_HWATCH as the two rows write them. -/
theorem hwatch_fields (c : BitVec 12) :
    (bitOf (2 ^ 31 + c.toNat) 30 = false ∧ bitOf (2 ^ 31 + c.toNat) 31 = true ∧ fld (2 ^ 31 + c.toNat) 0 12 = c.toNat ∧
      fld (2 ^ 31 + c.toNat) 31 1 = 1) ∧
    (bitOf c.toNat 30 = false ∧ bitOf c.toNat 31 = false ∧ fld c.toNat 0 12 = c.toNat ∧ fld c.toNat 31 1 = 0) := by
  have := c.isLt
  simp only [bitOf, fld, decide_eq_true_eq, decide_eq_false_iff_not]
  omega

/-- The host's watch of region `r` is taken out of the table. -/
def State.withoutHostWatch (s : State) (r : RegionId) : State :=
  s.setSync { s.sync with watches := s.sync.watches.filter fun w => !decide (w.who = .host r) }

/-- The watch is registered in the present beat. -/
def State.hostWatchArmed (s : State) (r : RegionId) (c : BitVec 12) : State :=
  let j := 4096 * r.val + c.toNat
  let u := ((s.withoutHostWatch r).putReg (synHwatch r) (2 ^ 31 + c.toNat)).caughtUp j
  u.beatAt s.now j (u.packetsNow j ++ [.register s.now j (u.reg (synHwatchVal r)) false (.host r)]) none

theorem State.registerNow_of_now {b : Nat} (h : s.now = b) (r : RegionId) (j : Nat) :
    s.beatNow j (s.packetsNow j ++ [.register s.now j (s.reg (synHwatchVal r)) false (.host r)]) none =
      s.beatAt b j (s.packetsNow j ++ [.register b j (s.reg (synHwatchVal r)) false (.host r)]) none := by
  subst h
  rfl

theorem State.writeHwatch_fired {v : Nat} (h : bitOf (s.regN (synHwatch r)) 30 = true) (hv : bitOf v 30 = false) :
    s.writeHwatch r v = some s := by
  simp [State.writeHwatch, h, hv]

theorem State.writeHwatch_cancel (h : bitOf (s.regN (synHwatch r)) 30 = false) :
    s.writeHwatch r c.toNat = some ((s.withoutHostWatch r).putReg (synHwatch r) c.toNat) := by
  obtain ⟨-, h30, h31, hctr, hen⟩ := hwatch_fields c
  simp [State.writeHwatch, State.withoutHostWatch, h, h30, h31, hctr, hen, at', b2n]

theorem State.writeHwatch_arm (h : bitOf (s.regN (synHwatch r)) 30 = false) (hb : s.hadBeat (4096 * r.val + c.toNat) = false) :
    s.writeHwatch r (2 ^ 31 + c.toNat) = some (s.hostWatchArmed r c) := by
  obtain ⟨⟨h30, h31, hctr, hen⟩, -⟩ := hwatch_fields c
  have hnow : (((s.withoutHostWatch r).putReg (synHwatch r) (2 ^ 31 + c.toNat)).caughtUp (4096 * r.val + c.toNat)).now = s.now :=
    State.caughtUp_now ..
  have hval : at' 31 1 1 + at' 30 1 (b2n false) + c.toNat = 2 ^ 31 + c.toNat := rfl
  simp only [State.writeHwatch, h, h30, h31, hctr, hen, hb, hval, Bool.false_and, Bool.and_false, Bool.false_eq_true, if_false, if_true]
  exact congrArg some (State.registerNow_of_now hnow r _)

variable (hp : s.pathAdmits p (synHwatch r) = true)
include hp

/-- A write that the watch's rule takes. -/
theorem pathWrite_hostWatch {t : State} {v : Nat} (hv : v < 2 ^ 32) (hw : s.writeHwatch r v = some t) :
    s.pathWrite p (synHwatch r) v = t := by
  refine State.pathWrite_rule hp hv ?_ (.inl rfl)
  rw [writeReg_hostWatch, hw]
  rfl

theorem execHostWatchArm_rule {t : State} (hw : s.writeHwatch r (2 ^ 31 + c.toNat) = some t) :
    exec (.hostWatchArm p r c) s = .next t :=
  congrArg Host.Outcome.next (pathWrite_hostWatch hp (by have := c.isLt; omega) hw)

theorem execHostWatchCancel_rule {t : State} (hw : s.writeHwatch r c.toNat = some t) :
    exec (.hostWatchCancel p r c) s = .next t :=
  congrArg Host.Outcome.next (pathWrite_hostWatch hp (by have := c.isLt; omega) hw)

end HostWatch

/-! ## The scout engine (R215) -/

section Scout
variable {s : State} {p : Path} {r : RegionId} {size : BitVec 13} {ctr : BitVec 16}

/-- The engine of region `r` may start on counter `ctr` with a ring of `n` slots (log entry 65). -/
def State.scoutFits (s : State) (r : RegionId) (n ctr : Nat) : Bool :=
  decide (counterRegion ctr = r.val) && decide (s.addrReg (sctReg r 0) % 64 = 0) &&
    (match s.regionOwner r with | some q => allMem (s.locateAll q (s.addrReg (sctReg r 0)) (64 * n)) | none => false)

/-- SCT_CTRL of a stopped engine as a write leaves it. -/
def State.putScout (s : State) (r : RegionId) (n ctr : Nat) (on : Bool) : State :=
  s.putReg (sctReg r 8) (at' 31 1 (b2n on) + at' 16 13 n + ctr)

/-- The engine starts at SEQ 0. -/
def State.startScout (s : State) (r : RegionId) : State := (s.putReg (sctReg r 0xC) 0).armScout r

/-- The fields of SCT_CTRL as SCOUT_ENABLE writes them. -/
theorem sctCtrl_fields (size : BitVec 13) (ctr : BitVec 16) :
    let v := 2 ^ 31 + size.toNat * 65536 + ctr.toNat
    v < 2 ^ 32 ∧ bitOf v 31 = true ∧ fld v 16 13 = size.toNat ∧ fld v 0 16 = ctr.toNat := by
  have := size.isLt
  have := ctr.isLt
  simp only [bitOf, fld, decide_eq_true_eq]
  omega

theorem clampTo_size (n : Nat) : (if n = 0 then 1 else if 4096 < n then 4096 else n) = clampTo 1 4096 n := by
  simp [clampTo]

theorem State.writeScout_stopped (h : s.scoutEn r = false) :
    let n := clampTo 1 4096 size.toNat
    s.writeScout r (2 ^ 31 + size.toNat * 65536 + ctr.toNat) =
      if s.scoutFits r n ctr.toNat then (s.putScout r n ctr.toNat true).startScout r else s.putScout r n ctr.toNat false := by
  obtain ⟨-, hen, hsize, hctr⟩ := sctCtrl_fields size ctr
  dsimp only
  simp only [State.writeScout, h, hen, hsize, hctr, clampTo_size, Bool.true_and, Bool.false_eq_true, if_false]
  generalize clampTo 1 4096 size.toNat = n
  show (if s.scoutFits r n ctr.toNat then (s.putScout r n ctr.toNat (s.scoutFits r n ctr.toNat)).startScout r
    else s.putScout r n ctr.toNat (s.scoutFits r n ctr.toNat)) = _
  cases s.scoutFits r n ctr.toNat <;> rfl

theorem State.writeScout_running (h : s.scoutEn r = true) :
    s.writeScout r (2 ^ 31 + size.toNat * 65536 + ctr.toNat) = (s.removeWatch (s.scoutCtr r) (.scout r)).startScout r := by
  obtain ⟨-, hen, -⟩ := sctCtrl_fields size ctr
  have hr : scoutWatcher r.val = .scout r := congrArg Watcher.scout (Fin.ext (Nat.mod_eq_of_lt r.isLt))
  simp only [State.writeScout, h, hen, if_true, hr, State.startScout]

theorem execScoutEnable_writes (hp : s.pathAdmits p (sctReg r 8) = true) : exec (.scoutEnable p r size ctr) s =
    .next (s.writeScout r (2 ^ 31 + size.toNat * 65536 + ctr.toNat)) :=
  congrArg Host.Outcome.next (State.pathWrite_rule hp (sctCtrl_fields size ctr).1 (writeReg_scoutCtrl r _) (.inl rfl))

end Scout

/-! ## The channels (R249, R257, R258, R268, R269) -/

section Channel
variable {s : State} {p : Path} {r : RegionId} {k : ChanId}

/-- Who rings by a register write. -/
def pathRinger : Path → Ringer
  | .host t => .host t
  | .side => .side

theorem State.bellRefused_iff : s.bellRefused r k = true ↔
    s.keeperHolds r k = true ∨ (s.chan r k).state = .off ∨ (s.chan r k).state = .halted ∨ (s.chan r k).state = .draining := by
  simp only [State.bellRefused, Bool.or_eq_true, decide_eq_true_eq]
  exact or_comm.trans (or_congr_right or_assoc)

theorem State.ring_refused (h : s.bellRefused r k = true) :
    s.ring (asks p) r k = (s.bellRefusal r k none (asks p).tag, .err 5) := by
  simp [State.ring, h]

theorem State.ring_taken (h : s.bellRefused r k = false) : s.ring (asks p) r k = (s.takeBell r k (pathRinger p), .ok) := by
  simp only [State.ring, h, Bool.false_eq_true, if_false]
  rfl

section Doorbell
variable (hp : s.pathAdmits p (dmaBase r + 0x400) = true)
include hp

theorem execDmaDbell_rule {t : State} {reply : Reply} (hw : s.ring (asks p) r k = (t, reply))
    (hr : reply = .ok ∨ reply = .err 5 ∨ reply = .later) : exec (.dmaDbell p r k) s = .next t :=
  congrArg Host.Outcome.next (State.pathWrite_rule hp (by omega) ((writeReg_doorbell r k).trans hw) hr)

theorem execDmaDbell_refused (h : s.bellRefused r k = true) :
    exec (.dmaDbell p r k) s = .next (s.bellRefusal r k none (asks p).tag) :=
  execDmaDbell_rule hp (State.ring_refused h) (.inr (.inl rfl))

theorem execDmaDbell_taken (h : s.bellRefused r k = false) :
    exec (.dmaDbell p r k) s = .next (s.takeBell r k (pathRinger p)) :=
  execDmaDbell_rule hp (State.ring_taken h) (.inl rfl)

end Doorbell

section Control
variable (hp : s.pathAdmits p (dmaReg r k 0) = true)
include hp

theorem execDmaAbort_refused (h : s.keeperHolds r k = true) :
    exec (.dmaAbort p r k) s = .next (s.bellRefusal r k none (asks p).tag) := by
  refine congrArg Host.Outcome.next (State.pathWrite_rule hp (by decide) ?_ (.inr (.inl rfl)))
  rw [writeReg_chanCtrl, h]
  rfl

theorem execDmaAbort_taken (h : s.keeperHolds r k = false) : exec (.dmaAbort p r k) s = .next (s.abortChan r k) := by
  refine congrArg Host.Outcome.next (State.pathWrite_rule hp (by decide) ?_ (.inl rfl))
  rw [writeReg_chanCtrl, h]
  rfl

theorem execDmaAllocWrite_rule {n : BitVec 7} {t : State} {reply : Reply} (hw : s.tryWrite (s.writeAlloc r k n.toNat) = (t, reply))
    (hr : reply = .ok ∨ reply = .err 5 ∨ reply = .later) : exec (.dmaAllocWrite p r k n) s = .next t := by
  have hn := n.isLt
  refine congrArg Host.Outcome.next (State.pathWrite_rule hp (by omega) ?_ hr)
  have hbit : bitOf n.toNat 31 = false := by simp [bitOf]; omega
  have hfld : fld n.toNat 0 7 = n.toNat := by simpa [fld] using hn
  rw [writeReg_chanCtrl, hbit, hfld]
  exact hw

end Control

/-- The doorbell's effect in each state that takes one (R258). -/
theorem State.takeBell_idle (h : (s.chan r k).state = .idle) (who : Ringer) : s.takeBell r k who = s.modChan r k fun y =>
    { y with state := .running, cur := s.dmaHead r k, fetching := some false, owner := some who, running := none,
             recheck := false, failed := none } := by
  simp [State.takeBell, h]

theorem State.takeBell_running (h : (s.chan r k).state = .running) (who : Ringer) :
    s.takeBell r k who = s.modChan r k fun y => { y with recheck := true, owner := some who } := by
  simp [State.takeBell, h]

theorem State.takeBell_parked (h : (s.chan r k).state = .parked) (who : Ringer) :
    s.takeBell r k who = s.modChan r k fun y => { y with fetching := some true, owner := some who } := by
  simp [State.takeBell, h]

/-- The completed descriptors before the running one, whose additions an abort makes first. -/
def Channel.ended (x : Channel) : List Finishing :=
  x.finishing.takeWhile fun f => x.writes.all fun w => decide (f.upTo ≤ w.1)

/-- The addition of the running descriptor of channel `x`, where it is complete. -/
def State.signalComplete (s : State) (r : RegionId) (x : Channel) : State :=
  match x.complete, x.running with
  | true, some q => s.dmaSignal r q.word0 x.attr
  | _, _ => s

theorem State.abortChan_acting (h : (s.chan r k).state = .running ∨ (s.chan r k).state = .parked ∨ (s.chan r k).state = .halted) :
    s.abortChan r k =
      ((((State.each (s.chan r k).ended (fun f u => u.dmaSignal r f.word0 f.attr) s).signalComplete r (s.chan r k)).modChan r k
        fun y => { y with state := .draining, fetching := none, running := none, finishing := [], failed := none
                          done := y.done + BitVec.ofNat 32 ((s.chan r k).ended.length + b2n (s.chan r k).complete) }).dmaSweep r
        k) := by
  unfold State.abortChan State.signalComplete
  dsimp only
  rw [if_pos h]
  cases (s.chan r k).complete <;> cases (s.chan r k).running <;> rfl

/-- An abort ends nothing where no descriptor is executed or held (R268). -/
theorem State.abortChan_resting (h : (s.chan r k).state = .off ∨ (s.chan r k).state = .idle ∨ (s.chan r k).state = .draining) :
    s.abortChan r k = s := by
  unfold State.abortChan
  rcases h with h | h | h <;> simp [h]

/-- What an allocation of `n` slots asks of the channel and its region (R249, R269). -/
def State.allocFits (s : State) (r : RegionId) (k : ChanId) (n : Nat) : Prop :=
  n ≠ 1 ∧ n ≤ 64 ∧ s.allocated r - (s.chan r k).alloc + n ≤ 128 ∧ s.keeperHolds r k = false ∧
    ((s.chan r k).state = .off ∨ (s.chan r k).state = .idle)

theorem State.writeAlloc_fits {n : Nat} (h : s.allocFits r k n) : s.writeAlloc r k n =
    some (s.modChan r k fun y => { y with alloc := n, state := if n = 0 then .off else .idle }) := by
  obtain ⟨hone, hmax, hsum, hheld, hstate⟩ := h
  simp [State.writeAlloc, hone, hheld, hstate, Nat.not_lt.2 hmax, Nat.not_lt.2 hsum]

theorem State.writeAlloc_refused {n : Nat} (h : ¬ s.allocFits r k n) : s.writeAlloc r k n = none := by
  refine if_pos (Classical.byContradiction fun hn => h ?_)
  simp only [not_or, Nat.not_lt, Bool.not_eq_true, Bool.not_eq_false', decide_eq_true_eq] at hn
  exact hn

end Channel

/-! ## The obligation -/

/-- A direct write that only the host's value takes part in. -/
theorem execSynCntWrite_quiet (s : State) (p : Path) (k : Fin 65536) (v : BitVec 32)
    (hp : s.pathAdmits p (synBase (k.val / 4096) + 4 * (k.val % 4096)) = true) (hb : s.hadBeat k = false)
    (hdue : s.duePackets k = []) (hquiet : s.sync.watches.all (fun w => !decide (w.counter = k)) = true) (hw : s.tablesWf = true) :
    ∃ t, exec (.synCntWrite p k v) s = .next t ∧ t.counter k = v ∧ (∀ j, j ≠ k.val → t.counter j = s.counter j) ∧
      t.mem = s.mem ∧ t.cores = s.cores ∧ t.sync.watches = s.sync.watches ∧ t.sync.packets = s.sync.packets := by
  have hnow : s.packetsNow k = [] := by simp [State.packetsNow, hdue]
  refine ⟨_, execSynCntWrite_serves hp hb, ?_⟩
  rw [State.caughtUp_of_none hdue, hnow]
  exact State.beatAt_quiet v hw hquiet

/-- Settles O36: register by register, what the rule of each gives for the value that its row writes. -/
theorem engineRegisterWrites : Obligations.EngineRegisterWrites := by
  unfold Obligations.EngineRegisterWrites
  refine ⟨fun s p k r => ⟨fun v hp => ⟨fun hb => execSynCntWrite_serves hp hb, fun hb => execSynCntWrite_waits hp hb,
      fun hb hdue hquiet hw => execSynCntWrite_quiet s p k v hp hb hdue hquiet hw⟩,
    fun v hp => execSynAddWrite_sends k v hp, fun c hp => ?watch, fun size ctr hp => ?scout⟩,
    fun s p r k => ⟨fun hp => ?doorbell, fun hp => ?control⟩⟩
  case watch =>
    have hclear := hwatch_fields c
    refine ⟨fun hf => ⟨execHostWatchArm_rule hp (State.writeHwatch_fired hf hclear.1.1),
      execHostWatchCancel_rule hp (State.writeHwatch_fired hf hclear.2.1)⟩, fun hf => ⟨?_, fun hb => ?_⟩⟩
    · exact execHostWatchCancel_rule hp (State.writeHwatch_cancel hf)
    · exact execHostWatchArm_rule hp (State.writeHwatch_arm hf hb)
  case scout =>
    have hexec := execScoutEnable_writes (size := size) (ctr := ctr) hp
    refine ⟨fun hen hfits => ?_, fun hen hfits => ?_, fun hen => ?_⟩
    · exact hexec.trans (congrArg _ ((State.writeScout_stopped hen).trans (if_pos hfits)))
    · exact hexec.trans (congrArg _ ((State.writeScout_stopped hen).trans (if_neg (ne_true_of_eq_false hfits))))
    · exact hexec.trans (congrArg _ (State.writeScout_running hen))
  case doorbell =>
    refine ⟨fun h => execDmaDbell_refused hp (State.bellRefused_iff.2 h), fun hheld => ?_⟩
    have taken : ∀ {st}, (s.chan r k).state = st → st ≠ .off → st ≠ .halted → st ≠ .draining →
        exec (.dmaDbell p r k) s = .next (s.takeBell r k (pathRinger p)) := by
      rintro _ rfl hoff hhalted hdraining
      exact execDmaDbell_taken hp (by simp [State.bellRefused, hheld, hoff, hhalted, hdraining])
    refine ⟨fun h => ?_, fun h => ?_, fun h => ?_⟩
    all_goals refine (taken h (by decide) (by decide) (by decide)).trans (congrArg _ ?_)
    · exact State.takeBell_idle h _
    · exact State.takeBell_running h _
    · exact State.takeBell_parked h _
  case control =>
    refine ⟨fun h => execDmaAbort_refused hp h, fun h => ⟨fun hact => ?_, fun hrest => ?_⟩,
      fun n => ⟨fun hfits => ?_, fun hfits => ?_⟩⟩
    · exact (execDmaAbort_taken hp h).trans (congrArg _ (State.abortChan_acting hact))
    · exact (execDmaAbort_taken hp h).trans (congrArg _ (State.abortChan_resting hrest))
    · exact execDmaAllocWrite_rule hp (congrArg s.tryWrite (State.writeAlloc_fits hfits)) (.inl rfl)
    · exact execDmaAllocWrite_rule hp (congrArg s.tryWrite (State.writeAlloc_refused hfits)) (.inr (.inl rfl))

end Sys2Proof.Machine
end

section
/-! PROOF. Slot commands of a core that issues nothing (R86, R88), and the schedule error of a malformed bundle (R103, R104). -/

open Sys2Proof

namespace Sys2Proof.Machine

/-! ## A core that may not issue -/

theorem State.pgkSlot_blocked {s : State} {c sub : Nat} (h : s.mayIssue c = false) : s.pgkSlot c sub = s := by
  rw [State.pgkSlot, State.issueSlot_blocked _ h, ite_self]

/-- Each slot command issues its slot, the page-keeper ones under the sub-operation of the word; so none acts where the core may not issue. -/
theorem exec_slotRow_blocked {s : State} {c : CoreId} (h : s.mayIssue c = false) : ∀ r ∈ slotRows c, exec r.1 s = .next s := by
  have issue : ∀ i op effect, (.next (s.issueSlot c i op effect) : Host.Outcome State Fault Refusal) = .next s :=
    fun _ _ effect => congrArg Host.Outcome.next (State.issueSlot_blocked effect h)
  have call : ∀ sub, (.next (s.pgkSlot c sub) : Host.Outcome State Fault Refusal) = .next s :=
    fun _ => congrArg Host.Outcome.next (State.pgkSlot_blocked h)
  simp only [slotRows, List.forall_mem_cons]
  repeat' apply And.intro
  any_goals exact issue _ _ _
  any_goals exact call _
  exact fun r hr => absurd hr List.not_mem_nil

/-! ## A malformed bundle -/

/-- Without a doorbell in its L slot, a malformed bundle is a schedule error and nothing else (R103, R257). -/
theorem State.bundleError_noDoorbell {s : State} {c : Nat} (h : opcodeOf (s.slotWord c .l) ≠ 0x12) :
    s.bundleError c = s.scheduleError c (s.bundleCause c) := by
  simp [State.bundleError, h]

/-- The bundle at issue is not begun, breaks a rule that its words show, and rings no doorbell. -/
structure State.Malformed (t : State) (c : Nat) : Prop where
  bound : (t.core c).seq.bound = true
  unbegun : (t.core c).seq.slots = 0
  cause : t.bundleCause c ≠ 0
  readable : t.bundleCause c = 5 ∨ t.bundleBad c = false
  quiet : opcodeOf (t.slotWord c .l) ≠ 0x12

/-- The first slot of a malformed bundle does not issue: the bundle is a schedule error (R103, R104). -/
theorem State.issueSlot_malformed {s : State} {c op : Nat} (effect : Nat → State → State) (hmay : s.mayIssue c = true)
    (h : (s.settle c).Malformed c) (hop : opcodeOf ((s.settle c).slotWord c .m) = op) :
    s.issueSlot c .m op effect = (s.settle c).scheduleError c ((s.settle c).bundleCause c) := by
  obtain ⟨hbound, hslots, hcause, hread, hquiet⟩ := h
  have hnext : nextSlot ((s.settle c).core c).seq .m = true := by simp [nextSlot, hslots, slotIndex]
  by_cases h5 : (s.settle c).bundleCause c = 5
  · simp [State.issueSlot, hmay, hbound, hslots, h5]
  · have hbad : (s.settle c).bundleBad c = false := hread.resolve_left h5
    simp [State.issueSlot, hmay, hbound, hslots, h5, hbad, hop, hnext, hcause, State.bundleError_noDoorbell hquiet]

/-- Settles O8: a blocked core's rows all leave the state, and the M slot of a malformed bundle is its schedule error,
raised when the slot is commanded (log entry 12). -/
theorem coresThatIssueNothing : Obligations.CoresThatIssueNothing := by
  unfold Obligations.CoresThatIssueNothing
  refine ⟨fun s c h => exec_slotRow_blocked h, fun s c hmay => ?_⟩
  intro t q cause hbound hslots hcause hread hquiet u
  have error : ∀ op effect, opcodeOf (t.slotWord c .m) = op →
      (.next (s.issueSlot c .m op effect) : Host.Outcome State Fault Refusal) = .next u := fun _ effect hop =>
    congrArg Host.Outcome.next (State.issueSlot_malformed effect hmay ⟨hbound, hslots, hcause, hread, hquiet⟩ hop)
  exact ⟨error _ _, error _ _, error _ _, error _ _⟩

end Sys2Proof.Machine
end

section
/-! PROOF. The block beat (R20, R79) and the edges of EPOCH_IN (R49, R50, R80, R81). -/

open Sys2Proof

namespace Sys2Proof.Machine

/-! ## The block beat -/

theorem State.finishLock_beat (s : State) : s.finishLock.beat = s.beat := by
  simp only [State.finishLock, State.ite_beat, State.setRegs_beat, State.setPerturb_beat, ite_self]

theorem State.stepLfsr_beat (s : State) : s.stepLfsr.beat = s.beat := by
  rw [State.stepLfsr, State.ite_beat]
  exact ite_self _

theorem State.judgeHold_beat (s : State) (c : Nat) : (s.judgeHold c).beat = s.beat := by
  unfold State.judgeHold
  dsimp only
  split <;> simp

theorem State.decideHold_beat (s : State) (c : Nat) : (s.decideHold c).beat = s.beat := State.judgeHold_beat _ c

theorem State.shareHold_beat (s : State) (c : Nat) : (s.shareHold c).beat = s.beat := by
  simp only [State.shareHold, State.ite_beat, State.modSeq_beat]
  split
  · rfl
  · split <;> simp

/-- Only the count itself moves the clock when a beat begins: the holds do not. -/
theorem State.beginBeat_beat (s : State) : s.beginBeat.beat = s.beat + 1 := by
  unfold State.beginBeat
  rw [State.each_beat fun c u => u.shareHold_beat c, State.each_beat fun c u => u.decideHold_beat c, State.stepLfsr_beat,
    State.finishLock_beat, State.setMarks_beat, State.setBeat_beat]

theorem execBlockBeat_complete {s : State} (hclock : s.pins.refclk = true) (hlock : s.locked = true) (hdone : s.beatDone = true) :
    exec .blockBeat s = .next (((s.endBeat.beginBeat).watch).servePeers).serveHost :=
  congrArg Host.Outcome.next (if_pos (by simp [hclock, hlock, hdone]))

theorem execBlockBeat_waits {s : State} (h : s.pins.refclk = false ∨ s.beatDone = false) : exec .blockBeat s = .next s :=
  congrArg Host.Outcome.next (if_neg (by rcases h with h | h <;> simp [h]))

/-! ## Epoch edges -/

theorem State.edgeApart_iff {s : State} : s.edgeApart = true ↔
    s.locked = true ∧ s.pins.refclk = true ∧ s.boot.epochMark = none ∧ (s.boot.epochSeen = 0 ∨ s.boot.epochSeen + 39 ≤ s.now) := by
  simp [State.edgeApart, and_assoc]

theorem State.markBeat_bounds (s : State) : s.now + 5 ≤ s.markBeat ∧ s.markBeat ≤ s.now + 7 := by
  unfold State.markBeat
  omega

/-- A rise of EPOCH_IN is an EPOCH_EDGE or an EPOCH_EARLY, as its marked beat decides (R49, R50). -/
theorem execEpoch_rise {s : State} (h : s.edgeApart = true) :
    (s.edgeEarly s.markBeat = false → exec .epochEdge s = .next s.sampleEdge ∧ exec .epochEarly s = .next s) ∧
      (s.edgeEarly s.markBeat = true → exec .epochEarly s = .next s.sampleEdge ∧ exec .epochEdge s = .next s) := by
  refine ⟨fun hm => ⟨?_, ?_⟩, fun hm => ⟨?_, ?_⟩⟩ <;>
    refine congrArg Host.Outcome.next ?_
  · exact if_pos (by simp [h, hm])
  · exact if_neg (by simp [hm])
  · exact if_pos (by simp [h, hm])
  · exact if_neg (by simp [hm])

theorem satInc_eq_min (v top : Nat) : satInc v top = min (v + 1) top := by
  unfold satInc
  split <;> omega

/-- The state once the edge has left the synchroniser. -/
def State.edgeTaken (s : State) : State := s.modBoot fun b => { b with epochMark := none }

theorem State.markEdge_early {s : State} {m : Nat} (hmark : s.boot.epochMark = some m) (hm : m ≤ s.now)
    (h : s.edgeEarly s.now = true) :
    s.markEdge = s.edgeTaken.putReg 0x400F1C (min (s.regN 0x400F1C + 1) 0xFFFFFFFF) := by
  have hearly : s.edgeTaken.edgeEarly s.edgeTaken.now = true := h
  rw [← satInc_eq_min]
  simp only [State.markEdge, hmark, if_neg (Nat.not_lt.2 hm)]
  exact if_pos hearly

theorem State.markEdge_intime {s : State} {m : Nat} (hmark : s.boot.epochMark = some m) (hm : m ≤ s.now)
    (h : s.edgeEarly s.now = false) : s.markEdge = s.edgeTaken.acceptEdge := by
  have hearly : s.edgeTaken.edgeEarly s.edgeTaken.now = false := h
  simp only [State.markEdge, hmark, if_neg (Nat.not_lt.2 hm)]
  exact if_neg (ne_true_of_eq_false hearly)

theorem execEpochLost_limit {s : State} {n : Nat} (hlock : s.boot.epochLock = true) (hn : s.sinceEdge = some n)
    (hlimit : s.regN 0x400F08 ≤ n) :
    exec .epochLost s = .next ((s.modBoot fun b => { b with epochLock := false }).raiseBlock 304) :=
  congrArg Host.Outcome.next (if_pos (by simp [hlock, hn, hlimit]))

/-- Settles O55: the beat, then the rise, the mark and the loss of an epoch edge (log entries 10 and 67). -/
theorem beatsAndEpochs : Obligations.BeatsAndEpochs := by
  unfold Obligations.BeatsAndEpochs
  refine ⟨fun s => ⟨fun hclock hlock hdone => ⟨execBlockBeat_complete hclock hlock hdone, State.beginBeat_beat _⟩,
    execBlockBeat_waits⟩, fun s => ⟨fun hlock hclock hnone hapart => ?rise, fun m hmark hm => ?mark, fun n => execEpochLost_limit⟩⟩
  case rise =>
    exact ⟨s.markBeat, s.markBeat_bounds.1, s.markBeat_bounds.2, execEpoch_rise (State.edgeApart_iff.2 ⟨hlock, hclock, hnone, hapart⟩)⟩
  case mark =>
    refine ⟨State.markEdge_early hmark hm, fun h => ⟨fun harmed => ?_, fun hidle => ?_⟩⟩
    all_goals
      rw [State.markEdge_intime hmark hm h]
      refine congrArg (fun u : State => u.modBoot fun b => { b with epochLock := true, epochAt := s.now + 1 }) ?_
    · exact if_pos harmed
    · exact if_neg (ne_true_of_eq_false hidle)

end Sys2Proof.Machine
end

section
/-! SUPPORT. A change of one core's entry: what that core and the others read afterwards, where the table of cores has its canonical form. -/

namespace Sys2Proof.Machine

theorem State.modCore_coresWf {s : State} (c : Nat) (f : Core → Core) (hwf : s.coresWf = true) : (s.modCore c f).coresWf = true :=
  tabWf_tabSet _ c _ _ hwf

theorem State.core_modCore_self {s : State} (c : Nat) (f : Core → Core) (hwf : s.coresWf = true) :
    (s.modCore c f).core c = f (s.core c) :=
  tabGet_tabSet_self _ c _ _ hwf

theorem State.core_modCore_ne {s : State} {c d : Nat} (hd : d ≠ c) (f : Core → Core) (hwf : s.coresWf = true) :
    (s.modCore c f).core d = s.core d :=
  tabGet_tabSet_ne _ hd _ _ hwf

/-- What `f` leaves of a core, its use on one core leaves of every core. -/
theorem State.core_modCore_keeps {α : Type} (g : Core → α) {s : State} {c : Nat} {f : Core → Core} (hf : ∀ x, g (f x) = g x)
    (hwf : s.coresWf = true) (d : Nat) : g ((s.modCore c f).core d) = g (s.core d) := by
  by_cases hd : d = c
  · rw [hd, State.core_modCore_self c f hwf, hf]
  · rw [State.core_modCore_ne hd f hwf]

theorem State.groupOf_congr {s t : State} (h : ∀ d, (t.core d).seq = (s.core d).seq) (c : Nat) : t.groupOf c = s.groupOf c := by
  simp only [State.groupOf, h]

end Sys2Proof.Machine
end

section
/-! PROOF. The sluice (R21, R22, R88, R347, R387): at a constant allowance its register counts held beats exactly; a pending hold is
taken and counted. -/

open Sys2Proof

namespace Sys2Proof.Machine

/-! ## What the allowance of a core depends on -/

/-- What the sources of an allowance take from the core's own power state (R345, R348). -/
def CorePower.sourced (p : CorePower) : LoopOut × Nat × Bool × PowerState × Bool :=
  (p.loops, p.missLeft, p.tying.isSome, p.state, p.out)

/-- `t` is `s` with other entries of the cores, which give core `c` the same allowance. -/
structure SameAllowance (c : Nat) (s t : State) : Prop where
  others : t = s.setCores t.cores
  wf : t.coresWf = true
  power : (t.core c).power.sourced = (s.core c).power.sourced

theorem SameAllowance.refl {s : State} (c : Nat) (hwf : s.coresWf = true) : SameAllowance c s s := ⟨rfl, hwf, rfl⟩

theorem SameAllowance.trans {c : Nat} {s t u : State} (h : SameAllowance c s t) (g : SameAllowance c t u) : SameAllowance c s u where
  others := calc
    u = t.setCores u.cores := g.others
    _ = (s.setCores t.cores).setCores u.cores := congrArg (State.setCores · u.cores) h.others
  wf := g.wf
  power := g.power.trans h.power

theorem SameAllowance.modCore {c : Nat} {s t : State} (h : SameAllowance c s t) (d : Nat) (f : Core → Core)
    (hf : ∀ x, (f x).power.sourced = x.power.sourced) : SameAllowance c s (t.modCore d f) :=
  h.trans ⟨rfl, State.modCore_coresWf d f h.wf, State.core_modCore_keeps (fun x => x.power.sourced) hf h.wf c⟩

theorem SameAllowance.allowance {c : Nat} {s t : State} (h : SameAllowance c s t) : t.allowance c = s.allowance c := by
  have hp := h.power
  simp only [CorePower.sourced, Prod.mk.injEq] at hp
  obtain ⟨hloops, hmiss, htying, hstate, hout⟩ := hp
  have hsources : t.sources c = s.sources c := by
    simp only [State.sources, hloops, hmiss, htying, hstate, hout]
    rw [h.others]
    rfl
  rw [State.allowance, hsources, State.allowance]

theorem leastSource_le (l : List (Nat × Nat)) : (leastSource l).2 ≤ 1024 :=
  List.foldlRecOn (motive := fun m : Nat × Nat => m.2 ≤ 1024) l _ (Nat.le_refl _) fun m hm x _ => by split <;> omega

theorem State.allowance_le (s : State) (c : Nat) : s.allowance c ≤ 1024 := leastSource_le _

/-! ## The hold of a beat is decided -/

theorem firstReason_isSome {l : List (Nat × Nat)} (h : l ≠ []) : (firstReason l).isSome = true := by
  cases l with
  | nil => exact absurd rfl h
  | cons x l =>
    refine List.foldlRecOn (motive := fun m : Option (Nat × Nat) => m.isSome = true) l _ rfl fun m hm y _ => ?_
    obtain ⟨z, rfl⟩ := Option.isSome_iff_exists.1 hm
    dsimp only
    split <;> rfl

/-- Core `x` once its sluice register has advanced at allowance `a`, its hold not yet decided. -/
def Core.advance (a : Nat) (x : Core) : Core :=
  { x with
    power := { x.power with acc := (x.power.acc + 2048 - x.power.adv + (1024 - a)) % 2048, adv := 1024 - a }
    seq := { x.seq with held := false, owed := false, why := (0, 0) } }

/-- Core `x` at the beginning of a beat. -/
def Core.openBeat (x : Core) : Core :=
  { x with
    power := { x.power with adv := 0, taken := false, clampNow := decide (0 < x.power.clampLeft), clampLeft := x.power.clampLeft - 1 }
    seq := { x.seq with issued := false, resumed := false } }

/-- Core `x` held for the reason `w`. -/
def Core.holdFor (w : Nat × Nat) (x : Core) : Core := { x with seq := { x.seq with held := true, why := w } }

theorem State.judgeHold_eq (s : State) (c : Nat) : s.judgeHold c =
    match firstReason ((s.modCore c (Core.advance (s.allowance c))).holdReasons c) with
    | some w => (s.modCore c (Core.advance (s.allowance c))).modCore c (Core.holdFor w)
    | none => s.modCore c (Core.advance (s.allowance c)) := rfl

theorem State.decideHold_sameAllowance {s : State} {c : Nat} (hwf : s.coresWf = true) : SameAllowance c s (s.decideHold c) := by
  have hadvanced : SameAllowance c s ((s.modCore c Core.openBeat).modCore c (Core.advance ((s.modCore c Core.openBeat).allowance c))) :=
    ((SameAllowance.refl c hwf).modCore c Core.openBeat fun _ => rfl).modCore c _ fun _ => rfl
  show SameAllowance c s ((s.modCore c Core.openBeat).judgeHold c)
  rw [State.judgeHold_eq]
  split
  · exact hadvanced.modCore c _ fun _ => rfl
  · exact hadvanced

section Beat
variable {s : State} {c : Nat} (hwf : s.coresWf = true)
include hwf

/-- The register of core `c` after its advance by one beat's allowance (R347). -/
theorem State.judgeHold_acc : ((s.judgeHold c).core c).power.acc = ((s.core c).advance (s.allowance c)).power.acc := by
  have hwf' := State.modCore_coresWf c (Core.advance (s.allowance c)) hwf
  rw [State.judgeHold_eq]
  split
  · rw [State.core_modCore_self c _ hwf', State.core_modCore_self c _ hwf]
    rfl
  · rw [State.core_modCore_self c _ hwf]

/-- A register of 1,024 or more holds the beat (R22, R347). -/
theorem State.judgeHold_held (h : 1024 ≤ ((s.judgeHold c).core c).power.acc) : ((s.judgeHold c).core c).seq.held = true := by
  have hreasons : (s.modCore c (Core.advance (s.allowance c))).holdReasons c ≠ [] := by
    rw [State.judgeHold_acc hwf, ← State.core_modCore_self c (Core.advance (s.allowance c)) hwf] at h
    simp [State.holdReasons, h]
  obtain ⟨w, hw⟩ := Option.isSome_iff_exists.1 (firstReason_isSome hreasons)
  rw [State.judgeHold_eq, hw]
  exact congrArg (fun x : Core => x.seq.held) (State.core_modCore_self c (Core.holdFor w) (State.modCore_coresWf c _ hwf))

theorem State.decideHold_acc (hacc : (s.core c).power.acc < 1024) :
    ((s.decideHold c).core c).power.acc = (s.core c).power.acc + (1024 - s.allowance c) := by
  have hopen : SameAllowance c s (s.modCore c Core.openBeat) := (SameAllowance.refl c hwf).modCore c _ fun _ => rfl
  have hle := s.allowance_le c
  calc ((s.decideHold c).core c).power.acc
      = ((Core.openBeat (s.core c)).advance (s.allowance c)).power.acc := by
        rw [← hopen.allowance, ← State.core_modCore_self c Core.openBeat hwf]
        exact State.judgeHold_acc hopen.wf
    _ = ((s.core c).power.acc + 2048 - 0 + (1024 - s.allowance c)) % 2048 := rfl
    _ = (s.core c).power.acc + (1024 - s.allowance c) := by omega

theorem State.decideHold_held (h : 1024 ≤ ((s.decideHold c).core c).power.acc) : ((s.decideHold c).core c).seq.held = true :=
  State.judgeHold_held (State.modCore_coresWf c Core.openBeat hwf) h

end Beat

/-! ## The hold is taken -/

/-- Core `x` once its hold is taken: its sluice register falls by 1,024 where it holds the beat (R347). -/
def Core.release (x : Core) : Core :=
  { x with power := { x.power with acc := if 1024 ≤ x.power.acc then x.power.acc - 1024 else x.power.acc, taken := true } }

@[simp] theorem Core.countHold_power (x : Core) : x.countHold.power = x.power := by
  unfold Core.countHold
  split <;> rfl

theorem State.takeHold_eq (s : State) (c : Nat) : s.takeHold c =
    State.each (c :: (s.modCore c Core.release).groupOf c) (fun d u => u.modCore d Core.countHold) (s.modCore c Core.release) := rfl

/-- A round of counts keeps the allowance of a core, and all of its power state. -/
theorem State.countHolds_sameAllowance {s : State} {c : Nat} (hwf : s.coresWf = true) (l : List Nat) :
    let t := State.each l (fun d u => u.modCore d Core.countHold) s
    SameAllowance c s t ∧ (t.core c).power = (s.core c).power := by
  refine List.foldlRecOn (motive := fun t => SameAllowance c s t ∧ (t.core c).power = (s.core c).power) l _
    ⟨.refl c hwf, rfl⟩ fun t ht d _ => ⟨ht.1.modCore d _ fun x => by rw [Core.countHold_power], ?_⟩
  exact (State.core_modCore_keeps Core.power Core.countHold_power ht.1.wf c).trans ht.2

section Take
variable {s : State} {c : Nat} (hwf : s.coresWf = true)
include hwf

theorem State.takeHold_sameAllowance : SameAllowance c s (s.takeHold c) :=
  ((SameAllowance.refl c hwf).modCore c Core.release fun _ => rfl).trans
    (State.countHolds_sameAllowance (State.modCore_coresWf c Core.release hwf) _).1

theorem State.takeHold_power : ((s.takeHold c).core c).power = (s.core c).release.power := by
  rw [State.takeHold_eq, (State.countHolds_sameAllowance (State.modCore_coresWf c Core.release hwf) _).2,
    State.core_modCore_self c _ hwf]

/-- A core that runs alone counts its hold itself (R387). -/
theorem State.takeHold_alone (hgroup : s.groupOf c = []) : (s.takeHold c).core c = (s.core c).release.countHold := by
  have hseq : ∀ d, ((s.modCore c Core.release).core d).seq = (s.core d).seq :=
    State.core_modCore_keeps Core.seq (f := Core.release) (fun _ => rfl) hwf
  have hgroup' : (s.modCore c Core.release).groupOf c = [] := (State.groupOf_congr hseq c).trans hgroup
  have hwf' := State.modCore_coresWf c Core.release hwf
  rw [State.takeHold_eq, hgroup']
  calc ((s.modCore c Core.release).modCore c Core.countHold).core c
      = ((s.modCore c Core.release).core c).countHold := State.core_modCore_self c Core.countHold hwf'
    _ = (s.core c).release.countHold := congrArg Core.countHold (State.core_modCore_self c Core.release hwf)

end Take

/-! ## Beats of the sluice -/

section Sluice
variable {s : State} {c : Nat} (hwf : s.coresWf = true) (hacc : (s.core c).power.acc < 1024)
include hwf

theorem sluiceBeat_sameAllowance : SameAllowance c s (sluiceBeat c s) := by
  have hdecide := State.decideHold_sameAllowance (c := c) hwf
  unfold sluiceBeat
  dsimp only
  split
  · exact hdecide.trans (State.takeHold_sameAllowance hdecide.wf)
  · exact hdecide

include hacc

/-- Each beat the register gains 1,024 - A and wraps at 1,024 (R347). -/
theorem sluiceBeat_acc : ((sluiceBeat c s).core c).power.acc = ((s.core c).power.acc + (1024 - s.allowance c)) % 1024 := by
  have hadv := State.decideHold_acc hwf hacc
  have hwf' := (State.decideHold_sameAllowance (c := c) hwf).wf
  unfold sluiceBeat
  dsimp only
  split
  next hfull =>
    rw [State.takeHold_power hwf']
    simp only [Core.release, if_pos hfull]
    omega
  next hfull => omega

/-- The first of `n + 1` beats is held where the register wraps. -/
theorem sluiceHolds_succ (n : Nat) : sluiceHolds c (n + 1) s =
    ((s.core c).power.acc + (1024 - s.allowance c)) / 1024 + sluiceHolds c n (sluiceBeat c s) := by
  have hadv := State.decideHold_acc hwf hacc
  rw [sluiceHolds]
  congr 1
  split
  next hheld => omega
  next hheld =>
    have hfree : ¬ 1024 ≤ ((s.decideHold c).core c).power.acc := fun h => hheld ⟨h, State.decideHold_held hwf h⟩
    omega

end Sluice

/-- The held beats are the wraps of a register that gains the same amount each beat. -/
theorem sluiceHolds_eq (c : Nat) : ∀ (n : Nat) (s : State), s.coresWf = true → (s.core c).power.acc < 1024 →
    sluiceHolds c n s = ((s.core c).power.acc + n * (1024 - s.allowance c)) / 1024
  | 0, s, _, hacc => by
    simp [sluiceHolds, Nat.div_eq_of_lt hacc]
  | n + 1, s, hwf, hacc => by
    have hsame := sluiceBeat_sameAllowance (c := c) hwf
    have hnext := sluiceBeat_acc hwf hacc
    rw [sluiceHolds_succ hwf hacc, sluiceHolds_eq c n _ hsame.wf (by omega), hnext, hsame.allowance, Nat.succ_mul]
    generalize n * (1024 - s.allowance c) = x
    omega

theorem execSluiceHold_pending {s : State} {c : CoreId} (hloops : s.loopsApplied = true) (h : s.holdPending c = true) :
    exec (.sluiceHold c) s = .next (s.takeHold c) :=
  congrArg Host.Outcome.next (if_pos (by simp [hloops, h]))

theorem execSluiceHold_none {s : State} {c : CoreId} (h : s.holdPending c = false) : exec (.sluiceHold c) s = .next s :=
  congrArg Host.Outcome.next (if_neg (by simp [h]))

/-- Settles O42: the count of held beats by induction over the beats, and the hold of one (log entries 1 and 32). -/
theorem sluiceHoldsItsFraction : Obligations.SluiceHoldsItsFraction := by
  unfold Obligations.SluiceHoldsItsFraction
  refine ⟨fun n s c hwf hacc => ?_, fun s c => ⟨execSluiceHold_pending, execSluiceHold_none, State.takeHold_alone⟩⟩
  dsimp only
  rw [sluiceHolds_eq c n s hwf hacc]
  omega

end Sys2Proof.Machine
end

section
/-! PROOF. Fuses and latches (R46, R54, R482): what every command keeps of them, and what a power cycle alone ends. -/

open Sys2Proof

namespace Sys2Proof.Machine

/-- The rows of a power cycle keep the fuses: the block is read from `STBY_OK` high alone. -/
theorem powerCycleRow_fuses (s : State) (stby : Bool) : NvmKeeps s.nvm (if s.pins.stbyOk then s.powerCycle stby else s).nvm := by
  obtain ⟨-, -, hfuses, -⟩ := State.powerCycle_keeps s stby (.refl s)
  split
  · exact hfuses
  · exact .refl _

/-- Every command keeps the fuses, a power cycle included (R46, R482). -/
theorem exec_fuses {i : Instr} {s t : State} (h : exec i s = .next t) : NvmKeeps s.nvm t.nvm := by
  by_cases hp : i = .powerCycle
  · subst hp
    cases h
    exact powerCycleRow_fuses s false
  by_cases hv : i = .vstbyLow
  · subst hv
    cases h
    exact powerCycleRow_fuses s true
  obtain ⟨u, hu, hk⟩ := exec_keeps i s hp hv
  cases h.symm.trans hu
  exact hk.nvm

theorem step_idle {s : State} (h : s.pending = []) : step s = .next s := by simp only [step, h]

theorem step_command {s : State} {c : Instr} {rest : List Instr} (h : s.pending = c :: rest) : step s = exec c (s.setPending rest) := by
  simp only [step, h]

/-- Settles O59: a step is its command, every command keeps the fuses, and every command but a power cycle keeps the latches. -/
theorem stepKeepsFusesAndLatches : Obligations.StepKeepsFusesAndLatches := by
  unfold Obligations.StepKeepsFusesAndLatches
  refine ⟨fun s t h => ?fuses, fun s t c rest hq h hp hv => ?latches⟩
  case fuses =>
    have hk : NvmKeeps s.nvm t.nvm := by
      cases hq : s.pending with
      | nil =>
        cases (step_idle hq).symm.trans h
        exact .refl _
      | cons c rest => exact exec_fuses (s := s.setPending rest) ((step_command hq).symm.trans h)
    exact ⟨hk.fuses, hk.lock, hk.ids⟩
  case latches =>
    obtain ⟨u, hu, hk⟩ := exec_keeps c (s.setPending rest) hp hv
    cases ((step_command hq).symm.trans h).symm.trans hu
    exact ⟨hk.boot.grave, hk.boot.trip⟩

end Sys2Proof.Machine
end

section
/-! SUPPORT. A table of which only the entries of some indexes are left. -/

namespace Sys2Proof.Machine

theorem tabGet_filter_index {α : Type} [DecidableEq α] (d : Nat → α) (p : Nat → Bool) (k : Nat) :
    ∀ t : Tab α, tabWf d t = true → tabGet d (t.filter fun e => p e.1) k = if p k then tabGet d t k else d k
  | [], _ => (ite_self _).symm
  | (i, v) :: t, h => by
    have ih := tabGet_filter_index d p k t (tabWf_tail d h)
    simp only [tabWf, Bool.and_eq_true] at h
    obtain ⟨⟨habove, -⟩, hwf⟩ := h
    by_cases hik : i = k
    · subst hik
      cases hp : p i with
      | true => simp [hp, tabGet]
      | false => simpa [List.filter_cons, hp] using ih
    by_cases hlt : k < i
    · have hbelow : tabGet d t k = d k := tabGet_below d t (tabAbove_mono (Nat.le_of_lt hlt) t habove) hwf
      have hrest : tabGet d (t.filter fun e => p e.1) k = d k := by rw [ih, hbelow, ite_self]
      cases hp : p i <;> simp [hp, tabGet, hik, hlt, hrest]
    · cases hp : p i <;> simp [hp, tabGet, hik, hlt, ih]

/-- What memory holds once only its bytes below `b` are left. -/
theorem memByte_filter_below {m : Memory} (h : m.wf = true) (a b : Nat) :
    memByte (m.filter fun e => decide (e.1 < b)) a = if a < b then memByte m a else 0 :=
  (tabGet_filter_index memDefault (fun i => decide (i < b)) a m h).trans (by simp only [decide_eq_true_eq]; rfl)

end Sys2Proof.Machine
end

section
/-! PROOF. Losses of inputs and of the reference, resets and power cycles (R42, R45, R46, R48, R499, R501). -/

open Sys2Proof

namespace Sys2Proof.Machine

/-! ## Losses -/

theorem execSupplyLoss_high {s : State} {pillar pwrGood : Bool}
    (h : (pillar && s.pins.pillarOk || pwrGood && s.pins.pwrGood) = true) :
    let p := pillar && s.pins.pillarOk
    let g := pwrGood && s.pins.pwrGood
    exec (.supplyLoss pillar pwrGood) s = .next ((s.modPins fun x =>
      { x with pillarOk := x.pillarOk && !p, pwrGood := x.pwrGood && !g, pillarSeen := x.pillarSeen && !p, pwrSeen := false,
               rstSeen := false }).loseSupply p g) :=
  congrArg Host.Outcome.next (if_neg (by rw [← Bool.not_or, h]; decide))

/-- The state of a block that a lost input takes out of service, before its source is raised (R42; the flag of log entry 16). -/
def State.outOfService (s : State) : State :=
  ((s.modBoot fun b => { b with okBeats := 0 }).endService).modBoot fun b => { b with rerun := true, step := .waitRelease }

/-- A running block, outside deep power-down, raises the source of each lost input (R42). -/
theorem State.loseSupply_running {s : State} (hdpd : s.boot.dpd = false) (hstate : s.blockState ≠ 0) :
    s.loseSupply true false = (s.outOfService.persistOn 275 none).raiseBlock 275 ∧
      s.loseSupply false true = (s.outOfService.persistOn 276 none).raiseBlock 276 := by
  have hdpd' : (s.modBoot fun b => { b with okBeats := 0 }).boot.dpd = false := hdpd
  have hstate' : (s.modBoot fun b => { b with okBeats := 0 }).blockState ≠ 0 := hstate
  simp only [State.loseSupply, hdpd', hstate', if_true, if_false, Bool.false_eq_true, and_self, State.outOfService]

theorem execPillarVoltageFault_bad {s : State} {r : RegionId} (hbad : 10 ≤ (s.loop r).vpilBad) (hok : s.pins.pillarOk = true)
    (hseen : s.pins.pillarSeen = true) : exec (.pillarVoltageFault r) s = .next (s.loseSupply true false) :=
  congrArg Host.Outcome.next (if_pos (by simp [hbad, hok, hseen]))

theorem execRefclkLost_locked {s : State} (hclock : s.pins.refclk = true) (hlock : s.locked = true) :
    exec .refclkLost s = .next (
      (((((s.modPins fun p => { p with refclk := false }).endJobs).modBoot fun b =>
        { b with rerun := true, refBeats := 0 }).persistOn 277 none).raiseBlock 277)) := by
  have hlock' : (s.modPins fun p => { p with refclk := false }).locked = true := hlock
  exact congrArg Host.Outcome.next ((if_neg (by simp [hclock])).trans (if_neg (by simp [hlock'])))

theorem execReferenceClockReturn_stopped {s : State} (h : s.pins.refclk = false) :
    exec .referenceClockReturn s = .next (
      (s.modPins fun p => { p with refclk := true }).modBoot fun b => { b with refBeats := 0 }) :=
  congrArg Host.Outcome.next (if_neg (by simp [h]))

/-! ## Reset -/

/-- An assertion of RST_N ends service, from step 2 of the reset sequence on (R45). -/
theorem execRstNAssert_locked {s : State} (hrst : s.pins.rstN = true) (hlock : s.locked = true) :
    exec .rstNAssert s = .next (
      ((((s.modPins fun p => { p with rstN := false, rstSeen := false }).modBoot fun b =>
        { b with rebootAt := none }).endService.setShadows []).lockPerturb).modBoot fun b =>
          { b with step := if b.step = .waitPillar then .waitPillar else .waitRelease, dpdLow := b.dpdLow || b.dpd }) := by
  have hlock' : ((s.modPins fun p => { p with rstN := false, rstSeen := false }).modBoot fun b =>
      { b with rebootAt := none }).locked = true := hlock
  exact congrArg Host.Outcome.next ((if_pos hrst).trans (if_neg (by simp [hlock'])))

/-! ## Power cycle -/

theorem execPowerCycleRow {s : State} (h : s.pins.stbyOk = true) (stby : Bool) :
    exec (if stby then .vstbyLow else .powerCycle) s = .next (s.powerCycle stby) := by
  cases stby <;> exact congrArg Host.Outcome.next (if_pos h)

/-- Without a service rail up no sequence of a column is left to stop, so the tiers' words stand (R43, R46). -/
theorem State.powerCycle_mem {s : State} (h : s.boot.serviceUp = 0) (stby : Bool) :
    (s.powerCycle stby).mem = s.mem.filter fun e => decide (e.1 < storeBase) := by
  simp [State.powerCycle, State.modBoot, State.modPins, State.modHost, h]

theorem Nvm.completeCommand_fuses (n : Nvm) : n.completeCommand.keyHash = n.keyHash ∧ n.completeCommand.lock = n.lock ∧
    n.completeCommand.pid = n.pid ∧ n.completeCommand.coreOut = n.coreOut := by
  unfold Nvm.completeCommand
  split <;> exact ⟨rfl, rfl, rfl, rfl⟩

theorem State.powerCycle_fuses {s : State} (h : s.boot.serviceUp = 0) (stby : Bool) :
    (s.powerCycle stby).nvm.keyHash = s.nvm.keyHash ∧ (s.powerCycle stby).nvm.lock = s.nvm.lock ∧
      (s.powerCycle stby).nvm.pid = s.nvm.pid ∧ (s.powerCycle stby).nvm.coreOut = s.nvm.coreOut := by
  simp [State.powerCycle, State.modBoot, State.modPins, State.modHost, h, Nvm.completeCommand_fuses]

/-- Settles O54: the losses, the reset, and what a power cycle keeps (the flag of a rerun sequence is log entry 16). -/
theorem lossesAndResetsAct : Obligations.LossesAndResetsAct := by
  unfold Obligations.LossesAndResetsAct
  intro s
  refine ⟨fun _ _ => execSupplyLoss_high, State.loseSupply_running, fun _ => execPillarVoltageFault_bad, execRefclkLost_locked,
    execReferenceClockReturn_stopped, execRstNAssert_locked, fun hstby hservice hwf stby => ?_⟩
  have hbyte : ∀ a, memByte (s.powerCycle stby).mem a = if a < storeBase then memByte s.mem a else 0 := fun a => by
    rw [State.powerCycle_mem hservice, memByte_filter_below hwf]
  obtain ⟨hkey, hlock, hpid, hout⟩ := State.powerCycle_fuses hservice stby
  exact ⟨s.powerCycle stby, execPowerCycleRow hstby stby, fun a ha => (hbyte a).trans (if_pos ha),
    fun a ha => (hbyte a).trans (if_neg (Nat.not_lt.2 ha)), hkey, hlock, hpid, hout,
    (State.powerCycle_keeps s stby (.refl s)).1, rfl, rfl, rfl, rfl, rfl⟩

end Sys2Proof.Machine
end

section
/-! PROOF. Conversions, the reference, stale channels and windows (R376 to R385), sensors and the trip (R391 to R397), and the coolant
input (R51, R399, R401). -/

open Sys2Proof

namespace Sys2Proof.Machine

/-! ## Conversions -/

section Conversion
variable {s : State} {r : RegionId} {k : Fin 8} (hservice : s.serviceOn r = true)
include hservice

/-- A converter with a spot conversion ends that one (R379). -/
theorem execAdcConversion_spot {p : Nat × Nat × Nat} (hspot : (s.tlmR r).spots.find? (fun p => p.1 = k.val) = some p)
    (hnow : p.2.2 + 124 ≤ s.now) (code : BitVec 12) (ovr : Bool) :
    let t := (s.endSlot r k p.2.2 (tabGet (fun _ => 0) (s.tlmR r).entry k) true).modTlm r fun y =>
      { y with spots := y.spots.filter fun q => !(q = p) }
    exec (.adcConversion r k code ovr) s = .next (t.convert r p.2.1 39 code.toNat ovr) := by
  refine congrArg Host.Outcome.next ((if_neg (by simp [hservice])).trans ?_)
  simp only [hspot]
  exact if_neg (Nat.not_lt.2 hnow)

/-- Any other ends the slot it is in (R376; log entry 44), and an idle slot converts nothing. -/
theorem execAdcConversion_slot (hspot : (s.tlmR r).spots.find? (fun p => p.1 = k.val) = none) {b i input : Nat}
    (hslot : s.slotNow r k = some (b, i, input)) (code : BitVec 12) (ovr : Bool) :
    exec (.adcConversion r k code ovr) s = .next (
      if s.now < b + 124 then s
      else if input < 39 then (s.endSlot r k b (i + 1) true).convert r input input code.toNat ovr
      else s.endSlot r k b (i + 1) false) := by
  refine congrArg Host.Outcome.next ((if_neg (by simp [hservice])).trans ?_)
  simp only [hspot, hslot, slotBeats]
  by_cases hinput : input < 39 <;> simp [hinput]

end Conversion

/-! ## The reference, stale channels and windows -/

/-- The reading of `VREF_EXT` that a `REF_SETTLE` brings (R380). -/
def State.measureVref (s : State) (uv : Nat) : State :=
  s.modPins fun p => { p with vrefUV := uv, vrefSince := since s.now p.vrefSince (decide (1150000 ≤ uv) && decide (uv ≤ 1250000)) }

theorem execRefSettle_eq (s : State) (r : RegionId) (uv : Nat) :
    let t := s.measureVref uv
    exec (.refSettle ⟨r, uv⟩) s = .next (
      if t.serviceOn r && !t.refUsable r && t.refGood r then
        (t.modTlm r fun x => { x with settled := true, refLow := 0 }).persistOff 321 (some (256 + r))
      else t) := rfl

section Rows
variable {s : State}

theorem execTlmRefTimeout_due {r : RegionId} (hservice : s.serviceOn r = true) (huse : s.refUsable r = false)
    (hlow : lasted s.now (s.tlmR r).refLow 2000000 = true) :
    exec (.tlmRefTimeout r) s = .next ((s.persistOn 321 (some (256 + r))).raiseRegion 321 r none) :=
  congrArg Host.Outcome.next (if_pos (by simp [hservice, huse, hlow]))

theorem execTlmStale_due {r : RegionId} {k : Fin 40} (hstale : (s.tlmChan r k).stale = 16) (hon : s.domainOn r k = true) :
    exec (.tlmStale r k) s =
      .next (((s.modChanT r k fun x => { x with stale := 17, peak := 65536 }).staleCheck r).raiseRegion 323 r none) :=
  congrArg Host.Outcome.next (if_pos (by simp [hstale, hon]))

/-- The state once every region's window has closed and every group's pillar inputs have been checked (R314, R315, R385). A region
without a reading takes a free temperature (log entries 11 and 44). -/
def State.windowsClosed (s : State) : State :=
  let temp := fun (g : Nat) => (s.regionT g).getD (Int.ofNat (Config.freeNat (s.draws + 1 + g)))
  let gs := List.range 16
  let pk := gs.map (s.packageVolts temp)
  let means := gs.map fun g => s.windowMean g 35
  State.each gs (fun g u => u.checkPillar g ((medianRatio pk).sub (pk.getD g .zero)) (means.getD g .zero))
    (State.each gs (fun k u => u.closeWindow k) s).closeEta

theorem execTelemetryWindowEnd_due (hbeat : s.now % 2000000 = 0) (hsampled : s.power.sampled = s.now + 1)
    (hfirst : s.power.windowed ≠ s.now + 1) :
    let t := s.windowsClosed
    exec .telemetryWindowEnd s = .next ((t.setPower { t.power with windowed := s.now + 1 }).setDraws (s.draws + 17)) :=
  congrArg Host.Outcome.next (if_neg (by simp [hbeat, hsampled, hfirst]))

end Rows

/-! ## Sensors -/

/-- A reading `v` of sensor `n`, judged against its neighbours (R391, R393). -/
def State.takeReading (s : State) (n : Nat) (v : BitVec 16) : State :=
  (s.modSensor n fun x => { x with valid := true, fresh := true, temp := v, convAt := s.now + 1 }).judge n

/-- A powered sensor reports once in 1,000 beats (R391): its core, its region or the trip takes the reading. -/
theorem execSensorConversion_due {s : State} {n : SensorId} (v : BitVec 16) (hon : s.sensorOn n = true)
    (hrate : (s.sensor n).convAt = 0 ∨ (s.sensor n).convAt + 1000 ≤ s.now + 1) :
    let t := s.takeReading n v
    exec (.sensorConversion n v) s = .next (
      if n.val < 1024 then (t.updateCore (n.val / 4)).thermEdges
      else if t.inUse n then
        let u := if n.val < 1056 then t.noteMax n v.toInt else t
        (if 944 ≤ v.toInt then u.tripBlock n v.toInt else u).thermEdges
      else t.thermEdges) := by
  have hdue : (decide ((s.sensor n).convAt ≠ 0) && decide (s.now + 1 < (s.sensor n).convAt + 1000)) = false := by
    rcases hrate with h | h
    · simp [h]
    · simp [Nat.not_lt.2 h]
  exact congrArg Host.Outcome.next (if_neg (by rw [hon, hdue]; decide))

/-! ## Coolant -/

section Coolant
variable {s : State}

theorem execCoolantOkFall_high (h : s.pins.coolantOk = true) : exec .coolantOkFall s = .next (
    (s.modPins fun p => { p with coolantOk := false }).modBoot fun b =>
      { b with sinceCoolant := s.now, lossSeen := false, recoverOk := false }) :=
  congrArg Host.Outcome.next (if_pos h)

theorem execCoolantOkRise_low (h : s.pins.coolantOk = false) : exec .coolantOkRise s = .next (
    (s.modPins fun p => { p with coolantOk := true }).modBoot fun b => { b with sinceCoolant := s.now, lossSeen := false }) :=
  congrArg Host.Outcome.next (if_neg (ne_true_of_eq_false h))

theorem execCoolantLoss_due (hstby : s.pins.stbyOk = true) (hlow : s.pins.coolantOk = false) (hfirst : s.boot.lossSeen = false)
    (hlong : s.boot.sinceCoolant + 2000 ≤ s.now) :
    exec .coolantLoss s = .next (s.modBoot fun b => { b with lossSeen := true }).loseCoolant :=
  congrArg Host.Outcome.next (if_pos (by simp [hstby, hlow, hfirst, hlong]))

theorem execCoolantRecoverOk_due (hstby : s.pins.stbyOk = true) (hhigh : s.pins.coolantOk = true) (hfirst : s.boot.recoverOk = false)
    (hlong : s.boot.sinceCoolant + 2000000000 ≤ s.now) : exec .coolantRecoverOk s = .next (
      State.each (bitsOf 8 s.faults.one.evqTags.toNat) (fun p t => t.arrive p 353 0)
        (s.modBoot fun b => { b with recoverOk := true })) :=
  congrArg Host.Outcome.next (if_pos (by simp [hstby, hhigh, hfirst, hlong]))

end Coolant

/-- Settles O48: each row in the branch that its conditions choose (a conversion ends its slot: log entry 44). -/
theorem telemetryAndSensorsAct : Obligations.TelemetryAndSensorsAct := by
  unfold Obligations.TelemetryAndSensorsAct
  refine ⟨fun s r => ⟨fun k code ovr hservice => ⟨fun hspot b i input hslot => ?slot, fun p hspot hnow => ?spot⟩, fun uv => ?settle,
      execTlmRefTimeout_due, fun _ => execTlmStale_due, execTelemetryWindowEnd_due⟩,
    fun s => ⟨fun n v hon hrate => ?sensor, execCoolantOkFall_high, execCoolantOkRise_low, execCoolantLoss_due,
      execCoolantRecoverOk_due⟩⟩
  case slot =>
    have hexec := execAdcConversion_slot hservice hspot hslot code ovr
    exact ⟨fun hearly => hexec.trans (congrArg _ (if_pos hearly)),
      fun hnow hinput => hexec.trans (congrArg _ ((if_neg (Nat.not_lt.2 hnow)).trans (if_pos hinput))),
      fun hnow hidle => hexec.trans (congrArg _ ((if_neg (Nat.not_lt.2 hnow)).trans (if_neg (Nat.not_lt.2 hidle))))⟩
  case spot => exact execAdcConversion_spot hservice hspot hnow code ovr
  case settle =>
    intro t
    have hexec := execRefSettle_eq s r uv
    refine ⟨fun hservice huse hgood => hexec.trans (congrArg _ (if_pos ?_)), fun hstays => hexec.trans (congrArg _ (if_neg ?_))⟩
    · show (t.serviceOn r && !t.refUsable r && t.refGood r) = true
      simp [hservice, huse, hgood]
    · show ¬ (t.serviceOn r && !t.refUsable r && t.refGood r) = true
      rcases hstays with h | h | h <;> simp [h]
  case sensor =>
    intro t
    have hexec := execSensorConversion_due v hon hrate
    exact ⟨fun hcore => hexec.trans (congrArg _ (if_pos hcore)),
      fun hnone huse => hexec.trans (congrArg _ ((if_neg (Nat.not_lt.2 hnone)).trans (if_neg (ne_true_of_eq_false huse)))),
      fun hnone huse => hexec.trans (congrArg _ ((if_neg (Nat.not_lt.2 hnone)).trans (if_pos huse)))⟩

end Sys2Proof.Machine
end

section
/-! PROOF. The status inputs (R40, R467, R468, R470, R484), each taken as asserted after its minimum interval (log entry 48). -/

open Sys2Proof

namespace Sys2Proof.Machine

/-! ## When an input is taken -/

/-- `PILLAR_OK` taken as asserted. -/
def State.pillarTaken (s : State) : State :=
  (s.modPins fun p => { p with pillarSeen := true, pillarAt := s.now }).modBoot fun b =>
    { b with step := if b.step = .waitPillar then .waitRelease else b.step }

section Take
variable {s : State}

theorem State.takePillar_due {early : Bool} (hok : s.pins.pillarOk = true) (hseen : s.pins.pillarSeen = false) (hlock : s.locked = true)
    (hnow : (if early then 1000000 else 2000000) ≤ s.now) : s.takePillar early = s.pillarTaken :=
  if_pos (by simp [hok, hseen, hlock, hnow])

theorem State.takePillar_early {early : Bool} (hnow : s.now < if early then 1000000 else 2000000) : s.takePillar early = s :=
  if_neg (by simp [Nat.not_le.2 hnow])

theorem State.takePwr_due (hok : s.pins.pwrGood = true) (hseen : s.pins.pwrSeen = false) (hpillar : s.pins.pillarSeen = true)
    (hnow : s.pins.pillarAt + 200000 ≤ s.now) : s.takePwr = s.modPins fun p => { p with pwrSeen := true, pwrAt := s.now } :=
  if_pos (by simp [hok, hseen, hpillar, hnow])

theorem State.takePwr_early (hnow : s.now < s.pins.pillarAt + 200000) : s.takePwr = s :=
  if_neg (by simp [Nat.not_le.2 hnow])

theorem State.takeRst_due (hrst : s.pins.rstN = true) (hseen : s.pins.rstSeen = false) (hpwr : s.pins.pwrSeen = true)
    (hreboot : s.boot.rebootAt = none) (hnow : s.pins.pwrAt + 200000 ≤ s.now) :
    s.takeRst = (s.modPins fun p => { p with rstSeen := true }).tryConfig :=
  if_pos (by simp [hrst, hseen, hpwr, hreboot, hnow])

theorem State.takeRst_early (hnow : s.now < s.pins.pwrAt + 200000) : s.takeRst = s :=
  if_neg (by simp [Nat.not_le.2 hnow])

end Take

/-! ## The obligation -/

section Rows
variable {s : State}

theorem execStbyOkAssert_low (h : s.pins.stbyOk = false) : exec .stbyOkAssert s = .next (
    (s.modPins fun p => { p with stbyOk := true }).modBoot fun b => { b with step := .refLock }) :=
  congrArg Host.Outcome.next (if_neg (ne_true_of_eq_false h))

theorem execReferenceLock_due (hstby : s.pins.stbyOk = true) (hstep : s.boot.step = .refLock) (hclock : s.pins.refclk = true) :
    exec .referenceLock s = .next (
      State.each (bitsOf 256 s.nvm.coreOut.toNat) (fun c u => u.modPower c fun p => { p with state := .dark, out := true })
        (((s.modPins fun p => { p with alarmZ := false }).modBoot fun b =>
          { b with step := .waitPillar, sinceCoolant := s.now }).modNvm fun n => { n with keyUsed := n.keyHash })) :=
  congrArg Host.Outcome.next (if_pos (by simp [hstby, hstep, hclock]))

theorem execPillarOkAssert_low (h : s.pins.pillarOk = false) :
    exec .pillarOkAssert s = .next ((s.modPins fun p => { p with pillarOk := true }).takePillar false) :=
  congrArg Host.Outcome.next (if_neg (ne_true_of_eq_false h))

theorem execPwrGoodAssert_low (h : s.pins.pwrGood = false) :
    exec .pwrGoodAssert s = .next (s.modPins fun p => { p with pwrGood := true }).takePwr :=
  congrArg Host.Outcome.next (if_neg (ne_true_of_eq_false h))

theorem execRstNRelease_low (h : s.pins.rstN = false) :
    exec .rstNRelease s = .next (s.modPins fun p => { p with rstN := true }).takeRst :=
  congrArg Host.Outcome.next (if_neg (ne_true_of_eq_false h))

theorem execDpdReturn_due (hdpd : s.boot.dpd = true) (hlow : s.boot.dpdLow = true) (hstep : s.stepFour = true) :
    exec .dpdReturn s = .next s.enterConfig :=
  congrArg Host.Outcome.next (if_pos (by simp [hdpd, hlow, hstep]))

end Rows

/-- Settles O52: an assertion raises its pin, and the pin is taken at once where its interval has passed, else by
`MINIMUM_INTERVAL_END`; before beat 2,000,000 `PILLAR_OK` may be too soon (log entry 48). -/
theorem statusInputsAreTaken : Obligations.StatusInputsAreTaken := by
  unfold Obligations.StatusInputsAreTaken
  intro s pillar pwr up good go
  have next : ∀ {t u : State}, t = u → (.next t : Host.Outcome State Fault Refusal) = .next u := congrArg _
  refine ⟨execStbyOkAssert_low, execReferenceLock_due, fun hlow hseen hlock => ?pillar, fun hok hseen hlock hnow => ?pillarEnd,
    fun hlow hseen hpillar => ?pwr, fun hok hseen hpillar hnow => ?pwrEnd, fun hlow hseen hpwr hreboot => ?rst,
    fun hrst hseen hpwr hreboot hnow => ?rstEnd, execDpdReturn_due⟩
  case pillar =>
    rw [execPillarOkAssert_low hlow]
    exact ⟨fun hnow => next (State.takePillar_due (s := up) rfl hseen hlock hnow),
      fun hnow => next (State.takePillar_early (s := up) hnow)⟩
  case pillarEnd => exact next (State.takePillar_due (early := true) hok hseen hlock hnow)
  case pwr =>
    rw [execPwrGoodAssert_low hlow]
    exact ⟨fun hnow => next (State.takePwr_due (s := good) rfl hseen hpillar hnow),
      fun hnow => next (State.takePwr_early (s := good) hnow)⟩
  case pwrEnd => exact next (State.takePwr_due hok hseen hpillar hnow)
  case rst =>
    rw [execRstNRelease_low hlow]
    exact ⟨fun hnow => next (State.takeRst_due (s := go) rfl hseen hpwr hreboot hnow),
      fun hnow => next (State.takeRst_early (s := go) hnow)⟩
  case rstEnd => exact next (State.takeRst_due hrst hseen hpwr hreboot hnow)

end Sys2Proof.Machine
end

section
/-! PROOF. The boot sequence from the SFDP read to READY (R25, R64, R189, R468, R476 to R478). -/

open Sys2Proof

namespace Sys2Proof.Machine

section Steps
variable {s : State}

/-- A row of the sequence does nothing but at its own step. -/
theorem ite_atStep {α : Type} {b : BootStep} (h : s.atStep b = true) (x y : α) : (if !s.atStep b then x else y) = y :=
  if_neg (by simp [h])

theorem execSfdpReadComplete_passes (h : s.atStep .sfdp = true) {signature has144 : Bool} (hok : (signature && has144) = true) :
    exec (.sfdpReadComplete signature has144) s = .next (s.modBoot fun b => { b with step := .imageRead }) :=
  congrArg Host.Outcome.next ((ite_atStep h _ _).trans (if_pos hok))

theorem execSfdpReadComplete_fails (h : s.atStep .sfdp = true) {signature has144 : Bool} (hbad : (signature && has144) = false) :
    exec (.sfdpReadComplete signature has144) s = .next (s.failBoot 1 0xFF) :=
  congrArg Host.Outcome.next ((ite_atStep h _ _).trans (if_neg (ne_true_of_eq_false hbad)))

/-- An image that is all there is checked; `image` is what the flash holds, its known bytes first (log entry 47). -/
theorem execImageReadComplete_checks (h : s.atStep .imageRead = true) (read : List Byte)
    (hlong : imageShort (s.nvm.onFlash read) = false) :
    let image := s.nvm.onFlash read
    exec (.imageReadComplete read) s = .next (
      if (readCheck image).1 = 0 then
        s.modBoot fun b => { b with step := .verify, image := image.take (imageLen image + 192) }
      else s.failBoot (readCheck image).1 (readCheck image).2) :=
  congrArg Host.Outcome.next (if_neg (by simp [h, hlong]))

/-- The hash of the key that is used is that of the fuses from the verification on (R476). -/
def State.keySensed (s : State) : State := s.modNvm fun n => { n with keyUsed := n.keyHash }

section Verify
variable (h : s.atStep .verify = true)
include h

theorem execImageVerifyComplete_fails (hbad : verifyCheck s.nvm.keyHash s.boot.image ≠ 0) :
    exec .imageVerifyComplete s = .next (s.keySensed.failBoot (verifyCheck s.nvm.keyHash s.boot.image) 0xFF) :=
  congrArg Host.Outcome.next ((ite_atStep h _ _).trans (if_pos hbad))

variable (hok : verifyCheck s.nvm.keyHash s.boot.image = 0)
include hok

theorem execImageVerifyComplete_unloadable (hload : s.keySensed.loadImage s.keySensed.boot.image = none) :
    exec .imageVerifyComplete s = .next (s.keySensed.failBoot 7 0xFF) := by
  unfold State.keySensed at hload ⊢
  exact congrArg Host.Outcome.next ((ite_atStep h _ _).trans ((if_neg (not_not_intro hok)).trans (by simp only [hload])))

theorem execImageVerifyComplete_loads {t : State} (hload : s.keySensed.loadImage s.keySensed.boot.image = some t) :
    exec .imageVerifyComplete s = .next (t.bootResult 0 0xFF).powerUpAll := by
  unfold State.keySensed at hload
  exact congrArg Host.Outcome.next ((ite_atStep h _ _).trans ((if_neg (not_not_intro hok)).trans (by simp only [hload])))

end Verify

/-- The state once the results of training are in: the columns first, then the cores' own checks (R189). -/
def State.trainedState (s : State) (fails : List TrainFail) : State :=
  State.each (List.range 256) (fun c u => if checkFailed fails c && !(u.core c).power.out then u.retire c else u)
    (State.each (List.range 256) (fun c u => u.trainColumn fails c) s)

theorem execTrainingComplete_runs (hstep : s.boot.step = .train) (hbase : s.boot.base = .train) (hsafe : s.boot.safe = false)
    (hgrave : s.boot.grave = false) (hhold : s.boot.hold = false) (hclock : s.pins.refclk = true) (fails : List TrainFail) :
    let t := s.trainedState fails
    exec (.trainingComplete fails) s = .next (if t.boot.safe || t.boot.grave then t else t.enterReady) :=
  congrArg Host.Outcome.next (if_neg (by simp [hstep, hbase, hsafe, hgrave, hhold, hclock]))

end Steps

/-- Settles O53: step by step, the branch that the check of each step decides (the image's bytes are log entry 47). -/
theorem bootSequenceAdvances : Obligations.BootSequenceAdvances := by
  unfold Obligations.BootSequenceAdvances
  intro s
  refine ⟨fun h _ _ => ⟨execSfdpReadComplete_passes h, execSfdpReadComplete_fails h⟩, fun h read => ?image,
    fun h => ⟨execImageVerifyComplete_fails h, fun hok => ⟨execImageVerifyComplete_unloadable h hok,
      fun _ => execImageVerifyComplete_loads h hok⟩⟩,
    fun hstep hbase hsafe hgrave hhold hclock fails => ?train⟩
  case image =>
    intro image hlong
    have hexec := execImageReadComplete_checks h read hlong
    exact ⟨fun hok => hexec.trans (congrArg _ (if_pos hok)), fun hbad => hexec.trans (congrArg _ (if_neg hbad))⟩
  case train =>
    have hexec := execTrainingComplete_runs hstep hbase hsafe hgrave hhold hclock fails
    exact ⟨fun hs hg => hexec.trans (congrArg _ (if_neg (by
        rw [show (s.trainedState fails).boot.safe = false from hs, show (s.trainedState fails).boot.grave = false from hg]
        decide))),
      fun hstop => hexec.trans (congrArg _ (if_pos ((Bool.or_eq_true _ _).mpr hstop)))⟩

end Sys2Proof.Machine
end

section
/-! PROOF. The side-band's answers (R65, R459 to R462, R509). -/

open Sys2Proof

namespace Sys2Proof.Machine

/-! ## The target runs -/

theorem State.onSide_open {s : State} (h : s.sideOpen = true) (f : State → State) : s.onSide f = f s := if_pos h

/-- A common command is served as by an I3C target (R65). -/
theorem State.ccc_open {s : State} (h : s.sideOpen = true) (f : State → State) :
    s.ccc f = f (s.modSide fun x => { x with i3c := true }) := State.onSide_open h _

theorem State.freeBytes_length (s : State) (n : Nat) : (s.freeBytes n).length = n := by simp [State.freeBytes]

section Rows
variable {s : State} (h : s.sideOpen = true)
include h

/-- A common command is what its row makes of the I3C target. -/
theorem next_ccc {f : State → State} {t : State} (hf : f (s.modSide fun x => { x with i3c := true }) = t) :
    (.next (s.ccc f) : Host.Outcome State Fault Refusal) = .next t := congrArg _ ((State.ccc_open h f).trans hf)

/-- A message is what its row makes of the state. -/
theorem next_onSide {f : State → State} {t : State} (hf : f s = t) :
    (.next (s.onSide f) : Host.Outcome State Fault Refusal) = .next t := congrArg _ ((State.onSide_open h f).trans hf)

/-! ## Common commands (R459) -/

theorem execEntdaa_unassigned (hda : s.side.da = 0) (a : BitVec 7) :
    let t := s.modSide fun x => { x with i3c := true }
    exec (.entdaa a) s = .next ((t.modSide fun x => { x with da := a }).send (.bus 0 (s.pidBytes ++ [0x06, 0xCC]))) :=
  next_ccc h (if_pos hda)

theorem execEntdaa_assigned (hda : s.side.da ≠ 0) (a : BitVec 7) :
    exec (.entdaa a) s = .next (s.modSide fun x => { x with i3c := true }) :=
  next_ccc h (if_neg hda)

theorem execSetdasa_unassigned (hda : s.side.da = 0) (a : BitVec 7) :
    let t := s.modSide fun x => { x with i3c := true }
    exec (.setdasa a) s = .next (t.modSide fun x => { x with da := a }) :=
  next_ccc h (if_pos hda)

theorem execSetdasa_assigned (hda : s.side.da ≠ 0) (a : BitVec 7) :
    let t := s.modSide fun x => { x with i3c := true }
    exec (.setdasa a) s = .next (t.sideSend .nak) :=
  next_ccc h (if_neg hda)

theorem execGetstatus_open : ∃ bs : List Byte, bs.length = 2 ∧
    exec .getstatus s = .next ((s.modSide fun x => { x with i3c := true }).sideSend (.bus 0 bs)).drawn :=
  ⟨_, State.freeBytes_length _ _, next_ccc h rfl⟩

theorem execIbi_due (hi3c : s.side.i3c = true) (hda : s.side.da ≠ 0) (hon : s.side.ibiOn = true) (hwait : 0 < s.side.waiting) :
    exec .ibi s = .next ((s.modSide fun x => { x with waiting := x.waiting - 1 }).sideSend .ibi) :=
  next_onSide h (if_pos (by simpa [hi3c, hon, hwait] using hda))

/-! ## MCTP control (R460) -/

theorem execSetEndpointId_valid {e : BitVec 8} (hnull : e ≠ 0) (hbroadcast : e ≠ 0xFF) :
    exec (.setEndpointId e) s = .next ((s.modSide fun x => { x with eid := e }).sideAnswer (.bus 0 [0, e, 0])) :=
  next_onSide h (if_neg (not_or.2 ⟨hnull, hbroadcast⟩))

/-! ## PLDM (R461) -/

theorem execGetPldmVersion_served {type : BitVec 8} (ht : type = 0 ∨ type = 2) :
    ∃ bs : List Byte, bs.length = 4 ∧ exec (.getPldmVersion type) s = .next (s.sideAnswer (.bus 0 (id bs))).drawn :=
  ⟨_, s.freeBytes_length 4, next_onSide h (if_pos (by simpa [pldmType] using ht))⟩

theorem execGetPldmCommands_served {type : BitVec 8} (ht : type = 0 ∨ type = 2) :
    exec (.getPldmCommands type) s = .next (s.sideAnswer (.bus 0 (leBytes 32 (pldmCommands type)))) :=
  next_onSide h (if_pos (by simpa [pldmType] using ht))

theorem execGetPdrRepositoryInfo_open : ∃ bs cs : List Byte, bs.length = 26 ∧ cs.length = 9 ∧
    exec .getPdrRepositoryInfo s = .next (s.sideAnswer (.bus 0 (0 :: bs ++ leBytes 4 7 ++ cs))).drawn :=
  ⟨_, _, s.freeBytes_length 26, by simp, next_onSide h rfl⟩

theorem execGetPdr_record {n : BitVec 32} (hfirst : 1 ≤ n.toNat) (hlast : n.toNat ≤ 7) : ∃ bs : List Byte, bs.length = 26 ∧
    exec (.getPdr n) s = .next (s.sideAnswer (.bus 0
      (leBytes 4 (if n.toNat = 7 then 0 else n.toNat + 1) ++ leBytes 2 n.toNat ++ bs))).drawn := by
  have hn : (if n = 0 then 1 else n.toNat) = n.toNat := if_neg fun hz => by simp [hz] at hfirst
  refine ⟨_, s.freeBytes_length 26, next_onSide h ?_⟩
  dsimp only
  rw [hn, if_neg (Nat.not_lt.2 hlast)]
  rfl

theorem execGetSensorReading_temperature {v : Int} (hv : maxOf s.temperatures = some v) :
    exec (.getSensorReading 1) s = .next (s.sideAnswer (.bus 0 (leBytes 4 (toTwos 32 v)))) := by
  refine next_onSide h ?_
  show (match maxOf s.temperatures with | some v => _ | none => _) = _
  rw [hv]
  rfl

theorem execGetSensorReading_unmeasured (hv : maxOf s.temperatures = none) :
    ∃ bs : List Byte, bs.length = 4 ∧ exec (.getSensorReading 1) s = .next (s.sideAnswer (.bus 0 (id bs))).drawn := by
  refine ⟨_, s.freeBytes_length 4, next_onSide h ?_⟩
  show (match maxOf s.temperatures with | some v => _ | none => _) = _
  rw [hv]
  rfl

/-! ## Register access (R462) -/

/-- A message with the block's enterprise number is served, any other discarded. -/
theorem onSide_ownPen {pen : BitVec 32} (hpen : pen = s.reg 0x1E0C004) (f : State → State) :
    (s.onSide fun t => if t.ownPen pen then f t else t) = f s :=
  (State.onSide_open h _).trans (if_pos (decide_eq_true hpen))

theorem onSide_otherPen {pen : BitVec 32} (hpen : pen ≠ s.reg 0x1E0C004) (f : State → State) :
    (s.onSide fun t => if t.ownPen pen then f t else t) = s :=
  (State.onSide_open h _).trans (if_neg (by simpa [State.ownPen] using hpen))

end Rows

section Access
variable {s : State} {o : Nat}

theorem State.sideRead_register (halign : o % 4 = 0) (hwindow : o < windowSize) (hbank : bankRefused .side o = false) :
    s.sideRead o = (s.readReg .side o).2.sideAnswer (.side 0 0 (leBytes 4 (s.readReg .side o).1)) := by
  have hcause : sideReadCause o = none := by simp [sideReadCause, halign, hbank, Nat.not_le.2 hwindow]
  simp only [State.sideRead, hcause, sideRequest, State.answerRead]

theorem State.sideReadPair_pair {w : Nat} (hwindow : o < windowSize) (hbank : bankRefused .side o = false)
    (hpair : s.pairAt o = some w) : s.sideReadPair o = s.sideAnswer (.side 0 0 (leBytes 8 w)) := by
  simp only [State.sideReadPair, if_neg (Nat.not_le.2 hwindow), hbank, Bool.false_eq_true, if_false, hpair, sideRequest, State.answerRead]

/-- Outside GRAVE a write that the register's rule takes is answered (R462). -/
theorem State.sideWrite_taken {u : State} {v : Nat} (halign : o % 4 = 0) (hwindow : o < windowSize) (hgrave : s.blockState ≠ 6)
    (hv : v < 2 ^ 32) (hw : s.writeReg ⟨.side, some 0⟩ o v = (u, .ok)) :
    s.sideWrite (some 0) o v = u.sideAnswer (.side 0 0 []) := by
  simp only [State.sideWrite, halign, ne_eq, not_true_eq_false, if_false, if_neg (Nat.not_le.2 hwindow), hgrave, decide_false,
    Bool.false_and, Bool.false_eq_true, Nat.mod_eq_of_lt hv, hw, State.answer]

end Access

/-- Settles O57: while the target runs each row is its own effect; the bytes of an answer that the spec does not state are the free ones
of the draw (log entry 31). -/
theorem sideBandAnswers : Obligations.SideBandAnswers := by
  unfold Obligations.SideBandAnswers
  intro s h
  refine ⟨fun _ => rfl, ?_⟩
  intro t pid gives tells
  refine ⟨?common, ?mctp, ?pldm, ?registers⟩
  case common =>
    refine ⟨fun hda a => ⟨execEntdaa_unassigned h hda a, execSetdasa_unassigned h hda a⟩,
      fun hda a => ⟨execEntdaa_assigned h hda a, execSetdasa_assigned h hda a⟩, next_ccc h rfl, next_ccc h rfl, next_ccc h rfl,
      next_ccc h rfl, next_ccc h rfl, next_ccc h rfl, execGetstatus_open h, next_ccc h rfl, fun _ => next_ccc h rfl, next_ccc h rfl,
      fun _ => next_ccc h rfl, fun _ => next_ccc h rfl, execIbi_due h⟩
  case mctp =>
    exact ⟨fun _ => execSetEndpointId_valid h, next_onSide h rfl, ⟨_, s.freeBytes_length 4, next_onSide h rfl⟩, next_onSide h rfl⟩
  case pldm =>
    exact ⟨next_onSide h rfl, fun _ => execGetPldmVersion_served h, next_onSide h rfl, fun _ => execGetPldmCommands_served h,
      execGetPdrRepositoryInfo_open h, fun _ => execGetPdr_record h, fun _ => execGetSensorReading_temperature h,
      execGetSensorReading_unmeasured h, next_onSide h rfl, next_onSide h rfl, next_onSide h rfl, next_onSide h rfl,
      next_onSide h rfl, next_onSide h rfl, fun _ _ => next_onSide h rfl⟩
  case registers =>
    intro o v pen
    refine ⟨fun halign hwindow => ⟨fun hbank => ?reads, fun hgrave u hw => ?write⟩, fun other hother => ?_⟩
    case reads =>
      have hread := (onSide_ownPen h rfl fun t => t.sideRead o.toNat).trans (State.sideRead_register halign hwindow hbank)
      exact ⟨congrArg _ hread, congrArg _ hread,
        fun w hw => congrArg _ ((onSide_ownPen h rfl _).trans (State.sideReadPair_pair hwindow hbank hw))⟩
    case write =>
      exact congrArg _ ((onSide_ownPen h rfl _).trans (State.sideWrite_taken halign hwindow hgrave v.isLt hw))
    · exact ⟨congrArg _ (onSide_otherPen h hother _), congrArg _ (onSide_otherPen h hother _),
        congrArg _ (onSide_otherPen h hother _), congrArg _ (onSide_otherPen h hother _)⟩

end Sys2Proof.Machine
end

section
/-! PROOF. The block before STBY_OK (R41). -/

open Sys2Proof

namespace Sys2Proof.Machine

/-- No register has been written at reset, so each holds the value of the register summary. -/
theorem State.reset_reg (o : Nat) : State.reset.reg o = regReset o := rfl

/-- No core has an entry at reset. -/
theorem State.reset_core (c : Nat) : State.reset.core c = Core.initial := rfl

theorem State.reset_tablesWf : State.reset.tablesWf = true :=
  State.tablesWf_iff.2 ⟨rfl, rfl, rfl, rfl, rfl, rfl⟩

/-- Settles O60: every table is empty at reset, and the fields are those of power-up. -/
theorem resetState : Obligations.ResetState :=
  ⟨State.reset_tablesWf, rfl, rfl, rfl, rfl, rfl,
    fun c => ⟨congrArg (·.power.state) (State.reset_core c), congrArg (·.seq.bound) (State.reset_core c)⟩, State.reset_reg, rfl, rfl⟩

end Sys2Proof.Machine
end

section
/-! PROOF. The step, and the L slot's operations of variable latency (R82, R88, R113 to R116, R197, R202). -/

open Sys2Proof

namespace Sys2Proof.Machine

/-- Settles O1: a waiting command is the step (log entries 34 and 58). -/
theorem stepRunsFront : Obligations.StepRunsFront := fun _ _ _ => step_command

/-! ## The page-keeper slots -/

/-- The sub-operation lies in the bits of the word that the slot's effect reads. -/
theorem fld_slotBits (w : Nat) : fld (w % 2 ^ 56) 47 3 = fld w 47 3 := by
  simp only [fld]
  omega

/-- A core's job takes its call to the keeper. -/
theorem pgkEffect_job {s : State} {c : CoreId} {j : PartId × Fin 16} (w : Nat) (h : s.coreJob c = some j) :
    pgkEffect c w s = (s.newOp c (fld w 50 6) (.pgk s.pgk.nextId (fld w 42 5)) false).newCall j.1 (subOp (fld w 47 3))
      (BitVec.ofNat 32 (s.readS c (fld w 37 5)).toNat) ((s.readS c (fld w 32 5)).toNat % 65536)
      (.core c (fld w 50 6) (fld w 42 5) j) := by
  have hc : (⟨c.val % 256, Nat.mod_lt _ (by decide)⟩ : CoreId) = c := Fin.ext (Nat.mod_eq_of_lt c.isLt)
  simp only [pgkEffect, h, hc]

/-- A page-keeper slot that stands ready issues under the sub-operation of its word. -/
theorem State.pgkSlot_ready {s : State} {c : CoreId} {sub : Nat} (hready : s.slotReady c .l 0x11 = true)
    (hsub : fld ((s.settle c).slotWord c .l) 47 3 = sub) :
    s.pgkSlot c sub = State.issuedBy c .l (pgkEffect c (s.slotBits c .l) (s.atIssue c)) :=
  (if_pos hsub).trans (State.issueSlot_ready _ hready)

/-- Settles O5: a slot that stands ready issues with its effect; the page-keeper ones share theirs up to the sub-operation. -/
theorem longSlotIssues : Obligations.LongSlotIssues := by
  unfold Obligations.LongSlotIssues
  refine ⟨fun s c => ?_, fun s c j => ?_⟩
  · intro u w reg go
    have issue : ∀ {op : Nat} (effect : Nat → State → State), s.slotReady c .l op = true →
        (.next (s.issueSlot c .l op effect) : Host.Outcome State Fault Refusal) = go (effect w u) :=
      fun effect h => congrArg Host.Outcome.next (State.issueSlot_ready effect h)
    exact ⟨issue _, issue _, issue _, issue _, issue _, issue _⟩
  · intro u w made sub hready hjob
    have call : ∀ k, sub = k → (.next (s.pgkSlot c k) : Host.Outcome State Fault Refusal) = made (subOp k) := by
      intro k hk
      rw [State.pgkSlot_ready hready hk, pgkEffect_job _ hjob, State.slotBits, fld_slotBits]
      exact congrArg (fun i => made (subOp i)) hk
    exact ⟨call 0, call 1, call 2, call 3, call 4⟩

end Sys2Proof.Machine
end

section
/-! SUPPORT. Tables in canonical form that read alike are equal; so a second write at an index replaces the first, and one of what
stands there changes nothing. -/

namespace Sys2Proof.Machine

section Extensionality
variable {α : Type} [DecidableEq α] (d : Nat → α)

omit [DecidableEq α] in
theorem tabGet_head (i : Nat) (v : α) (t : Tab α) : tabGet d ((i, v) :: t) i = v := by simp [tabGet]

theorem tab_ext : ∀ {t u : Tab α}, tabWf d t = true → tabWf d u = true → (∀ k, tabGet d t k = tabGet d u k) → t = u
  | [], [], _, _, _ => rfl
  | [], (j, w) :: u, _, hu, h => by
    simp only [tabWf, Bool.and_eq_true, decide_eq_true_eq] at hu
    exact absurd ((h j).trans (tabGet_head d j w u)).symm hu.1.2
  | (i, v) :: t, [], ht, _, h => by
    simp only [tabWf, Bool.and_eq_true, decide_eq_true_eq] at ht
    exact absurd ((tabGet_head d i v t).symm.trans (h i)) ht.1.2
  | (i, v) :: t, (j, w) :: u, ht, hu, h => by
    have hti := tabGet_head d i v t
    have huj := tabGet_head d j w u
    have below : ∀ {k x : Nat} {y : α} {l : Tab α}, tabWf d ((x, y) :: l) = true → k < x → tabGet d ((x, y) :: l) k = d k :=
      fun hl hk => tabGet_below d _ (by simp [tabAbove, hk]) hl
    have hhead := And.intro ht hu
    simp only [tabWf, Bool.and_eq_true, decide_eq_true_eq] at hhead
    obtain ⟨⟨⟨hta, htv⟩, htw⟩, ⟨⟨hua, huv⟩, huw⟩⟩ := hhead
    obtain hlt | rfl | hgt := Nat.lt_trichotomy i j
    · exact absurd (hti.symm.trans ((h i).trans (below hu hlt))) htv
    · have hvw : v = w := hti.symm.trans ((h i).trans huj)
      have htail : t = u := tab_ext htw huw fun k => by
        by_cases hk : k ≤ i
        · rw [tabGet_below d t (tabAbove_mono hk t hta) htw, tabGet_below d u (tabAbove_mono hk u hua) huw]
        · have hne : i ≠ k := by omega
          simpa [tabGet, hne, show ¬ k < i by omega] using h k
      rw [hvw, htail]
    · exact absurd (huj.symm.trans ((h j).symm.trans (below ht hgt))) huv

theorem tabSet_tabSet {t : Tab α} (k : Nat) (v w : α) (h : tabWf d t = true) :
    tabSet d (tabSet d t k v) k w = tabSet d t k w := by
  have hv := tabWf_tabSet d k v t h
  refine tab_ext d (tabWf_tabSet d k w _ hv) (tabWf_tabSet d k w t h) fun j => ?_
  by_cases hj : j = k
  · rw [hj, tabGet_tabSet_self d k w _ hv, tabGet_tabSet_self d k w t h]
  · rw [tabGet_tabSet_ne d hj w _ hv, tabGet_tabSet_ne d hj v t h, tabGet_tabSet_ne d hj w t h]

theorem tabSet_tabGet {t : Tab α} (k : Nat) (h : tabWf d t = true) : tabSet d t k (tabGet d t k) = t := by
  refine tab_ext d (tabWf_tabSet d k _ t h) h fun j => ?_
  by_cases hj : j = k
  · rw [hj, tabGet_tabSet_self d k _ t h]
  · rw [tabGet_tabSet_ne d hj _ t h]

end Extensionality

section Cores
variable {s : State} {c : Nat} (hwf : s.coresWf = true)
include hwf

theorem State.core_putCore_self (x : Core) : (s.putCore c x).core c = x := tabGet_tabSet_self _ c x _ hwf

theorem State.putCore_coresWf (x : Core) : (s.putCore c x).coresWf = true := tabWf_tabSet _ c x _ hwf

theorem State.putCore_putCore (x y : Core) : (s.putCore c x).putCore c y = s.putCore c y :=
  congrArg s.setCores (tabSet_tabSet _ c x y hwf)

theorem State.putCore_core : s.putCore c (s.core c) = s := congrArg s.setCores (tabSet_tabGet _ c hwf)

/-- Two changes of one core are one. -/
theorem State.modCore_putCore (x : Core) (f : Core → Core) : (s.putCore c x).modCore c f = s.putCore c (f x) := by
  rw [State.modCore, State.core_putCore_self hwf, State.putCore_putCore hwf]

end Cores

end Sys2Proof.Machine
end

section
/-! PROOF. The frame of the slots that only stage results (R76, R77, R105, R112, R113, R117). -/

open Sys2Proof

namespace Sys2Proof.Machine

theorem State.setDraws_self (s : State) : s.setDraws s.draws = s := rfl

/-! ## What such a slot makes of its core -/

/-- Core `y` is `x` with other staged results and another sequencer that runs on, and with other X registers only where `free`. -/
structure Core.StagesTo (free : Prop) (x y : Core) : Prop where
  rest : y = { x with staged := y.staged, seq := y.seq, regs := { x.regs with x := y.regs.x } }
  xregs : ¬ free → y.regs.x = x.regs.x
  ended : y.seq.ended = x.seq.ended

theorem Core.StagesTo.refl (free : Prop) (x : Core) : Core.StagesTo free x x := ⟨rfl, fun _ => rfl, rfl⟩

theorem Core.StagesTo.trans {free : Prop} {x y z : Core} (h : Core.StagesTo free x y) (g : Core.StagesTo free y z) :
    Core.StagesTo free x z where
  rest := by
    rw [g.rest, h.rest]
  xregs hfree := (g.xregs hfree).trans (h.xregs hfree)
  ended := g.ended.trans h.ended

/-- State `t` is `u` with such a change of core `c`. -/
def State.StagesIn (free : Prop) (c : Nat) (u t : State) : Prop := ∃ y, t = u.putCore c y ∧ Core.StagesTo free (u.core c) y

/-- An effect of a slot that makes such a change alone. -/
def StagingEffect (free : Prop) (c : Nat) (e : State → State) : Prop :=
  ∀ u : State, u.coresWf = true → State.StagesIn free c u (e u)

section Effects
variable {free : Prop} {c : Nat}

theorem StagingEffect.id : StagingEffect free c fun u => u :=
  fun u hwf => ⟨u.core c, (State.putCore_core hwf).symm, .refl _ _⟩

theorem StagingEffect.modCore {e : State → State} (he : StagingEffect free c e) {f : State → Core → Core}
    (hf : ∀ u x, Core.StagesTo free x (f u x)) : StagingEffect free c fun u => (e u).modCore c (f u) := by
  intro u hwf
  obtain ⟨y, ht, hy⟩ := he u hwf
  refine ⟨f u y, ?_, hy.trans (hf u y)⟩
  show (e u).modCore c (f u) = _
  rw [ht, State.modCore_putCore hwf]

/-- A staged result. -/
theorem StagingEffect.stage {e : State → State} (he : StagingEffect free c e) (latency : State → Nat) (res : State → Result)
    (arith : State → BitVec 5) : StagingEffect free c fun u => (e u).stage c (latency u) (res u) (arith u) :=
  he.modCore fun _ _ => ⟨rfl, fun _ => rfl, rfl⟩

/-- Progress of the core's own sequencer. -/
theorem StagingEffect.modSeq {e : State → State} (he : StagingEffect free c e) {f : State → Sequencer → Sequencer}
    (hf : ∀ u q, (f u q).ended = q.ended) : StagingEffect free c fun u => (e u).modSeq c (f u) :=
  he.modCore fun u x => ⟨rfl, fun _ => rfl, hf u x.seq⟩

theorem StagingEffect.ite {p : State → Prop} [∀ u, Decidable (p u)] {e g : State → State} (he : StagingEffect free c e)
    (hg : StagingEffect free c g) : StagingEffect free c fun u => if p u then e u else g u := by
  intro u hwf
  dsimp only
  split
  · exact he u hwf
  · exact hg u hwf

/-- One staged result is the whole effect. -/
theorem StagingEffect.stageOnly (latency : State → Nat) (res : State → Result) (arith : State → BitVec 5) :
    StagingEffect free c fun u => u.stage c (latency u) (res u) (arith u) :=
  .stage .id latency res arith

/-! ## The effects -/

theorem moutEffect_stages (w : Nat) : StagingEffect free c (moutEffect c w) :=
  .ite (.stage (.stageOnly _ _ _) _ _ _) (.stageOnly _ _ _)

theorem vcvtEffect_stages (w : Nat) : StagingEffect free c (vcvtEffect c w) :=
  .ite (.stageOnly _ _ _) (.ite (.stageOnly _ _ _) (.stage (.stageOnly _ _ _) _ _ _))

/-- VXRD alone may clear an X register. -/
theorem vxrdEffect_stages (w : Nat) (hfree : free) : StagingEffect free c (vxrdEffect c w) :=
  .ite (.modCore (.stageOnly _ _ _) fun _ _ => ⟨rfl, absurd hfree, rfl⟩) (.stageOnly _ _ _)

theorem branch_stages {e : State → State} (he : StagingEffect free c e) (w : Nat) (taken : State → Bool) :
    StagingEffect free c fun u => branch c w (taken u) (e u) :=
  he.modSeq fun _ _ => rfl

/-- The mark of a slot of a core that does not end. -/
theorem State.StagesIn.markSlot {u t : State} (h : State.StagesIn free c u t) (hwf : u.coresWf = true)
    (hrun : (u.core c).seq.ended = false) (i : SlotName) : State.StagesIn free c u (t.markSlot c i) := by
  obtain ⟨y, rfl, hy⟩ := h
  have step : ∀ f : Sequencer → Sequencer, (∀ q, (f q).ended = q.ended) →
      State.StagesIn free c u ((u.putCore c y).modSeq c f) := fun f hf =>
    ⟨{ y with seq := f y.seq }, State.modCore_putCore hwf y _, hy.trans ⟨rfl, fun _ => rfl, hf y.seq⟩⟩
  unfold State.markSlot
  split
  · exact ⟨y, rfl, hy⟩
  · split
    · unfold State.finishBundle
      dsimp only
      split
      next hend =>
        rw [State.modSeq, State.modCore_putCore hwf, State.core_putCore_self hwf] at hend
        exact absurd (hend.symm.trans (hy.ended.trans hrun)) (by decide)
      next => exact step _ fun _ => rfl
    · exact step _ fun _ => rfl

end Effects

theorem State.atIssue_coresWf {s : State} {c : Nat} (hwf : s.coresWf = true) : (s.atIssue c).coresWf = true :=
  (State.landEarly_keeps _ c (State.fetchCount_keeps _ c (State.settle_keeps s c (.refl s)))).cores hwf

/-- A staging slot that stands ready leads to such a change of its core. -/
theorem execStagingSlot {s t : State} {c : CoreId} {free : Prop} (hwf : s.coresWf = true)
    (hrun : ((s.atIssue c).core c).seq.ended = false) {i : SlotName} {op : Nat} {effect : Nat → State → State}
    (he : StagingEffect free c (effect (s.slotBits c i))) (hready : s.slotReady c i op = true)
    (h : (.next (s.issueSlot c i op effect) : Host.Outcome State Fault Refusal) = .next t) :
    State.StagesIn free c (s.atIssue c) t := by
  cases h
  rw [State.issueSlot_ready effect hready]
  have hwf' := State.atIssue_coresWf (c := c) hwf
  exact (he _ hwf').markSlot hwf' hrun i

/-- Every row of a staging operation changes its core alone; VXRD alone touches the X registers. -/
theorem exec_stagingRow {s t : State} {c : CoreId} (hwf : s.coresWf = true) (hrun : ((s.atIssue c).core c).seq.ended = false) :
    ∀ r ∈ slotRows c, stagingOnly r.2.1 r.2.2 = true → s.slotReady c r.2.1 r.2.2 = true → exec r.1 s = .next t →
      State.StagesIn (r.2 = (.v, 0x16)) c (s.atIssue c) t := by
  have stages : ∀ {free : Prop} {i : SlotName} {op : Nat} {effect : Nat → State → State},
      StagingEffect free c (effect (s.slotBits c i)) → stagingOnly i op = true → s.slotReady c i op = true →
        (.next (s.issueSlot c i op effect) : Host.Outcome State Fault Refusal) = .next t → State.StagesIn free c (s.atIssue c) t :=
    fun he _ => execStagingSlot hwf hrun he
  have beyond : ∀ {p : Prop} {i : SlotName} {op : Nat}, stagingOnly i op = false → stagingOnly i op = true → p :=
    fun hno hyes => absurd (hno.symm.trans hyes) Bool.false_ne_true
  have one : ∀ {free : Prop} {latency : State → Nat} {res : State → Result} {arith : State → BitVec 5},
      StagingEffect free c fun u => u.stage c (latency u) (res u) (arith u) := .stageOnly _ _ _
  simp only [slotRows, List.forall_mem_cons]
  exact ⟨-- M slot
    stages .id, stages one, stages (moutEffect_stages _), stages one,
    -- V slot: VNOP, the operations of one result, VCVT, VRMAX, VXADD, VXRD, VNSCL
    stages .id, stages one, stages one, stages one, stages one, stages one, stages one, stages one, stages one, stages one,
    stages one, stages one, stages one, stages one, stages one, stages one, stages one, stages one, stages one,
    stages (vcvtEffect_stages _), stages one, stages one, stages (vxrdEffect_stages _ trivial), stages one,
    -- L slot: of it LNOP, STV and STS stay in their core
    stages .id, beyond rfl, stages one, beyond rfl, stages one, beyond rfl, beyond rfl, beyond rfl, beyond rfl, beyond rfl,
    beyond rfl, beyond rfl, beyond rfl, beyond rfl, beyond rfl, beyond rfl, beyond rfl,
    -- C slot: CNOP, the branches and the scalar operations
    stages .id, beyond rfl, beyond rfl, beyond rfl, beyond rfl, stages (branch_stages .id _ _), stages (branch_stages .id _ _),
    stages (branch_stages .id _ _), stages (branch_stages one _ _), beyond rfl, beyond rfl, beyond rfl, stages one, stages one,
    stages one, stages one, stages one, stages one, stages one, stages one, stages one, stages one, stages one, stages one,
    fun r hr => absurd hr List.not_mem_nil⟩

/-- Settles O9: each row is a change of its core's entry, and no change of memory. -/
theorem stagingSlotsFrame : Obligations.StagingSlotsFrame := by
  unfold Obligations.StagingSlotsFrame
  intro s t c hwf u hrun r hr hstaging hready h
  obtain ⟨y, ht, hy⟩ := exec_stagingRow hwf hrun r hr hstaging hready h
  refine ⟨⟨y.staged, y.seq, y.regs.x, ?_, hy.xregs⟩, fun a => ?_⟩
  · rw [← hy.rest, ← ht, State.setDraws_self]
  · rw [ht, State.putCore, State.setCores_mem]

end Sys2Proof.Machine
end

section
/-! PROOF. Staged results take effect at their core beat (R76, R77, R88, R109, R510). -/

open Sys2Proof

namespace Sys2Proof.Machine

/-! ## One result -/

@[simp] theorem Core.soil_arith (x : Core) (r : Result) : (x.soil r).arith = x.arith := by
  unfold Core.soil
  split <;> rfl

@[simp] theorem Core.soil_regs (x : Core) (r : Result) : (x.soil r).regs = x.regs := by
  unfold Core.soil
  split <;> rfl

@[simp] theorem Core.putS_arith (x : Core) (i : Nat) (v : BitVec 64) : (x.putS i v).arith = x.arith := by
  unfold Core.putS
  split <;> rfl

theorem Core.putS_withArith (x : Core) (i : Nat) (v : BitVec 64) (a : BitVec 5) :
    Core.putS { x with arith := a } i v = { x.putS i v with arith := a } := by
  unfold Core.putS
  split <;> rfl

/-- Where a result of core `c`, whose sequencer is `q`, goes beyond the core itself: to its store. -/
def Result.place (r : Result) (q : Sequencer) (c : Nat) (t : State) : State :=
  match r with
  | .store off bs => t.writeStore c off bs
  | .group _ off bs => if q.bound && meetsSchedule q (off % 0x400000) bs.length then t else t.writeStore c off bs
  | _ => t

/-- Core `x` becomes `z` by a result that meets no arithmetic-range case. -/
structure Core.Lands (x : Core) (r : Result) (z : Core) : Prop where
  applied : Core.apply { x.soil r with arith := 0 } r = ({ z with arith := 0 }, false)
  arith : z.arith = x.arith

theorem State.commitOne_lands {s : State} {c : Nat} {g : Staged} {z : Core} (hg : g.arith = 0) (h : (s.core c).Lands g.res z) :
    s.commitOne c g = (g.res.place (s.core c).seq c (s.putCore c z), false) := by
  obtain ⟨happlied, hz⟩ := h
  have hcore : { z with arith := (s.core c).arith ||| 0 } = z := by simp [← hz]
  have hmark : ∀ t : State, t.mark (coreRegBase c + 0x30) (0 : BitVec 5).toNat = t := fun _ => rfl
  simp only [State.commitOne, happlied, hg, BitVec.or_self, hmark, hcore]
  cases g.res <;> rfl

/-- The only staged result of a core takes effect. -/
theorem State.commitWhere_single {s : State} {c : Nat} {g : Staged} {z : Core} {due : Staged → Bool} (hwf : s.coresWf = true)
    (hone : (s.core c).staged = [g]) (hdue : due g = true) (hg : g.arith = 0)
    (h : Core.Lands { s.core c with staged := [] } g.res z) :
    s.commitWhere c due = (g.res.place (s.core c).seq c (s.putCore c z), false) := by
  have hleft : s.modCore c (fun x => { x with staged := [g].filter fun e => !due e }) =
      s.putCore c { s.core c with staged := [] } := by simp [State.modCore, hdue]
  have hself := State.core_putCore_self (c := c) hwf { s.core c with staged := [] }
  have hdone := State.commitOne_lands hg (hself.symm ▸ h : ((s.putCore c { s.core c with staged := [] }).core c).Lands g.res z)
  rw [hself, State.putCore_putCore hwf] at hdone
  rw [State.commitWhere, hone, hleft, List.filter_cons_of_pos hdue, List.filter_nil]
  exact Prod.ext (congrArg Prod.fst hdone) (congrArg Prod.snd hdone)

/-- With nothing selected, nothing changes. -/
theorem State.commitWhere_none {s : State} {c : Nat} {due : Staged → Bool} (hwf : s.coresWf = true)
    (h : ∀ g ∈ (s.core c).staged, due g = false) : s.commitWhere c due = (s, false) := by
  have hkept : (s.core c).staged.filter (fun g => !due g) = (s.core c).staged :=
    List.filter_eq_self.2 fun g hg => by rw [h g hg]; rfl
  have hsel : (s.core c).staged.filter due = [] := List.filter_eq_nil_iff.2 fun g hg => by rw [h g hg]; exact Bool.false_ne_true
  have hself : s.modCore c (fun x => { x with staged := (s.core c).staged }) = s := State.putCore_core hwf
  simp only [State.commitWhere, hkept, hsel, hself]
  rfl

/-! ## The results in effect by a core beat -/

section Settle
variable {s : State} {c : Nat}

theorem State.settle_nothingDue (hwf : s.coresWf = true)
    (h : (s.core c).staged.all (fun g => decide ((s.core c).seq.beat.toNat < g.due)) = true) : s.settle c = s := by
  have hnone := State.commitWhere_none (c := c) (due := fun g => decide (g.due ≤ (s.core c).seq.beat.toNat)) hwf fun g hg => by
    have := List.all_eq_true.1 h g hg
    simp only [decide_eq_true_eq] at this
    simpa using this
  simp only [State.settle, hnone]
  rfl

theorem State.settle_single {g : Staged} {z : Core} (hwf : s.coresWf = true) (hone : (s.core c).staged = [g])
    (hdue : g.due ≤ (s.core c).seq.beat.toNat) (hg : g.arith = 0) (h : Core.Lands { s.core c with staged := [] } g.res z) :
    s.settle c = g.res.place (s.core c).seq c (s.putCore c z) := by
  have hland := State.commitWhere_single (due := fun g => decide (g.due ≤ (s.core c).seq.beat.toNat)) hwf hone
    (decide_eq_true hdue) hg h
  simp only [State.settle, hland]
  rfl

theorem State.commitDue_single {g : Staged} {z : Core} {pick : Result → Bool} (hwf : s.coresWf = true)
    (hone : (s.core c).staged = [g]) (hbeat : s.atCoreBeat c = true) (hdue : g.due ≤ (s.core c).seq.beat.toNat)
    (hpick : pick g.res = true) (hg : g.arith = 0) (h : Core.Lands { s.core c with staged := [] } g.res z) :
    s.commitDue c pick = g.res.place (s.core c).seq c (s.putCore c z) := by
  have hland := State.commitWhere_single (due := fun g => decide (g.due ≤ (s.core c).seq.beat.toNat) && pick g.res) hwf hone
    (by simp [hdue, hpick]) hg h
  simp only [State.commitDue, hbeat, hland]
  rfl

/-- Every result that is due, of whatever kind, is what settling a core brings into effect. -/
theorem State.commitDue_all : s.commitDue c (fun _ => true) = if s.atCoreBeat c then s.settle c else s := by
  simp only [State.commitDue, State.settle, Bool.and_true]
  cases s.atCoreBeat c <;> rfl

end Settle

/-! ## The kinds of results -/

section Lands
variable (x : Core)

theorem Core.lands_scalar (r : Nat) (v : BitVec 64) : x.Lands (.scalar r v) ((x.soil (.scalar r v)).putS r v) :=
  ⟨congrArg (·, false) (Core.putS_withArith _ r v 0), by simp⟩

theorem Core.lands_vec (r off : Nat) (bs : List Byte) :
    let y := x.soil (.vec r off bs)
    x.Lands (.vec r off bs) { y with regs := { y.regs with v := memWrite y.regs.v (1024 * r + off) bs } } :=
  ⟨rfl, x.soil_arith _⟩

theorem Core.lands_tile (r off : Nat) (bs : List Byte) :
    let y := x.soil (.tile r off bs)
    x.Lands (.tile r off bs) { y with regs := { y.regs with t := memWrite y.regs.t (8704 * r + off) bs } } :=
  ⟨rfl, x.soil_arith _⟩

theorem Core.lands_store (off : Nat) (bs : List Byte) : x.Lands (.store off bs) (x.soil (.store off bs)) :=
  ⟨rfl, x.soil_arith _⟩

theorem Core.lands_group (src off : Nat) (bs : List Byte) : x.Lands (.group src off bs) (x.soil (.group src off bs)) :=
  ⟨rfl, x.soil_arith _⟩

theorem Core.lands_accClear (a : Nat) : x.Lands (.accClear a) ((x.soil (.accClear a)).putAcc a AccSet.cleared) :=
  ⟨rfl, x.soil_arith _⟩

theorem Core.lands_landing {l : Landing} (h : ((x.accSet l.acc).land l).2 = false) :
    x.Lands (.land l) ((x.soil (.land l)).putAcc l.acc ((x.accSet l.acc).land l).1) := by
  have hset : Core.accSet { x.soil (.land l) with arith := 0 } l.acc = x.accSet l.acc := by
    simp only [Core.accSet, Core.soil_regs]
  refine ⟨?_, x.soil_arith _⟩
  simp only [Core.apply, hset, h]
  rfl

end Lands

/-! ## The obligation -/

/-- A group store lands in a member that runs nothing at its sender's core beat (log entry 29), else at the member's own. -/
theorem execGroupStoreLanding_single {s : State} {c : CoreId} {g : Staged} {src off : Nat} {bs : List Byte}
    (hwf : s.coresWf = true) (hone : (s.core c).staged = [g]) (hg : g.arith = 0) (hres : g.res = .group src off bs)
    (h : (if (s.core c).seq.bound then s.atCoreBeat c && decide (g.due ≤ (s.core c).seq.beat.toNat) &&
        !meetsSchedule (s.core c).seq (off % 0x400000) bs.length else s.senderDue g) = true) :
    exec (.groupStoreLanding c) s =
      .next ((s.putCore c (Core.soil { s.core c with staged := [] } g.res)).writeStore c off bs) := by
  refine congrArg Host.Outcome.next ?_
  have hlands : Core.Lands { s.core c with staged := [] } g.res (Core.soil { s.core c with staged := [] } g.res) := by
    rw [hres]
    exact Core.lands_group _ src off bs
  by_cases hbound : (s.core c).seq.bound = true
  · simp only [hbound, if_true, Bool.and_eq_true, decide_eq_true_eq, Bool.not_eq_true'] at h ⊢
    obtain ⟨⟨hbeat, hdue⟩, hfree⟩ := h
    rw [State.commitDue_single hwf hone hbeat hdue (by rw [hres]; rfl) hg hlands]
    simp only [hres, Result.place, hfree, Bool.and_false, Bool.false_eq_true, if_false]
  · simp only [hbound, Bool.false_eq_true, if_false] at h ⊢
    rw [State.commitWhere_single hwf hone h hg hlands]
    simp only [hres, Result.place, hbound, Bool.false_and, Bool.false_eq_true, if_false]

/-- Settles O12: a core with one staged result, kind by kind. -/
theorem stagedResultsLand : Obligations.StagedResultsLand := by
  unfold Obligations.StagedResultsLand
  refine ⟨fun s c hwf => ?own, fun s c g hwf => ?beyond⟩
  case own =>
    refine ⟨congrArg Host.Outcome.next State.commitDue_all, State.settle_nothingDue hwf, fun g hone hdue hg => ?_⟩
    have single : ∀ {z : Core}, Core.Lands { s.core c with staged := [] } g.res z →
        s.settle c = g.res.place (s.core c).seq c (s.putCore c z) := State.settle_single hwf hone hdue hg
    obtain ⟨due, order, res, arith⟩ := g
    refine ⟨?_, ?_, ?_, ?_, ?_⟩
    · rintro r v rfl
      exact single (Core.lands_scalar _ r v)
    · rintro r off bs rfl
      exact single (Core.lands_vec _ r off bs)
    · rintro r off bs rfl
      exact single (Core.lands_tile _ r off bs)
    · rintro off bs rfl
      exact single (Core.lands_store _ off bs)
    · rintro a rfl
      exact single (Core.lands_accClear _ a)
  case beyond =>
    intro x hone hg y
    refine ⟨fun l hres hbeat hdue hrange => ?_, fun src off bs hres h => execGroupStoreLanding_single hwf hone hg hres h⟩
    have hlands : Core.Lands { x with staged := [] } g.res (y.putAcc l.acc ((x.accSet l.acc).land l).1) := by
      simp only [y, hres]
      exact Core.lands_landing _ hrange
    refine congrArg Host.Outcome.next ((State.commitDue_single hwf hone hbeat hdue (by rw [hres]; rfl) hg hlands).trans ?_)
    rw [hres]
    rfl

end Sys2Proof.Machine
end

section
/-! SUPPORT. A repetition keeps what each of its turns keeps; what writes of a core store leave of memory; the entry of a table that
holds what an index reads. -/

namespace Sys2Proof.Machine

theorem State.each_field {α β : Type} (g : State → β) {f : α → State → State} (h : ∀ a s, g (f a s) = g s) (l : List α)
    (s : State) : g (State.each l f s) = g s :=
  List.foldlRecOn (motive := fun t => g t = g s) l _ rfl fun t ht a _ => (h a t).trans ht

/-- An index that does not read its default stands in the table. -/
theorem tabGet_mem {α : Type} (d : Nat → α) {k : Nat} : ∀ {t : Tab α}, tabGet d t k ≠ d k → (k, tabGet d t k) ∈ t
  | [], h => absurd rfl h
  | (i, v) :: t, h => by
    unfold tabGet at h ⊢
    split
    next hik => exact hik ▸ List.mem_cons_self
    next hne =>
      rw [if_neg hne] at h
      split
      next hlt => exact absurd (if_pos hlt) h
      next hge =>
        rw [if_neg hge] at h
        exact List.mem_cons_of_mem _ (tabGet_mem d h)

/-! ## Memory -/

@[simp] theorem State.modColumn_mem (s : State) (c : Nat) (f : Column → Column) : (s.modColumn c f).mem = s.mem := rfl

@[simp] theorem State.markRows_mem (s : State) (a n : Nat) (v : Bool) : (s.markRows a n v).mem = s.mem := by
  unfold State.markRows
  split
  · rfl
  · refine State.each_field State.mem (fun k t => ?_) _ _
    dsimp only
    split <;> rfl

@[simp] theorem State.writeMem_mem (s : State) (a : Nat) (bs : List Byte) : (s.writeMem a bs).mem = memWrite s.mem a bs := by
  cases bs with
  | nil => rfl
  | cons b bs => simp [State.writeMem]

/-- A byte that no offset of the written stretch of a core store names reads as before (R114). -/
theorem memByte_writeStore_outside {s : State} {c off x : Nat} {bs : List Byte} (hwf : s.mem.wf = true) (hlen : bs.length ≤ 0x400000)
    (hx : ∀ i, i < bs.length → x ≠ storeAddr c (off % 0x400000 + i)) :
    memByte (s.writeStore c off bs).mem x = memByte s.mem x := by
  have hfirst : x < storeAddr c (off % 0x400000) ∨ storeAddr c (off % 0x400000) + (bs.take (0x400000 - off % 0x400000)).length ≤ x := by
    refine Decidable.byContradiction fun hin => ?_
    have hi := hx (x - storeAddr c (off % 0x400000))
    simp only [storeAddr, List.length_take] at hin hi
    omega
  have hrest : x < storeAddr c 0 ∨ storeAddr c 0 + (bs.drop (0x400000 - off % 0x400000)).length ≤ x := by
    refine Decidable.byContradiction fun hin => ?_
    have hi := hx (0x400000 - off % 0x400000 + (x - storeAddr c 0))
    simp only [storeAddr, List.length_drop] at hin hi
    omega
  rw [State.writeStore, State.writeMem_mem, State.writeMem_mem, memByte_write_outside (Memory.wf_write hwf _ _) _ _ _ hrest,
    memByte_write_outside hwf _ _ _ hfirst]

end Sys2Proof.Machine
end

section
/-! PROOF. Loads, stores, port writes and fences complete (R83, R85, R89, R169, R180, R240). -/

open Sys2Proof

namespace Sys2Proof.Machine

/-! ## Loads -/

/-- Operation `o` of core `c` ends in state `t`: its flag falls and its accesses are done with. -/
def State.loadDone (t : State) (c : Nat) (o : Op) : State := (t.drawn.completeOp c o.id).dropAccesses (opIssuer c o.id)

@[simp] theorem State.dropAccesses_mem (s : State) (who : Issuer) : (s.dropAccesses who).mem = s.mem :=
  State.each_field State.mem (fun n t => by split <;> rfl) _ _

@[simp] theorem State.loadDone_mem (t : State) (c : Nat) (o : Op) : (t.loadDone c o).mem = t.mem := by
  rw [State.loadDone, State.dropAccesses_mem]
  rfl

/-- The access of operation `o` meets no failure: it is not refused, no part of it failed, and none of its words is uncorrectable. -/
structure State.CleanRead (s : State) (c : Nat) (o : Op) (bs : List Byte) : Prop where
  allowed : o.refused = false
  host : s.hostFailed (opIssuer c o.id) = false
  peers : s.failedAccess (opIssuer c o.id) = false
  available : anyUnavailable (s.opPieces o) = false
  clean : o.dirty = []
  late : o.early = []
  read : s.readPieces (s.opJob c o) none (s.opPieces o) = (bs, false, s)

/-- A load whose access meets no failure delivers its bytes to its destination and ends. -/
theorem State.finishLoad_clean {s : State} {c : Nat} {o : Op} {bs : List Byte} (h : s.CleanRead c o bs) : s.finishLoad c o =
    (s.putDest c o 0 (mergeData (s.opPieces o) bs (s.answerData (opIssuer c o.id)))).loadDone c o := by
  obtain ⟨hallowed, hhost, hpeers, havail, hclean, hlate, hread⟩ := h
  have hland : ∀ v, s.landLoad c o v = s.putDest c o 0 v := fun v => by
    simp [State.landLoad, State.settledBytes, hclean, hlate]
  simp only [State.finishLoad, hallowed, hhost, havail, hpeers, hread, hland, Bool.or_self, Bool.false_eq_true, if_false, State.loadDone]

theorem execLoadComplete_ready {s : State} {c : CoreId} {id : Nat} {o : Op} (hop : (s.core c).op id = some o)
    (hready : s.opReady c o = true) (hload : o.kind.isLoad = true) : exec (.loadComplete c id) s = .next (s.finishLoad c o) := by
  refine congrArg Host.Outcome.next ?_
  simp only [hop]
  cases hkind : o.kind with
  | load _ _ _ | loadV _ _ => exact if_pos hready
  | _ => simp [hkind, OpKind.isLoad] at hload

/-- A load into the core's own store, outside a schedule region (R98). -/
theorem State.putDest_load {s : State} {c a dst n : Nat} {o : Op} {v : List Byte} (hkind : o.kind = .load a dst n)
    (hfree : ((s.core c).seq.bound && meetsSchedule (s.core c).seq (dst % 0x400000) v.length) = false) :
    s.putDest c o 0 v = s.writeStore c dst v := by
  simp [State.putDest, hkind, hfree]

theorem State.putDest_loadV {s : State} {c a g : Nat} {o : Op} {v : List Byte} (hkind : o.kind = .loadV a g) :
    s.putDest c o 0 v = s.modCore c fun x => { x with regs := { x.regs with v := memWrite x.regs.v (1024 * g) v } } := by
  simp [State.putDest, hkind]

/-! ## Stores and port writes -/

section Store
variable {s : State} {c : CoreId} {id : Nat} {o : Op} (hop : (s.core c).op id = some o)
include hop

theorem execStoreComplete_memory {a : Nat} {bs : List Byte} (hkind : o.kind = .store a bs) (hready : s.opReady c o = true)
    (hallowed : o.refused = false) (hhost : s.hostFailed (opIssuer c o.id) = false) (havail : anyUnavailable (s.opPieces o) = false)
    (hfree : (s.opPieces o).any (fun q => match q.1 with | .mem x => s.hitsSchedule x q.2 | _ => false) = false) :
    exec (.storeComplete c id) s =
      .next (((s.writePieces (s.opJob c o) none (s.opPieces o) bs).1.completeOp c o.id).dropAccesses (opIssuer c o.id)) := by
  refine congrArg Host.Outcome.next ?_
  simp only [hop, hkind, hready, if_true, State.finishStore, hallowed, hhost, havail, Bool.or_self, Bool.false_eq_true, if_false]
  exact if_neg (ne_true_of_eq_false hfree)

theorem execStoreComplete_port {k num : Nat} (hkind : o.kind = .port k num) (hdone : (s.column k).portDone num = true)
    (hallowed : o.refused = false) : exec (.storeComplete c id) s =
      .next ((s.modColumn k fun x => { x with portErrs := x.portErrs.filter fun e => !(e = num) }).completeOp c o.id) := by
  refine congrArg Host.Outcome.next ?_
  simp only [hop, hkind, hdone, if_true, hallowed, Bool.false_eq_true, if_false]

theorem execFenceComplete_met {ops : List Nat} {gst own b : Nat} (hkind : o.kind = .fence ops gst own) (hmet : o.metAt = some b)
    (hb : b < s.now) : exec (.fenceComplete c id) s = .next (s.completeOp c o.id) := by
  refine congrArg Host.Outcome.next ?_
  simp only [hop, hkind, hmet, hb, if_true]

end Store

/-! ## The condition of a fence -/

/-- Operation `o` of core `c` at the end of a beat, which finds the condition of a fence of an earlier beat to hold. -/
def Op.judged (t : State) (c : Nat) (o : Op) : Op :=
  match o.kind with
  | .fence ops gst own =>
    if o.metAt.isNone && decide (o.beatAt < t.now) && t.fenceDone c ops gst own then { o with metAt := some t.now } else o
  | _ => o

def Op.fencePending (o : Op) : Bool :=
  match o.kind with
  | .fence _ _ _ => o.metAt.isNone
  | _ => false

/-- Core `x`, which is core `c`, with its fences judged. -/
def Core.judged (t : State) (c : Nat) (x : Core) : Core := { x with ops := x.ops.map (Op.judged t c) }

/-- One core's turn at the end of a beat. -/
def State.judgeFences (e : Nat × Core) (t : State) : State :=
  if e.2.ops.any Op.fencePending then t.modCore e.1 (Core.judged t e.1) else t

theorem State.markFences_eq (s : State) : s.markFences = State.each s.cores State.judgeFences s := rfl

theorem Op.judged_id (t : State) (c : Nat) (o : Op) : (o.judged t c).id = o.id := by
  unfold Op.judged
  split
  · split <;> rfl
  · rfl

theorem Core.op_judged (t : State) (c : Nat) (x : Core) (id : Nat) : (x.judged t c).op id = (x.op id).map (Op.judged t c) := by
  simp only [Core.op, Core.judged, List.find?_map]
  congr 1
  simp only [Function.comp_def, Op.judged_id]

/-- What the condition of a fence is about stands in state `t` as in `s`. -/
structure FencesStand (s t : State) : Prop where
  wf : t.coresWf = true
  now : t.now = s.now
  staged : ∀ d, (t.core d).staged = (s.core d).staged
  ids : ∀ d, (t.core d).ops.map (·.id) = (s.core d).ops.map (·.id)

theorem FencesStand.judgeFences {s t : State} (h : FencesStand s t) (e : Nat × Core) : FencesStand s (t.judgeFences e) := by
  unfold State.judgeFences
  split
  next =>
    have hids : ∀ x : Core, (x.judged t e.1).ops.map (·.id) = x.ops.map (·.id) := fun x => by
      simp only [Core.judged, List.map_map, Function.comp_def, Op.judged_id]
    exact ⟨State.modCore_coresWf e.1 _ h.wf, h.now,
      fun d => (State.core_modCore_keeps Core.staged (f := Core.judged t e.1) (fun _ => rfl) h.wf d).trans (h.staged d),
      fun d => (State.core_modCore_keeps (fun x => x.ops.map (·.id)) hids h.wf d).trans (h.ids d)⟩
  next => exact h

theorem FencesStand.fenceDone {s t : State} (h : FencesStand s t) (c : Nat) (ops : List Nat) (gst own : Nat) :
    t.fenceDone c ops gst own = s.fenceDone c ops gst own := by
  have hany : ∀ u : State, ((u.core c).ops.any fun o => ops.any (· = o.id)) =
      ((u.core c).ops.map (·.id)).any fun i => ops.any (· = i) := fun u => by rw [List.any_map]; rfl
  simp only [State.fenceDone, hany, h.ids, h.staged]

/-- `p` is the pending fence `o`, or `o` once its condition is met in beat `b`. -/
def Op.PendingOrMet (o : Op) (b : Nat) (p : Op) : Prop := p = o ∧ o.metAt = none ∨ p = { o with metAt := some b }

section Fence
variable {s : State} {c id : Nat} {o : Op} {ops : List Nat} {gst own : Nat} (hkind : o.kind = .fence ops gst own)
  (hearlier : o.beatAt < s.now) (hdone : s.fenceDone c ops gst own = true)
include hkind hearlier hdone

/-- A fence that is found complete, or has been in this round, is so after its core's turn. -/
theorem Op.judged_complete {t : State} (h : FencesStand s t) {p : Op} (hp : o.PendingOrMet s.now p) :
    p.judged t c = { o with metAt := some s.now } := by
  obtain ⟨rfl, hnone⟩ | rfl := hp
  · simp [Op.judged, hkind, hnone, h.now, hearlier, h.fenceDone, hdone]
  · simp [Op.judged, hkind]

/-- A turn of any core completes the fence or leaves it as it is; that of its own core, where it is pending, completes it. -/
theorem State.judgeFences_op {t : State} (h : FencesStand s t) (e : Nat × Core) {p : Op} (hop : (t.core c).op id = some p)
    (hp : o.PendingOrMet s.now p) :
    (((t.judgeFences e).core c).op id = some p ∨ ((t.judgeFences e).core c).op id = some { o with metAt := some s.now }) ∧
      (e.1 = c → e.2.ops.any Op.fencePending = true → ((t.judgeFences e).core c).op id = some { o with metAt := some s.now }) := by
  have hjudged : e.1 = c → ((t.modCore e.1 (Core.judged t e.1)).core c).op id = some { o with metAt := some s.now } := by
    rintro rfl
    rw [State.core_modCore_self _ _ h.wf, Core.op_judged, hop, Option.map_some, Op.judged_complete hkind hearlier hdone h hp]
  unfold State.judgeFences
  split
  next hpending =>
    by_cases hc : e.1 = c
    · exact ⟨.inr (hjudged hc), fun _ _ => hjudged hc⟩
    · rw [State.core_modCore_ne (Ne.symm hc) _ h.wf]
      exact ⟨.inl hop, fun hc' => absurd hc' hc⟩
  next hnone => exact ⟨.inl hop, fun _ hpending => absurd hpending hnone⟩

end Fence

/-- At the end of a beat a fence of an earlier beat, whose writes are complete, has met its condition (R240). -/
theorem State.markFences_op {s : State} {c id : Nat} {o : Op} {ops : List Nat} {gst own : Nat} (hop : (s.core c).op id = some o)
    (hkind : o.kind = .fence ops gst own) (hnone : o.metAt = none) (hearlier : o.beatAt < s.now)
    (hdone : s.fenceDone c ops gst own = true) (hwf : s.coresWf = true) :
    (s.markFences.core c).op id = some { o with metAt := some s.now } := by
  have hmem : o ∈ (s.core c).ops := List.mem_of_find?_eq_some hop
  have hlisted : (c, s.core c) ∈ s.cores := tabGet_mem _ fun hinit => by
    have : o ∈ Core.initial.ops := (congrArg Core.ops hinit : (s.core c).ops = Core.initial.ops) ▸ hmem
    exact absurd this List.not_mem_nil
  have hpending : (s.core c).ops.any Op.fencePending = true :=
    List.any_eq_true.2 ⟨o, hmem, by simp [Op.fencePending, hkind, hnone]⟩
  obtain ⟨before, after, hsplit⟩ := List.append_of_mem hlisted
  rw [State.markFences_eq, hsplit, State.each, List.foldl_append, List.foldl_cons]
  have hbefore := List.foldlRecOn (motive := fun t => FencesStand s t ∧ ∃ p, (t.core c).op id = some p ∧
      o.PendingOrMet s.now p) before (fun t e => t.judgeFences e)
    ⟨⟨hwf, rfl, fun _ => rfl, fun _ => rfl⟩, o, hop, .inl ⟨rfl, hnone⟩⟩ fun t ⟨hstand, p, hp, hcase⟩ e _ => by
      obtain hkept | hmet := (State.judgeFences_op hkind hearlier hdone hstand e hp hcase).1
      · exact ⟨hstand.judgeFences e, p, hkept, hcase⟩
      · exact ⟨hstand.judgeFences e, _, hmet, .inr rfl⟩
  obtain ⟨hstand, p, hp, hcase⟩ := hbefore
  have hown := (State.judgeFences_op hkind hearlier hdone hstand (c, s.core c) hp hcase).2 rfl hpending
  refine (List.foldlRecOn (motive := fun t => FencesStand s t ∧ (t.core c).op id = some { o with metAt := some s.now }) after
    (fun t e => t.judgeFences e) ⟨hstand.judgeFences _, hown⟩ fun t ⟨hst, ht⟩ e _ => ⟨hst.judgeFences e, ?_⟩).2
  exact or_self_iff.1 (State.judgeFences_op hkind hearlier hdone hst e ht (.inr rfl)).1

/-! ## The obligation -/

/-- Settles O13: the rows one by one; a fence is found complete by the turn of its core at the end of the beat. -/
theorem longOperationsComplete : Obligations.LongOperationsComplete := by
  unfold Obligations.LongOperationsComplete
  refine ⟨fun s c id o bs hop hready hallowed hhost hpeers havail hclean hlate hread => ?loads, fun s c id o hop => ?stores⟩
  case loads =>
    intro v done
    have complete : o.kind.isLoad = true → exec (.loadComplete c id) s = .next (done (s.putDest c o 0 v)) := fun hload =>
      (execLoadComplete_ready hop hready hload).trans
        (congrArg _ (State.finishLoad_clean ⟨hallowed, hhost, hpeers, havail, hclean, hlate, hread⟩))
    refine ⟨fun a dst n hkind hfree => ⟨?_, fun hwf hlen x hx => ?_⟩, fun a g hkind => ⟨?_, ?_⟩⟩
    · rw [complete (by rw [hkind]; rfl), State.putDest_load hkind hfree]
    · have hmem : (done (s.writeStore c dst v)).mem = (s.writeStore c dst v).mem := State.loadDone_mem _ c o
      rw [hmem]
      exact memByte_writeStore_outside hwf hlen hx
    · rw [complete (by rw [hkind]; rfl), State.putDest_loadV hkind]
    · exact State.loadDone_mem _ c o
  case stores =>
    exact ⟨fun _ _ => execStoreComplete_memory hop, fun _ _ => execStoreComplete_port hop, fun _ _ _ hkind =>
      ⟨fun _ => execFenceComplete_met hop hkind, State.markFences_op hop hkind⟩⟩

end Sys2Proof.Machine
end

section
/-! PROOF. Watches fire and wake: watches, notifications, fenced signals, waits and the deadlock detector (R229 to R247). -/

open Sys2Proof

namespace Sys2Proof.Machine

/-! ## The only watch of the table (R229, R230, R232, R238) -/

section Watch
variable {s : State} {k : Nat} {w : WatchEntry}

/-- The evaluation of a counter with one watch is the turn of that watch. -/
theorem State.evaluate_single (hone : s.sync.watches = [w]) (hk : w.counter = k) :
    s.evaluate k = if w.v.toNat ≤ (s.counter k).toNat then s.fire w else s := by
  rw [State.evaluate, hone, List.filter_cons_of_pos (by simpa using hk)]
  rfl

/-- What watch `w` has taken of its counter when it fires. -/
def State.taken (s : State) (w : WatchEntry) : State :=
  if w.take then
    (s.putCounter w.counter (s.counter w.counter - w.v)).putShares w.counter (dropShare w.v.toNat (s.shares w.counter))
  else s

/-- The watch leaves the table. -/
def State.fired (s : State) (w : WatchEntry) : State :=
  (s.taken w).setSync { (s.taken w).sync with watches := (s.taken w).sync.watches.filter fun x => !(x = w) }

theorem State.fire_core {c : CoreId} {slot : Nat} (hwho : w.who = .core c slot) : s.fire w =
    ((s.fired w).sendSync (.notify ((s.fired w).now + 1 + transit (counterRegion w.counter) (c.val / 16) +
      (s.fired w).syncDelay (c.val / 16)) w.counter (.core c slot))).drawn := by
  rw [State.fire, hwho]
  rfl

theorem State.taken_others : (s.taken w).sync.watches = s.sync.watches ∧ (s.taken w).sync.packets = s.sync.packets ∧
    (s.taken w).now = s.now ∧ ∀ o, (s.taken w).regN o = s.regN o := by
  unfold State.taken
  split <;> exact ⟨rfl, rfl, rfl, fun _ => rfl⟩

/-- R230: a watch takes its value out of the counter where it is to. -/
theorem State.taken_counter (hwf : tabWf counterDefault s.sync.counters = true) :
    (s.taken w).counter w.counter = if w.take then s.counter w.counter - w.v else s.counter w.counter := by
  unfold State.taken
  split
  · exact tabGet_tabSet_self counterDefault w.counter _ _ hwf
  · rfl

/-- Without a perturbed delay to its region a notification leaves with the transit time alone (R235, R489). -/
theorem State.syncDelay_none {r : Nat} (h : bitOf (s.regN 0x1F0003C) r = false) : s.syncDelay r = 0 := by
  simp [State.syncDelay, h]

/-- A watch of a core that fires, the only one: the table is empty, the counter has given its take, the notification is under way. -/
theorem State.fire_single {c : CoreId} {slot : Nat} (hone : s.sync.watches = [w]) (hwho : w.who = .core c slot)
    (hwf : tabWf counterDefault s.sync.counters = true) (hdelay : bitOf (s.regN 0x1F0003C) (c.val / 16) = false) :
    (s.fire w).sync.watches = [] ∧
    (s.fire w).counter w.counter = (if w.take then s.counter w.counter - w.v else s.counter w.counter) ∧
    (s.fire w).sync.packets = s.sync.packets ++
      [.notify (s.now + 1 + transit (counterRegion w.counter) (c.val / 16)) w.counter (.core c slot)] := by
  obtain ⟨hwatches, hpackets, hnow, hregs⟩ := State.taken_others (s := s) (w := w)
  have hnone : (s.fired w).syncDelay (c.val / 16) = 0 := State.syncDelay_none ((congrArg (bitOf · _) (hregs _)).trans hdelay)
  rw [State.fire_core hwho, hnone, Nat.add_zero]
  refine ⟨?_, State.taken_counter hwf, ?_⟩
  · calc (s.taken w).sync.watches.filter (fun x => !decide (x = w)) = [w].filter fun x => !decide (x = w) := by rw [hwatches, hone]
      _ = [] := by simp
  · calc (s.taken w).sync.packets ++ [_] = s.sync.packets ++ [_] := by rw [hpackets]
      _ = _ := by rw [show (s.fired w).now = s.now from hnow]

end Watch

/-! ## Notifications, fenced signals and waits -/

section Wake
variable {s : State} {c : CoreId}

/-- State `s` once the notification has been taken. -/
def State.noticeTaken (s : State) (p : Packet) : State := s.setSync { s.sync with packets := dropFirst p s.sync.packets }

theorem execNotificationArrival_armed {slot : Fin 64} {b k : Nat} (hdue : s.dueNotice c slot = some (.notify b k (.core c slot)))
    (hslot : (s.core c).slot slot ≠ .idle) : exec (.notificationArrival c slot) s =
      .next ((s.noticeTaken (.notify b k (.core c slot))).modCore c fun x => x.putSlot slot .fired) := by
  refine congrArg Host.Outcome.next ?_
  simp only [hdue]
  split
  next hidle => exact absurd hidle hslot
  next => rfl

theorem execNotificationArrival_idle {slot : Fin 64} {b k : Nat} (hdue : s.dueNotice c slot = some (.notify b k (.core c slot)))
    (hslot : (s.core c).slot slot = .idle) : exec (.notificationArrival c slot) s =
      .next ((s.noticeTaken (.notify b k (.core c slot))).addField (synStats (counterRegion k)) 16 16 1) := by
  refine congrArg Host.Outcome.next ?_
  simp only [hdue]
  split
  next => rfl
  next harmed => exact absurd hslot harmed

theorem execOutboxRelease_ready {f : Fenced} {rest : List Fenced} (hout : (s.core c).outbox = f :: rest)
    (hdone : s.fenceDone c f.ops f.gst f.own = true) : exec (.outboxRelease c) s =
      .next ((s.modCore c fun x => { x with outbox := rest }).sendSignal c f.dest f.counter f.amount f.job) := by
  refine congrArg Host.Outcome.next ?_
  simp only [hout]
  exact if_pos hdone

theorem execWaitResume_ready {q : WaitFor} (hwait : (s.core c).seq.waiting = some q) (hbound : (s.core c).seq.bound = true)
    (hset : q.indexes.all ((s.core c).isSet q.watch false) = true) : exec (.waitResume c) s =
      .next ((s.modCore c fun x => x.observe q).modSeq c fun y => { y with waiting := none, resumed := true }) := by
  have hcan : s.canResume c = true := by simp only [State.canResume, hwait, hbound, hset, Bool.and_self]
  refine congrArg Host.Outcome.next ?_
  simp only [hcan, hwait, if_true]

end Wake

/-- Settles O17: the one watch of a table, then each row in the branch that its conditions choose. -/
theorem watchesFireAndWake : Obligations.WatchesFireAndWake := by
  unfold Obligations.WatchesFireAndWake
  refine ⟨fun s k c slot v take => ?watch, fun s c slot => ⟨?notice, ?_, ?_⟩, fun s p j hrun hquiet => ?deadlock⟩
  case watch =>
    intro w hone hwf hdelay
    obtain ⟨-, -, -, hcounters, -⟩ := State.tablesWf_iff.1 hwf
    have heval := State.evaluate_single hone (rfl : w.counter = k)
    refine ⟨fun hbelow => heval.trans (if_neg (Nat.not_le.2 hbelow)), fun hreached => ?_⟩
    rw [heval, if_pos hreached]
    exact State.fire_single hone rfl hcounters hdelay
  case notice =>
    exact fun b k hdue => ⟨execNotificationArrival_armed hdue, execNotificationArrival_idle hdue⟩
  · exact fun f rest => execOutboxRelease_ready
  · exact fun q => execWaitResume_ready
  case deadlock => exact congrArg Host.Outcome.next (if_pos ⟨hrun, hquiet⟩)

end Sys2Proof.Machine
end

section
/-! PROOF. The registers of the side-band: a host's writes of them change nothing (R80, R441, R444, R475, R479 to R483, R486), and
what the side-band's own writes of the boot, update, fuse and perturbation registers do (R80, R479 to R483, R486 to R488). -/

open Sys2Proof

namespace Sys2Proof.Machine

/-! ## Writes by a host -/

theorem setFld_top_lt {v x : Nat} (hv : v < 2 ^ 32) : setFld v 31 1 x < 2 ^ 32 := by
  simp only [setFld, fld]
  omega

/-- A register that the image loads is barred to hosts (R475). -/
theorem writeReg_barred {s : State} {t : PartId} {o v : Nat} (h : hostBarred o = true) :
    s.writeReg (asks (.host t)) o v = (s, .err 5) := by
  rw [State.writeReg, h]
  rfl

theorem hostBarred_rows (r : RegionId) (w : Fin 3) (p : PartId) :
    hostBarred (lpeReg r 0) = true ∧ hostBarred (capReg w) = true ∧ hostBarred (floorReg p) = true :=
  ⟨(by decide : ∀ r : RegionId, hostBarred (lpeReg r 0) = true) r, (by decide : ∀ w : Fin 3, hostBarred (capReg w) = true) w,
    (by decide : ∀ p : PartId, hostBarred (floorReg p) = true) p⟩

/-- Settles O35: each row writes a register whose rule refuses hosts, and a refused write changes nothing. -/
theorem sideBandRegistersRefuseHosts : Obligations.SideBandRegistersRefuseHosts := by
  unfold Obligations.SideBandRegistersRefuseHosts
  intro s t r w p v len k
  have refused : ∀ {o x : Nat}, x < 2 ^ 32 → s.writeReg (asks (.host t)) o x = (s, .err 5) → s.pathAdmits (.host t) o = true →
      (.next (s.pathWrite (.host t) o x) : Host.Outcome State Fault Refusal) = .next s := fun hx hw hp =>
    congrArg Host.Outcome.next (State.pathWrite_rule hp hx hw (.inr (.inl rfl)))
  obtain ⟨hlpe, hcap, hfloor⟩ := hostBarred_rows r w p
  have hlen : 2 ^ 31 + len.toNat < 2 ^ 32 := by have := len.isLt; omega
  have hword : 2 ^ 31 + k.toNat < 2 ^ 32 := by have := k.isLt; omega
  have hone : ∀ n, n < 32 → 2 ^ n < 2 ^ 32 := fun n hn => Nat.pow_lt_pow_right (by decide) hn
  simp only [List.forall_mem_cons]
  exact ⟨-- the loop engines, the caps and floors
    refused (setFld_top_lt v.isLt) (writeReg_barred hlpe), refused (setFld_top_lt v.isLt) (writeReg_barred hlpe),
    refused v.isLt (writeReg_barred hcap), refused v.isLt (writeReg_barred hfloor),
    -- FLT_INJ, EVQ_IDLE and the epoch
    refused (setFld_top_lt v.isLt) rfl, refused (hone 31 (by decide)) rfl, refused (hone 30 (by decide)) rfl, refused (by decide) rfl,
    -- BOOT_CTRL
    refused (hone 31 (by decide)) rfl, refused (hone 30 (by decide)) rfl, refused (hone 29 (by decide)) rfl,
    -- updates and fuses
    refused hlen rfl, refused v.isLt rfl, refused (hone 30 (by decide)) rfl, refused (hone 29 (by decide)) rfl, refused hword rfl,
    -- perturbation
    refused v.isLt rfl, refused (by decide) rfl, fun row hrow => absurd hrow List.not_mem_nil⟩

/-! ## Writes by the side-band -/

/-- A write of the side-band that its register's rule takes. -/
theorem pathWrite_taken {s t : State} {o v : Nat} (hp : s.pathAdmits .side o = true) (hv : v < 2 ^ 32)
    (hw : s.writeReg (asks .side) o v = (t, .ok)) :
    (.next (s.pathWrite .side o v) : Host.Outcome State Fault Refusal) = .next t :=
  congrArg Host.Outcome.next (State.pathWrite_rule hp hv hw (.inl rfl))

theorem State.tryWrite_some {s t : State} {w : Option State} (h : w = some t) : s.tryWrite w = (t, .ok) := by rw [h]; rfl

section Boot
variable {s : State}

theorem State.enterHold_taken (hready : s.blockState = 4) (hjobs : s.jobs.any (fun e => e.2.busy) = false)
    (hdma : s.dma.any (fun e => e.2.state = .running || e.2.state = .draining) = false) :
    s.enterHold = some (s.modBoot fun b => { b with hold := true }) :=
  if_pos (by simp only [hready, hjobs, hdma, decide_true, Bool.not_false, Bool.and_self])

theorem State.reboot_taken (h : s.blockState = 2 ∨ s.boot.dpd = true) : s.reboot =
    some ((s.modPins fun p => { p with rstSeen := false }).modBoot fun b => { b with rebootAt := some s.now }).resetBlock :=
  if_pos (by simpa using h)

theorem State.enterDpd_taken (hstate : s.blockState = 4 ∨ s.blockState = 8) (hquiet : s.busyReason = 0) : s.enterDpd =
    some (s.endService.modBoot fun b => { b with dpd := true, dpdLow := false, step := .waitRelease }) :=
  if_pos (by simpa [hquiet] using hstate)

end Boot

section Update
variable {s : State}

/-- START and the length, in the fields of BOOT_UPD_CTRL. -/
theorem writeUpdCtrl_start (len : BitVec 19) : s.writeUpdCtrl (2 ^ 31 + len.toNat) = s.startUpdate len.toNat := by
  have := len.isLt
  have h31 : bitOf (2 ^ 31 + len.toNat) 31 = true := by simp only [bitOf, decide_eq_true_eq]; omega
  have h30 : bitOf (2 ^ 31 + len.toNat) 30 = false := by simp only [bitOf, decide_eq_false_iff_not]; omega
  have h29 : bitOf (2 ^ 31 + len.toNat) 29 = false := by simp only [bitOf, decide_eq_false_iff_not]; omega
  have hlen : fld (2 ^ 31 + len.toNat) 0 19 = len.toNat := by simp only [fld]; omega
  simp only [State.writeUpdCtrl, h31, h30, h29, hlen]

theorem State.startUpdate_taken {n : Nat} (hstate : s.blockState ∉ [0, 1, 3]) (hidle : s.nvm.updStatus ≠ 1) (halign : n % 16 = 0)
    (hlo : 448 ≤ n) (hhi : n ≤ 262336) : s.startUpdate n = some ((s.modNvm fun m =>
      { m with updStatus := 1, updCheck := 0, updCount := 0, updLen := n, buffer := [], programmed := 0, job := .idle,
               finishing := false, erased := 0 }).flashNext) := by
  simp only [List.mem_cons, List.not_mem_nil, or_false, not_or] at hstate
  obtain ⟨h0, h1, h3⟩ := hstate
  exact if_neg (by simp [h0, h1, h3, hidle, updLenOk, halign, hlo, hhi])

theorem State.updateWord_taken {v : Nat} (hbusy : s.nvm.updStatus = 1) (hcount : s.nvm.updCount + 4 ≤ s.nvm.updLen)
    (hroom : s.nvm.buffer.length + 4 ≤ 4096) : s.updateWord v =
      some ((s.modNvm fun m => { m with buffer := m.buffer ++ leBytes 4 v, updCount := m.updCount + 4 }).flashNext) :=
  if_neg (by simp [hbusy, hcount, hroom])

theorem State.finishUpdate_taken (hbusy : s.nvm.updStatus = 1) (hcount : s.nvm.updCount = s.nvm.updLen)
    (hfirst : s.nvm.finishing = false) : s.finishUpdate = some ((s.modNvm fun n => { n with finishing := true }).flashNext) :=
  if_neg (by simp [hbusy, hcount, hfirst])

/-- An abort lets the flash command in progress complete and ends the update (log entry 47). -/
theorem State.abortUpdate_busy (hbusy : s.nvm.updStatus = 1) : s.abortUpdate = (s.modNvm Nvm.completeCommand).endUpdate 6 :=
  if_pos hbusy

/-- GO with a key hash word or the lock. -/
theorem State.writeFuse_go {w : BitVec 4} (hw : w.toNat ≤ 12) (hidle : s.nvm.fuseStatus ≠ 1) :
    let t := s.modNvm fun n => { n with fuseWord := w.toNat }
    s.writeFuse (2 ^ 31 + w.toNat) =
      if s.nvm.lock then some (t.modNvm fun n => { n with fuseStatus := 4 })
      else if t.nvmOk then some (t.modNvm fun n => { n with fuseStatus := 1 })
      else some (t.nvmRefused.modNvm fun n => { n with fuseStatus := 3 }) := by
  have hgo : bitOf (2 ^ 31 + w.toNat) 31 = true := by simp only [bitOf, decide_eq_true_eq]; omega
  have hword : fld (2 ^ 31 + w.toNat) 0 4 = w.toNat := by simp only [fld]; omega
  simp only [State.writeFuse, hgo, hword, hidle, if_false, Bool.not_true, Bool.false_eq_true, Nat.not_lt.2 hw]
  rfl

end Update

section Unlock
variable {s : State} (hlocked : s.perturb.unlocked = false)
include hlocked

theorem State.writeUnlock_first (hnone : s.perturb.first = none) :
    s.writeUnlock 0x5157 = (s.modPerturb fun p => { p with first := some s.now }, .ok) := by
  simp [State.writeUnlock, hlocked, hnone]

theorem State.writeUnlock_second {b : Nat} (hfirst : s.perturb.first = some b) (htime : s.now ≤ b + 2000000)
    (hstate : s.blockState ∈ [2, 4, 8]) : s.writeUnlock 0x7E57 =
      ((s.modPerturb fun p =>
        { p with unlocked := true, first := none, lfsr := seeded (s.reg (tstReg 8)) }).raiseBlock 331, .ok) := by
  have hopen : s.blockState = 4 ∨ s.blockState = 2 ∨ s.blockState = 8 := by
    simp only [List.mem_cons, List.not_mem_nil, or_false] at hstate
    omega
  simp [State.writeUnlock, hlocked, hfirst, htime, or_assoc, hopen]

end Unlock

/-- Settles O41: register by register, what its rule makes of the row's value (an abort's end is log entry 47). -/
theorem bootAndUpdateWrites : Obligations.BootAndUpdateWrites := by
  unfold Obligations.BootAndUpdateWrites
  refine ⟨fun s => ⟨fun hp => pathWrite_taken hp (by decide) rfl, fun hp => ⟨fun hstate hjobs hdma => ?_, fun h => ?_,
    fun hstate hquiet => ?_⟩⟩, fun s => ⟨fun len hp hstate hidle halign hlo hhi => ?_, fun v hp hbusy hcount hroom => ?_,
    fun hp hbusy => ⟨fun hcount hfirst => ?_, ?_⟩, fun w hp hw hidle => ⟨fun hlock => ?_, fun hlock htemp => ?_⟩,
    fun hp => ⟨?_, fun hlocked => ⟨fun hnone => ?_, fun b hfirst htime hstate => ?_⟩⟩⟩⟩
  · exact pathWrite_taken hp (by decide) (State.tryWrite_some (State.enterHold_taken hstate hjobs hdma))
  · exact pathWrite_taken hp (by decide) (State.tryWrite_some (State.reboot_taken h))
  · exact pathWrite_taken hp (by decide) (State.tryWrite_some (State.enterDpd_taken hstate hquiet))
  · exact pathWrite_taken hp (by omega) (State.tryWrite_some
      ((writeUpdCtrl_start len).trans (State.startUpdate_taken hstate hidle halign hlo hhi)))
  · exact pathWrite_taken hp v.isLt (State.tryWrite_some (State.updateWord_taken hbusy hcount hroom))
  · exact pathWrite_taken hp (by decide) (State.tryWrite_some (State.finishUpdate_taken hbusy hcount hfirst))
  · exact pathWrite_taken hp (by decide) (State.tryWrite_some (s := s) (congrArg some (State.abortUpdate_busy hbusy)))
  · exact pathWrite_taken hp (by omega) (State.tryWrite_some ((State.writeFuse_go hw hidle).trans (if_pos hlock)))
  · exact pathWrite_taken hp (by omega) (State.tryWrite_some ((State.writeFuse_go hw hidle).trans
      ((if_neg (ne_true_of_eq_false hlock)).trans (if_pos htemp))))
  · exact pathWrite_taken hp (by decide) rfl
  · exact pathWrite_taken hp (by decide) (State.writeUnlock_first hlocked hnone)
  · exact pathWrite_taken hp (by decide) (State.writeUnlock_second hlocked hfirst htime hstate)

end Sys2Proof.Machine
end

section
/-! SUPPORT. An operation that changes the entry of one core alone; the results on their way to a core are of that kind. -/

namespace Sys2Proof.Machine

/-- `t` is `s` as far as the cores but `c` go, its table of cores canonical. -/
structure TouchesCore (c : Nat) (s t : State) : Prop where
  wf : t.coresWf = true
  others : ∀ d, d ≠ c → t.core d = s.core d

theorem TouchesCore.refl (c : Nat) {s : State} (hwf : s.coresWf = true) : TouchesCore c s s := ⟨hwf, fun _ _ => rfl⟩

theorem TouchesCore.trans {c : Nat} {s t u : State} (h : TouchesCore c s t) (g : TouchesCore c t u) : TouchesCore c s u :=
  ⟨g.wf, fun d hd => (g.others d hd).trans (h.others d hd)⟩

theorem TouchesCore.putCore (c : Nat) {s : State} (hwf : s.coresWf = true) (x : Core) : TouchesCore c s (s.putCore c x) :=
  ⟨State.putCore_coresWf hwf x, fun _ hd => tabGet_tabSet_ne _ hd x _ hwf⟩

/-- Only the table of cores counts. -/
theorem TouchesCore.congr {c : Nat} {s t u : State} (h : TouchesCore c s t) (hu : u.cores = t.cores) : TouchesCore c s u where
  wf := by
    have hwf := h.wf
    rw [State.coresWf] at hwf ⊢
    rw [hu, hwf]
  others d hd := by
    rw [← h.others d hd, State.core, State.core, hu]

@[simp] theorem State.mark_cores (s : State) (o bits : Nat) : (s.mark o bits).cores = s.cores := by
  unfold State.mark
  split <;> rfl

@[simp] theorem State.markRows_cores (s : State) (a n : Nat) (v : Bool) : (s.markRows a n v).cores = s.cores := by
  unfold State.markRows
  split
  · rfl
  · refine State.each_field State.cores (fun k t => ?_) _ _
    dsimp only
    split <;> rfl

@[simp] theorem State.writeMem_cores (s : State) (a : Nat) (bs : List Byte) : (s.writeMem a bs).cores = s.cores := by
  cases bs with
  | nil => rfl
  | cons b bs => simp [State.writeMem]

@[simp] theorem State.writeStore_cores (s : State) (c off : Nat) (bs : List Byte) : (s.writeStore c off bs).cores = s.cores := by
  simp [State.writeStore]

theorem State.commitOne_touches {s : State} (c : Nat) (g : Staged) (hwf : s.coresWf = true) :
    TouchesCore c s (s.commitOne c g).1 := by
  refine (TouchesCore.putCore c hwf { (Core.apply { (s.core c).soil g.res with arith := 0 } g.res).1 with
    arith := (s.core c).arith ||| ((Core.apply { (s.core c).soil g.res with arith := 0 } g.res).1.arith ||| g.arith) }).congr ?_
  unfold State.commitOne
  dsimp only
  split
  · rw [State.writeStore_cores, State.mark_cores]
  · split
    · rw [State.mark_cores]
    · rw [State.writeStore_cores, State.mark_cores]
  · rw [State.mark_cores]

theorem State.commitList_touches {s : State} (c : Nat) (l : List Staged) (hwf : s.coresWf = true) :
    TouchesCore c s (s.commitList c l).1 :=
  List.foldlRecOn (motive := fun p : State × Bool => TouchesCore c s p.1) _ _ (.refl c hwf) fun _ hp g _ =>
    hp.trans (State.commitOne_touches c g hp.wf)

/-- Results that take effect in a core leave every other core as it is. -/
theorem State.commitWhere_touches {s : State} (c : Nat) (due : Staged → Bool) (hwf : s.coresWf = true) :
    TouchesCore c s (s.commitWhere c due).1 :=
  (TouchesCore.putCore c hwf _).trans (State.commitList_touches c _ (State.putCore_coresWf hwf _))

/-- A round over the entries of some cores, each turn of which changes its own core: the other cores stand. -/
theorem State.each_touches {α : Type} {core : α → Nat} {f : α → State → State} {s : State}
    (hf : ∀ a t, t.coresWf = true → TouchesCore (core a) t (f a t)) (hwf : s.coresWf = true) (l : List α) :
    (State.each l f s).coresWf = true ∧ ∀ d, d ∉ l.map core → (State.each l f s).core d = s.core d := by
  refine List.foldlRecOn (motive := fun t : State => t.coresWf = true ∧ ∀ d, d ∉ l.map core → t.core d = s.core d) l _
    ⟨hwf, fun _ _ => rfl⟩ fun t ht a ha => ?_
  obtain ⟨htwf, hkept⟩ := ht
  have hstep := hf a t htwf
  exact ⟨hstep.wf, fun d hd => (hstep.others d fun hda => hd (hda ▸ List.mem_map_of_mem ha)).trans (hkept d hd)⟩

/-- In such a round over distinct cores each core changes in its own turn alone: it finds the core as it was, and what it leaves stays. -/
theorem State.each_turn {α : Type} {core : α → Nat} {f : α → State → State} {s : State}
    (hf : ∀ a t, t.coresWf = true → TouchesCore (core a) t (f a t)) (hwf : s.coresWf = true) {l : List α}
    (hdistinct : (l.map core).Nodup) {a : α} (ha : a ∈ l) :
    ∃ t : State, t.coresWf = true ∧ t.core (core a) = s.core (core a) ∧
      (State.each l f s).core (core a) = (f a t).core (core a) := by
  obtain ⟨before, after, rfl⟩ := List.append_of_mem ha
  rw [List.map_append, List.map_cons, List.nodup_append] at hdistinct
  obtain ⟨-, hafter, hbefore⟩ := hdistinct
  have hb := State.each_touches hf hwf before
  refine ⟨State.each before f s, hb.1, hb.2 _ fun hm => hbefore _ hm _ List.mem_cons_self rfl, ?_⟩
  have hsplit : State.each (before ++ a :: after) f s = State.each after f (f a (State.each before f s)) := by
    rw [State.each, List.foldl_append]
    rfl
  rw [hsplit]
  exact (State.each_touches hf (hf a _ hb.1).wf after).2 _ (List.nodup_cons.1 hafter).1

end Sys2Proof.Machine
end

section
/-! PROOF. Jobs start (R71, R72, R88, R457) and a commit's table comes into force (R465). -/

open Sys2Proof

namespace Sys2Proof.Machine

/-! ## A core starts -/

/-- What a start is judged by: whether the core runs, for which job, from which bundle, at which core beat, its flags and registers. -/
def Core.startView (x : Core) : Bool × Option (PartId × Fin 16) × Nat × BitVec 64 × Tab Nat × CoreRegs :=
  (x.seq.bound, x.seq.job, x.seq.next, x.seq.beat, x.flags, x.regs)

section Start
variable {j : PartId × Fin 16} {es : List LaunchEntry} {slot : Option Nat} {e : LaunchEntry} {u : State}

/-- Core `x` at the start of entry `e`'s schedule (R71, R96). -/
def Core.begin (j : PartId × Fin 16) (es : List LaunchEntry) (slot : Option Nat) (e : LaunchEntry) (x : Core) : Core :=
  { x with
    seq := { Sequencer.idle with
      bound := true, job := some j, group := e.group, members := membersOf es e, base := e.base, len := e.len,
      phased := x.seq.phased, next := e.base, held := x.seq.held, owed := x.seq.held, why := x.seq.why,
      heldNow := x.seq.heldNow, issuedNow := x.seq.issuedNow, gst := 0, slot := slot }
    flags := [], slots := [], hints := []
    ops := x.ops.map fun o => { o with live := false } }

theorem State.startCore_cores : (u.startCore j es slot e).cores =
    ((u.commitWhere e.core fun _ => true).1.modCore e.core (Core.begin j es slot e)).cores := by
  unfold State.startCore
  dsimp only
  split <;> rfl

theorem State.startCore_touches (hwf : u.coresWf = true) : TouchesCore e.core u (u.startCore j es slot e) :=
  ((State.commitWhere_touches e.core _ hwf).trans (.putCore e.core (State.commitWhere_touches e.core _ hwf).wf _)).congr
    State.startCore_cores

theorem State.startCore_view (hwf : u.coresWf = true) : ((u.startCore j es slot e).core e.core).startView =
    (true, some j, e.base, 0, [], ((u.commitWhere e.core fun _ => true).1.core e.core).regs) := by
  have hcommit := (State.commitWhere_touches e.core (fun _ => true) hwf).wf
  rw [State.core, State.startCore_cores]
  exact congrArg Core.startView (State.core_modCore_self e.core.val (Core.begin j es slot e) hcommit)

end Start

/-! ## Holds of a group -/

/-- A shared hold changes nothing that a start is judged by. -/
theorem State.shareHold_view {s : State} (c : Nat) (hwf : s.coresWf = true) :
    (s.shareHold c).coresWf = true ∧ ∀ d, ((s.shareHold c).core d).startView = (s.core d).startView := by
  have share : ∀ f : Sequencer → Sequencer, (∀ x : Core, Core.startView { x with seq := f x.seq } = x.startView) →
      (s.modSeq c f).coresWf = true ∧ ∀ d, ((s.modSeq c f).core d).startView = (s.core d).startView := fun f hf =>
    ⟨State.modCore_coresWf c _ hwf, State.core_modCore_keeps Core.startView hf hwf⟩
  unfold State.shareHold
  dsimp only
  split
  · exact share _ fun _ => rfl
  · split
    · exact share _ fun _ => rfl
    · exact ⟨hwf, fun _ => rfl⟩

theorem State.shareHolds_view {s : State} (hwf : s.coresWf = true) (l : List LaunchEntry) (d : Nat) :
    ((State.each l (fun e u => u.shareHold e.core) s).core d).startView = (s.core d).startView :=
  (List.foldlRecOn (motive := fun t : State => t.coresWf = true ∧ ∀ d, (t.core d).startView = (s.core d).startView) l _
    ⟨hwf, fun _ => rfl⟩ fun _ ht e _ =>
      ⟨(State.shareHold_view e.core ht.1).1, fun d => ((State.shareHold_view e.core ht.1).2 d).trans (ht.2 d)⟩).2 d

/-! ## The job starts -/

section Job
variable {s : State} {p : PartId} {j : Fin 16}

/-- State `s` with the job's energy slot cleared where its record asks for it (R388, R456). -/
def State.slotCleared (s : State) (x : Job) : State :=
  match x.slot with
  | some k => if x.slotClr then s.clearSlot k else s
  | none => s

theorem State.slotCleared_cores (s : State) (x : Job) : (s.slotCleared x).cores = s.cores := by
  unfold State.slotCleared
  split
  · split <;> rfl
  · rfl

/-- Every core of job `x` has started, and the holds of their groups are shared. -/
def State.coresStarted (s : State) (p : PartId) (j : Fin 16) (x : Job) : State :=
  State.each x.cores (fun e u => u.shareHold e.core)
    (State.each x.cores (fun e u => u.startCore (p, j) x.cores x.slot e) (s.slotCleared x))

theorem execJobStart_accepted (hload : (s.job p j).state = .loading) (hopen : s.launchOpen p = true)
    (hregions : ((s.job p j).cores.map fun e => e.core.val).any (fun c => !s.ownsRegion p (regionOf c)) = false)
    (hcores : s.coresCause ((s.job p j).cores.map fun e => e.core.val) = 0) :
    exec (.jobStart p j) s = .next (((s.coresStarted p j (s.job p j)).modJob p j fun y =>
      { y with state := .running, quiet := 0, loud := false }).release (.launch p) .ok) := by
  refine congrArg Host.Outcome.next ?_
  simp only [hload, hopen, hregions, hcores, ne_eq, not_true_eq_false, Bool.not_true, Bool.false_eq_true, if_false]
  rfl

/-- A launch whose block or partition has gone is refused with cause 1 (log entry 35). -/
theorem execJobStart_closed (hload : (s.job p j).state = .loading) (hclosed : s.launchOpen p = false) : exec (.jobStart p j) s =
    .next ((s.modJob p j fun _ => { Job.initial with state := .refused, cause := 1 }).release (.launch p) (.err 5)) := by
  refine congrArg Host.Outcome.next ?_
  simp only [hload, hclosed, ne_eq, not_true_eq_false, Bool.not_false, if_false, if_true, Nat.one_ne_zero, not_false_eq_true]

/-- Each core of a started job stands at core beat 0 of its schedule, with no flag set; its registers are as they were where no result
was on its way to it (R71). -/
theorem State.coresStarted_core {x : Job} (hwf : s.coresWf = true) (hdistinct : (x.cores.map fun e => e.core.val).Nodup)
    {e : LaunchEntry} (he : e ∈ x.cores) :
    ∃ regs, ((s.coresStarted p j x).core e.core).startView = (true, some (p, j), e.base, 0, [], regs) ∧
      ((s.core e.core).staged = [] → regs = (s.core e.core).regs) := by
  have hclear : TouchesCore e.core s (s.slotCleared x) := (TouchesCore.refl _ hwf).congr (State.slotCleared_cores s x)
  have hsame : (s.slotCleared x).core e.core = s.core e.core := by rw [State.core, State.slotCleared_cores, State.core]
  have hstart : ∀ (d : LaunchEntry) (t : State), t.coresWf = true → TouchesCore d.core.val t (t.startCore (p, j) x.cores x.slot d) :=
    fun _ _ => State.startCore_touches
  obtain ⟨t, htwf, htcore, hturn⟩ := State.each_turn (core := fun d : LaunchEntry => d.core.val) hstart hclear.wf hdistinct he
  have hstarted := (State.each_touches (core := fun d : LaunchEntry => d.core.val) hstart hclear.wf x.cores).1
  refine ⟨((t.commitWhere e.core fun _ => true).1.core e.core).regs, ?_, fun hnone => ?_⟩
  · rw [State.coresStarted, State.shareHolds_view hstarted, hturn, State.startCore_view htwf]
  · rw [State.commitWhere_none htwf fun g hg => by
      rw [htcore, hsame, hnone] at hg
      exact absurd hg List.not_mem_nil]
    rw [htcore, hsame]

end Job

/-- Settles O49: the start of the job's cores one by one, a start that the second check refuses (log entry 35), and the commit. -/
theorem jobsStartAndTablesApply : Obligations.JobsStartAndTablesApply := by
  unfold Obligations.JobsStartAndTablesApply
  intro s p j x cs u t w
  refine ⟨fun hload hopen hregions hcores => ⟨execJobStart_accepted hload hopen hregions hcores, fun hwf hdistinct e he => ?_⟩,
    execJobStart_closed, fun hbusy hdone => congrArg Host.Outcome.next (if_pos (by simp [hbusy, hdone]))⟩
  obtain ⟨regs, hview, hregs⟩ := State.coresStarted_core (p := p) (j := j) hwf hdistinct he
  have hw : w = s.coresStarted p j x := rfl
  simp only [Core.startView, Prod.mk.injEq] at hview
  obtain ⟨hbound, hjob, hnext, hbeat, hflags, hregsAre⟩ := hview
  rw [hw]
  exact ⟨hbound, hjob, hnext, hbeat, hflags, fun hnone => hregsAre.trans (hregs (hnone _ (List.mem_map_of_mem he)))⟩

end Sys2Proof.Machine
end

section
/-! PROOF. Calls of the page keeper, its copies, the scan of a table and its closing (R83, R195, R198, R206 to R210). -/

open Sys2Proof

namespace Sys2Proof.Machine

/-! ## Calls -/

section Call
variable {s : State} {id : Nat} {x : PgkCall}

/-- What a call that takes effect in state `u` makes of it: its result, and the copies that can then start. -/
def State.callDone (u : State) (id : Nat) (x : PgkCall) : State :=
  let out := u.runCall x
  (((out.2.2.dropCall id).answerCall x out.1 out.2.1).countRefused x.part out.1).startCopies

theorem execPgkCallComplete_served (hcall : s.startCopies.call id = some x) (hidle : x.copying = false)
    (hfirst : s.startCopies.callBehind x = false) (hready : s.startCopies.awaitsCopy x = false)
    (hread : x.copied = true ∨ s.startCopies.readWaits (s.startCopies.callPieces x) = false) :
    exec (.pgkCallComplete id) s = .next (s.startCopies.callDone id x) := by
  change execPgkCallComplete id s = _
  simp only [execPgkCallComplete, hcall]
  exact congrArg Host.Outcome.next (if_neg (by rcases hread with h | h <;> simp [hidle, hfirst, hready, h]))

/-! ## Copies -/

/-- What becomes of a copy to page `pn` when its bytes have been read, in state `t` with its channel's turn taken. -/
def State.copyTurn (s t : State) (r : RegionId) (k : ChanId) (id : Nat) (x : PgkCall) (pn : Nat) : State :=
  let y := t.chan r k
  if y.attr = some (.keeper id) && y.complete then (t.modChan r k Channel.advance).endCopy x pn
  else if y.running.isNone && y.failed.isNone && y.writes.isEmpty then s.failCopy x pn
  else t

theorem execPageCopyComplete_turn {pn : Nat} {r : RegionId} {k : ChanId} (hcall : s.call id = some x) (hto : x.copyTo = some pn)
    (hopen : x.copied = false) (hread : s.readWaits (s.callPieces x) = false) (hr : r.val = (s.table x.part).region % 16)
    (hk : k.val = (s.table x.part).chan % 32) :
    exec (.pageCopyComplete id) s = .next (s.copyTurn (s.dmaGo r k) r k id x pn) := by
  change execPageCopyComplete id s = _
  simp only [execPageCopyComplete, hcall, hto, ← hr, ← hk]
  simp only [hopen, hread, Bool.or_self, Bool.false_eq_true, if_false]
  rfl

/-- A channel that runs no descriptor has not completed one. -/
theorem Channel.complete_of_none {y : Channel} (h : y.running = none) : y.complete = false := by
  simp [Channel.complete, h]

section Turn
variable {t : State} {pn : Nat} {r : RegionId} {k : ChanId}

theorem State.copyTurn_complete (hown : (t.chan r k).attr = some (.keeper id)) (hdone : (t.chan r k).complete = true) :
    s.copyTurn t r k id x pn = (t.modChan r k Channel.advance).endCopy x pn :=
  if_pos (by simp [hown, hdone])

theorem State.copyTurn_failed (hnone : (t.chan r k).running = none) (hfailed : (t.chan r k).failed = none)
    (hwrites : (t.chan r k).writes = []) : s.copyTurn t r k id x pn = s.failCopy x pn := by
  have hopen : (t.chan r k).complete = false := Channel.complete_of_none hnone
  exact (if_neg (by simp [hopen])).trans (if_pos (by simp [hnone, hfailed, hwrites]))

end Turn

/-- The new page is OWNED, and the old one has a holder less, where no error breaks the table (R198, R207). -/
theorem State.endCopy_owned {pn : Nat} {old new : PageEntry} (hold : s.readEntry x.part x.pn.toNat x.job = (some old, s))
    (hnew : s.readEntry x.part pn x.job = (some new, s)) :
    let t := (s.writeEntry x.part pn { new with next := 0, lease := 0, ref := 1 } x.job).writeEntry x.part x.pn.toNat
      { old with ref := old.ref - 1 } x.job
    (t.keeper x.part).broken = false → s.endCopy x pn = t.modCall x.id fun y => { y with copied := true } := by
  intro t hwhole
  simp only [State.endCopy, hold, hnew]
  exact if_neg (ne_true_of_eq_false hwhole)

end Call

/-! ## Scans (R209) and closing (R210) -/

section Scan
variable {s : State} {p : PartId} (hscan : (s.keeper p).scanning = true) (hopen : (s.keeper p).closing = false)
include hscan hopen

theorem execPgkScanDone_badConfig (hconfig : s.keeperConfigOk p = false) :
    exec (.pgkScanDone p) s = .next (s.scanFail p 0xFFFFFFFF) := by
  refine congrArg Host.Outcome.next ?_
  simp only [hscan, hopen, hconfig, Bool.not_true, Bool.not_false, Bool.or_self, Bool.false_eq_true, if_false, if_true]
  rfl

/-- The pass over the entries of the table that the registers describe. -/
def State.scanPass (s : State) (p : PartId) : ScanEnd × State :=
  State.scanGo p (bitOf (s.regN (pgkReg p 0)) 3) (s.regTable p).count 0 (s.modKeeper p fun x => { x with table := s.regTable p })

/-- The free pages of a table whose scan has passed are linked, and the table is ready (R200, R209). -/
def State.scanLinked (s : State) (p : PartId) : State :=
  (State.linkGo p (bitOf (s.regN (pgkReg p 0)) 3) (s.regTable p).count ((s.scanPass p).2.modKeeper p fun x =>
    { x with freeHead := 0xFFFFFFFF#32, freeCount := 0 })).modKeeper p fun x => { x with scanning := false, ready := !x.broken }

theorem execPgkScanDone_passed (hconfig : s.keeperConfigOk p = true)
    (hread : s.readWaits (s.locateAll p (s.regTable p).base (16 * (s.regTable p).count)) = false) :
    (∀ pn, (s.scanPass p).1 = .failed pn → exec (.pgkScanDone p) s = .next ((s.scanPass p).2.scanFail p pn)) ∧
    ((s.scanPass p).1 = .broken → exec (.pgkScanDone p) s =
      .next (((s.scanPass p).2.modKeeper p fun x => { x with scanning := false }).breakTable p none)) ∧
    ((s.scanPass p).1 = .ok → exec (.pgkScanDone p) s = .next (s.scanLinked p)) := by
  have hpass : exec (.pgkScanDone p) s = .next (match (s.scanPass p).1 with
      | .failed pn => (s.scanPass p).2.scanFail p pn
      | .broken => ((s.scanPass p).2.modKeeper p fun x => { x with scanning := false }).breakTable p none
      | .ok => s.scanLinked p) := by
    refine congrArg Host.Outcome.next ?_
    simp only [hscan, hopen, hconfig, hread, Bool.not_true, Bool.or_self, Bool.false_eq_true, if_false]
    rfl
  refine ⟨fun pn h => ?_, fun h => ?_, fun h => ?_⟩ <;> rw [hpass, h]

end Scan

theorem execPgkDisableDone_closed {s : State} {p : PartId} (hclosing : (s.keeper p).closing = true)
    (hcalls : s.pgk.calls.any (fun x => x.part = p && !x.down) = false) :
    exec (.pgkDisableDone p) s = .next (s.modKeeper p fun x => { x with closing := false, ready := false }) :=
  congrArg Host.Outcome.next (if_pos (by simp only [hclosing, hcalls, Bool.not_false, Bool.and_self]))

/-- Settles O23: a call, a copy's turn and its end, then the outcomes of a scan and the closing of a table (log entry 64). -/
theorem keeperCallsAndTables : Obligations.KeeperCallsAndTables := by
  unfold Obligations.KeeperCallsAndTables
  refine ⟨fun s id x => ⟨execPgkCallComplete_served, fun pn r k hcall hto hopen hread hr hk => ?copy, fun _ _ _ => State.endCopy_owned⟩,
    fun s p => ⟨execPgkScanDone_badConfig, execPgkScanDone_passed, execPgkDisableDone_closed⟩⟩
  case copy =>
    have hturn := execPageCopyComplete_turn hcall hto hopen hread hr hk
    exact ⟨fun hown hdone => hturn.trans (congrArg _ (State.copyTurn_complete hown hdone)),
      fun hnone hfailed hwrites => hturn.trans (congrArg _ (State.copyTurn_failed hnone hfailed hwrites))⟩

end Sys2Proof.Machine
end

section
/-! PROOF. The M, V and C slots and the L slot's accesses to the own core store issue with their effects (R100, R101, R106 to R114, R117 to
R121, R126, R138 to R143, R228 to R230, R241, R242, R363, R511). -/

open Sys2Proof

namespace Sys2Proof.Machine

/-- The outcome of a slot command whose slot stands ready: the slot has issued with its effect. -/
theorem issueSlot_outcome {s : State} {c : Nat} {i : SlotName} {op : Nat} {effect : Nat → State → State}
    (h : s.slotReady c i op = true) : (.next (s.issueSlot c i op effect) : Host.Outcome State Fault Refusal) =
      .next (State.issuedBy c i (effect (s.slotBits c i) (s.atIssue c))) :=
  congrArg Host.Outcome.next (State.issueSlot_ready effect h)

/-- The same, where the effect of the slot leads to state `t`. -/
theorem issueSlot_outcome_of {s t : State} {c : Nat} {i : SlotName} {op : Nat} {effect : Nat → State → State}
    (ht : effect (s.slotBits c i) (s.atIssue c) = t) (h : s.slotReady c i op = true) :
    (.next (s.issueSlot c i op effect) : Host.Outcome State Fault Refusal) = .next (State.issuedBy c i t) :=
  ht ▸ issueSlot_outcome h

/-- Settles O2: each M-slot command stages its results with their latencies, MOUT its clear after its write-out. -/
theorem matrixSlotIssues : Obligations.MatrixSlotIssues := by
  unfold Obligations.MatrixSlotIssues
  intro s c u w go
  exact ⟨issueSlot_outcome, issueSlot_outcome, issueSlot_outcome, issueSlot_outcome⟩

/-! ## V slot -/

/-- VMOV takes the lanes as they are. -/
theorem vUnary_id (latency c w : Nat) (s : State) :
    vUnary latency id c w s = s.stage c latency (.vec (vVd w) 0 (laneBytes (s.lanes c (vVa w)))) 0 := by
  simp only [vUnary, vLanes, List.map_id]

/-- Settles O3: the operations on lanes stage one vector register, the others what their own effects stage (log entry 61). -/
theorem vectorSlotIssues : Obligations.VectorSlotIssues := by
  unfold Obligations.VectorSlotIssues
  refine ⟨fun s c => ?lanes, fun s c => ?others⟩
  case lanes =>
    intro u w a b d go
    refine ⟨issueSlot_outcome,
      -- arithmetic, comparison, selection and logic
      issueSlot_outcome, issueSlot_outcome, issueSlot_outcome, issueSlot_outcome, issueSlot_outcome, issueSlot_outcome,
      issueSlot_outcome, issueSlot_outcome, issueSlot_outcome, issueSlot_outcome, issueSlot_outcome,
      -- moves
      issueSlot_outcome_of (vUnary_id 1 c w u), issueSlot_outcome, issueSlot_outcome,
      -- the functions of the normaliser
      issueSlot_outcome, issueSlot_outcome, issueSlot_outcome⟩
  case others =>
    intro u w a x go
    exact ⟨issueSlot_outcome, issueSlot_outcome, issueSlot_outcome, issueSlot_outcome, issueSlot_outcome, issueSlot_outcome⟩

/-! ## L slot: accesses to the own core store -/

/-- Settles O4: a load reads the store at issue and stages what it read, a store stages its bytes. -/
theorem ownStoreSlotIssues : Obligations.OwnStoreSlotIssues := by
  unfold Obligations.OwnStoreSlotIssues
  intro s c u w off go load
  exact ⟨issueSlot_outcome, issueSlot_outcome, issueSlot_outcome, issueSlot_outcome, issueSlot_outcome, issueSlot_outcome⟩

/-! ## C slot -/

/-- Settles O6: each scalar operation stages one register. -/
theorem scalarSlotIssues : Obligations.ScalarSlotIssues := by
  unfold Obligations.ScalarSlotIssues
  intro s c u w a b go
  exact ⟨issueSlot_outcome, issueSlot_outcome, issueSlot_outcome, issueSlot_outcome, issueSlot_outcome, issueSlot_outcome,
    issueSlot_outcome, issueSlot_outcome, issueSlot_outcome, issueSlot_outcome, issueSlot_outcome, issueSlot_outcome,
    issueSlot_outcome⟩

/-- The effects of the C slot write a core as an index of the block's cores. -/
theorem coreId_mod (c : CoreId) (h : c.val % 256 < 256) : (⟨c.val % 256, h⟩ : CoreId) = c :=
  Fin.ext (Nat.mod_eq_of_lt c.isLt)

/-- A WATCH arms its slot and sends its registration, which arrives after the transit (R119, R230). -/
theorem watchEffect_sends (c : CoreId) (w : Nat) (s : State) : watchEffect c w s =
    let v := BitVec.ofNat 32 (cValue (s.core c) w 48 27 0 24)
    (s.modCore c fun x => x.putSlot (fld w 50 6) (.armed (fld w 32 16) v (bitOf w 49))).sendSync
      (.register (s.now + 2 + transit (c.val / 16) (fld w 32 16 / 4096)) (fld w 32 16) v (bitOf w 49) (.core c (fld w 50 6))) := by
  simp only [watchEffect, coreId_mod]
  rfl

/-- A fenced signal waits in the outbox for the writes that stand before it (R241). -/
theorem signalEffect_fenced (c w : Nat) (s : State) : signalEffect c true w s = s.modCore c fun y =>
    { y with outbox := y.outbox ++ [
      { dest := fld w 53 3, counter := fld w 36 16, amount := BitVec.ofNat 32 (cValue (s.core c) w 52 31 0 16), job := s.coreJob c,
        ops := (s.core c).writesOut, gst := (s.core c).seq.gst, own := (s.core c).ownDue }] } :=
  rfl

/-- A signal that is not fenced leaves at once (R91, R228). -/
theorem signalEffect_sends (c : CoreId) (w : Nat) (s : State) : signalEffect c false w s =
    s.sendSignal c (fld w 53 3) (fld w 36 16) (BitVec.ofNat 32 (cValue (s.core c) w 52 31 0 16)) (s.coreJob c) := by
  simp only [signalEffect, coreId_mod, Bool.false_eq_true, if_false]

/-- Settles O7: a SIGNAL is fenced in strict mode (R242) and goes out at once otherwise; that a fenced one counts the write of its own
bundle is log entry 68. -/
theorem controlSlotIssues : Obligations.ControlSlotIssues := by
  unfold Obligations.ControlSlotIssues
  intro s c u w go jump amount sent fenced wait
  have hsignal : signalEffect c (u.strict c) w u = if u.strict c then fenced else sent := by
    split
    next hstrict => rw [hstrict, signalEffect_fenced]; rfl
    next hstrict => rw [eq_false_of_ne_true hstrict, signalEffect_sends]; rfl
  exact ⟨issueSlot_outcome, issueSlot_outcome_of (watchEffect_sends c w u), issueSlot_outcome_of hsignal,
    issueSlot_outcome_of (signalEffect_fenced c w u),
    -- branches
    issueSlot_outcome, issueSlot_outcome, issueSlot_outcome, issueSlot_outcome,
    -- END, PHASE, HINT
    issueSlot_outcome, issueSlot_outcome, issueSlot_outcome⟩

end Sys2Proof.Machine
end

section
/-! PROOF. Writes of a core store leave every other byte (R114), and the zero-write of a powered store ends (R153). -/

open Sys2Proof

namespace Sys2Proof.Machine

/-! ## Writes -/

/-- A byte of the written stretch of a core store reads as written, past the end of the store at its beginning (R114). -/
theorem memByte_writeStore_inside {s : State} {c off : Nat} {bs : List Byte} (hwf : s.mem.wf = true) (hlen : bs.length ≤ 0x400000)
    (i : Nat) (hi : i < bs.length) : memByte (s.writeStore c off bs).mem (storeAddr c (off % 0x400000 + i)) = bs[i] := by
  have ho : off % 0x400000 < 0x400000 := Nat.mod_lt _ (by decide)
  rw [State.writeStore, State.writeMem_mem, State.writeMem_mem]
  generalize off % 0x400000 = o at ho ⊢
  by_cases hend : i < 0x400000 - o
  · have haddr : storeAddr c (o + i) = storeAddr c o + i := by
      simp only [storeAddr]
      omega
    have hbefore : storeAddr c 0 + (bs.drop (0x400000 - o)).length ≤ storeAddr c o + i := by
      simp only [storeAddr, List.length_drop]
      omega
    rw [haddr, memByte_write_outside (Memory.wf_write hwf _ _) _ _ _ (.inr hbefore),
      memByte_write_inside hwf _ _ _ (by rw [List.length_take]; omega), List.getElem_take]
  · have haddr : storeAddr c (o + i) = storeAddr c 0 + (i - (0x400000 - o)) := by
      simp only [storeAddr]
      omega
    rw [haddr, memByte_write_inside (Memory.wf_write hwf _ _) _ _ _ (by rw [List.length_drop]; omega), List.getElem_drop]
    congr 1
    omega

/-! ## The zero-write -/

/-- Erased bytes read zero and the others as before. -/
theorem memByte_erase {m : Memory} (h : m.wf = true) (lo hi a : Nat) :
    memByte (memErase m lo hi) a = if a < lo ∨ hi ≤ a then memByte m a else 0 :=
  (tabGet_filter_index memDefault (fun i => decide (i < lo) || decide (hi ≤ i)) a m h).trans
    (by simp only [Bool.or_eq_true, decide_eq_true_eq]; rfl)

theorem execCoreStoreReady_zeroing {s : State} {c : CoreId} (h : (s.core c).power.zeroing = true) : exec (.coreStoreReady c) s =
    .next ((s.zeroStore c).modPower c fun p => { p with zeroing := false, storeLost := false }) :=
  congrArg Host.Outcome.next (if_pos h)

/-- Settles O15: the bytes in and outside of a written stretch, then the store as the end of its zero-write leaves it. -/
theorem coreStoreWritesFrame : Obligations.CoreStoreWritesFrame := by
  unfold Obligations.CoreStoreWritesFrame
  refine ⟨fun s c off bs hwf hlen => ⟨memByte_writeStore_inside hwf hlen, fun a => memByte_writeStore_outside hwf hlen⟩,
    fun s c hmem hcores hzero => ⟨_, execCoreStoreReady_zeroing hzero, fun a hlo hhi => ?_, fun a hout => ?_,
      State.core_modCore_self c _ hcores⟩⟩
  · exact (memByte_erase hmem _ _ a).trans (if_neg (by omega))
  · exact (memByte_erase hmem _ _ a).trans (if_pos hout)

end Sys2Proof.Machine
end

section
/-! PROOF. The QS2 tier code corrects every single error of a word's 72 bits and detects every double error (R155, R156). -/

open Sys2Proof

namespace Sys2Proof.Machine

/-! ## The check byte is linear in the word -/

theorem bitOf_eq_testBit (v i : Nat) : bitOf v i = v.testBit i := Nat.testBit_eq_decide_div_mod_eq.symm

theorem bitOf_xor (v w i : Nat) : bitOf (v ^^^ w) i = (bitOf v i ^^ bitOf w i) := by
  simp only [bitOf_eq_testBit, Nat.testBit_xor]

/-- The column of data bit `i`. -/
def columnOf (i : Nat) : Nat := eccColumns.getD i 0

/-- XOR of the columns of those bits of a list that are set in a word. -/
def columnSum (d : Nat) : List Nat → Nat
  | [] => 0
  | i :: l => (if bitOf d i then columnOf i else 0) ^^^ columnSum d l

theorem columnSum_zero (l : List Nat) : columnSum 0 l = 0 := by
  induction l with
  | nil => rfl
  | cons i l ih => simp [columnSum, ih, bitOf]

theorem columnSum_xor (d e : Nat) (l : List Nat) : columnSum (d ^^^ e) l = columnSum d l ^^^ columnSum e l := by
  induction l with
  | nil => exact (Nat.xor_self 0).symm
  | cons i l ih =>
    have hbit : (if bitOf (d ^^^ e) i then columnOf i else 0) =
        (if bitOf d i then columnOf i else 0) ^^^ (if bitOf e i then columnOf i else 0) := by
      rw [bitOf_xor]
      cases bitOf d i <;> cases bitOf e i <;> simp
    simp only [columnSum, ih, hbit]
    ac_rfl

theorem columnOf_lt (i : Nat) : columnOf i < 2 ^ 8 := by
  by_cases hi : i < 64
  · revert i
    decide +kernel
  · have hnone : columnOf i = 0 := congrArg (Option.getD · 0) (List.getElem?_eq_none (Nat.not_lt.1 hi))
    exact hnone ▸ Nat.two_pow_pos 8

theorem columnSum_lt (d : Nat) (l : List Nat) : columnSum d l < 2 ^ 8 := by
  induction l with
  | nil => exact Nat.two_pow_pos 8
  | cons i l ih =>
    refine Nat.xor_lt_two_pow ?_ ih
    split
    · exact columnOf_lt i
    · decide

theorem decide_odd_succ (n : Nat) : decide ((n + 1) % 2 = 1) = !decide (n % 2 = 1) :=
  (decide_eq_decide.2 (by omega)).trans (decide_not (p := n % 2 = 1))

/-- Bit `j` of a sum of columns is the parity of those that have it. -/
theorem columnSum_testBit (d j : Nat) (l : List Nat) :
    (columnSum d l).testBit j = decide ((l.filter fun i => d.testBit i && (columnOf i).testBit j).length % 2 = 1) := by
  induction l with
  | nil => simp [columnSum]
  | cons i l ih =>
    have hbit : (if d.testBit i then columnOf i else 0).testBit j = (d.testBit i && (columnOf i).testBit j) := by
      cases d.testBit i with
      | false => exact Nat.zero_testBit j
      | true => rfl
    rw [columnSum, Nat.testBit_xor, ih, bitOf_eq_testBit, hbit, List.filter_cons]
    cases d.testBit i && (columnOf i).testBit j with
    | false => exact Bool.false_xor _
    | true => exact (Bool.true_xor _).trans (decide_odd_succ _).symm

theorem foldl_columns (d : Nat) (l : List Nat) (c : Nat) :
    (l.map fun i => (i, columnOf i)).foldl (fun c p => if bitOf d p.1 then Nat.xor c p.2 else c) c = c ^^^ columnSum d l := by
  induction l generalizing c with
  | nil => exact (Nat.xor_zero c).symm
  | cons i l ih =>
    rw [List.map_cons, List.foldl_cons, ih, columnSum, ← Nat.xor_assoc]
    split
    · rfl
    · rw [Nat.xor_zero]

/-- The check byte is the XOR of the columns of the word's set bits (R155). -/
theorem eccEncode_eq_columnSum (d : Nat) : eccEncode d = columnSum d (List.range 64) := by
  have hzip : List.zip (List.range 64) eccColumns = (List.range 64).map fun i => (i, columnOf i) := by decide +kernel
  rw [eccEncode, hzip, foldl_columns, Nat.zero_xor]
  split
  next h => rw [h, columnSum_zero]
  next => rfl

theorem eccEncode_xor (d e : Nat) : eccEncode (d ^^^ e) = eccEncode d ^^^ eccEncode e := by
  simp only [eccEncode_eq_columnSum, columnSum_xor]

theorem eccEncode_lt (d : Nat) : eccEncode d < 256 := eccEncode_eq_columnSum d ▸ columnSum_lt d _

/-- One set bit has its own column as check byte. -/
theorem eccEncode_two_pow : ∀ i < 64, eccEncode (2 ^ i) = columnOf i := by decide +kernel

theorem xor_ne_zero {x y : Nat} (h : x ≠ y) : x ^^^ y ≠ 0 := fun h0 => h <| calc
  x = x ^^^ (y ^^^ y) := by rw [Nat.xor_self, Nat.xor_zero]
  _ = x ^^^ y ^^^ y := (Nat.xor_assoc x y y).symm
  _ = y := by rw [h0, Nat.zero_xor]

/-! ## Columns and check bits have odd weight, and no two are alike -/

theorem popCount_xor (n a b : Nat) : popCount n (a ^^^ b) % 2 = (popCount n a + popCount n b) % 2 := by
  unfold popCount
  induction List.range n with
  | nil => rfl
  | cons i l ih =>
    simp only [List.filter_cons, bitOf_xor]
    cases bitOf a i <;> cases bitOf b i <;> simp <;> omega

theorem columnOf_odd : ∀ i < 64, popCount 8 (columnOf i) % 2 = 1 := by decide +kernel

theorem checkBit_odd : ∀ j < 8, popCount 8 (2 ^ j) % 2 = 1 := by decide

theorem columnOf_ne_checkBit : ∀ i < 64, ∀ j < 8, columnOf i ≠ 2 ^ j := by decide +kernel

theorem columnOf_findIdx : ∀ i < 64, eccColumns.findIdx? (fun c => c = columnOf i) = some i := by decide +kernel

theorem columnOf_inj {i j : Nat} (hi : i < 64) (hj : j < 64) (h : columnOf i = columnOf j) : i = j :=
  Option.some.inj ((columnOf_findIdx i hi).symm.trans (h ▸ columnOf_findIdx j hj))

theorem columnOf_of_mem {c : Nat} (h : c ∈ eccColumns) : ∃ i < 64, c = columnOf i := by
  obtain ⟨i, hi, rfl⟩ := List.mem_iff_getElem.1 h
  exact ⟨i, hi, (congrArg (Option.getD · 0) (List.getElem?_eq_getElem hi)).symm⟩

/-! ## What a reader makes of a syndrome (R156) -/

section Decode
variable {d check : Nat}

theorem eccDecode_zero (h : eccEncode d ^^^ check = 0) : eccDecode d check = .clean d := if_pos h

theorem eccDecode_checkBit {j : Nat} (hj : j < 8) (h : eccEncode d ^^^ check = 2 ^ j) : eccDecode d check = .corrected d := by
  have hne : eccEncode d ^^^ check ≠ 0 := Nat.ne_of_gt (h ▸ Nat.two_pow_pos j)
  have hbit : (List.range 8).any (fun k => eccEncode d ^^^ check = 2 ^ k) = true :=
    List.any_eq_true.2 ⟨j, List.mem_range.2 hj, decide_eq_true h⟩
  exact (if_neg hne).trans (if_pos hbit)

/-- A syndrome that is no check bit is looked up among the columns. -/
theorem eccDecode_lookup (hne : eccEncode d ^^^ check ≠ 0) (hbit : ∀ j < 8, eccEncode d ^^^ check ≠ 2 ^ j) :
    eccDecode d check = match eccColumns.findIdx? (fun c => c = eccEncode d ^^^ check) with
      | some i => .corrected (d ^^^ 2 ^ i)
      | none => .bad := by
  have hany : (List.range 8).any (fun k => eccEncode d ^^^ check = 2 ^ k) ≠ true := by
    simpa [List.any_eq_true] using hbit
  exact (if_neg hne).trans (if_neg hany)

theorem eccDecode_column {i : Nat} (hi : i < 64) (h : eccEncode d ^^^ check = columnOf i) :
    eccDecode d check = .corrected (d ^^^ 2 ^ i) := by
  have hne : columnOf i ≠ 0 := fun h0 => absurd (columnOf_odd i hi) (by rw [h0]; decide)
  rw [eccDecode_lookup (h ▸ hne) (h ▸ columnOf_ne_checkBit i hi), h, columnOf_findIdx i hi]

theorem eccDecode_other (hne : eccEncode d ^^^ check ≠ 0) (hcol : eccEncode d ^^^ check ∉ eccColumns)
    (hbit : ∀ j < 8, eccEncode d ^^^ check ≠ 2 ^ j) : eccDecode d check = .bad := by
  have hnone : eccColumns.findIdx? (fun c => c = eccEncode d ^^^ check) = none :=
    List.findIdx?_eq_none_iff.2 fun c hc => decide_eq_false fun he => hcol (he ▸ hc)
  rw [eccDecode_lookup hne hbit, hnone]

/-- A syndrome of two different columns or check bits has even weight, so it is neither (R155). -/
theorem eccDecode_double {x y : Nat} (h : eccEncode d ^^^ check = x ^^^ y) (hx : popCount 8 x % 2 = 1) (hy : popCount 8 y % 2 = 1)
    (hxy : x ≠ y) : eccDecode d check = .bad := by
  have heven : popCount 8 (eccEncode d ^^^ check) % 2 = 0 := by
    rw [h, popCount_xor]
    omega
  refine eccDecode_other ?_ (fun hmem => ?_) fun j hj he => ?_
  · exact h ▸ xor_ne_zero hxy
  · obtain ⟨i, hi, he⟩ := columnOf_of_mem hmem
    exact absurd (columnOf_odd i hi) (he ▸ by omega)
  · exact absurd (checkBit_odd j hj) (he ▸ by omega)

end Decode

/-! ## Errors of a word and its check byte -/

/-- The syndrome of a word with a wrong bit gains that bit's column. -/
theorem syndrome_flip {i : Nat} (hi : i < 64) (d check : Nat) :
    eccEncode (d ^^^ 2 ^ i) ^^^ check = eccEncode d ^^^ check ^^^ columnOf i := by
  rw [eccEncode_xor, eccEncode_two_pow i hi]
  ac_rfl

theorem syndrome_flip_self {i : Nat} (hi : i < 64) (d : Nat) : eccEncode (d ^^^ 2 ^ i) ^^^ eccEncode d = columnOf i := by
  rw [syndrome_flip hi, Nat.xor_self, Nat.zero_xor]

theorem syndrome_self (d e : Nat) : eccEncode d ^^^ (eccEncode d ^^^ e) = e := by
  rw [← Nat.xor_assoc, Nat.xor_self, Nat.zero_xor]

theorem eccDecode_eccEncode (d : Nat) : eccDecode d (eccEncode d) = .clean d := eccDecode_zero (Nat.xor_self _)

theorem eccDecode_flip (d : Nat) {i : Nat} (hi : i < 64) : eccDecode (d ^^^ 2 ^ i) (eccEncode d) = .corrected d := by
  rw [eccDecode_column hi (syndrome_flip_self hi d), Nat.xor_assoc, Nat.xor_self, Nat.xor_zero]

theorem two_pow_ne {i j : Nat} (h : i < j) : 2 ^ i ≠ 2 ^ j := Nat.ne_of_lt (Nat.pow_lt_pow_right (by decide) h)

/-- Settles O10: decoding is by syndrome; one wrong bit leaves its own column, two leave a sum of even weight. -/
theorem tierCodeCorrectsAndDetects : Obligations.TierCodeCorrectsAndDetects := by
  unfold Obligations.TierCodeCorrectsAndDetects
  refine ⟨by decide +kernel, fun d _ => ⟨eccEncode_lt d, fun j _ => ?bits, fun check _ => ?syndromes⟩, fun d _ =>
    ⟨fun i hi => eccDecode_flip d hi, fun j hj => eccDecode_checkBit hj (syndrome_self d _), fun i j hij hj => ?dataData,
      fun i j hi hj => ?dataCheck, fun i j hij hj => ?checkCheck⟩⟩
  case bits =>
    rw [eccEncode_eq_columnSum]
    exact columnSum_testBit d j _
  case syndromes =>
    exact ⟨eccDecode_zero, fun i hi => eccDecode_column hi, fun j hj => eccDecode_checkBit hj, eccDecode_other⟩
  case dataData =>
    have hi : i < 64 := Nat.lt_trans hij hj
    refine eccDecode_double (x := columnOf i) (y := columnOf j) ?_ (columnOf_odd i hi) (columnOf_odd j hj)
      fun h => Nat.ne_of_lt hij (columnOf_inj hi hj h)
    exact (syndrome_flip hj _ _).trans (congrArg (· ^^^ columnOf j) (syndrome_flip_self hi d))
  case dataCheck =>
    refine eccDecode_double (x := 2 ^ j) (y := columnOf i) ?_ (checkBit_odd j hj) (columnOf_odd i hi)
      (columnOf_ne_checkBit i hi j hj).symm
    exact (syndrome_flip hi _ _).trans (congrArg (· ^^^ columnOf i) (syndrome_self d _))
  case checkCheck =>
    refine eccDecode_double (x := 2 ^ i) (y := 2 ^ j) ?_ (checkBit_odd i (Nat.lt_trans hij hj)) (checkBit_odd j hj) (two_pow_ne hij)
    exact (congrArg (eccEncode d ^^^ ·) (Nat.xor_assoc _ _ _)).trans (syndrome_self d _)

end Sys2Proof.Machine
end

section
/-! PROOF. Writes of memory: written words decode clean and other bytes stand (R152, R154, R187); writes over pieces, and the
read-modify-write of a granule filled in part (R154, R170). -/

open Sys2Proof

namespace Sys2Proof.Machine

/-! ## Check bytes of written words -/

theorem tabGet_genChecks (m : Memory) (n : Nat) : ∀ {i : Nat} {t : Tab (BitVec 8)}, tabWf checkDefault t = true → ∀ k,
    tabGet checkDefault (genChecks m n i t) k =
      if i ≤ k ∧ k < i + n then BitVec.ofNat 8 (eccEncode (bytesLe (memRead m (8 * k) 8))) else tabGet checkDefault t k := by
  induction n with
  | zero => exact fun _ k => (if_neg (by omega)).symm
  | succ n ih =>
    intro i t hwf k
    rw [genChecks, ih (tabWf_tabSet checkDefault i _ t hwf)]
    by_cases hk : k = i
    · rw [if_neg (by omega), if_pos (by omega), hk, tabGet_tabSet_self checkDefault i _ t hwf]
    · rw [tabGet_tabSet_ne checkDefault hk _ t hwf]
      exact ite_congr (propext (by omega)) (fun _ => rfl) fun _ => rfl

@[simp] theorem State.markRows_check (s : State) (a n : Nat) (v : Bool) : (s.markRows a n v).check = s.check := by
  unfold State.markRows
  split
  · rfl
  · refine State.each_field State.check (fun k t => ?_) _ _
    dsimp only
    split <;> rfl

theorem State.writeMem_check {s : State} {a : Nat} {bs : List Byte} (h : bs ≠ []) : (s.writeMem a bs).check =
    genChecks (memWrite s.mem a bs) ((a + bs.length - 1) / 8 - a / 8 + 1) (a / 8) s.check := by
  simp [State.writeMem, h]

/-- A word whose check byte is that of its code decodes clean. -/
theorem State.readWord_clean {s : State} {k : Nat}
    (h : tabGet checkDefault s.check k = BitVec.ofNat 8 (eccEncode (bytesLe (memRead s.mem (8 * k) 8)))) :
    s.readWord k 0 = .clean (bytesLe (memRead s.mem (8 * k) 8)) := by
  have hcheck : Nat.xor (tabGet checkDefault s.check k).toNat 0 = eccEncode (bytesLe (memRead s.mem (8 * k) 8)) := by
    rw [h, BitVec.toNat_ofNat, Nat.mod_eq_of_lt (eccEncode_lt _)]
    exact Nat.xor_zero _
  rw [State.readWord, hcheck, eccDecode_eccEncode]

theorem State.readWord_writeMem {s : State} {a k : Nat} {bs : List Byte} (hwf : tabWf checkDefault s.check = true) (h : bs ≠ [])
    (hlo : a / 8 ≤ k) (hhi : k ≤ (a + bs.length - 1) / 8) :
    (s.writeMem a bs).readWord k 0 = .clean (bytesLe (memRead (s.writeMem a bs).mem (8 * k) 8)) := by
  refine State.readWord_clean ?_
  rw [State.writeMem_check h, tabGet_genChecks _ _ hwf, if_pos (by omega), State.writeMem_mem]

/-- Settles O11: bytes by the laws of memory, words by the check bytes that the write generates. -/
theorem writtenWordsDecodeClean : Obligations.WrittenWordsDecodeClean := by
  unfold Obligations.WrittenWordsDecodeClean
  intro s a bs hwf hbs t
  obtain ⟨hmem, -, hcheck, -⟩ := State.tablesWf_iff.1 hwf
  refine ⟨fun i hi => ?_, fun x hx => ?_, fun k => State.readWord_writeMem hcheck hbs⟩
  · exact (congrArg (memByte · _) (State.writeMem_mem s a bs)).trans (memByte_write_inside hmem a bs i hi)
  · exact (congrArg (memByte · _) (State.writeMem_mem s a bs)).trans (memByte_write_outside hmem a bs x hx)

/-! ## Pieces in whole granules -/

/-- Where the schedules lie depends on the cores alone. -/
theorem State.hitsSchedule_congr {s t : State} (h : t.cores = s.cores) (a n : Nat) : t.hitsSchedule a n = s.hitsSchedule a n := by
  simp only [State.hitsSchedule, State.core, h]

theorem wholePiece_congr {s t : State} (h : t.cores = s.cores) : wholePiece t = wholePiece s :=
  funext fun q => by simp only [wholePiece, State.hitsSchedule_congr h]

/-- Whole granules need no read. -/
theorem State.writePiece_whole {s : State} {x : Nat} {bs : List Byte} (job : Option (PartId × Fin 16)) (tag : Option Nat)
    (h : wholePiece s (.mem x, bs.length) = true) : s.writePiece x bs job tag = (s.writeMem x bs, false) := by
  simp only [wholePiece, Bool.and_eq_true, decide_eq_true_eq, Bool.not_eq_true'] at h
  obtain ⟨halign, hfree⟩ := h
  have hread : granulesRead x bs.length = [] := if_pos (.inr halign)
  simp [State.writePiece, hfree, hread, State.writeBut]

theorem natSum_cons (n : Nat) (l : List Nat) : natSum (n :: l) = n + natSum l := by
  simp only [natSum, ← List.sum_eq_foldl, List.sum_cons]

section Pieces
variable {s : State} {n : Nat} {bs : List Byte} (job : Option (PartId × Fin 16)) (tag : Option Nat) (l : List Piece)

theorem State.writePieces_cons_whole {x : Nat} (h : wholePiece s (.mem x, n) = true) (hn : n ≤ bs.length) :
    s.writePieces job tag ((.mem x, n) :: l) bs = (s.writeMem x (bs.take n)).writePieces job tag l (bs.drop n) := by
  have hpiece := State.writePiece_whole (bs := bs.take n) job tag (by rwa [List.length_take_of_le hn])
  simp [State.writePieces, hpiece]

theorem State.writePieces_cons_other {p : Site} (h : ∀ x, p ≠ .mem x) :
    s.writePieces job tag ((p, n) :: l) bs = s.writePieces job tag l (bs.drop n) := by
  cases p with
  | mem x => exact absurd rfl (h x)
  | _ => rfl

end Pieces

/-- No byte that lies outside every piece changes. -/
def outsidePieces (l : List Piece) (a : Nat) : Prop := ∀ q ∈ l, ∀ x, q.1 = .mem x → a < x ∨ x + q.2 ≤ a

theorem State.writePieces_whole (job : Option (PartId × Fin 16)) (tag : Option Nat) (l : List Piece) :
    ∀ {s : State} {bs : List Byte}, s.mem.wf = true → natSum (l.map (·.2)) = bs.length → l.all (wholePiece s) = true →
      (s.writePieces job tag l bs).2 = false ∧
      ∀ a, outsidePieces l a → memByte (s.writePieces job tag l bs).1.mem a = memByte s.mem a := by
  induction l with
  | nil => exact fun _ _ _ => ⟨rfl, fun _ _ => rfl⟩
  | cons q l ih =>
    obtain ⟨p, n⟩ := q
    intro s bs hwf hlen hall
    rw [List.map_cons, natSum_cons] at hlen
    simp only [List.all_cons, Bool.and_eq_true] at hall
    obtain ⟨hq, hl⟩ := hall
    have hrest : natSum (l.map (·.2)) = (bs.drop n).length := by
      rw [List.length_drop]
      omega
    by_cases hp : ∃ x, p = .mem x
    · obtain ⟨x, rfl⟩ := hp
      have hcores := State.writeMem_cores s x (bs.take n)
      obtain ⟨herr, hframe⟩ := ih (s := s.writeMem x (bs.take n)) (State.writeMem_mem s x _ ▸ Memory.wf_write hwf _ _) hrest
        (wholePiece_congr hcores ▸ hl)
      rw [State.writePieces_cons_whole job tag l hq (by omega)]
      refine ⟨herr, fun a ha => (hframe a fun q hq => ha q (.tail _ hq)).trans ?_⟩
      rw [State.writeMem_mem]
      refine memByte_write_outside hwf _ _ _ ?_
      rw [List.length_take_of_le (by omega)]
      exact ha _ List.mem_cons_self x rfl
    · rw [State.writePieces_cons_other job tag l (not_exists.1 hp)]
      obtain ⟨herr, hframe⟩ := ih hwf hrest hl
      exact ⟨herr, fun a ha => hframe a fun q hq => ha q (.tail _ hq)⟩

/-! ## One granule that a write does not fill -/

theorem granule_pos (a : Nat) : 0 < granule a := by
  unfold granule
  split <;> decide

/-- The granule of a byte begins on its own side of the core stores' base. -/
theorem storeBase_le_granuleStart (a : Nat) : storeBase ≤ a / granule a * granule a ↔ storeBase ≤ a := by
  unfold granule storeBase
  split <;> omega

theorem granule_granuleStart (a : Nat) : granule (a / granule a * granule a) = granule a :=
  ite_congr (propext (storeBase_le_granuleStart a)) (fun _ => rfl) fun _ => rfl

section Partial
variable {a n : Nat} (hn : 0 < n) (hfit : a + n ≤ a / granule a * granule a + granule a)
include hn hfit

theorem granulesAt_one : granulesAt a n = [a / granule a * granule a] := by
  have hlast : (a + n + granule a - 1) / granule a = a / granule a + 1 := by
    have hlow := Nat.div_mul_le_self a (granule a)
    refine Nat.div_eq_of_lt_le ?_ ?_
    · rw [Nat.succ_mul]
      omega
    · rw [Nat.succ_mul, Nat.succ_mul]
      omega
  rw [granulesAt, hlast, Nat.add_sub_cancel_left]
  rfl

theorem granulesRead_partial (hne : n ≠ granule a) : granulesRead a n = [a / granule a * granule a] := by
  have hlow := Nat.div_mul_le_self a (granule a)
  have hrem : n % granule a ≠ 0 := by
    rw [Nat.mod_eq_of_lt (by omega)]
    omega
  rw [granulesRead, if_neg (by omega), granulesAt_one hn hfit]
  have hpart : (decide (a / granule a * granule a < a) || decide (a + n < a / granule a * granule a + granule a)) = true := by
    simp only [Bool.or_eq_true, decide_eq_true_eq]
    omega
  simp [hpart]

end Partial

/-- Settles O14: whole granules piece by piece, then the one granule that is read and written back. -/
theorem pieceWritesFrame : Obligations.PieceWritesFrame := by
  unfold Obligations.PieceWritesFrame
  refine ⟨fun s job tag l bs => State.writePieces_whole job tag l, fun s a bs job tag => ?_⟩
  intro g q hfree hbs hfit hne r t
  have hlen : 0 < bs.length := List.length_pos_iff.2 hbs
  have hread := granulesRead_partial hlen hfit hne
  have hq : granule q = g := granule_granuleStart a
  have hback : (granulesRead a bs.length).foldl (State.readBack job tag) (s, []) =
      if r.1.bad then (t, [q]) else (t.writeMem q r.1.bytes, []) := by
    rw [hread, List.foldl_cons, List.foldl_nil, State.readBack, hq]
    rfl
  rw [State.writePiece, hfree, hback]
  refine ⟨fun hgood => ?_, fun hbad => ?_⟩
  · simp [hgood, State.writeBut]
  · simp [hbad, State.writeBut, granulesAt_one hlen hfit, q, g, State.each]

end Sys2Proof.Machine
end

section
/-! PROOF. Tier commands (R158, R160, R167, R175), alerts (R176), refresh and temperature (R171 to R173), and the near-bank commands
(R174, R175, R182, R183). -/

open Sys2Proof

namespace Sys2Proof.Machine

/-! ## A position that names one tier -/

/-- A command to a position of a column has gone out as a packet; the retries of the one before have ended (R175, R176). -/
def State.sent (s : State) (c pos : Nat) (cmd : TierCmd) : State :=
  (s.modColumn c fun x => { x with retries := 0 }).drive c pos cmd

@[simp] theorem State.sent_boot (s : State) (c pos : Nat) (cmd : TierCmd) : (s.sent c pos cmd).boot = s.boot := rfl

@[simp] theorem State.pinValue_boot (s : State) (c v : Nat) : (s.pinValue c v).boot = s.boot := rfl

/-- One tier alone does not contend for the pins. -/
theorem State.contend_single {s u : State} {pos t : Nat} (h : s.tiersAt pos = [t]) (hboot : u.boot = s.boot) (c : Nat) :
    u.contend c pos = u := by
  have hu : u.tiersAt pos = [t] := by rw [← h, State.tiersAt, hboot, State.tiersAt]
  exact if_neg (by simp [hu])

section Rows
variable {s : State} {col : CoreId} {pos : BitVec 5} {t : Nat} (hpos : s.tiersAt pos.toNat = [t])
  (href : ((s.column col).tier t).selfRef = false)
include hpos href

/-- A command reaches the one tier that its position names, where it is out of self-refresh. -/
theorem State.tierCommand_single (cmd : TierCmd) (f : Nat → State → State) :
    s.tierCommand col pos.toNat cmd f = f t (s.sent col pos.toNat cmd) := by
  simp [State.tierCommand, State.sent, hpos, href, State.each]

/-- RD of an open row puts its burst and check bytes on the pins (R158). -/
theorem execRd_mem {bank : BitVec 5} {burst : BitVec 3} {auto : Bool} {u : State} {a : Nat}
    (hu : s.sent col pos.toNat (.rd bank.toNat burst.toNat auto) = u) (ha : u.burstAt col t bank.toNat burst.toNat = .mem a) :
    let v := u.pinBurst col (memRead u.mem a 1024) (u.checksAt (a / 8) 128)
    exec (.rd col pos bank burst auto) s = .next (if auto then v.setRow col t bank.toNat none else v) := by
  have hboot : u.boot = s.boot := hu ▸ rfl
  refine congrArg Host.Outcome.next ?_
  rw [State.tierCommand_single hpos href, hu]
  simp only [ha]
  refine State.contend_single hpos ?_ _
  split <;> exact hboot

/-- WR of an open row writes the burst with the check bytes that came with it (R158). -/
theorem execWr_mem {bank : BitVec 5} {burst : BitVec 3} {auto : Bool} {data checks : List Byte} {u : State} {a : Nat}
    (hu : s.sent col pos.toNat (.wr bank.toNat burst.toNat auto) = u) (ha : u.burstAt col t bank.toNat burst.toNat = .mem a)
    (hdata : data.length = 1024) (hchecks : checks.length = 128) :
    let v := u.writeBurst a data checks
    exec (.wr col pos bank burst auto ⟨data, checks⟩) s =
      .next ((if auto then v.setRow col t bank.toNat none else v).pinBurst col data checks) := by
  refine congrArg Host.Outcome.next ((if_neg (by simp [hdata, hchecks])).trans ?_)
  rw [State.tierCommand_single hpos href, hu]
  simp only [ha]

theorem execMrr_single (reg : BitVec 4) :
    let u := s.sent col pos.toNat (.mrr reg.toNat)
    exec (.mrr col pos reg) s = .next (u.pinValue col (u.tierMode col t reg.toNat)) := by
  refine congrArg Host.Outcome.next ?_
  rw [State.tierCommand_single hpos href]
  exact State.contend_single hpos (by simp) _

end Rows

/-! ## Alerts, refresh and temperature of a column -/

theorem execVcAlert_retry {s : State} {col : CoreId} (h : (s.column col).retries < 2) : exec (.vcAlert col true) s =
    .next ((s.modColumn col fun y => { y with retries := (s.column col).retries + 1, alert := false }).raiseCore 289 col none) :=
  congrArg Host.Outcome.next (if_pos h)

/-- The third alert on one command ends the access that it serves (log entry 63). -/
theorem execVcAlert_third {s : State} {col : CoreId} (h : 2 ≤ (s.column col).retries) : exec (.vcAlert col true) s =
    .next ((s.modColumn col fun y => { y with retries := 0, alert := false }).failAccess col) :=
  congrArg Host.Outcome.next (if_neg (Nat.not_lt.2 h))

section Refresh
variable {s : State} {col : CoreId} {t : Fin 20} (hdue : s.refDue col t = true)
include hdue

/-- A REF that falls due while a sequence runs on the tier is owed, eight at most (R186). -/
theorem execRefreshDue_owed {q : NbRecord} (hq : (s.column col).active = some q) (ht : q.tier = t.val) :
    exec (.refreshDue col t) s = .next ((s.modTier col t fun y =>
      { y with refLast := (s.column col).nextRef s.boot.tiers t y.refLast }).modTier col t fun y =>
        { y with owed := min (y.owed + 1) 8 }) := by
  refine congrArg Host.Outcome.next ((if_neg (by simp [hdue])).trans ?_)
  simp [hq, ht, satInc_eq_min]

theorem execRefreshDue_issued (h : ∀ q, (s.column col).active = some q → q.tier ≠ t.val) :
    exec (.refreshDue col t) s = .next (((s.modTier col t fun y =>
      { y with refLast := (s.column col).nextRef s.boot.tiers t y.refLast }).drive col t .ref).issueRefs col t 1) := by
  refine congrArg Host.Outcome.next ((if_neg (by simp [hdue])).trans (if_neg ?_))
  cases hq : (s.column col).active with
  | none => simp
  | some q => simpa using h q hq

end Refresh

theorem State.refDue_iff {s : State} {c t : Nat} : s.refDue c t = true ↔ t < s.boot.tiers ∧ (s.column c).passed = true ∧
    ((s.column c).tier t).selfRef = false ∧ (s.column c).nextRef s.boot.tiers t ((s.column c).tier t).refLast ≤ s.now := by
  simp [State.refDue, and_assoc]

/-- A change of a column counts by what it makes of that column as it stands. -/
theorem State.modColumn_congr {s : State} {c : Nat} {f g : Column → Column} (h : f (s.column c) = g (s.column c)) :
    s.modColumn c f = s.modColumn c g := by
  rw [State.modColumn, h, State.modColumn]

section Temperature
variable {s : State} {col : CoreId}

theorem execTierTempFrame_hot {b : BitVec 8} (h : 85 < b.toNat) : exec (.tierTempFrame col b) s = .next (
    (s.modColumn col fun y => { y with temp := b, lastFrame := s.now, hot := true, tempLost := false, coolSince := none }).persistOff
      291 (some col)) :=
  congrArg (fun u : State => Host.Outcome.next (u.persistOff 291 (some col))) (State.modColumn_congr (by simp [h]))

/-- The first frame at or below 85 °C of a hot column starts its wait (R172). -/
theorem execTierTempFrame_cooling {b : BitVec 8} (h : b.toNat ≤ 85) (hhot : (s.column col).hot = true)
    (hcool : (s.column col).coolSince = none) : exec (.tierTempFrame col b) s = .next (
    (s.modColumn col fun y => { y with temp := b, lastFrame := s.now, tempLost := false, coolSince := some s.now }).persistOff
      291 (some col)) :=
  congrArg (fun u : State => Host.Outcome.next (u.persistOff 291 (some col)))
    (State.modColumn_congr (by simp [Nat.not_lt.2 h, hhot, hcool]))

theorem execColumnCool_due {b : Nat} (hcool : (s.column col).coolSince = some b) (hhot : (s.column col).hot = true)
    (hlost : (s.column col).tempLost = false) (hb : b + 2000000 ≤ s.now) :
    exec (.columnCool col) s = .next (s.modColumn col fun y => { y with hot := false, coolSince := none }) := by
  refine congrArg Host.Outcome.next ?_
  simp only [hcool]
  exact if_pos (by simp [hhot, hlost, hb])

end Temperature

/-- Settles O28: each row at a position of one tier, then the events of a column (log entries 26, 62 and 63). -/
theorem tierCommandsAct : Obligations.TierCommandsAct := by
  unfold Obligations.TierCommandsAct
  refine ⟨fun s col pos bank t hpos href => ?rows, fun s col => ?events⟩
  case rows =>
    intro u
    have reach : ∀ cmd f, (.next (s.tierCommand col pos.toNat cmd f) : Host.Outcome State Fault Refusal) = .next (f t (u cmd)) :=
      fun cmd f => congrArg Host.Outcome.next (State.tierCommand_single hpos href cmd f)
    refine ⟨fun row => reach _ _, fun burst auto a => ?_, reach _ _, reach _ _, reach _ _, reach _ _, execMrr_single hpos href,
      fun reg value => reach _ _⟩
    exact ⟨execRd_mem hpos href rfl, fun ha data checks => execWr_mem hpos href rfl ha⟩
  case events =>
    refine ⟨fun w h => congrArg Host.Outcome.next (if_pos h), rfl, execVcAlert_retry, execVcAlert_third,
      fun t ht hpassed href hdue => ?_, fun b => execTierTempFrame_hot, fun b => execTierTempFrame_cooling,
      fun b => execColumnCool_due, fun hon hlost hlast => congrArg Host.Outcome.next (if_pos (by simp [hon, hlost, hlast]))⟩
    have hfalls := State.refDue_iff.2 ⟨ht, hpassed, href, hdue⟩
    exact ⟨fun q => execRefreshDue_owed hfalls, execRefreshDue_issued hfalls⟩

/-! ## Near-bank commands -/

theorem execSrx_single {s : State} {col : CoreId} {pos : BitVec 5} {t : Nat} (hpos : s.tiersAt pos.toNat = [t])
    (htrain : s.boot.base = .train) :
    exec (.srx col pos) s = .next ((s.sent col pos.toNat .srx).modTier col t fun x => { x with selfRef := false }) := by
  refine congrArg Host.Outcome.next ((if_pos htrain).trans ?_)
  rw [hpos]
  rfl

/-- NBGO resumes the column's sequence at its tier (R182). -/
theorem State.nbgoAt_resumes {s : State} {c t units : Nat} {q : NbRecord} (hq : (s.column c).active = some q) (ht : q.tier = t)
    (hgoes : ((s.column c).tier t).seqDone = false) :
    s.nbgoAt c t units = s.goSlice c t (min units (q.total - (s.column c).unitsDone)) s.now := by
  simp [State.nbgoAt, hq, ht, hgoes]

/-- NBGO starts the loaded record where the column runs no sequence (log entry 62). -/
theorem State.nbgoAt_starts {s : State} {c t units : Nat} (hnone : (s.column c).active = none)
    (hwf : (s.loadedRecord c t).wellFormed s.boot.wtiers = true) (ht : (s.loadedRecord c t).tier = t) :
    s.nbgoAt c t units =
      ((s.modColumn c fun x => { x with nextPort := x.nextPort + 1 }).loadSequence c (s.loadedRecord c t)).goSlice c t
        (min units (s.loadedRecord c t).total) s.now := by
  simp [State.nbgoAt, hnone, hwf, ht]

section Working
variable {s : State} {col : CoreId} {pos : BitVec 5} {t : Nat} (hpos : s.tiersAt pos.toNat = [t])
  (href : ((s.column col).tier t).selfRef = false)
include hpos href

theorem execNbl_working (hw : t < s.boot.wtiers) (k : BitVec 2) (value : BitVec 64) :
    exec (.nbl col pos k value) s = .next ((s.sent col pos.toNat (.nbl k.toNat value.toNat)).modTier col t fun x =>
      { x with record := tabSet (fun _ => 0) x.record k.toNat value }) :=
  congrArg Host.Outcome.next ((State.tierCommand_single hpos href _ _).trans (if_pos hw))

theorem execNbgo_working (hw : t < s.boot.wtiers) {units : BitVec 17} (hu : units ≠ 0) :
    exec (.nbgo col pos units) s = .next ((s.sent col pos.toNat (.nbgo units.toNat)).nbgoAt col t units.toNat) :=
  congrArg Host.Outcome.next ((State.tierCommand_single hpos href _ _).trans (if_pos ⟨hw, hu⟩))

theorem execNbs_working (hw : t < s.boot.wtiers) :
    let u := s.sent col pos.toNat .nbs
    exec (.nbs col pos) s = .next (u.pinValue col ((u.column col).tier t).status) := by
  refine congrArg Host.Outcome.next ?_
  rw [State.tierCommand_single hpos href]
  exact (congrArg (State.contend · _ _) (if_pos hw)).trans (State.contend_single hpos (by simp) _)

theorem execNba_idle {u : State} (hu : s.sent col pos.toNat .nba = u) (h : (u.column col).active = none) :
    exec (.nba col pos) s = .next (u.modTier col t fun x => { x with running := false }) := by
  refine congrArg Host.Outcome.next ?_
  rw [State.tierCommand_single hpos href, hu]
  simp only [h]

theorem execNba_active {u : State} {q : NbRecord} (hu : s.sent col pos.toNat .nba = u) (hq : (u.column col).active = some q)
    (ht : q.tier = t) : exec (.nba col pos) s = .next (u.abandonSequence col false) := by
  refine congrArg Host.Outcome.next ?_
  rw [State.tierCommand_single hpos href, hu]
  simp only [hq]
  exact if_pos ht

end Working

/-- Settles O26: each command at the one working tier of its position; NBGO also runs loaded words that no sequence of the controller
brought (log entry 62). -/
theorem nearBankCommandsAct : Obligations.NearBankCommandsAct := by
  unfold Obligations.NearBankCommandsAct
  intro s col pos t hpos u
  refine ⟨execSrx_single hpos, fun href hw => ⟨execNbl_working hpos href hw, fun units hu => ?_, execNbs_working hpos href hw,
    execNba_idle hpos href rfl, fun q => execNba_active hpos href rfl⟩⟩
  intro v q
  exact ⟨fun a ha ht hgoes => (execNbgo_working hpos href hw hu).trans (congrArg _ (State.nbgoAt_resumes ha ht hgoes)),
    fun hnone hwf ht => (execNbgo_working hpos href hw hu).trans (congrArg _ (State.nbgoAt_starts hnone hwf ht))⟩

end Sys2Proof.Machine
end

section
/-! PROOF. Near-bank records queue, start, advance, overrun and end (R177, R178, R180, R182 to R188). -/

open Sys2Proof

namespace Sys2Proof.Machine

/-! ## Arrival and start -/

/-- The records of a write to the foot of a command port that are all valid join the queue under the write's number (R177, R180). -/
theorem State.nbArrive_valid {s : State} {p c : Nat} {job : Option (PartId × Fin 16)} {bs : List Byte} (hne : bs ≠ [])
    (hlen : bs.length % 32 = 0)
    (hvalid : ((recordsOf bs).map fun w => ({ words := w, port := (s.column c).nextPort, job := job } : NbRecord)).all
      (s.nbValid p c) = true) :
    (s.nbArrive p c 0 job bs).1 = s.modColumn c fun x =>
      ({ x with
          waiting := x.waiting ++ (recordsOf bs).map fun w => { words := w, port := (s.column c).nextPort, job := job }
          nextPort := (s.column c).nextPort + 1 } : Column).fill := by
  have hkept := List.filter_eq_self.2 (List.all_eq_true.1 hvalid)
  simp [State.nbArrive, hne, hlen, hkept]

/-- The oldest record starts where no sequence runs and its tier is free (R180, R181). -/
theorem execNbSequenceStart_oldest {s : State} {col : CoreId} {q : NbRecord} {rest : List NbRecord}
    (hnone : (s.column col).active = none) (hqueue : (s.column col).queue = q :: rest)
    (href : ((s.column col).tier q.tier).selfRef = false) (hfree : ((s.column col).tier q.tier).refUntil ≤ s.now) :
    exec (.nbSequenceStart col) s = .next (
      ((s.modColumn col fun x => ({ x with queue := rest } : Column).fill).loadSequence col q).startSlice col q) := by
  refine congrArg Host.Outcome.next ((if_pos ?_).trans ?_)
  · simp [State.canStartSequence, hnone, hqueue, href, hfree]
  · simp only [hqueue]

/-! ## The sequence of a column -/

section Active
variable {s : State} {col : CoreId} {q : NbRecord} (hq : (s.column col).active = some q)

section Slice
variable (hrun : ((s.column col).tier q.tier).running = true)
include hq hrun

theorem Column.sliceRuns_active : (s.column col).sliceRuns = true := by
  simp [Column.sliceRuns, hq, hrun]

/-- A slice ends at the first uncorrectable word of its operands; else it is done, or abandoned with its stopped job (R182 to R187). -/
theorem execNbSliceEnd_running (hat : ((s.column col).tier q.tier).sliceAt ≤ s.now) :
    let x := s.column col
    let u := x.unitsDone + (x.tier q.tier).slice
    exec (.nbSliceEnd col) s = .next ((s.nbBad col q x.unitsDone (min u q.total)).elim
      (if x.abandon then (s.abandonSequence col false).drive col q.tier .nba else s.endSlice col q u) (s.nbUncorrectable col q)) := by
  refine congrArg Host.Outcome.next ((if_neg (by simp [Column.sliceRuns_active hq hrun])).trans ?_)
  simp only [hq, if_neg (Nat.not_lt.2 hat)]
  cases s.nbBad col q (s.column col).unitsDone _ <;> rfl

theorem execNbOverrun_late
    (hlate : ((s.column col).tier q.tier).sliceAt + s.sliceBeats col q ((s.column col).tier q.tier).slice + 4000 ≤ s.now) :
    exec (.nbOverrun col) s = .next (((s.abandonSequence col false).drive col q.tier .nba).raise
      { src := 288, locs := [col.val], job := q.job, tag := none }) := by
  refine congrArg Host.Outcome.next ((if_neg (by simp [Column.sliceRuns_active hq hrun])).trans ?_)
  simp only [hq, if_neg (Nat.not_lt.2 hlate)]

end Slice

include hq in
/-- The results of a finished sequence reach its destination, and the controller is free of it (log entry 23). -/
theorem execNbSequenceDone_active (hdone : ((s.column col).tier q.tier).seqDone = true) :
    exec (.nbSequenceDone col) s = .next (
      (((s.nbStore col q false).modColumn col fun x =>
        ({ x with active := none, abandon := false, unitsDone := 0 } : Column).fill).modTier col q.tier fun t =>
          { t with running := false, seqDone := false }).payRefs col q.tier) := by
  have hend : (s.column col).sequenceDone = true := by simp [Column.sequenceDone, hq, hdone]
  refine congrArg Host.Outcome.next ((if_neg (by simp [hend])).trans ?_)
  simp only [hq]

end Active

/-! ## The end of a slice -/

/-- What NBS reports at the end of a slice, `u` units into the sequence (R183). -/
def State.sliceEnded (s : State) (c : Nat) (q : NbRecord) (u : Nat) (done : Bool) : State :=
  ((s.modColumn c fun z => { z with unitsDone := min u q.total }).modTier c q.tier fun z =>
    { z with running := false, sliceDone := true, seqDone := done, units := min u q.total }).readStatus c q.tier

theorem State.endSlice_last {s : State} {c u : Nat} {q : NbRecord} (h : q.total ≤ u) :
    s.endSlice c q u = s.sliceEnded c q u true := by
  rw [State.endSlice, decide_eq_true h]
  rfl

/-- A slice that is not the last pays the refreshes owed, once they make a batch, and the next slice starts (R186). -/
theorem State.endSlice_more {s : State} {c u : Nat} {q : NbRecord} (h : u < q.total) :
    let t := s.sliceEnded c q u false
    s.endSlice c q u =
      (if fld (t.regN (regionBase (c / 16) + 0xE0000)) 0 4 ≤ ((t.column c).tier q.tier).owed then t.payRefs c q.tier
        else t).startSlice c q := by
  rw [State.endSlice, decide_eq_false (Nat.not_le.2 h)]
  rfl

/-- Settles O27: records arrive and start, then the slice that runs ends, overruns or was the last (log entries 23 and 62). -/
theorem nearBankSequencesAct : Obligations.NearBankSequencesAct := by
  unfold Obligations.NearBankSequencesAct
  refine ⟨fun s col => ⟨fun tag data hown hshut hne hlen => ?arrive, fun q rest => execNbSequenceStart_oldest⟩,
    fun s col q hq => ?active⟩
  case arrive =>
    intro num rs hvalid
    exact congrArg Host.Outcome.next ((if_pos (by simp [hown, hshut])).trans (State.nbArrive_valid hne hlen hvalid))
  case active =>
    intro x y u ended
    refine ⟨fun hrun => ⟨fun hat => ?_, execNbOverrun_late hq hrun⟩, execNbSequenceDone_active hq⟩
    have hend := execNbSliceEnd_running hq hrun hat
    refine ⟨fun hgood hkeep => ?done, fun hgood hstop => ?stopped, fun a hbad => ?bad⟩
    case done =>
      have hnext : exec (.nbSliceEnd col) s = .next (s.endSlice col q u) := by
        simpa only [x, y, u, hgood, hkeep, Option.elim_none, Bool.false_eq_true, if_false] using hend
      exact ⟨fun hlast => hnext.trans (congrArg _ (State.endSlice_last hlast)),
        fun hmore => hnext.trans (congrArg _ (State.endSlice_more hmore))⟩
    case stopped =>
      simpa only [x, y, u, hgood, hstop, Option.elim_none, if_true] using hend
    case bad =>
      simpa only [x, y, u, hbad, Option.elim_some] using hend

end Sys2Proof.Machine
end

section
/-! PROOF. Hiccups (R333, R334), stage readings (R335, R336), lost sensors and the fall-back to local sense (R294, R295), and brown-outs
(R153, R296). -/

open Sys2Proof

namespace Sys2Proof.Machine

/-! ## Hiccups and stages of a regulator -/

/-- The hiccups of the last 10 ms (R334). -/
def State.recentHiccups (s : State) (v : Nat) : List Nat := (s.vr v).hiccups.filter fun b => decide (s.now < b + 20000000)

/-- Every phase of the regulator is off for a hiccup, counted and reported (R333). -/
def State.hiccuped (s : State) (v : Nat) : State :=
  (s.modVr v fun y =>
    { y with state := .hiccup, hiccups := s.recentHiccups v ++ [s.now], hiccupTot := satInc y.hiccupTot 0xFF, hiccupAt := s.now,
             ocRun := 0, clamp := false, refUV := 0, startRef := none, pulsed := [], live := false, nearSince := 0 }).raiseVr 311 v

section Regulator
variable {s : State} {v : VrId}

/-- As many limited periods as start a hiccup (the free OC_N of log entry 40): the eighth of 10 ms fails the regulator (R334). -/
theorem execHiccup_limited (hrun : (s.vr v).running = true) (hoc : ocN ≤ (s.vr v).ocRun) : exec (.hiccup v) s =
    .next (if 7 ≤ (s.recentHiccups v).length then (s.hiccuped v).failVr v false else s.hiccuped v) :=
  congrArg Host.Outcome.next (if_pos (by simp [hrun, hoc]))

/-- A store that the fall lost is written zero where its rail is up again (R153). -/
theorem execHiccupEnd_due (hstate : (s.vr v).state = .hiccup) (hat : (s.vr v).hiccupAt + 100000 ≤ s.now) :
    let t := s.softStart v (s.setUV v) false
    exec (.hiccupEnd v) s = .next (if v.val < 256 && (t.core v).power.storeLost && t.railOn v
      then t.modPower v fun p => { p with zeroing := true } else t) :=
  congrArg Host.Outcome.next (if_pos (by simp [hstate, hat]))

theorem execStageWarning_quiet {k : Fin 4} {t : BitVec 8} (h : t.toNat < 110 ∨ (s.vr v).otWarn = true) :
    exec (.stageWarning v k t) s = .next (s.setStage v k t) :=
  congrArg Host.Outcome.next (if_pos (by simpa using h))

theorem execStageWarning_hot {k : Fin 4} {t : BitVec 8} (h : 110 ≤ t.toNat) (hwarn : (s.vr v).otWarn = false) :
    exec (.stageWarning v k t) s =
      .next (((s.setStage v k t).modVr v fun y => { y with otWarn := true }).raiseVr 312 v) :=
  congrArg Host.Outcome.next (if_neg (by simp [h, hwarn]))

end Regulator

/-! ## Sensors -/

section Sensors
variable {s : State} {c : CoreId}

/-- A sensor leaves MIN; the third forces REMOTE, or fails the regulator where remote sense has failed too (R294, R295). -/
theorem execSenseExclude_far {k : Fin 8} (hrun : (s.vr c).running = true) (hin : bitOf (s.core c).power.excluded.toNat k = false)
    (hfar : lasted s.now (runOf (s.vr c).farSince k) 2000 = true) :
    let t := s.modPower c fun q => { q with excluded := q.excluded ||| phaseBit k }
    exec (.senseExclude c k) s = .next (if popCount 8 (t.core c).power.excluded.toNat = 3 then
        if s.remoteFails c || (s.core c).power.senseNext = some false then t.failVr c (t.railNear c 100000)
        else (t.modPower c fun q => { q with senseNext := some true }).raiseCore 308 c (t.coreJob c)
      else t) :=
  congrArg Host.Outcome.next (if_pos (by simp [hrun, hin, hfar]))

/-- Remote sense that fails in use gives way to local sense while that has its sensors (R295). -/
theorem execSenseRemoteFallback_fails (hrun : (s.vr c).running = true) (hremote : (s.core c).power.sense = true)
    (hnext : (s.core c).power.senseNext ≠ some false) (hfails : s.remoteFails c = true) :
    exec (.senseRemoteFallback c) s = .next (if 3 ≤ popCount 8 (s.core c).power.excluded.toNat
      then s.failVr c (s.railNear c 100000)
      else (s.modPower c fun q => { q with senseNext := some false }).raiseCore 308 c (s.coreJob c)) :=
  congrArg Host.Outcome.next (if_pos (by simp [hrun, hremote, hnext, hfails]))

end Sensors

/-- Settles O46: each alarm under its condition (OC_N, and the failure of a stage in every state but OFF, by log entry 40). -/
theorem regulatorAlarmsAct : Obligations.RegulatorAlarmsAct := by
  unfold Obligations.RegulatorAlarmsAct
  refine fun s v c => ⟨fun hrun hoc => ?hiccup, fun hstate hat => ?hiccupEnd, fun k t =>
    ⟨execStageWarning_quiet, execStageWarning_hot, fun hhot hoff => ?shutdown⟩, fun hcool => ?clear,
    fun k hrun hin hfar => ?exclude, fun hrun hremote hnext hfails => ?fallback, fun hrail hlive hlow => ?brownOut⟩
  case hiccup =>
    have hexec := execHiccup_limited hrun hoc
    exact ⟨fun h => hexec.trans (congrArg _ (if_neg (Nat.not_le.2 h))), fun h => hexec.trans (congrArg _ (if_pos h))⟩
  case hiccupEnd =>
    have hexec := execHiccupEnd_due hstate hat
    refine ⟨fun h => hexec.trans (congrArg _ (if_neg ?_)), fun hcore hlost hon => hexec.trans (congrArg _ (if_pos ?_))⟩
    · rcases h with h | h | h
      · simp [Nat.not_lt.2 h]
      · simp [h]
      · simp [h]
    · simp [hcore, hlost, hon]
  case shutdown => exact congrArg Host.Outcome.next (if_pos (by simp [hhot, hoff]))
  case clear => exact congrArg Host.Outcome.next (if_pos (by simpa using hcool))
  case exclude =>
    have hexec := execSenseExclude_far hrun hin hfar
    exact ⟨fun h => hexec.trans (congrArg _ (if_neg h)),
      fun h hboth => hexec.trans (congrArg _ ((if_pos h).trans (if_neg (by simpa using hboth)))),
      fun h hboth => hexec.trans (congrArg _ ((if_pos h).trans (if_pos (by simpa using hboth))))⟩
  case fallback =>
    have hexec := execSenseRemoteFallback_fails hrun hremote hnext hfails
    exact ⟨fun h => hexec.trans (congrArg _ (if_neg (Nat.not_le.2 h))), fun h => hexec.trans (congrArg _ (if_pos h))⟩
  case brownOut => exact congrArg Host.Outcome.next (if_pos (by simp [hrail, hlive, hlow]))

end Sys2Proof.Machine
end

section
/-! PROOF. Writes of the page-keeper and peer-port registers (R208 to R210, R271, R277, R278): the rule that each register's write
meets, and what the rule makes of the value that a row writes. -/

open Sys2Proof

namespace Sys2Proof.Machine

/-! ## The registers of the page keeper -/

section Keeper
variable {s : State} {p : Path} {part : PartId}

/-- The partition and the offset of a register of the page keeper. -/
theorem pgkReg_split {x : Nat} (hx : x < 0x80) : (pgkReg part x - 0x1800000) / 0x80 = part.val ∧ pgkReg part x % 0x80 = x ∧
    0x1800000 ≤ pgkReg part x ∧ pgkReg part x < 0x1800400 := by
  unfold pgkReg
  omega

/-- No section of the image loads a register of the page keeper. -/
theorem writeReg_keeper {q : Request} {x v : Nat} (hx : x < 0x80) : s.writeReg q (pgkReg part x) v = s.writePgk q (pgkReg part x) v := by
  obtain ⟨-, -, hlo, hhi⟩ := pgkReg_split (part := part) hx
  generalize pgkReg part x = o at *
  have hout : ∀ n, n ≤ 0x1800000 → ¬ o < n := fun n hn => by omega
  have hmask : imageMask o = none := by
    have hne : ∀ n, n < 0x1800000 ∨ 0x1800400 ≤ n → ¬ o = n := fun n hn => by omega
    simp [imageMask, hout, hne]
    omega
  obtain ⟨hload, hbar⟩ := imageLoads_of_imageMask hmask
  simp only [State.writeReg, hbar, hload, hout, Bool.and_false, Bool.false_and, Bool.false_eq_true, if_false, Nat.reduceLeDiff,
    show o < 0x1C00000 by omega, if_true]

theorem writePgk_ctrl {q : Request} (v : Nat) : s.writePgk q (pgkReg part 0) v = s.tryWrite (s.writePgkCtrl part v) := by
  obtain ⟨hdiv, hmod, -, hhi⟩ := pgkReg_split (part := part) (x := 0) (by decide)
  simp only [State.writePgk, hdiv, hmod, hhi, if_true]

theorem writePgk_call {q : Request} (v : Nat) : s.writePgk q (pgkReg part 0x2C) v = s.tryWrite (s.writePgkCall part v q.path) := by
  obtain ⟨hdiv, hmod, -, hhi⟩ := pgkReg_split (part := part) (x := 0x2C) (by decide)
  have hpart : (⟨part.val % 8, Nat.mod_lt _ (by decide)⟩ : PartId) = part := Fin.ext (Nat.mod_eq_of_lt part.isLt)
  simp only [State.writePgk, hdiv, hmod, hhi, if_true, hpart]

end Keeper

/-! ## Calls (R208) -/

section Call
variable {s : State} {p : Path} {part : PartId}

/-- A call of a host path reaches the keeper. -/
def State.hostCall (s : State) (p : Path) (part : PartId) (op : PgkOp) (n : Nat) : State :=
  (s.modKeeper part fun x => { x with callBusy := true }).newCall part op (s.reg (pgkReg part 0x28)) n (.host p)

/-- The operation that OP of PGK_CALL names. -/
def callOp (k : Nat) : PgkOp := if k = 7 then .query else subOp k

theorem State.writePgkCall_idle (hidle : (s.keeper part).callBusy = false) {k n : Nat} (hk : k < 8) (hn : n < 2 ^ 16) (h5 : k ≠ 5)
    (h6 : k ≠ 6) : s.writePgkCall part (n * 65536 + k) p = some (s.hostCall p part (callOp k) n) := by
  have hop : fld (n * 65536 + k) 0 3 = k := by simp only [fld]; omega
  have hcount : fld (n * 65536 + k) 16 16 = n := by simp only [fld]; omega
  simp only [State.writePgkCall, hop, hcount, hidle, h5, h6, decide_false, Bool.or_self, Bool.false_eq_true, if_false]
  rfl

variable (hp : s.pathAdmits p (pgkReg part 0x2C) = true) (hidle : (s.keeper part).callBusy = false)
include hp hidle

/-- Whatever row writes operation `k` and count `n`. -/
theorem pathWrite_pgkCall {v k n : Nat} (hv : v = n * 65536 + k) (hk : k < 8 ∧ k ≠ 5 ∧ k ≠ 6) (hn : n < 2 ^ 16) :
    (.next (s.pathWrite p (pgkReg part 0x2C) v) : Host.Outcome State Fault Refusal) = .next (s.hostCall p part (callOp k) n) := by
  obtain ⟨hlt, h5, h6⟩ := hk
  refine congrArg Host.Outcome.next (State.pathWrite_rule hp (by omega) ?_ (.inl rfl))
  rw [writeReg_keeper (by decide), writePgk_call, hv]
  exact State.tryWrite_some (State.writePgkCall_idle hidle hlt hn h5 h6)

end Call

/-! ## The table (R209, R210) -/

section Table
variable {s : State} {p : Path} {part : PartId} (hp : s.pathAdmits p (pgkReg part 0) = true)

include hp in
/-- A write of PGK_CTRL that its rule takes. -/
theorem pathWrite_pgkCtrl {t : State} {v : Nat} (hv : v < 2 ^ 32) (hw : s.writePgkCtrl part v = some t) :
    s.pathWrite p (pgkReg part 0) v = t := by
  refine State.pathWrite_rule hp hv ?_ (.inl rfl)
  rw [writeReg_keeper (by decide), writePgk_ctrl]
  exact State.tryWrite_some hw

theorem State.writePgkCtrl_enables (hoff : s.pgkEn part = false) (hrest : (s.keeper part).scanning = false) {v : Nat} (hv : v < 16)
    (hen : bitOf v 0 = true) : s.writePgkCtrl part v = some ((s.putReg (pgkReg part 0) v).modKeeper part fun x =>
      { x with scanning := true, cfgErr := false, broken := false }) := by
  rw [State.pgkEn] at hoff
  simp only [State.writePgkCtrl, hoff, hrest, hen, Nat.mod_eq_of_lt hv, Bool.or_self, Bool.false_and, Bool.false_eq_true, if_false, if_true]

theorem State.writePgkCtrl_disables (hon : s.pgkEn part = true) {v : Nat} (hsame : fld v 1 3 = fld (s.regN (pgkReg part 0)) 1 3)
    (hen : bitOf v 0 = false) : s.writePgkCtrl part v = some ((s.setPgkEn part false).modKeeper part fun x =>
      { x with closing := x.closing || x.ready || x.broken, scanning := false }) := by
  rw [State.pgkEn] at hon
  simp only [State.writePgkCtrl, hon, hsame, hen, ne_eq, not_true, decide_false, Bool.and_false, Bool.false_eq_true, if_false, if_true]

include hp

theorem execPgkEnable_rest (hoff : s.pgkEn part = false) (hrest : (s.keeper part).scanning = false) (keep : Bool) (psize : BitVec 2) :
    exec (.pgkEnable p part keep psize) s = .next (
      (s.putReg (pgkReg part 0) (1 + 2 * psize.toNat + 8 * b2n keep)).modKeeper part fun x =>
        { x with scanning := true, cfgErr := false, broken := false }) := by
  have hpsize := psize.isLt
  have hkeep : b2n keep ≤ 1 := by cases keep <;> decide
  have hen : bitOf (1 + 2 * psize.toNat + 8 * b2n keep) 0 = true := by simp only [bitOf, decide_eq_true_eq]; omega
  exact congrArg Host.Outcome.next (pathWrite_pgkCtrl hp (by omega) (State.writePgkCtrl_enables hoff hrest (by omega) hen))

theorem execPgkDisable_enabled (hon : s.pgkEn part = true) : exec (.pgkDisable p part) s = .next (
    (s.setPgkEn part false).modKeeper part fun x => { x with closing := x.closing || x.ready || x.broken, scanning := false }) := by
  have hlt := (s.reg (pgkReg part 0)).isLt
  have hclear : ∀ v, setFld v 0 1 0 ≤ v ∧ fld (setFld v 0 1 0) 1 3 = fld v 1 3 ∧ bitOf (setFld v 0 1 0) 0 = false := fun v => by
    refine ⟨Nat.sub_le _ _, ?_, decide_eq_false ?_⟩ <;> simp only [setFld, fld] <;> omega
  obtain ⟨hle, hsame, hen⟩ := hclear (s.regN (pgkReg part 0))
  exact congrArg Host.Outcome.next (pathWrite_pgkCtrl hp (Nat.lt_of_le_of_lt hle hlt) (State.writePgkCtrl_disables hon hsame hen))

end Table

/-! ## The peer ports (R271, R277, R278) -/

section Peer
variable {s : State} {p : Path} {n : PortId}

/-- No section of the image loads PEER_CTRL. -/
theorem writeReg_peerCtrl {q : Request} (v : Nat) :
    s.writeReg q (peerBase n) v = s.tryWrite (s.writePeer q.path n 0 v false) := by
  have hdiv : (peerBase n - 0x1C00000) / 0x100 = n.val := by unfold peerBase; omega
  have hmod : peerBase n % 0x100 = 0 := by unfold peerBase; omega
  have hlo : 0x1C00000 ≤ peerBase n := by unfold peerBase; omega
  have hhi : peerBase n < 0x1C00400 := by unfold peerBase; omega
  generalize peerBase n = o at *
  have hout : ∀ k, k ≤ 0x1C00000 → ¬ o < k := fun k hk => by omega
  have hmask : imageMask o = none := by
    have hne : ∀ k, k < 0x1C00000 ∨ 0x1C00400 ≤ k → ¬ o = k := fun k hk => by omega
    simp [imageMask, hout, hne, hmod]
  obtain ⟨hload, hbar⟩ := imageLoads_of_imageMask hmask
  simp only [State.writeReg, hbar, hload, hout, hdiv, hmod, hhi, Bool.and_false, Bool.false_and, Bool.false_eq_true, if_false,
    Nat.reduceLeDiff, show o < 0x1E00000 by omega, if_true]

/-- PEER_CTRL with PART as it is and EN. -/
def State.peerCtrl (s : State) (n : Nat) (en : Bool) : Nat := setFld (s.regN (peerBase n)) 31 1 (b2n en)

theorem State.peerCtrl_fields (s : State) (n : Nat) (en : Bool) :
    s.peerCtrl n en < 2 ^ 32 ∧ fld (s.peerCtrl n en) 0 3 = s.portOwner n ∧ fld (s.peerCtrl n en) 31 1 = b2n en ∧
      bitOf (s.peerCtrl n en) 31 = en := by
  have hlt : s.regN (peerBase n) < 2 ^ 32 := (s.reg (peerBase n)).isLt
  simp only [State.peerCtrl, State.portOwner]
  generalize s.regN (peerBase n) = v at *
  cases en <;> simp only [setFld, fld, bitOf, b2n, decide_eq_true_eq, decide_eq_false_iff_not, Bool.false_eq_true, if_false, if_true] <;>
    omega

/-- What a write of PEER_CTRL that leaves PART as it is makes of the port. -/
theorem State.writePeer_ctrl (en : Bool) : s.writePeer p n 0 (s.peerCtrl n en) false =
    let t := s.putReg (peerBase n) (at' 31 1 (b2n en) + s.portOwner n)
    some (if en then t else if (s.peer n).link = .up then t.loseLink n
      else t.modPeer n fun x => { x with link := .down, since := s.now }) := by
  obtain ⟨-, hpart, hen, hbit⟩ := s.peerCtrl_fields n en
  simp only [State.writePeer, State.writePeerCtrl, hpart, hen, hbit, ne_eq, not_true, decide_false, Bool.false_and, Bool.false_eq_true,
    if_false]

variable (hp : s.pathAdmits p (peerBase n) = true)
include hp

theorem pathWrite_peerCtrl (en : Bool) {t : State} (hw : s.writePeer p n 0 (s.peerCtrl n en) false = some t) :
    s.pathWrite p (peerBase n) (s.peerCtrl n en) = t :=
  State.pathWrite_rule hp (s.peerCtrl_fields n en).1 ((writeReg_peerCtrl _).trans (State.tryWrite_some hw)) (.inl rfl)

theorem execPeerEnable_sets : exec (.peerEnable p n) s = .next (s.putReg (peerBase n) (2 ^ 31 + s.portOwner n)) :=
  congrArg Host.Outcome.next (pathWrite_peerCtrl hp true (State.writePeer_ctrl true))

/-- PEER_DISABLE takes the port down, without source 302 (log entry 37). -/
theorem execPeerDisable_clears : exec (.peerDisable p n) s = .next (
    if (s.peer n).link = .up then (s.putReg (peerBase n) (s.portOwner n)).loseLink n
    else (s.putReg (peerBase n) (s.portOwner n)).modPeer n fun x => { x with link := .down, since := s.now }) := by
  refine congrArg Host.Outcome.next ((pathWrite_peerCtrl hp false (State.writePeer_ctrl false)).trans ?_)
  rw [show at' 31 1 (b2n false) = 0 from rfl, Nat.zero_add]
  rfl

end Peer

/-- Settles O37: register by register, what its rule makes of the row's value (log entries 37 and 64). -/
theorem keeperAndPeerWrites : Obligations.KeeperAndPeerWrites := by
  unfold Obligations.KeeperAndPeerWrites
  refine ⟨fun s p part => ⟨fun hp hidle => ?calls, fun hp => ⟨fun keep psize hoff hrest => execPgkEnable_rest hp hoff hrest keep psize,
    execPgkDisable_enabled hp⟩⟩, fun s p n hp => ⟨execPeerEnable_sets hp, fun hup => ?lost, fun hdown => ?down⟩⟩
  case calls =>
    have hcall := fun {v} k n hv hk hn => pathWrite_pgkCall hp hidle (v := v) (k := k) (n := n) hv hk hn
    exact ⟨fun n => ⟨hcall 0 n.toNat (Nat.add_zero _).symm (by decide) n.isLt, hcall 1 n.toNat rfl (by decide) n.isLt,
      hcall 2 n.toNat rfl (by decide) n.isLt⟩, hcall 3 0 rfl (by decide) (by decide), hcall 4 0 rfl (by decide) (by decide),
      hcall 7 0 rfl (by decide) (by decide)⟩
  case lost => exact (execPeerDisable_clears hp).trans (congrArg _ (if_pos hup))
  case down => exact (execPeerDisable_clears hp).trans (congrArg _ (if_neg hdown))

end Sys2Proof.Machine
end

section
/-! PROOF. The scout engine takes the requests of its ring and completes those it serves (R215 to R219, R221, R222). -/

open Sys2Proof

namespace Sys2Proof.Machine

/-! ## Taking a request -/

/-- A firing of the engine's watch is taken. -/
def State.takeFiring (s : State) (r : RegionId) : State := s.modScout r fun y => { y with fired := y.fired.tail }

/-- The SEQ that the engine expects in the next slot. -/
def State.scoutSeq (s : State) (r : RegionId) : Nat := s.regN (sctReg r 0xC)

/-- The read of the next slot of the ring. -/
def State.readSlot (s : State) (r : RegionId) (p : Nat) (job : Option (PartId × Fin 16)) : Got × State :=
  s.readOwned p (s.addrReg (sctReg r 0) + 64 * (s.scoutSeq r % max 1 (s.scoutSize r))) 64 job none

/-- The request whose record a slot holds. -/
def requestOf (bs : List Byte) (job : Option (PartId × Fin 16)) : ScoutReq :=
  { words := (List.range 8).map fun k => BitVec.ofNat 64 (wordAt bs k), status := 0, job := job }

/-- A slot with a stale SEQ is counted, skipped and reported (R216). -/
def State.skipStale (s : State) (r : RegionId) (job : Option (PartId × Fin 16)) : State :=
  ((s.addField (sctReg r 0x10) 16 16 1).scoutNext r).raise { src := 299, locs := [256 + r.val], job := job, tag := none }

/-- A request is served with the status of its checks (R217, R218). -/
def State.serve (s : State) (r : RegionId) (p : Nat) (q : ScoutReq) : State :=
  s.modScout r fun y => { y with serving := some { q with status := s.scoutStatus p q } }

section Engine
variable {s : State} {r : RegionId} {p : Nat} (hown : s.regionOwner r = some p) (hopen : s.shut = false)
include hown hopen

theorem execScoutRequest_slot {job : Option (PartId × Fin 16)} {rest : List (Option (PartId × Fin 16))} {bs : List Byte}
    (hfired : (s.scout r).fired = job :: rest) (hfree : (s.scout r).serving = none)
    (hread : ((s.takeFiring r).readSlot r p job).1 = .bytes bs) :
    exec (.scoutRequest r) s = .next (
      if (requestOf bs job).seq ≠ (s.takeFiring r).scoutSeq r then ((s.takeFiring r).readSlot r p job).2.skipStale r job
      else ((s.takeFiring r).readSlot r p job).2.serve r p (requestOf bs job)) := by
  simp only [State.readSlot, State.scoutSeq, State.takeFiring] at hread
  refine congrArg Host.Outcome.next ?_
  simp only [hown, hopen, hfired, hfree, hread, List.isEmpty_cons, Option.isSome_none, Bool.or_self, Bool.false_eq_true, if_false,
    List.head?_cons, Option.getD_some]
  rfl

/-! ## Completing one -/

section Done
variable {q : ScoutReq} (hserving : (s.scout r).serving = some q) (hfree : s.waitsFor (s.locateAll p q.out q.outLen) = false)
include hserving hfree

theorem execScoutDone_refused (hstatus : q.status ≠ 0) :
    exec (.scoutDone r) s = .next ((s.scoutHeader p q 0 0 (BitVec.ofNat 8 q.status)).scoutFinish r p q) := by
  refine congrArg Host.Outcome.next ?_
  simp only [hserving, hown, hopen, hfree, Bool.or_self, Bool.false_eq_true, if_false, if_pos hstatus]
  rfl

theorem execScoutDone_selected {bs : List Byte} {cands : List Candidate} {skipped : Nat} {u : State} (hstatus : q.status = 0)
    (hready : s.readWaits (s.scoutPieces p q) = false)
    (hread : s.readOwned p q.qaddr (512 * q.queries) q.job none = (.bytes bs, s))
    (hscan : State.scoutScan p q (queryVectors q.queries bs) q.count 0 s = (.ok cands skipped, u)) :
    exec (.scoutDone r) s = .next (((u.scoutLists p q (selectPages q cands)).scoutHeader p q (selectPages q cands).length skipped
      0).scoutFinish r p q) := by
  refine congrArg Host.Outcome.next ?_
  simp only [hserving, hown, hopen, hfree, hstatus, hready, hread, hscan, Bool.or_self, Bool.false_eq_true, ne_eq, not_true,
    if_false]

end Done

end Engine

/-- Settles O24: a slot's SEQ decides whether its request is served, and the status of a request how it completes. -/
theorem scoutServesRequests : Obligations.ScoutServesRequests := by
  unfold Obligations.ScoutServesRequests
  refine fun s r p hown hopen => ⟨fun job rest bs hfired hfree => ?request, fun q hserving hfree hstatus => ?refused,
    fun q bs cands skipped u hserving hfree hstatus hready hread hscan => ?selected⟩
  case request =>
    intro t seq g hread
    have hslot := execScoutRequest_slot hown hopen hfired hfree hread
    exact ⟨fun hstale => hslot.trans (congrArg _ (if_pos hstale)), fun hseq => hslot.trans (congrArg _ (if_neg (Classical.not_not.2 hseq)))⟩
  case refused => exact execScoutDone_refused hown hopen hserving hfree hstatus
  case selected => exact execScoutDone_selected hown hopen hserving hfree hstatus hready hread hscan

end Sys2Proof.Machine
end

section
/-! PROOF. Page entries in memory, and the calls of the page keeper that change counts alone (R192, R194, R195, R197). -/

open Sys2Proof

namespace Sys2Proof.Machine

/-! ## Numbers in little-endian bytes -/

@[simp] theorem length_leBytes (n v : Nat) : (leBytes n v).length = n := by
  induction n generalizing v with
  | zero => rfl
  | succ n ih => rw [leBytes, List.length_cons, ih]

theorem bytesLe_leBytes (n v : Nat) (h : v < 256 ^ n) : bytesLe (leBytes n v) = v := by
  induction n generalizing v with
  | zero => exact (Nat.lt_one_iff.1 h).symm
  | succ n ih =>
    have hbyte : (BitVec.ofNat 8 (v % 256)).toNat = v % 256 := Nat.mod_mod v 256
    rw [leBytes, bytesLe, ih _ (Nat.div_lt_of_lt_mul (by rwa [← Nat.pow_succ'])), hbyte, Nat.mod_add_div]

theorem wordAt_pair {v w : Nat} (hv : v < 2 ^ 64) (hw : w < 2 ^ 64) :
    wordAt (leBytes 8 v ++ leBytes 8 w) 0 = v ∧ wordAt (leBytes 8 v ++ leBytes 8 w) 1 = w := by
  have hfirst : ((leBytes 8 v ++ leBytes 8 w).drop (8 * 0)).take 8 = leBytes 8 v := List.take_left' (length_leBytes 8 v)
  have hsecond : ((leBytes 8 v ++ leBytes 8 w).drop (8 * 1)).take 8 = leBytes 8 w := by
    simp [List.take_of_length_le]
  rw [wordAt, wordAt, hfirst, hsecond, bytesLe_leBytes 8 v hv, bytesLe_leBytes 8 w hw]
  exact ⟨rfl, rfl⟩

/-! ## Entries -/

theorem PageEntry.state_le (e : PageEntry) : e.state ≤ 3 := by
  unfold PageEntry.state
  split <;> split <;> decide

/-- The first word of an entry: its state and page address (R192). -/
def PageEntry.word0 (e : PageEntry) : Nat := e.state * 2 ^ 56 + e.addr

/-- The second word of an entry: its free-list link and counts (R192). -/
def PageEntry.word1 (e : PageEntry) : Nat := e.next * 2 ^ 32 + e.lease * 2 ^ 16 + e.ref

theorem PageEntry.length_bytes (e : PageEntry) : e.bytes.length = 16 := by
  simp [PageEntry.bytes]

section Fields
variable {e : PageEntry} (haddr : e.addr < 2 ^ 48) (hnext : e.next < 2 ^ 32) (hlease : e.lease < 2 ^ 16) (href : e.ref < 2 ^ 16)
include haddr hnext hlease href

theorem PageEntry.wordAt_bytes : wordAt e.bytes 0 = e.word0 ∧ wordAt e.bytes 1 = e.word1 := by
  have hstate := e.state_le
  exact wordAt_pair (v := e.word0) (w := e.word1) (by unfold PageEntry.word0; omega) (by unfold PageEntry.word1; omega)

theorem entryOf_bytes : entryOf e.bytes = e := by
  obtain ⟨hzero, hone⟩ := PageEntry.wordAt_bytes haddr hnext hlease href
  have hlow : fld e.word0 0 48 = e.addr := by simp only [fld, PageEntry.word0]; omega
  have hhigh : fld e.word1 32 32 = e.next ∧ fld e.word1 16 16 = e.lease ∧ fld e.word1 0 16 = e.ref := by
    simp only [fld, PageEntry.word1]
    omega
  obtain ⟨hn, hl, hr⟩ := hhigh
  simp only [entryOf, hzero, hone, hlow, hn, hl, hr]

theorem entryConsistent_bytes : entryConsistent e.bytes = true := by
  have hstate := e.state_le
  have hword := (PageEntry.wordAt_bytes haddr hnext hlease href).1
  have hfield : fld e.word0 56 3 = e.state := by simp only [fld, PageEntry.word0]; omega
  rw [entryConsistent, hword, entryOf_bytes haddr hnext hlease href, hfield, decide_eq_true rfl]

end Fields

/-! ## Calls on a page of a table that is up -/

/-- What a call makes of it: the result, the lease count it reports, and the state. -/
abbrev CallOutcome : Type := Option (BitVec 64) × Nat × State

section Call
variable {s t : State} {x : PgkCall} {e : PageEntry}

/-- A call refused with a status leaves the state that the read of its entry made. -/
def State.refuseCall (t : State) (x : PgkCall) (e : PageEntry) (status : Nat) : CallOutcome :=
  (some (callResult status false e.state e.ref x.pn.toNat), e.lease, t)

/-- A call that takes effect writes the new counts `n`. -/
def State.effectCall (t : State) (x : PgkCall) (e n : PageEntry) : CallOutcome :=
  let u := t.updateEntry x.part x.pn.toNat e n x.job
  (u.unbroken x.part (callResult 0 false n.state n.ref x.pn.toNat), n.lease, u)

theorem State.effectCall_unchanged : t.effectCall x e e =
    (t.unbroken x.part (callResult 0 false e.state e.ref x.pn.toNat), e.lease, t) := by
  simp [State.effectCall, State.updateEntry]

/-- The status decides between the two. -/
def State.outcomeCall (t : State) (x : PgkCall) (e n : PageEntry) (status : Nat) : CallOutcome :=
  if status ≠ 0 then t.refuseCall x e status else t.effectCall x e n

theorem State.runCall_served (hdown : x.down = false) (hup : s.tableUp x.part = true) (hpage : x.pn.toNat < (s.table x.part).count)
    (hcopied : x.copied = false) (hop : x.op ≠ .writeIntent) (hread : s.readEntry x.part x.pn.toNat x.job = (some e, t)) :
    s.runCall x = t.outcomeCall x e (opEntry x.op e x.n) (opStatus x.op e x.n) := by
  simp only [State.runCall, hcopied, hdown, hup, hop, hread, Nat.not_le.2 hpage, Bool.not_true, Bool.or_self, Bool.false_eq_true,
    and_false, false_and, if_false]
  rfl

end Call

/-! ## Statuses (Table — Page operations) -/

theorem opStatus_pin (e : PageEntry) (n : Nat) :
    opStatus .pin e n = if e.ref = 0 then 1 else if 0xFFFF < e.lease + n then 4 else 0 := by
  simp [opStatus]

theorem opStatus_share (e : PageEntry) (n : Nat) :
    opStatus .share e n = if e.ref = 0 then 1 else if 0xFFFF < e.ref + n then 4 else 0 := by
  simp [opStatus]

theorem opStatus_free (e : PageEntry) (n : Nat) : opStatus .free e n = if e.ref = 0 then 1 else 0 := by
  rw [← ite_not]
  simp [opStatus, Nat.one_le_iff_ne_zero]

/-- Settles O22: the bytes of an entry word by word, then the status of each operation, which refuses the call or lets it act. -/
theorem pagesAreCounted : Obligations.PagesAreCounted := by
  unfold Obligations.PagesAreCounted
  refine ⟨fun e haddr hnext hlease href => ⟨e.length_bytes, entryOf_bytes haddr hnext hlease href,
    entryConsistent_bytes haddr hnext hlease href⟩, fun s t x e hdown hup hpage hcopied hop hread => ?calls⟩
  case calls =>
    have hrun := State.runCall_served hdown hup hpage hcopied hop hread
    refine ⟨fun h => ?pin, fun h => ?unpin, fun h => ?share, fun h => ?free, fun h => ?query⟩ <;> rw [hrun, h]
    case pin =>
      rw [opStatus_pin, apply_ite (t.outcomeCall x e _), apply_ite (t.outcomeCall x e _)]
      rfl
    case unpin => exact apply_ite (t.outcomeCall x e _) ..
    case share =>
      rw [opStatus_share, apply_ite (t.outcomeCall x e _), apply_ite (t.outcomeCall x e _)]
      rfl
    case free => exact (congrArg _ (opStatus_free e x.n)).trans (apply_ite (t.outcomeCall x e _) ..)
    case query => exact State.effectCall_unchanged

end Sys2Proof.Machine
end

section
/-! PROOF. The scout's selection: the forced pages and the best of the others, in slice order (R220). -/

open Sys2Proof

namespace Sys2Proof.Machine

/-! ## Insertion by a strict order, behind the elements that are level -/

/-- The element put before the first that the order `r` places behind it. -/
def insertWhere {α : Type} (r : α → α → Bool) (x : α) : List α → List α
  | [] => [x]
  | y :: t => if r x y then x :: y :: t else y :: insertWhere r x t

theorem insertWhere_perm {α : Type} (r : α → α → Bool) (x : α) : ∀ l : List α, (insertWhere r x l).Perm (x :: l)
  | [] => .refl _
  | y :: t => by
    rw [insertWhere]
    split
    · exact .refl _
    · exact ((insertWhere_perm r x t).cons y).trans (.swap x y t)

theorem foldl_insertWhere_perm {α : Type} (r : α → α → Bool) (l : List α) :
    ∀ t : List α, (l.foldl (fun t x => insertWhere r x t) t).Perm (l ++ t) := by
  induction l with
  | nil => exact fun t => .refl t
  | cons x l ih => exact fun t => (ih _).trans (((insertWhere_perm r x t).append_left l).trans List.perm_middle)

/-- The elements of a list inserted one by one. -/
def insertAll {α : Type} (r : α → α → Bool) (l : List α) : List α := l.foldl (fun t x => insertWhere r x t) []

theorem insertAll_perm {α : Type} (r : α → α → Bool) (l : List α) : (insertAll r l).Perm l :=
  (foldl_insertWhere_perm r l []).trans (.of_eq (List.append_nil l))

section Order
variable {α : Type} {r : α → α → Bool} (hasymm : ∀ a b, r a b = true → r b a = false)
  (hsplit : ∀ a b c, r a c = true → r a b = true ∨ r b c = true)
include hasymm hsplit

theorem pairwise_insertWhere (x : α) : ∀ l : List α, l.Pairwise (fun a b => r b a = false) →
    (insertWhere r x l).Pairwise fun a b => r b a = false
  | [], _ => List.pairwise_singleton _ x
  | y :: t, h => by
    obtain ⟨hy, ht⟩ := List.pairwise_cons.1 h
    rw [insertWhere]
    split
    next hxy =>
      have hbehind : ∀ z, r z y = false → r z x = false := fun z hzy => Bool.eq_false_iff.2 fun hzx =>
        (hsplit z y x hzx).elim (ne_true_of_eq_false hzy) (ne_true_of_eq_false (hasymm x y hxy))
      exact List.pairwise_cons.2 ⟨List.forall_mem_cons.2 ⟨hasymm x y hxy, fun z hz => hbehind z (hy z hz)⟩, h⟩
    next hxy =>
      refine List.pairwise_cons.2 ⟨fun z hz => ?_, pairwise_insertWhere x t ht⟩
      obtain rfl | hz := List.mem_cons.1 ((insertWhere_perm r x t).subset hz)
      · exact Bool.eq_false_iff.2 hxy
      · exact hy z hz

theorem pairwise_foldl_insertWhere (l : List α) : ∀ t : List α, t.Pairwise (fun a b => r b a = false) →
    (l.foldl (fun t x => insertWhere r x t) t).Pairwise fun a b => r b a = false := by
  induction l with
  | nil => exact fun _ h => h
  | cons x l ih => exact fun t h => ih _ (pairwise_insertWhere hasymm hsplit x t h)

theorem pairwise_insertAll (l : List α) : (insertAll r l).Pairwise fun a b => r b a = false :=
  pairwise_foldl_insertWhere hasymm hsplit l [] .nil

end Order

/-! ## The order of places -/

theorem insertBy_eq_insertWhere {α : Type} (key : α → Int) (x : α) (l : List α) :
    insertBy key x l = insertWhere (fun a b => decide (key a < key b)) x l := by
  induction l with
  | nil => rfl
  | cons y t ih => simp only [insertBy, insertWhere, ih, decide_eq_true_eq]

theorem sortBy_eq_insertAll {α : Type} (key : α → Int) (l : List α) :
    sortBy key l = insertAll (fun a b => decide (key a < key b)) l := by
  simp only [sortBy, insertAll, insertBy_eq_insertWhere]

theorem sortBy_perm {α : Type} (key : α → Int) (l : List α) : (sortBy key l).Perm l :=
  sortBy_eq_insertAll key l ▸ insertAll_perm _ l

theorem pairwise_sortBy {α : Type} (key : α → Int) (l : List α) : (sortBy key l).Pairwise fun a b => key a ≤ key b := by
  have hsorted := pairwise_insertAll (r := fun a b => decide (key a < key b))
    (fun a b => by simp only [decide_eq_true_eq, decide_eq_false_iff_not]; omega)
    (fun a b c => by simp only [decide_eq_true_eq]; omega) l
  rw [sortBy_eq_insertAll]
  exact hsorted.imp fun h => Int.not_lt.1 (of_decide_eq_false h)

/-! ## The order of ranks -/

/-- −Inf stands below the values and NaN above them (R219). -/
def Score.tier : Score → Nat
  | .ninf => 0
  | .val _ => 1
  | .nan => 2

def Score.value : Score → Int
  | .val v => v
  | _ => 0

theorem Score.lt_iff (a b : Score) : a.lt b = true ↔ a.tier < b.tier ∨ a.tier = b.tier ∧ a.value < b.value := by
  cases a <;> cases b <;> simp [Score.lt, Score.tier, Score.value]

theorem Score.lt_asymm {a b : Score} (h : a.lt b = true) : b.lt a = false := by
  rw [Bool.eq_false_iff, ne_eq, Score.lt_iff]
  rw [Score.lt_iff] at h
  omega

theorem Score.lt_split {a b c : Score} (h : a.lt c = true) : a.lt b = true ∨ b.lt c = true := by
  simp only [Score.lt_iff] at h ⊢
  omega

/-- Candidate `a` stands before `b` in the ranking. -/
def Candidate.outranks (a b : Candidate) : Bool := b.score.lt a.score

/-- The candidates of a list in the order of the ranking. -/
def rankedOf (l : List Candidate) : List Candidate := l.foldl (fun t c => insertRank c t) []

theorem insertRank_eq_insertWhere (x : Candidate) (l : List Candidate) : insertRank x l = insertWhere Candidate.outranks x l := by
  induction l with
  | nil => rfl
  | cons y t ih => rw [insertRank, insertWhere, ih, Candidate.outranks]

theorem rankedOf_eq_insertAll (l : List Candidate) : rankedOf l = insertAll Candidate.outranks l := by
  simp only [rankedOf, insertAll, insertRank_eq_insertWhere]

theorem rankedOf_perm (l : List Candidate) : (rankedOf l).Perm l :=
  rankedOf_eq_insertAll l ▸ insertAll_perm _ l

theorem pairwise_rankedOf (l : List Candidate) : (rankedOf l).Pairwise fun a b => a.score.lt b.score = false := by
  rw [rankedOf_eq_insertAll]
  exact pairwise_insertAll (r := Candidate.outranks) (fun _ _ => Score.lt_asymm) (fun _ _ _ h => (Score.lt_split h).symm) l

/-! ## The forced candidates -/

/-- An entry of the slice's first KEEP_FIRST or last KEEP_LAST places. -/
def ScoutReq.forces (q : ScoutReq) (c : Candidate) : Bool := decide (c.place < q.keepFirst) || decide (q.count ≤ c.place + q.keepLast)

theorem ScoutReq.forces_iff {q : ScoutReq} {c : Candidate} :
    q.forces c = true ↔ c.place < q.keepFirst ∨ q.count ≤ c.place + q.keepLast := by
  simp [ScoutReq.forces]

section Selection
variable {q : ScoutReq} {l : List Candidate}

/-- The candidates that are not forced, in the order of the ranking. -/
def ScoutReq.ranked (q : ScoutReq) (l : List Candidate) : List Candidate := rankedOf (l.filter fun c => !q.forces c)

/-- The number of candidates taken from the top of the ranking. -/
def ScoutReq.free (q : ScoutReq) (l : List Candidate) : Nat := min q.k l.length - (l.filter q.forces).length

theorem forced_append_ranked_perm (q : ScoutReq) (l : List Candidate) : (l.filter q.forces ++ q.ranked l).Perm l :=
  ((rankedOf_perm _).append_left _).trans (List.filter_append_perm q.forces l)

theorem selectPages_perm (q : ScoutReq) (l : List Candidate) :
    (selectPages q l).Perm (l.filter q.forces ++ (q.ranked l).take (q.free l)) :=
  sortBy_perm _ _

theorem mem_selectPages {c : Candidate} :
    c ∈ selectPages q l ↔ (c ∈ l ∧ q.forces c = true) ∨ c ∈ (q.ranked l).take (q.free l) := by
  rw [(selectPages_perm q l).mem_iff, List.mem_append, List.mem_filter]

/-- What is selected, with what is left of the ranking, is the list of the candidates. -/
theorem selected_sublist (q : ScoutReq) (l : List Candidate) :
    (l.filter q.forces ++ (q.ranked l).take (q.free l)).Sublist (l.filter q.forces ++ q.ranked l) :=
  (List.take_sublist _ _).append_left _

theorem mem_of_mem_selectPages {c : Candidate} (h : c ∈ selectPages q l) : c ∈ l :=
  (forced_append_ranked_perm q l).subset ((selected_sublist q l).subset ((selectPages_perm q l).subset h))

variable (horder : l.Pairwise fun a b => a.place < b.place)
include horder

theorem selectPages_pairwise : (selectPages q l).Pairwise fun a b => a.place < b.place := by
  have hne : (selectPages q l).Pairwise fun a b => a.place ≠ b.place := by
    have hall := ((forced_append_ranked_perm q l).pairwise_iff fun h => Ne.symm h).2 (horder.imp Nat.ne_of_lt)
    exact ((selectPages_perm q l).pairwise_iff fun h => Ne.symm h).2 (hall.sublist (selected_sublist q l))
  exact (hne.and (pairwise_sortBy _ _)).imp fun ⟨hab, hle⟩ => Nat.lt_of_le_of_ne (Int.ofNat_le.1 hle) hab

variable (hslice : ∀ c ∈ l, c.place < q.count)
include hslice

/-- At most KEEP_FIRST + KEEP_LAST places are forced, and no two candidates share one. -/
theorem length_forced_le : (l.filter q.forces).length ≤ q.keepFirst + q.keepLast := by
  have hnodup : ((l.filter q.forces).map (·.place)).Nodup :=
    List.pairwise_map.2 ((horder.sublist List.filter_sublist).imp Nat.ne_of_lt)
  have hsub : (l.filter q.forces).map (·.place) ⊆ List.range q.keepFirst ++ List.range' (q.count - q.keepLast) q.keepLast := by
    intro n hn
    obtain ⟨c, hc, rfl⟩ := List.mem_map.1 hn
    obtain ⟨hcl, hforced⟩ := List.mem_filter.1 hc
    have hlt := hslice c hcl
    rw [ScoutReq.forces_iff] at hforced
    rw [List.mem_append, List.mem_range, List.mem_range'_1]
    omega
  simpa only [List.length_map, List.length_append, List.length_range, List.length_range'] using hnodup.length_le_of_subset hsub

theorem length_selectPages (hkeep : q.keepFirst + q.keepLast ≤ q.k) : (selectPages q l).length = min q.k l.length := by
  have hforced := Nat.le_trans (length_forced_le horder hslice) hkeep
  have hle : (l.filter q.forces).length ≤ l.length := List.length_filter_le _ _
  have hall := (forced_append_ranked_perm q l).length_eq
  rw [List.length_append] at hall
  rw [(selectPages_perm q l).length_eq, List.length_append, List.length_take, ScoutReq.free]
  omega

end Selection

/-- A candidate taken from the ranking is outranked by none that was left in it. -/
theorem ranked_take_best {q : ScoutReq} {l : List Candidate} {n : Nat} {a b : Candidate} (ha : a ∈ (q.ranked l).take n)
    (hb : b ∈ q.ranked l) (hout : b ∉ (q.ranked l).take n) : a.score.lt b.score = false := by
  have hrest : b ∈ (q.ranked l).drop n := by
    rw [← List.take_append_drop n (q.ranked l), List.mem_append] at hb
    exact hb.resolve_left hout
  have hsorted : (q.ranked l).Pairwise fun a b => a.score.lt b.score = false := pairwise_rankedOf _
  rw [← List.take_append_drop n (q.ranked l)] at hsorted
  exact (List.pairwise_append.1 hsorted).2.2 a ha b hrest

/-- Settles O25: the selection is the forced candidates and the top of the ranking, sorted by place. -/
theorem selectionKeepsForcedAndBest : Obligations.SelectionKeepsForcedAndBest := by
  unfold Obligations.SelectionKeepsForcedAndBest
  intro q l hkeep horder hslice
  refine ⟨length_selectPages horder hslice hkeep, selectPages_pairwise horder, fun c => mem_of_mem_selectPages,
    fun c hc hforced => mem_selectPages.2 (.inl ⟨hc, ScoutReq.forces_iff.2 hforced⟩), fun a ha b hb hfree hout => ?best⟩
  case best =>
    rw [mem_selectPages, not_or] at hout
    obtain ⟨hnotForced, hnotTaken⟩ := hout
    have htaken : a ∈ (q.ranked l).take (q.free l) := (mem_selectPages.1 ha).resolve_left fun h => hfree (ScoutReq.forces_iff.1 h.2)
    have hranked : b ∈ q.ranked l := by
      refine (rankedOf_perm _).mem_iff.2 (List.mem_filter.2 ⟨hb, ?_⟩)
      simpa using fun h => hnotForced ⟨hb, h⟩
    exact ranked_take_best htaken hranked hnotTaken

end Sys2Proof.Machine
end

section
/-! PROOF. One packet at a sync counter is the whole of its beat there; additions that fit in the counter are one exact sum
(R227, R232, R233, R235). -/

open Sys2Proof

namespace Sys2Proof.Machine

/-! ## The beat of one packet (R233) -/

section Packet
variable {s : State} {k : Nat} {p : Packet}

/-- The packet leaves the sync network. -/
def State.dropPacket (s : State) (p : Packet) : State :=
  s.setSync { s.sync with packets := s.sync.packets.filter fun x => !decide (p = x) }

/-- Counter `k` is marked as having been through its steps, where the packet arrives in the present beat. -/
def State.markTaken (s : State) (k : Nat) (p : Packet) : State :=
  s.setSync { s.sync with taken := if p.arrive = s.now then tabSet (fun _ => 0) s.sync.taken k (s.now + 1) else s.sync.taken }

theorem State.counterArrival_single {pick : Packet → Bool} (hdue : s.duePackets k = [p]) (hpick : pick p = true) :
    s.counterArrival k pick = (s.markTaken k p).counterBeat k [p] none := by
  simp only [State.counterArrival, hdue, firstBeat, List.foldl_nil, decide_true, List.filter_cons_of_pos, List.filter_nil,
    List.any_cons, hpick, Bool.true_or, if_true, State.markTaken]
  split <;> rfl

/-- The packets that a beat with one packet leaves. -/
theorem State.dropPacket_eq : s.setSync { s.sync with packets := s.sync.packets.filter fun x => !([p].any fun q => q = x) } =
    s.dropPacket p := by
  simp only [State.dropPacket, List.any_cons, List.any_nil, Bool.or_false]

theorem State.counterBeat_add {b j : Nat} {amt : BitVec 32} {o : Origin} (hp : p = .add b j amt o) :
    s.counterBeat k [p] none = ((s.dropPacket p).addSum k [(amt, o)]).evaluate k := by
  rw [← State.dropPacket_eq, hp]
  rfl

theorem State.counterBeat_register {b j : Nat} {v : BitVec 32} {take : Bool} {who : Watcher} (hp : p = .register b j v take who) :
    s.counterBeat k [p] none =
      ((s.dropPacket p).enterWatch { counter := k, v := v, take := take, who := who }).evaluate k := by
  rw [← State.dropPacket_eq, hp]
  rfl

theorem State.counterBeat_cancel {b j : Nat} {who : Watcher} (hp : p = .cancel b j who) :
    s.counterBeat k [p] none = ((s.dropPacket p).removeWatch k who).evaluate k := by
  rw [← State.dropPacket_eq, hp]
  rfl

end Packet

/-! ## One exact sum (R227) -/

section Sum
variable {s : State} {k : Nat} {adds : List (BitVec 32 × Origin)}

/-- The sum of the additions' amounts. -/
def amountSum (adds : List (BitVec 32 × Origin)) : Nat := natSum (adds.map fun a => a.1.toNat)

theorem foldl_amounts (adds : List (BitVec 32 × Origin)) (n : Nat) :
    adds.foldl (fun m a => m + a.1.toNat) n = n + amountSum adds := by
  induction adds generalizing n with
  | nil => rfl
  | cons a adds ih => rw [List.foldl_cons, ih, amountSum, amountSum, List.map_cons, natSum_cons, Nat.add_assoc]

/-- What the sync unit, memory and the cores hold. -/
def State.storage (s : State) : Sync × Memory × Tab Core := (s.sync, s.mem, s.cores)

/-- Jobs stirred and answers sent touch none of it. -/
theorem State.answerAdd_storage (sat : Bool) (o : Origin) (s : State) : (s.answerAdd sat o).storage = s.storage := by
  unfold State.answerAdd
  split <;> rfl

theorem State.stirWatchers_storage (k : Nat) (s : State) : (s.stirWatchers k).storage = s.storage := by
  unfold State.stirWatchers
  refine State.each_field State.storage (fun w t => ?_) _ s
  split
  · split
    · split <;> rfl
    · rfl
  · rfl

/-- The counter holds the sum of the additions `adds`, each a share of it. -/
def State.summed (s : State) (k : Nat) (adds : List (BitVec 32 × Origin)) : State :=
  ((s.putCounter k (w32 ((s.counter k).toNat + amountSum adds))).stirWatchers k).putShares k
    (adds.foldl (fun l a => addShare l a.2.job a.1.toNat) (s.shares k))

theorem State.addSum_exact (hne : adds ≠ []) (hfit : (s.counter k).toNat + amountSum adds ≤ 0xFFFFFFFF) :
    s.addSum k adds = State.each adds (fun a u => u.answerAdd false a.2) (s.summed k adds) := by
  have hsum := foldl_amounts adds (s.counter k).toNat
  have hempty : adds.isEmpty = false := by simpa using hne
  simp only [State.addSum, hempty, hsum, Nat.not_lt.2 hfit, Nat.min_eq_left hfit, decide_false, Bool.false_eq_true, if_false]
  rfl

theorem State.summed_storage : (s.summed k adds).mem = s.mem ∧ (s.summed k adds).cores = s.cores ∧
    (s.summed k adds).sync.counters = (s.putCounter k (w32 ((s.counter k).toNat + amountSum adds))).sync.counters := by
  have hstir := State.stirWatchers_storage k (s.putCounter k (w32 ((s.counter k).toNat + amountSum adds)))
  obtain ⟨hsync, hstores⟩ := Prod.mk.inj hstir
  obtain ⟨hmem, hcores⟩ := Prod.mk.inj hstores
  exact ⟨hmem, hcores, (congrArg Sync.counters hsync :)⟩

theorem State.addSum_storage (hne : adds ≠ []) (hfit : (s.counter k).toNat + amountSum adds ≤ 0xFFFFFFFF) :
    (s.addSum k adds).storage = (s.summed k adds).storage := by
  rw [State.addSum_exact hne hfit]
  exact State.each_field State.storage (fun a t => State.answerAdd_storage false a.2 t) adds _

/-- Additions that fit change their counter by their sum, no other counter, no memory and no core. -/
theorem State.addSum_fits (hwf : tabWf counterDefault s.sync.counters = true)
    (hfit : (s.counter k).toNat + amountSum adds ≤ 0xFFFFFFFF) :
    ((s.addSum k adds).counter k).toNat = (s.counter k).toNat + amountSum adds ∧
    (∀ j, j ≠ k → (s.addSum k adds).counter j = s.counter j) ∧
    (s.addSum k adds).mem = s.mem ∧ (s.addSum k adds).cores = s.cores := by
  by_cases hne : adds = []
  · subst hne
    exact ⟨rfl, fun _ _ => rfl, rfl, rfl⟩
  · obtain ⟨hsync, hstores⟩ := Prod.mk.inj (State.addSum_storage hne hfit)
    obtain ⟨hmem, hcores⟩ := Prod.mk.inj hstores
    obtain ⟨kmem, kcores, kcounters⟩ := State.summed_storage (s := s) (k := k) (adds := adds)
    have hcounter (j : Nat) : (s.addSum k adds).counter j =
        (s.putCounter k (w32 ((s.counter k).toNat + amountSum adds))).counter j :=
      congrArg (tabGet counterDefault · j) ((congrArg Sync.counters hsync).trans kcounters)
    refine ⟨?_, fun j hj => (hcounter j).trans (tabGet_tabSet_ne _ hj _ _ hwf), hmem.trans kmem, hcores.trans kcores⟩
    calc ((s.addSum k adds).counter k).toNat = (w32 ((s.counter k).toNat + amountSum adds)).toNat := by
          rw [hcounter]
          exact congrArg BitVec.toNat (tabGet_tabSet_self _ k _ _ hwf)
      _ = (s.counter k).toNat + amountSum adds := Nat.mod_eq_of_lt (by omega)

end Sum

/-- Settles O16: the beat of a counter with one packet, kind by kind, then the sum of several additions. -/
theorem counterPacketsTaken : Obligations.CounterPacketsTaken := by
  unfold Obligations.CounterPacketsTaken
  refine ⟨fun s k p hdue => ⟨fun b amt o hp => ?_, fun b v take who hp => ?_, fun b who hp => ?_⟩, fun s k adds hwf hfit => ?sum⟩
  case sum =>
    obtain ⟨-, -, -, hcounters, -⟩ := State.tablesWf_iff.1 hwf
    exact State.addSum_fits hcounters (by rwa [Nat.add_comm])
  · exact congrArg _ ((State.counterArrival_single hdue (by rw [hp]; rfl)).trans (State.counterBeat_add hp))
  · exact congrArg _ ((State.counterArrival_single hdue (by rw [hp]; rfl)).trans (State.counterBeat_register hp))
  · exact congrArg _ ((State.counterArrival_single hdue (by rw [hp]; rfl)).trans (State.counterBeat_cancel hp))

end Sys2Proof.Machine
end

section
/-! PROOF. A watch with the value 0 fires in its arrival beat, whoever its watcher is, and takes nothing (R232, R243). -/

open Sys2Proof

namespace Sys2Proof.Machine

/-! ## A register that is put away from its reset value

The register file is not known to be canonical here: an entry that is not a reset value is found all the same, and the entries above it
stand as they were. -/

section Register
variable {α : Type} [DecidableEq α] {d : Nat → α} {k : Nat} {v : α}

theorem tabGet_tabSet_of_ne_default (hv : v ≠ d k) (t : Tab α) : tabGet d (tabSet d t k v) k = v := by
  induction t with
  | nil => simp [tabSet, tabGet, hv]
  | cons e t ih =>
    simp only [tabSet, hv, if_false]
    split
    · simp [tabGet]
    next hne =>
      split
      · simp [tabGet]
      next hge => simp [tabGet, hne, hge, ih]

theorem tabGet_tabSet_of_lt {j : Nat} (hv : v ≠ d k) (hkj : k < j) (t : Tab α) : tabGet d (tabSet d t k v) j = tabGet d t j := by
  have hne : k ≠ j := Nat.ne_of_lt hkj
  have hge : ¬ j < k := Nat.lt_asymm hkj
  induction t with
  | nil => simp [tabSet, tabGet, hv, hne, hge]
  | cons e t ih =>
    simp only [tabSet, hv, if_false]
    split
    next hek => simp [tabGet, hek, hne, hge]
    next =>
      split
      · simp [tabGet, hne, hge]
      · simp [tabGet, ih]

end Register

/-! ## The firing of one watch (R229, R230) -/

section Watch
variable {s : State} {k : Nat} {w : WatchEntry}

/-- No watch of the table is on counter `k`. -/
def State.unwatched (s : State) (k : Nat) : Prop := s.sync.watches.all (fun w => !decide (w.counter = k)) = true

/-- A watch that enters at a counter without others, for the value 0, fires there. -/
theorem State.evaluate_enterWatch_zero (hfree : s.unwatched k) (hk : w.counter = k) (hv : w.v = 0) :
    (s.enterWatch w).evaluate k = (s.enterWatch w).fire w := by
  have hnone : (s.sync.watches.filter fun x => x.counter = k) = [] := by
    simpa [State.unwatched, List.filter_eq_nil_iff] using hfree
  have honly : ((s.enterWatch w).sync.watches.filter fun x => x.counter = k) = [w] := by
    simp [State.enterWatch, hnone, hk]
  rw [State.evaluate, honly]
  exact if_pos (hv ▸ Nat.zero_le _)

/-- The table once that watch has left it. -/
theorem State.fired_enterWatch_watches (hfree : s.unwatched w.counter) : ((s.enterWatch w).fired w).sync.watches = s.sync.watches := by
  have hother : ∀ x ∈ s.sync.watches, (!decide (x = w)) = true := fun x hx => by
    have hcounter := List.all_eq_true.1 hfree x hx
    simp only [Bool.not_eq_true', decide_eq_false_iff_not] at hcounter ⊢
    exact fun hxw => hcounter (congrArg WatchEntry.counter hxw)
  obtain ⟨htaken, -⟩ := State.taken_others (s := s.enterWatch w) (w := w)
  calc ((s.enterWatch w).taken w).sync.watches.filter (fun x => !decide (x = w))
      = (s.sync.watches ++ [w]).filter fun x => !decide (x = w) := by rw [htaken]; rfl
    _ = s.sync.watches := by simp [List.filter_append, List.filter_eq_self.2 hother]

/-- A watch that takes 0 leaves every counter as it was (R232). -/
theorem State.fired_zero_counter (hv : w.v = 0) (hwf : tabWf counterDefault s.sync.counters = true) (j : Nat) :
    (s.fired w).counter j = s.counter j := by
  show (s.taken w).counter j = s.counter j
  unfold State.taken
  split
  · rw [hv, show s.counter w.counter - 0 = s.counter w.counter from BitVec.sub_zero _]
    by_cases hj : j = w.counter
    · exact hj ▸ tabGet_tabSet_self _ _ _ _ hwf
    · exact tabGet_tabSet_ne _ hj _ _ hwf
  · rfl

/-- A watch that takes nothing leaves the counters. -/
theorem State.fired_keep_counters (htake : w.take = false) : (s.fired w).sync.counters = s.sync.counters := by
  simp [State.fired, State.taken, htake]

theorem State.fired_frame : (s.fired w).mem = s.mem ∧ (s.fired w).scouts = s.scouts ∧ (s.fired w).now = s.now := by
  simp only [State.fired, State.taken]
  split <;> exact ⟨rfl, rfl, rfl⟩

/-- The engine of the watch's region has one more request. -/
theorem State.fire_scout {r : RegionId} (hwho : w.who = .scout r) :
    ∃ j, s.fire w = (s.fired w).modScout r fun x => { x with fired := x.fired ++ [j] } := by
  rw [State.fire, hwho]
  exact ⟨_, rfl⟩

/-- SYN_HWATCH tells that the host's watch has fired (R243). -/
def State.hostWatchFired (s : State) (r : RegionId) : State :=
  let u := s.putReg (synHwatch r) (setFld (setFld (s.regN (synHwatch r)) 31 1 0) 30 1 1)
  u.setSync { u.sync with hostFired := tabSet (fun _ => 0) u.sync.hostFired r (u.now + 1) }

/-- The owner of a region is told by an event that its watch has fired. -/
def State.tellOwner (s : State) (r : RegionId) : State :=
  match s.regionOwner r with
  | some p => s.arrive p (336 + r) 0
  | none => s

theorem State.tellOwner_cases (s : State) (r : RegionId) : s.tellOwner r = s ∨ ∃ p, s.tellOwner r = s.arrive p (336 + r) 0 := by
  unfold State.tellOwner
  split
  next p _ => exact .inr ⟨p, rfl⟩
  next => exact .inl rfl

theorem State.fire_host {r : RegionId} (hwho : w.who = .host r) : s.fire w = ((s.fired w).hostWatchFired r).tellOwner r := by
  rw [State.fire, hwho]
  rfl

end Watch

/-! ## The host's watch register (R243) -/

theorem regReset_synHwatch (r : RegionId) : regReset (synHwatch r) = 0 := by
  revert r
  decide

/-- Bit 30 that a field write sets stands in the word. -/
theorem bitOf_setFld_thirty (v : Nat) : bitOf (w32 (setFld v 30 1 1)).toNat 30 = true := by
  simp only [bitOf, w32, setFld, fld, BitVec.toNat_ofNat, decide_eq_true_eq]
  omega

theorem State.hostWatchFired_fired (s : State) (r : RegionId) : bitOf ((s.hostWatchFired r).regN (synHwatch r)) 30 = true := by
  have hbit := bitOf_setFld_thirty (setFld (s.regN (synHwatch r)) 31 1 0)
  have hne : w32 (setFld (setFld (s.regN (synHwatch r)) 31 1 0) 30 1 1) ≠ regReset (synHwatch r) := fun h => by
    rw [h, regReset_synHwatch] at hbit
    exact absurd hbit (by decide)
  exact (congrArg (fun x : Word => bitOf x.toNat 30) (tabGet_tabSet_of_ne_default hne s.regs)).trans hbit

/-- Arming the watch leaves the value that it waits for. -/
theorem State.putHwatch_value (s : State) (r : RegionId) (c : BitVec 12) :
    (s.putReg (synHwatch r) (2 ^ 31 + c.toNat)).reg (synHwatchVal r) = s.reg (synHwatchVal r) := by
  have hne : w32 (2 ^ 31 + c.toNat) ≠ regReset (synHwatch r) := fun h => by
    have := c.isLt
    have hval : (2 ^ 31 + c.toNat) % 2 ^ 32 = 0 := congrArg BitVec.toNat (h.trans (regReset_synHwatch r))
    omega
  exact tabGet_tabSet_of_lt hne (Nat.add_lt_add_left (by decide) _) s.regs

/-! ## Arrival -/

section Arrival
variable {s : State}

/-- A registration for 0 that arrives alone, at a counter without another watch. -/
theorem execWatchRegistrationArrival_zero {k : Fin 65536} {b : Nat} {take : Bool} {who : Watcher}
    (hdue : s.duePackets k = [.register b k 0 take who]) (hfree : s.unwatched k) :
    let p : Packet := .register b k 0 take who
    let w : WatchEntry := { counter := k, v := 0, take := take, who := who }
    exec (.watchRegistrationArrival k) s = .next ((((s.markTaken k p).dropPacket p).enterWatch w).fire w) :=
  congrArg _ (((State.counterArrival_single hdue rfl).trans (State.counterBeat_register rfl)).trans
    (State.evaluate_enterWatch_zero hfree rfl rfl))

/-- The host's watch for 0 at counter `j`. -/
def hostZeroWatch (r : RegionId) (j : Nat) : WatchEntry := { counter := j, v := 0, take := false, who := .host r }

/-- The state in which that watch has entered counter `j` in beat `b`. -/
def State.hostZeroEntered (s : State) (b : Nat) (r : RegionId) (j : Nat) : State :=
  ((s.setSync { s.sync with taken := tabSet (fun _ => 0) s.sync.taken j (b + 1) }).dropPacket
    (.register b j 0 false (.host r))).enterWatch (hostZeroWatch r j)

theorem State.beatAt_hostZero {b j : Nat} {r : RegionId} (hfree : s.unwatched j) :
    s.beatAt b j [.register b j 0 false (.host r)] none = (s.hostZeroEntered b r j).fire (hostZeroWatch r j) :=
  (State.counterBeat_register rfl).trans (State.evaluate_enterWatch_zero hfree rfl rfl)

/-- The state in which the host's watch arms: its old watch gone, its register written. -/
def State.hostArming (s : State) (r : RegionId) (c : BitVec 12) : State :=
  (s.withoutHostWatch r).putReg (synHwatch r) (2 ^ 31 + c.toNat)

theorem State.hostArming_unwatched {r : RegionId} {c : BitVec 12} {j : Nat} (hfree : s.unwatched j) : (s.hostArming r c).unwatched j :=
  List.all_eq_true.2 fun x hx => List.all_eq_true.1 hfree x (List.mem_filter.1 hx).1

/-- A registration is all that a beat takes at a counter without due packets. -/
theorem State.beatAt_caughtUp_alone {b j o : Nat} {who : Watcher} (hdue : s.duePackets j = []) :
    (s.caughtUp j).beatAt b j ((s.caughtUp j).packetsNow j ++ [.register b j ((s.caughtUp j).reg o) false who]) none =
      s.beatAt b j [.register b j (s.reg o) false who] none := by
  rw [State.caughtUp_of_none hdue, State.packetsNow, hdue, List.filter_nil, List.nil_append]

theorem State.hostWatchArmed_alone {r : RegionId} {c : BitVec 12} (hdue : s.duePackets (4096 * r.val + c.toNat) = []) :
    s.hostWatchArmed r c = (s.hostArming r c).beatAt s.now (4096 * r.val + c.toNat)
      [.register s.now (4096 * r.val + c.toNat) (s.reg (synHwatchVal r)) false (.host r)] none := by
  have hnone : (s.hostArming r c).duePackets (4096 * r.val + c.toNat) = [] := hdue
  have hvalue : (s.hostArming r c).reg (synHwatchVal r) = s.reg (synHwatchVal r) := State.putHwatch_value (s.withoutHostWatch r) r c
  rw [← hvalue]
  exact State.beatAt_caughtUp_alone hnone

end Arrival

/-- Settles O18: a registration that arrives alone fires its watch for its core or scout, and the host's watch fires as it is armed. -/
theorem zeroWatchFiresOnArrival : Obligations.ZeroWatchFiresOnArrival := by
  unfold Obligations.ZeroWatchFiresOnArrival
  refine ⟨fun s k b take who hwf hhost hdue hfree => ?packet, fun s p r c hp hval hfired hdue hbeat hfree => ?host⟩
  case packet =>
    obtain ⟨-, -, -, hcounters, -⟩ := State.tablesWf_iff.1 hwf
    let w : WatchEntry := { counter := k, v := 0, take := take, who := who }
    let u := ((s.markTaken k (.register b k 0 take who)).dropPacket (.register b k 0 take who)).enterWatch w
    have hwatches : (u.fired w).sync.watches = s.sync.watches := State.fired_enterWatch_watches hfree
    have hcounter : ∀ j, (u.fired w).counter j = s.counter j := State.fired_zero_counter rfl hcounters
    obtain ⟨hmem, hscouts, hnow⟩ := State.fired_frame (s := u) (w := w)
    have hexec : exec (.watchRegistrationArrival k) s = .next (u.fire w) := execWatchRegistrationArrival_zero hdue hfree
    cases hwho : who with
    | core c slot =>
      refine ⟨_, hexec.trans (congrArg _ (State.fire_core hwho)), hwatches, hcounter, hmem, ?_, nofun⟩
      rintro _ _ ⟨⟩
      rw [hnow]
      exact ⟨_, Nat.le_add_right _ _, List.mem_append_right _ List.mem_cons_self⟩
    | scout r =>
      obtain ⟨j, hfire⟩ := State.fire_scout (s := u) (w := w) hwho
      refine ⟨_, hexec.trans (congrArg _ hfire), hwatches, hcounter, hmem, nofun, ?_⟩
      rintro _ ⟨⟩
      exact ⟨u.fired w, j, rfl, hscouts⟩
    | host r => exact absurd hwho (hhost r)
  case host =>
    let j := 4096 * r.val + c.toNat
    let w := hostZeroWatch r j
    let u := (s.hostArming r c).hostZeroEntered s.now r j
    have harming : (s.hostArming r c).unwatched j := State.hostArming_unwatched hfree
    have hexec : exec (.hostWatchArm p r c) s = .next (((u.fired w).hostWatchFired r).tellOwner r) := by
      rw [execHostWatchArm_rule hp (State.writeHwatch_arm hfired hbeat), State.hostWatchArmed_alone hdue, hval,
        State.beatAt_hostZero harming, State.fire_host rfl]
    obtain ⟨hmem, -⟩ := State.fired_frame (s := u) (w := w)
    refine ⟨(u.fired w).hostWatchFired r, State.hostWatchFired_fired _ r, State.fired_keep_counters rfl, hmem,
      State.fired_enterWatch_watches harming, ?_⟩
    rw [hexec]
    exact (State.tellOwner_cases _ r).imp (congrArg _) fun ⟨q, hq⟩ => ⟨q, congrArg _ hq⟩

end Sys2Proof.Machine
end

section
/-! PROOF. Data movement and the ends of a descriptor (R250, R260, R262, R266, R268): one rule for each row of the operation table, for
a channel in which its event occurs. -/

open Sys2Proof

namespace Sys2Proof.Machine

@[simp] theorem State.dropAccesses_dma (s : State) (who : Issuer) : (s.dropAccesses who).dma = s.dma :=
  State.each_field State.dma (fun n t => by split <;> rfl) _ _

section Rows
variable {s : State} {r : RegionId} {k : ChanId}

/-! ## Data movement -/

/-- A channel that waits for read data runs. -/
theorem Channel.state_of_readReady {x : Channel} (h : x.readReady = true) : x.state = .running := by
  simp only [Channel.readReady, Bool.and_eq_true, decide_eq_true_eq] at h
  exact h.1.1

/-- What a slot of stretch `g` reads. -/
abbrev State.slotPieces (s : State) (p : Nat) (g : Segment) : List Piece := s.locateAll p g.src (min 4096 g.len)

/-- The access that reads the next slot of descriptor `q`. -/
abbrev Running.slotIssuer (q : Running) (r : RegionId) (k : ChanId) : Issuer := .dma r k (q.reading.getD 0)

/-- The data `bs` of the next slot of descriptor `q`, from its stretch `g`, returns to the channel without an error. -/
structure State.SlotReturns (s : State) (r : RegionId) (k : ChanId) (p : Nat) (q : Running) (g : Segment) (bs : List Byte) : Prop where
  ready : (s.chan r k).readReady = true
  free : s.dmaHeld r = false
  owner : s.regionOwner r = some p
  running : (s.chan r k).running = some q
  next : ∃ rest, q.segs = g :: rest
  data : allData (s.slotPieces p g) = true
  here : s.readWaits (s.slotPieces p g) = false
  answered : s.answered (q.slotIssuer r k) = true
  taken : s.failedAccess (q.slotIssuer r k) = false
  read : s.readPieces (s.ringerJob (s.chan r k).attr) (s.ringerTag (s.chan r k).attr) (s.slotPieces p g) = (bs, false, s)

/-- The data of the next slot enters the basin. -/
theorem execDmaReadReturn_lands {p : Nat} {q : Running} {g : Segment} {bs : List Byte} (h : s.SlotReturns r k p q g bs) :
    exec (.dmaReadReturn r k) s = .next ((s.dropAccesses (q.slotIssuer r k)).drawn.dmaLand r k q g (min 4096 g.len)
      (q.asStood s.draws g.src (mergeData (s.slotPieces p g) bs (s.answerData (q.slotIssuer r k))))) := by
  obtain ⟨rest, hsegs⟩ := h.next
  have hsame : (s.dropAccesses (q.slotIssuer r k)).drawn.chan r k = s.chan r k := by simp [State.chan, State.drawn]
  have hruns : (s.chan r k).state = .running := Channel.state_of_readReady h.ready
  change execDmaReadReturn r k s = _
  simp [execDmaReadReturn, h.ready, h.free, h.owner, h.running, hsegs, h.data, h.here, h.answered, h.taken, h.read, hsame, hruns]

/-- Write `w` of the channel is no longer outstanding. -/
def State.withoutWrite (s : State) (r : RegionId) (k : ChanId) (w : Nat × List (Nat × List Byte)) : State :=
  s.modChan r k fun y =>
    { y with writes := y.writes.filter fun v => !(v.1 = w.1), delayed := y.delayed.filter fun e => !(e.1 = w.1) }

/-- The oldest write that can answer does so without an error: its bytes reach memory. -/
theorem execDmaWriteResponse_written {w : Nat × List (Nat × List Byte)} {d : State × Bool}
    (hfind : (s.chan r k).writes.find? (s.dmaWriteReady r k) = some w) (hok : s.failedAccess (.dma r k w.1) = false)
    (hdata : allData (s.writeAt r w.2) = true) (hsome : s.writeAt r w.2 ≠ [])
    (hd : (s.withoutWrite r k w).writePieces (s.ringerJob ((s.chan r k).attrOf w.1)) (s.ringerTag ((s.chan r k).attrOf w.1))
      (s.writeAt r w.2) (w.2.flatMap (·.2)) = d) (hclean : d.2 = false) :
    exec (.dmaWriteResponse r k) s = .next ((d.1.dropAccesses (.dma r k w.1)).dmaGo r k) := by
  change execDmaWriteResponse r k s = _
  unfold State.withoutWrite at hd
  simp [execDmaWriteResponse, hfind, hok, hdata, hsome, hd, hclean]

/-! ## The ends of a descriptor -/

/-- An earlier descriptor whose writes have answered completes first. -/
theorem execDescriptorComplete_earlier {f : Finishing} (h : ((s.dmaGo r k).chan r k).earlierComplete = some f) :
    exec (.descriptorComplete r k) s = .next (((s.dmaGo r k).dmaSignal r f.word0 f.attr).modChan r k fun y =>
      { y with finishing := y.finishing.tail, done := y.done + 1 }) := by
  change execDescriptorComplete r k s = _
  simp only [execDescriptorComplete, h]

/-- No earlier descriptor is left when the running one is complete. -/
theorem Channel.earlierComplete_of_complete {x : Channel} (h : x.complete = true) : x.earlierComplete = none := by
  simp only [Channel.complete, Bool.and_eq_true, List.isEmpty_iff] at h
  obtain ⟨⟨-, hnone⟩, -⟩ := h
  simp only [Channel.earlierComplete, hnone]

/-- The running descriptor is complete, and the keeper does not observe it itself: the channel goes on. -/
theorem execDescriptorComplete_running {q : Running} (hcomplete : ((s.dmaGo r k).chan r k).complete = true)
    (hheld : s.dmaHeld r = false) (hrunning : ((s.dmaGo r k).chan r k).running = some q)
    (hown : ∀ id, ((s.dmaGo r k).chan r k).attr ≠ some (.keeper id)) :
    exec (.descriptorComplete r k) s =
      .next (((s.dmaGo r k).dmaSignal r q.word0 ((s.dmaGo r k).chan r k).attr).modChan r k Channel.advance) := by
  change execDescriptorComplete r k s = _
  -- `hown` rules out the first alternative of the match on the channel's attribution
  simp only [execDescriptorComplete, Channel.earlierComplete_of_complete hcomplete, hcomplete, hheld, hrunning, Bool.not_true,
    Bool.or_self, Bool.false_eq_true, if_false]

/-- The channel is halted with its cause, and no access of the failed descriptor is kept. -/
def State.dmaHalted (s : State) (r : RegionId) (k : ChanId) (cause : Nat) : State :=
  (s.modChan r k fun y =>
    { y with state := .halted, cause := cause, failed := none, fetching := none, running := none, recheck := false }).dmaSweep r k

theorem execDescriptorError_halts {cause : Nat} (h : (s.chan r k).failed = some cause) :
    exec (.descriptorError r k) s =
      .next (if cause = 3 then s.dmaHalted r k cause else (s.dmaHalted r k cause).dmaEvent 296 r k) := by
  change execDescriptorError r k s = _
  simp only [execDescriptorError, h]
  rfl

theorem execDmaDrainEnd_idle (hstate : (s.chan r k).state = .draining) (hwrites : (s.chan r k).writes = []) :
    exec (.dmaDrainEnd r k) s = .next (s.modChan r k fun y => { y with state := .idle, recheck := false, cause := 7 }) := by
  change execDmaDrainEnd r k s = _
  simp [execDmaDrainEnd, hstate, hwrites]

end Rows

/-- Settles O20: the rows' rules, one by one. -/
theorem descriptorsMoveAndEnd : Obligations.DescriptorsMoveAndEnd := by
  unfold Obligations.DescriptorsMoveAndEnd
  refine ⟨fun s r k p howner => ⟨?read, ?write⟩, fun s r k => ⟨fun f hf => ?earlier, fun q hcomplete hheld hq hown => ?running,
    fun cause hcause => ⟨fun hne => ?event, fun heq => ?quiet⟩, fun hstate hwrites => ?drained⟩⟩
  case read =>
    intro q g rest hready hheld hq hsegs l who hdata hwaits hanswered hok bs hread
    exact execDmaReadReturn_lands ⟨hready, hheld, howner, hq, ⟨rest, hsegs⟩, hdata, hwaits, hanswered, hok, hread⟩
  case write =>
    intro w hfind hok a l t d hdata hsome hclean
    exact execDmaWriteResponse_written hfind hok hdata hsome rfl hclean
  case earlier => exact execDescriptorComplete_earlier hf
  case running => exact execDescriptorComplete_running hcomplete hheld hq hown
  case event => exact (execDescriptorError_halts hcause).trans (congrArg _ (if_neg hne))
  case quiet => exact (execDescriptorError_halts hcause).trans (congrArg _ (if_pos heq))
  case drained => exact execDmaDrainEnd_idle hstate hwrites

end Sys2Proof.Machine
end

section
/-! PROOF. The reshuffle transforms (R265): what PLANE_SPLIT and PLANE_MERGE do to each bit of a block and TRANSPOSE to each byte, the
places of INTERLEAVE and DEINTERLEAVE, and the elements of a slot. -/

open Sys2Proof

namespace Sys2Proof.Machine

/-! ## Bytes and bits of a block -/

theorem getD_map_range {α : Type} (f : Nat → α) {n o : Nat} (d : α) (h : o < n) : ((List.range n).map f).getD o d = f o := by
  simp [List.getD_eq_getElem?_getD, h]

/-- Blocks of one length with the same byte at each place are the same. -/
theorem block_ext {a b : List Byte} (hlen : a.length = b.length) (h : ∀ o, o < b.length → a.getD o 0 = b.getD o 0) : a = b := by
  refine List.ext_getElem hlen fun o ha hb => ?_
  rw [List.getElem_eq_getD 0, List.getElem_eq_getD 0]
  exact h o hb

/-- Bit `m` of byte `o` of a block. -/
def blockBit (b : List Byte) (o m : Nat) : Bool := (b.getD o 0).getLsbD m

/-- Blocks of one length with the same bits are the same. -/
theorem block_ext_bits {a b : List Byte} (hlen : a.length = b.length)
    (h : ∀ o m, o < b.length → m < 8 → blockBit a o m = blockBit b o m) : a = b :=
  block_ext hlen fun o ho => BitVec.eq_of_getLsbD_eq fun m hm => h o m ho hm

/-! ## A number from its bits -/

/-- The number whose bit `m`, for m from 0 to n − 1, is the low bit of `f m`. -/
def bitSum (f : Nat → Nat) (n : Nat) : Nat := (List.range n).foldl (fun v m => v + f m % 2 * 2 ^ m) 0

theorem bitSum_succ (f : Nat → Nat) (n : Nat) : bitSum f (n + 1) = 2 ^ n * (f n % 2) + bitSum f n := by
  rw [bitSum, List.range_succ, List.foldl_append, Nat.mul_comm, Nat.add_comm]
  rfl

theorem bitSum_lt (f : Nat → Nat) (n : Nat) : bitSum f n < 2 ^ n := by
  induction n with
  | zero => exact Nat.one_pos
  | succ n ih =>
    have hbit : 2 ^ n * (f n % 2) ≤ 2 ^ n * 1 := Nat.mul_le_mul_left _ (by omega)
    rw [bitSum_succ, Nat.pow_succ]
    omega

theorem testBit_bitSum (f : Nat → Nat) {n m : Nat} (hm : m < n) : (bitSum f n).testBit m = (f m).testBit 0 := by
  induction n with
  | zero => exact absurd hm (Nat.not_lt_zero m)
  | succ n ih =>
    rw [bitSum_succ, Nat.testBit_two_pow_mul_add _ (bitSum_lt f n)]
    split
    next hlt => exact ih hlt
    next hge =>
      obtain rfl : m = n := by omega
      simp

/-! ## Plane split and merge -/

/-- Nibble `i` of a block, low nibble first. -/
def nibbleOf (b : List Byte) (i : Nat) : Nat := (b.getD (i / 2) 0).toNat / 16 ^ (i % 2) % 16

theorem testBit_nibbleOf (b : List Byte) (i : Nat) {j : Nat} (hj : j < 4) :
    (nibbleOf b i).testBit j = blockBit b (i / 2) (4 * (i % 2) + j) := by
  have hpow : 16 ^ (i % 2) = 2 ^ (4 * (i % 2)) := Nat.pow_mul 2 4 (i % 2) ▸ rfl
  rw [nibbleOf, hpow, show 16 = 2 ^ 4 from rfl, Nat.testBit_mod_two_pow, Nat.testBit_div_two_pow, decide_eq_true hj, Bool.true_and,
    Nat.add_comm]
  rfl

/-- Nibble `i` that PLANE_MERGE puts together from the four planes. -/
def mergedNibble (b : List Byte) (i : Nat) : Nat := bitSum (fun j => (b.getD (16 * j + i / 8) 0).toNat / 2 ^ (i % 8)) 4

theorem testBit_mergedNibble (b : List Byte) (i : Nat) {j : Nat} (hj : j < 4) :
    (mergedNibble b i).testBit j = blockBit b (16 * j + i / 8) (i % 8) := by
  rw [mergedNibble, testBit_bitSum _ hj, Nat.testBit_div_two_pow, Nat.zero_add]
  rfl

section Planes
variable (b : List Byte) {i j : Nat} (hi : i < 128) (hj : j < 4)
include hi hj

/-- R265: bit i mod 8 of output byte 16j + i div 8 is bit j of nibble i. -/
theorem blockBit_planeSplit : blockBit (planeSplit b) (16 * j + i / 8) (i % 8) = blockBit b (i / 2) (4 * (i % 2) + j) := by
  obtain ⟨hbit, hnibble, hplane⟩ : i % 8 < 8 ∧ 8 * ((16 * j + i / 8) % 16) + i % 8 = i ∧ (16 * j + i / 8) / 16 = j := by omega
  have hbyte : (planeSplit b).getD (16 * j + i / 8) 0 =
      BitVec.ofNat 8 (bitSum (fun m => nibbleOf b (8 * ((16 * j + i / 8) % 16) + m) / 2 ^ ((16 * j + i / 8) / 16)) 8) :=
    getD_map_range _ 0 (by omega)
  rw [blockBit, hbyte, BitVec.getLsbD_ofNat, decide_eq_true hbit, Bool.true_and, testBit_bitSum _ hbit, hnibble, hplane,
    Nat.testBit_div_two_pow, Nat.zero_add, testBit_nibbleOf b i hj]

/-- R265: PLANE_MERGE takes bit j of nibble i from bit i mod 8 of byte 16j + i div 8. -/
theorem blockBit_planeMerge : blockBit (planeMerge b) (i / 2) (4 * (i % 2) + j) = blockBit b (16 * j + i / 8) (i % 8) := by
  have hbyte : (planeMerge b).getD (i / 2) 0 =
      BitVec.ofNat 8 (2 ^ 4 * mergedNibble b (2 * (i / 2) + 1) + mergedNibble b (2 * (i / 2))) :=
    (getD_map_range _ 0 (by omega)).trans (congrArg (BitVec.ofNat 8) (Nat.add_comm _ _))
  have hlow : mergedNibble b (2 * (i / 2)) < 2 ^ 4 := bitSum_lt _ 4
  rw [← testBit_mergedNibble b i hj, blockBit, hbyte, BitVec.getLsbD_ofNat, decide_eq_true (by omega), Bool.true_and,
    Nat.testBit_two_pow_mul_add _ hlow]
  rcases Nat.mod_two_eq_zero_or_one i with heven | hodd
  · obtain ⟨hbit, hnibble⟩ : 4 * (i % 2) + j = j ∧ 2 * (i / 2) = i := by omega
    rw [hbit, hnibble, if_pos hj]
  · obtain ⟨hbit, hnibble⟩ : 4 * (i % 2) + j - 4 = j ∧ 2 * (i / 2) + 1 = i := by omega
    rw [if_neg (by omega), hbit, hnibble]

end Planes

theorem planeMerge_planeSplit {b : List Byte} (h : b.length = 64) : planeMerge (planeSplit b) = b := by
  refine block_ext_bits (by simp [planeMerge, h]) fun o m ho hm => ?_
  obtain ⟨hi, hj, hbyte, hbit⟩ : 2 * o + m / 4 < 128 ∧ m % 4 < 4 ∧ (2 * o + m / 4) / 2 = o ∧
      4 * ((2 * o + m / 4) % 2) + m % 4 = m := by omega
  have hsame := (blockBit_planeMerge (planeSplit b) hi hj).trans (blockBit_planeSplit b hi hj)
  rwa [hbyte, hbit] at hsame

theorem planeSplit_planeMerge {b : List Byte} (h : b.length = 64) : planeSplit (planeMerge b) = b := by
  refine block_ext_bits (by simp [planeSplit, h]) fun o m ho hm => ?_
  obtain ⟨hi, hj, hbyte, hbit⟩ : 8 * (o % 16) + m < 128 ∧ o / 16 < 4 ∧ 16 * (o / 16) + (8 * (o % 16) + m) / 8 = o ∧
      (8 * (o % 16) + m) % 8 = m := by omega
  have hsame := (blockBit_planeSplit (planeMerge b) hi hj).trans (blockBit_planeMerge b hi hj)
  rwa [hbyte, hbit] at hsame

/-! ## Transpose -/

/-- R265: output byte 32c + r is input byte 32r + c. -/
theorem transpose_getD (b : List Byte) {o : Nat} (ho : o < 1024) : (transpose b).getD o 0 = b.getD (32 * (o % 32) + o / 32) 0 :=
  getD_map_range _ 0 ho

theorem transpose_transpose {b : List Byte} (h : b.length = 1024) : transpose (transpose b) = b := by
  refine block_ext (by simp [transpose, h]) fun o ho => ?_
  have ho : o < 1024 := h ▸ ho
  rw [transpose_getD _ ho, transpose_getD _ (by omega)]
  congr 1
  omega

/-! ## Interleave and deinterleave -/

/-- To interleave `f` runs of `n` elements is to deinterleave `n` runs of `f`. -/
theorem interleaved_eq_deinterleaved (f n j : Nat) : interleaved f n j = deinterleaved n f j := by
  rw [interleaved, deinterleaved, Nat.mul_comm]

theorem deinterleaved_lt {f n j : Nat} (h : j < f * n) : deinterleaved f n j < f * n := by
  have hf : 0 < f := Nat.pos_of_mul_pos_right (Nat.zero_lt_of_lt h)
  calc j % f * n + j / f
    _ < j % f * n + n := Nat.add_lt_add_left (Nat.div_lt_of_lt_mul h) _
    _ = (j % f + 1) * n := (Nat.succ_mul _ _).symm
    _ ≤ f * n := Nat.mul_le_mul_right n (Nat.mod_lt j hf)

/-- Place `j % f * n + j / f` stands in run `j % f`, at `j / f`. -/
theorem deinterleaved_deinterleaved {f n j : Nat} (h : j < f * n) : deinterleaved n f (deinterleaved f n j) = j := by
  have hplace : j / f < n := Nat.div_lt_of_lt_mul h
  rw [deinterleaved, deinterleaved, Nat.mul_comm _ n, Nat.mul_add_mod, Nat.mod_eq_of_lt hplace,
    Nat.mul_add_div (Nat.zero_lt_of_lt hplace), Nat.div_eq_of_lt hplace, Nat.add_zero, Nat.mul_comm, Nat.div_add_mod]

/-! ## The elements of a slot -/

/-- A list that holds `k` pieces of `n` elements is cut into them. -/
theorem chunksOf_eq_map {α : Type} {n k : Nat} (hn : 0 < n) {l : List α} (h : k * n ≤ l.length) :
    chunksOf n k l = (List.range k).map fun i => (l.drop (n * i)).take n := by
  induction k generalizing l with
  | zero => rfl
  | succ k ih =>
    rw [Nat.succ_mul] at h
    have hsome : l.isEmpty = false := List.isEmpty_eq_false_iff.2 (List.ne_nil_of_length_pos (by omega))
    have hrest : chunksOf n k (l.drop n) = (List.range k).map fun i => ((l.drop n).drop (n * i)).take n :=
      ih (by rw [List.length_drop]; omega)
    simp [chunksOf, hsome, hrest, List.range_succ_eq_map, List.drop_drop, Nat.mul_succ, Nat.add_comm, Function.comp_def]

/-- The stretches of a slot are its elements, in the order of their places. -/
theorem placed_perm {e : Nat} (he : 0 < e) (dst j : Nat) (place : Nat → Nat) (b : List Byte) :
    (placed dst e place j b).Perm
      ((List.range (b.length / e)).map fun i => (dst + e * place (j + i), (b.drop (e * i)).take e)) := by
  refine (sortBy_perm _ _).trans (.of_eq ?_)
  rw [chunksOf_eq_map he (Nat.div_mul_le_self _ _), List.length_map, List.length_range, ← List.map_prod_left_eq_zip, List.map_map]
  rfl

/-- Settles O21: each transform by the places of its bits, bytes or elements. -/
theorem reshufflesInvert : Obligations.ReshufflesInvert := by
  unfold Obligations.ReshufflesInvert
  refine ⟨fun b h => ⟨planeMerge_planeSplit h, planeSplit_planeMerge h⟩, fun b h => transpose_transpose h, fun f n j h => ?places,
    fun dst e j place b he => ?slot⟩
  case places =>
    have hswap : j < n * f := Nat.mul_comm f n ▸ h
    rw [interleaved_eq_deinterleaved, interleaved_eq_deinterleaved]
    exact ⟨deinterleaved_deinterleaved hswap, deinterleaved_deinterleaved h, Nat.mul_comm f n ▸ deinterleaved_lt hswap,
      deinterleaved_lt h⟩
  case slot =>
    have hperm := placed_perm he dst j place b
    refine ⟨by simp [hperm.length_eq], fun i hi => hperm.mem_iff.2 ?_⟩
    exact List.mem_map_of_mem (List.mem_range.2 hi)

end Sys2Proof.Machine
end

section
/-! SUPPORT. A repetition whose turns change one field; messages at a peer port that is UP: what it sends, and what an access that arrives
does (R272 to R276, R443, R444). -/

open Sys2Proof

namespace Sys2Proof.Machine

/-- A round each turn of which only sets one field, only sets that field. -/
theorem State.each_sets {α β : Type} {set : State → β → State} {get : State → β} (hget : ∀ s, set s (get s) = s)
    (hset : ∀ s x y, set (set s x) y = set s y) {f : α → State → State} (hf : ∀ a s, ∃ x, f a s = set s x) (l : List α)
    (s : State) : ∃ x, State.each l f s = set s x := by
  refine List.foldlRecOn (motive := fun t => ∃ x, t = set s x) l _ ⟨get s, (hget s).symm⟩ fun t ht a _ => ?_
  obtain ⟨x, rfl⟩ := ht
  obtain ⟨y, hy⟩ := hf a (set s x)
  exact ⟨y, hy.trans (hset s x y)⟩

/-! ## A port that is UP -/

theorem State.linkUp_iff {s : State} {n : Nat} : s.linkUp n = true ↔ (s.peer n).link = .up := decide_eq_true_iff

section Up
variable {s : State} {n : Nat} (hup : s.linkUp n = true)
include hup

theorem State.peerSend_up (m : OutMsg) : s.peerSend n m = s.send m := if_pos hup

theorem State.peerRefuse_up (tid : Nat) : s.peerRefuse n tid = (s.send (.peerNack n tid 1)).raiseBlock 300 :=
  congrArg (State.raiseBlock · 300) (State.peerSend_up hup _)

theorem State.peerMalformed_up (tid : Nat) : s.peerMalformed n (some tid) = (s.send (.peerNack n tid 3)).raiseBlock 301 :=
  congrArg (State.raiseBlock · 301) (State.peerSend_up hup _)

/-- A port that is UP is not as after reset, so the table of ports has its entry whatever its form. -/
theorem State.owe_linkUp (req data : Nat) : (s.owe n req data).linkUp n = true := by
  have hlink := State.linkUp_iff.1 hup
  rw [State.linkUp_iff, State.owe, State.modPeer, State.peer, State.setPeers_peers, tabGet_tabSet_of_ne_default]
  · exact hlink
  · intro hinitial
    have hdown : (s.peer n).link = .down := congrArg Peer.link hinitial
    exact nomatch hlink.symm.trans hdown

end Up

/-! ## Accesses that arrive -/

theorem baseCode_of_not_idle {b : BaseState} (h : b ≠ .idle) : baseCode b ≠ 8 := by
  cases b with
  | idle => exact absurd rfl h
  | _ => decide

theorem State.blockState_of_awake {s : State} (hawake : s.awake = true) : s.blockState ≠ 8 := by
  simp only [State.awake, Bool.and_eq_true, Bool.not_eq_true', decide_eq_false_iff_not] at hawake
  unfold State.blockState
  split
  · decide
  split
  · decide
  split
  · decide
  split
  · decide
  · exact baseCode_of_not_idle hawake.1

section Arrive
variable {s t : State} {n : PortId} (hawake : s.awake = true)
include hawake

/-- An access behind which none waits takes effect at once. -/
theorem State.peerArrive_first {m : Instr} (hfirst : (s.peer n).buffered = []) (htake : s.peerTake m = (t, true)) :
    s.peerArrive n m = t := by
  simp [State.peerArrive, State.wokenBy, State.blockState_of_awake hawake, hawake, hfirst, htake]

/-- A signal waits behind no access. -/
theorem State.peerArrive_signal (tid : BitVec 10) (amount : BitVec 32) (counter : BitVec 16) :
    s.peerArrive n (.peerSig n tid amount counter) = s.takeSig n tid.toNat counter.toNat amount := by
  simp [State.peerArrive, State.wokenBy, State.blockState_of_awake hawake, hawake, State.peerTake]

end Arrive

/-- The pieces of a stretch of tier space are no command ports. -/
theorem all_false_of_allMem {l : List Piece} {p : Piece → Bool} (hp : ∀ x k, p (.mem x, k) = false) (hsome : l ≠ [])
    (hmem : allMem l = true) : l.all p = false := by
  obtain ⟨⟨site, k⟩, l, rfl⟩ := List.exists_cons_of_ne_nil hsome
  cases site with
  | mem x => simp [hp]
  | _ => simp [allMem] at hmem

section Take
variable {s t : State} {n : PortId} {tid len addr : Nat} (hopen : s.peerShut = false)
include hopen

section Outside
variable (hup : s.linkUp n = true) (hout : s.inWindow n addr len = false)
include hup hout

theorem State.takeWr_outside (data : List Byte) : s.takeWr n tid len addr data =
    (((s.send (.peerNack n tid 1)).raiseBlock 300).owe n 1 (flitsOf len), true) := by
  simp [State.takeWr, hopen, hout, State.peerRefuse_up hup]

theorem State.takeRd_outside : s.takeRd n tid len addr = (((s.send (.peerNack n tid 1)).raiseBlock 300).owe n 1 0, true) := by
  simp [State.takeRd, hopen, hout, State.peerRefuse_up hup]

end Outside

section Inside
variable (hin : s.inWindow n addr len = true) (hsome : s.locateAll (s.portOwner n) addr len ≠ [])
  (hmem : allMem (s.locateAll (s.portOwner n) addr len) = true) (hfree : s.touchesEntries addr len = false)
include hin hsome hmem hfree

theorem State.takeWr_inside {data : List Byte} (hready : s.waitsFor (s.locateAll (s.portOwner n) addr len) = false)
    (hwrite : s.writePieces none none (s.locateAll (s.portOwner n) addr len) data = (t, false)) :
    s.takeWr n tid len addr data = ((t.peerSend n (.peerAck n tid)).owe n 1 (flitsOf len), true) := by
  simp only [State.takeWr, hopen, hin, hmem, hfree, hready, hwrite, Bool.not_true, Bool.or_self, Bool.false_eq_true, if_false]
  exact if_neg (ne_true_of_eq_false (all_false_of_allMem (fun _ _ => rfl) hsome hmem))

theorem State.takeRd_inside {bs : List Byte} (hready : s.readWaits (s.locateAll (s.portOwner n) addr len) = false)
    (hread : s.readPieces none none (s.locateAll (s.portOwner n) addr len) = (bs, false, t)) :
    s.takeRd n tid len addr = ((t.peerSend n (.peerRdata n tid bs)).owe n 1 0, true) := by
  simp only [State.takeRd, hopen, hin, hmem, hfree, hready, hread, Bool.not_true, Bool.or_self, Bool.false_eq_true, if_false]
  exact if_neg (ne_true_of_eq_false (all_false_of_allMem (fun _ _ => rfl) hsome hmem))

end Inside

theorem State.takeSig_admitted {counter : Nat} (amount : BitVec 32) (hlo : fld (s.regN (peerBase n + 0x10)) 0 16 ≤ counter)
    (hhi : counter ≤ fld (s.regN (peerBase n + 0x10)) 16 16) : s.takeSig n tid counter amount =
      (s.owe n 1 0).sendSync (.add ((s.owe n 1 0).arriveBeat (portRegion n) (counterRegion counter)) counter amount (.peer n tid)) := by
  simp [State.takeSig, hopen, Nat.not_lt.2 hlo, Nat.not_lt.2 hhi]

end Take

/-! ## The commands of a partner's accesses -/

section Exec
variable {s t : State} {n : PortId} {tid : BitVec 10} {len : BitVec 32} {addr : BitVec 48} {data : List Byte}
  (hup : s.linkUp n = true)
include hup

theorem execPeerWr_malformed (hbad : peerShape len.toNat addr.toNat = false ∨ data.length ≠ len.toNat) :
    exec (.peerWr n tid len addr data) s =
      .next (((s.owe n 1 (flitsOf data.length)).send (.peerNack n tid.toNat 3)).raiseBlock 301) := by
  refine congrArg Host.Outcome.next ?_
  rw [if_neg (by simp [hup]), if_pos (by simpa using hbad), State.peerMalformed_up (State.owe_linkUp hup _ _)]

theorem execPeerRd_malformed (hbad : peerShape len.toNat addr.toNat = false) : exec (.peerRd n tid len addr) s =
    .next (((s.owe n 1 0).send (.peerNack n tid.toNat 3)).raiseBlock 301) := by
  refine congrArg Host.Outcome.next ?_
  rw [if_neg (by simp [hup]), if_pos (by simp [hbad]), State.peerMalformed_up (State.owe_linkUp hup _ _)]

variable (hawake : s.awake = true) (hfirst : (s.peer n).buffered = []) (hshape : peerShape len.toNat addr.toNat = true)
include hawake

theorem execPeerSig_up (amount : BitVec 32) (counter : BitVec 16) :
    exec (.peerSig n tid amount counter) s = .next (s.takeSig n tid.toNat counter.toNat amount) :=
  congrArg Host.Outcome.next ((if_neg (by simp [hup])).trans (State.peerArrive_signal hawake tid amount counter))

include hfirst hshape

theorem execPeerWr_taken (hlen : data.length = len.toNat) (htake : s.takeWr n tid.toNat len.toNat addr.toNat data = (t, true)) :
    exec (.peerWr n tid len addr data) s = .next t := by
  refine congrArg Host.Outcome.next ?_
  rw [if_neg (by simp [hup]), if_neg (by simp [hshape, hlen])]
  exact State.peerArrive_first hawake hfirst htake

theorem execPeerRd_taken (htake : s.takeRd n tid.toNat len.toNat addr.toNat = (t, true)) :
    exec (.peerRd n tid len addr) s = .next t := by
  refine congrArg Host.Outcome.next ?_
  rw [if_neg (by simp [hup]), if_neg (by simp [hshape])]
  exact State.peerArrive_first hawake hfirst htake

end Exec

end Sys2Proof.Machine
end

section
/-! PROOF. Accesses of a peer (R272 to R276): the malformed ones, those outside and those inside the import window, and signals. -/

open Sys2Proof

namespace Sys2Proof.Machine

/-- Settles O31: a malformed access is answered before it arrives (R273); any other is taken as its place decides (credits: R274). -/
theorem peerAccessesAct : Obligations.PeerAccessesAct := by
  unfold Obligations.PeerAccessesAct
  intro s n tid len addr data hup hawake l flits malformed
  refine ⟨execPeerWr_malformed hup, execPeerRd_malformed hup, fun hshape hlen hfirst hopen => ⟨fun hout => ?outside,
    fun hin hsome hmem hfree hready => ?inside⟩, fun amount counter hopen hlo hhi => ?signal⟩
  case outside =>
    exact ⟨execPeerWr_taken hup hawake hfirst hshape hlen (State.takeWr_outside hopen hup hout data),
      execPeerRd_taken hup hawake hfirst hshape (State.takeRd_outside hopen hup hout)⟩
  case inside =>
    exact ⟨fun t hwrite => execPeerWr_taken hup hawake hfirst hshape hlen
        (State.takeWr_inside hopen hin hsome hmem hfree hready hwrite),
      fun hquiet bs t hread => execPeerRd_taken hup hawake hfirst hshape
        (State.takeRd_inside hopen hin hsome hmem hfree hquiet hread)⟩
  case signal =>
    exact (execPeerSig_up hup hawake amount counter).trans (congrArg _ (State.takeSig_admitted hopen amount hlo hhi))

end Sys2Proof.Machine
end

section
/-! PROOF. Answers of a peer (R273, R274, R279, R280, R444): what ends an access, credits, malformed messages, and credits owed. -/

open Sys2Proof

namespace Sys2Proof.Machine

section Answer
variable {s : State} {n : PortId} {tid : BitVec 10} {a : PeerAccess} (hwait : s.awaiting n tid.toNat = some a)
include hwait

/-- A timeout ends the access whether or not the port is UP. -/
theorem execPeerAccessTimeout_due (hdue : a.sentAt.getD 0 + 2000 * fld (s.regN (peerBase n + 0x14)) 0 16 ≤ s.now) :
    exec (.peerAccessTimeout n tid) s = .next (((s.addField (peerBase n + 0x38) 12 12 1).modPeer n fun x =>
      { x with late := x.late ++ [tid.toNat] }).endAccess n a none) := by
  refine congrArg Host.Outcome.next ?_
  simp only [hwait, if_pos hdue]

variable (hup : s.linkUp n = true)
include hup

theorem execAck_awaited (hwrite : a.read = false) : exec (.ack n tid) s = .next (s.endAccess n a (some [])).peerWake := by
  refine congrArg Host.Outcome.next ?_
  simp only [hup, hwait, hwrite, Bool.not_true, Bool.false_eq_true, if_false]

theorem execRdata_awaited {len addr : Nat} (hread : a.read = true) (hmsg : a.msg = .peerRd n a.tid addr len) {k : BitVec 32}
    {data : List Byte} (hk : k.toNat = len) (hdata : data.length = len) :
    exec (.rdata n tid k data) s = .next (s.endAccess n a (some data)).peerWake := by
  refine congrArg Host.Outcome.next ?_
  simp only [hup, hwait, hread, hmsg, hk, hdata, decide_true, Bool.and_self, Bool.not_true, Bool.false_eq_true, if_false, if_true]

theorem execNack_awaited {cause : BitVec 8} (hlo : 1 ≤ cause.toNat) (hhi : cause.toNat ≤ 4) : exec (.nack n tid cause) s =
    .next ((s.addField (peerBase n + 0x38) 0 12 1).endAccess n a none).peerWake := by
  have hcause : ¬ (cause = 0 ∨ 4 < cause.toNat) := by
    rintro (rfl | hbig)
    · exact absurd hlo (by decide)
    · omega
  refine congrArg Host.Outcome.next ?_
  simp only [hup, hwait, hcause, Bool.not_true, Bool.false_eq_true, if_false]

end Answer

section Message
variable {s : State} {n : PortId} (hup : s.linkUp n = true)
include hup

theorem execCrd_up (req data : BitVec 16) : exec (.crd n req data) s = .next
    ((s.modPeer n fun x => { x with reqCred := x.reqCred + req.toNat, dataCred := x.dataCred + data.toNat }).pump n).peerWake :=
  congrArg Host.Outcome.next (if_neg (by simp [hup]))

theorem execPeerMessageMalformed_up (tid : Option (BitVec 10)) :
    exec (.peerMessageMalformed n tid) s = .next (s.peerMalformed n (tid.map BitVec.toNat)).peerWake :=
  congrArg Host.Outcome.next (if_pos hup)

theorem execCreditReturnDue_owed (howed : 0 < (s.peer n).owedReq ∨ 0 < (s.peer n).owedData) :
    exec (.creditReturnDue n) s = .next ((s.modPeer n fun y => { y with owedReq := 0, owedData := 0 }).send
      (.peerCrd n (s.peer n).owedReq (s.peer n).owedData)) :=
  congrArg Host.Outcome.next (if_pos (by simp [hup, howed]))

end Message

/-- Settles O32: the four ends of an access that awaits its answer, then the messages that name no access. -/
theorem peerAnswersAct : Obligations.PeerAnswersAct := by
  unfold Obligations.PeerAnswersAct
  intro s n tid hup
  refine ⟨fun a hwait => ⟨execAck_awaited hwait hup, fun len addr hread hmsg k data => execRdata_awaited hwait hup hread hmsg,
    fun cause => execNack_awaited hwait hup, execPeerAccessTimeout_due hwait⟩, execCrd_up hup, ?named,
    execPeerMessageMalformed_up hup none, execCreditReturnDue_owed hup⟩
  case named =>
    rw [execPeerMessageMalformed_up hup]
    exact congrArg (fun t : State => Host.Outcome.next t.peerWake) (State.peerMalformed_up hup tid.toNat)

end Sys2Proof.Machine
end

section
/-! PROOF. Links of the peer ports, and pace (R277, R278, R281, R282). -/

open Sys2Proof

namespace Sys2Proof.Machine

/-! ## Links -/

section Link
variable {s : State} {n : PortId}

theorem execPeerLinkUp_enabled (hlow : bitOf s.pins.linkUp.toNat n = false) (hen : s.peerEn n = true) (hdown : (s.peer n).link = .down) :
    exec (.peerLinkUp n) s =
      .next ((s.modPins fun p => { p with linkUp := p.linkUp ||| BitVec.ofNat 4 (2 ^ n.val) }).peerInitiate n) :=
  congrArg Host.Outcome.next (if_pos (by simp [hlow, hen, hdown]))

theorem execPeerLinkDown_up (hup : (s.peer n).link = .up) : exec (.peerLinkDown n) s = .next
    (((s.modPins fun p => { p with linkUp := p.linkUp &&& ~~~(BitVec.ofNat 4 (2 ^ n.val)) }).loseLink n).raiseBlock 302) :=
  congrArg Host.Outcome.next (if_pos hup)

section Init
variable (hinit : (s.peer n).link = .init) {id : BitVec 32} (req data : BitVec 16)
include hinit

theorem execInit_version2 (hmajor : fld id.toNat 8 8 = 2) : exec (.init n id req data) s = .next ((s.modPeer n fun x =>
    { x with link := .up, since := s.now, major := 2, reqCred := req.toNat, dataCred := data.toNat, paceAt := s.now,
             paceBase := s.holdCounts, late := [] }).pump n) := by
  refine congrArg Host.Outcome.next ?_
  simp only [hinit, hmajor, if_true]

theorem execInit_otherVersion (hmajor : fld id.toNat 8 8 ≠ 2) : exec (.init n id req data) s = .next
    ((s.modPeer n fun x => { x with link := .failed, since := s.now, major := fld id.toNat 8 8 }).raiseBlock 301) := by
  refine congrArg Host.Outcome.next ?_
  simp only [hinit, hmajor, if_false]

theorem execPeerInitTimeout_due (hdue : (s.peer n).since + 2000000 ≤ s.now) : exec (.peerInitTimeout n) s =
    .next ((s.modPeer n fun x => { x with link := .failed, since := s.now }).raiseBlock 301) :=
  congrArg Host.Outcome.next (if_pos (by simp [hinit, hdue]))

end Init

end Link

/-! ## Pace notices -/

/-- The port `x` once it has taken a notice in beat `now` (R282). -/
def Peer.heed (now f reason period seq : Nat) (x : Peer) : Peer :=
  { x with rx := ⟨f, period, reason, seq⟩, inForce := decide (1 ≤ f), rxBeat := now }

/-- A message of a peer changes no more than the boot state of a block that is not in IDLE. -/
theorem State.peerWake_running {s : State} (hrun : s.boot.base ≠ .idle) : ∃ b, s.peerWake = s.setBoot b := by
  unfold State.peerWake State.wakeCause
  dsimp only
  rw [if_neg hrun]
  split
  · exact ⟨_, rfl⟩
  split
  · split
    · exact ⟨_, rfl⟩
    · split <;> exact ⟨_, rfl⟩
  · exact ⟨_, rfl⟩

/-- The jobs of the port's partition hear a notice that asks for less (R282). -/
def State.heard (s : State) (p : Nat) (f : BitVec 16) : State :=
  if f = 0 then s
  else State.each ((List.range 16).filter fun j => (s.job p j).state = .running)
    (fun j u => u.modJob p j fun x => { x with loud := true }) s

/-- It changes no more than the jobs. -/
theorem State.heard_jobs (s : State) (p : Nat) (f : BitVec 16) : ∃ js, s.heard p f = s.setJobs js := by
  unfold State.heard
  split
  · exact ⟨_, rfl⟩
  · exact State.each_sets (set := State.setJobs) (get := State.jobs) (fun _ => rfl) (fun _ _ _ => rfl) (fun _ _ => ⟨_, rfl⟩) _ s

section Notice
variable {s : State} {n : PortId}

theorem execPace_admitted {f : BitVec 16} {reason period : BitVec 8} (seq : BitVec 32) (hup : s.linkUp n = true) (hf : f.toNat ≤ 1024)
    (hreason : reason.toNat ≤ 12) (hlo : 1 ≤ period.toNat) (hhi : period.toNat ≤ 64) : exec (.pace n f reason period seq) s =
      .next ((s.modPeer n (Peer.heed s.now f.toNat reason.toNat period.toNat seq.toNat)).heard (s.portOwner n) f).peerWake := by
  have hgood : ¬ (1024 < f.toNat ∨ 12 < reason.toNat ∨ period = 0 ∨ 64 < period.toNat) := by
    rintro (hbig | hbig | rfl | hbig)
    · omega
    · omega
    · exact absurd hlo (by decide)
    · omega
  refine congrArg Host.Outcome.next ?_
  rw [if_neg (by simp [hup]), if_neg hgood]
  rfl

/-- A notice changes its port; besides it marks jobs that hear it, and it may be a wake cause. -/
theorem execPace_changes {f : BitVec 16} {reason period : BitVec 8} (seq : BitVec 32) (hup : s.linkUp n = true)
    (hrun : s.boot.base ≠ .idle) (hf : f.toNat ≤ 1024) (hreason : reason.toNat ≤ 12) (hlo : 1 ≤ period.toNat)
    (hhi : period.toNat ≤ 64) : ∃ js b, exec (.pace n f reason period seq) s =
      .next (((s.modPeer n (Peer.heed s.now f.toNat reason.toNat period.toNat seq.toNat)).setJobs js).setBoot b) := by
  rw [execPace_admitted seq hup hf hreason hlo hhi]
  generalize hheed : s.modPeer n (Peer.heed s.now f.toNat reason.toNat period.toNat seq.toNat) = t
  obtain ⟨js, hjobs⟩ := t.heard_jobs (s.portOwner n) f
  have hrun' : (t.setJobs js).boot.base ≠ .idle := hheed ▸ hrun
  obtain ⟨b, hboot⟩ := State.peerWake_running hrun'
  exact ⟨js, b, congrArg Host.Outcome.next ((congrArg State.peerWake hjobs).trans hboot)⟩

theorem execPaceExpire_due (hforce : (s.peer n).inForce = true) (hdue : (s.peer n).rxBeat + 4000 * (s.peer n).rx.period ≤ s.now) :
    exec (.paceExpire n) s = .next (s.modPeer n fun y => { y with inForce := false }) :=
  congrArg Host.Outcome.next (if_pos (by simp [hforce, hdue]))

end Notice

/-! ## The end of a pace period -/

section Period
variable {s : State} {n : PortId} (hup : s.linkUp n = true) (hdue : (s.peer n).paceAt + 2000 * pacePeriod s n ≤ s.now)
include hup hdue

theorem execPacePeriodEnd_silent (hnow : (s.partPace n (s.now - (s.peer n).paceAt)).1 = 0) (hlast : (s.peer n).tx.f = 0) :
    exec (.pacePeriodEnd n) s = .next (s.modPeer n fun y => { y with paceAt := s.now, paceBase := s.holdCounts }) := by
  refine congrArg Host.Outcome.next ?_
  rw [if_pos (by simp [hup, hdue]), if_neg (by omega)]

theorem execPacePeriodEnd_sends (hsend : 1 ≤ (s.partPace n (s.now - (s.peer n).paceAt)).1 ∨ 1 ≤ (s.peer n).tx.f) :
    let p := s.partPace n (s.now - (s.peer n).paceAt)
    let seq := ((s.peer n).tx.seq + 1) % 2 ^ 32
    exec (.pacePeriodEnd n) s = .next
      (((s.modPeer n fun y => { y with paceAt := s.now, paceBase := s.holdCounts }).modPeer n fun y =>
        { y with tx := ⟨p.1, pacePeriod s n, p.2, seq⟩ }).send (.peerPace n p.1 p.2 (pacePeriod s n) seq)) := by
  refine congrArg Host.Outcome.next ?_
  rw [if_pos (by simp [hup, hdue]), if_pos hsend]

end Period

theorem State.peersWf_of_tablesWf {s : State} (hwf : s.tablesWf = true) : tabWf (fun _ => Peer.initial) s.peers = true := by
  simp only [State.tablesWf, Bool.and_eq_true] at hwf
  exact hwf.2

/-- Settles O33: each change of a link under its condition (credits: R274), then a notice taken, run out and sent. -/
theorem peerLinksAndPace : Obligations.PeerLinksAndPace := by
  unfold Obligations.PeerLinksAndPace
  refine ⟨fun s n => ⟨execPeerLinkUp_enabled, execPeerLinkDown_up, fun hinit id req data =>
    ⟨execInit_version2 hinit req data, execInit_otherVersion hinit req data, execPeerInitTimeout_due hinit⟩⟩,
    fun s n => ⟨fun f reason period seq hup hrun hf hreason hlo hhi => ?taken, execPaceExpire_due,
      fun hup hdue => ⟨execPacePeriodEnd_silent hup hdue, execPacePeriodEnd_sends hup hdue⟩⟩⟩
  case taken =>
    obtain ⟨js, b, hpace⟩ := execPace_changes seq hup hrun hf hreason hlo hhi
    exact ⟨_, hpace, fun hwf => tabGet_tabSet_self _ n.val _ _ (State.peersWf_of_tablesWf hwf), rfl, rfl, rfl⟩

end Sys2Proof.Machine
end

section
/-! PROOF. Loop samples, their outputs, open loops, preparations of hints and the canaries (R284, R342, R343, R346, R354, R367, R369,
R370). -/

open Sys2Proof

namespace Sys2Proof.Machine

/-! ## Holds decided again within a beat -/

/-- What an application beat promises of a core besides its holds. -/
def Core.outputView (x : Core) : CoreRegs × BitVec 64 × BitVec 4 × LoopOut := (x.regs, x.seq.beat, x.seq.slots, x.power.loops)

/-- `t` is `s` with other entries of the cores, none of which shows in the view above. -/
structure SameOutputs (s t : State) : Prop where
  others : t = s.setCores t.cores
  wf : t.coresWf = true
  view : ∀ c, (t.core c).outputView = (s.core c).outputView

theorem SameOutputs.refl {s : State} (hwf : s.coresWf = true) : SameOutputs s s := ⟨rfl, hwf, fun _ => rfl⟩

theorem SameOutputs.trans {s t u : State} (h : SameOutputs s t) (g : SameOutputs t u) : SameOutputs s u where
  others := calc
    u = t.setCores u.cores := g.others
    _ = (s.setCores t.cores).setCores u.cores := congrArg (State.setCores · u.cores) h.others
  wf := g.wf
  view c := (g.view c).trans (h.view c)

theorem SameOutputs.frame {s t : State} (h : SameOutputs s t) :
    t.power = s.power ∧ t.mem = s.mem ∧ t.regs = s.regs ∧ t.faults = s.faults := by
  rw [h.others]
  exact ⟨rfl, rfl, rfl, rfl⟩

theorem SameOutputs.modCore {s t : State} (h : SameOutputs s t) (c : Nat) (f : Core → Core)
    (hf : ∀ x, (f x).outputView = x.outputView) : SameOutputs s (t.modCore c f) :=
  h.trans ⟨rfl, State.modCore_coresWf c f h.wf, State.core_modCore_keeps Core.outputView hf h.wf⟩

theorem SameOutputs.each {s t : State} {α : Type} {f : α → State → State}
    (hf : ∀ a u, u.coresWf = true → SameOutputs u (f a u)) (h : SameOutputs s t) (l : List α) : SameOutputs s (State.each l f t) :=
  List.foldlRecOn (motive := SameOutputs s) l _ h fun u hu a _ => hu.trans (hf a u hu.wf)

theorem State.judgeHold_sameOutputs {s : State} (c : Nat) (hwf : s.coresWf = true) : SameOutputs s (s.judgeHold c) := by
  have hadvanced : SameOutputs s (s.modCore c (Core.advance (s.allowance c))) :=
    (SameOutputs.refl hwf).modCore c _ fun _ => rfl
  rw [State.judgeHold_eq]
  split
  · exact hadvanced.modCore c _ fun _ => rfl
  · exact hadvanced

theorem State.shareHold_sameOutputs {s : State} (c : Nat) (hwf : s.coresWf = true) : SameOutputs s (s.shareHold c) := by
  unfold State.shareHold
  dsimp only
  split
  · exact (SameOutputs.refl hwf).modCore c _ fun _ => rfl
  · split
    · exact (SameOutputs.refl hwf).modCore c _ fun _ => rfl
    · exact SameOutputs.refl hwf

theorem State.rehold_sameOutputs {s : State} (hwf : s.coresWf = true) : SameOutputs s s.rehold :=
  .each (fun c _ => State.shareHold_sameOutputs c) (.each (fun c _ => State.judgeHold_sameOutputs c) (.refl hwf) _) _

/-! ## The sample and the application beat -/

theorem execLoopSample_due {s : State} (hbeat : s.now % 2000 = 0) (hnow : s.now ≠ 0) (hfirst : s.power.sampled ≠ s.now + 1) :
    let t := ((State.each (List.range 16) (fun r u => (u.closeIntervals r).judgeVpil r) s).addEnergies).powerSample
    let u := State.each (List.range 256) (fun c v => v.learn c) t
    let w := (((u.computeOutputs).capStats).serviceSample.paceSample).startInterval
    exec .loopSample s = .next (w.setPower { w.power with sampled := s.now + 1 }) :=
  congrArg Host.Outcome.next (if_neg (by simp [hbeat, hnow, hfirst]))

/-- Power state `p` of a core in an application beat `now` (R343): a ceiling after a hint miss counts down from the next one on. -/
def CorePower.applyOutputs (isOpen : Bool) (now : Nat) (p : CorePower) : CorePower :=
  let q := if isOpen then p else { p with loops := p.next }
  if 0 < q.missLeft && decide (q.missAt < now) then { q with missLeft := q.missLeft - 1 } else q

theorem CorePower.applyOutputs_loops (isOpen : Bool) (now : Nat) (p : CorePower) :
    (p.applyOutputs isOpen now).loops = if isOpen then p.loops else p.next := by
  unfold CorePower.applyOutputs
  dsimp only
  rw [apply_ite CorePower.loops, ite_self, apply_ite CorePower.loops]

/-- The outputs of every core come into force, but in a region whose loop is open. -/
def State.outputsApplied (s : State) : State :=
  State.each (List.range 256) (fun c u => u.modPower c (CorePower.applyOutputs (s.loopOpen (c / 16)) s.now)) s

section Apply
variable {s : State}

theorem State.outputsApplied_eq (s : State) : ∃ cs, s.outputsApplied = s.setCores cs :=
  State.each_sets (set := State.setCores) (get := State.cores) (fun _ => rfl) (fun _ _ _ => rfl) (fun _ _ => ⟨_, rfl⟩) _ s

theorem State.modPower_touches {t : State} (c : Nat) (f : CorePower → CorePower) (hwf : t.coresWf = true) :
    TouchesCore c t (t.modPower c f) := .putCore c hwf _

theorem State.outputsApplied_coresWf (hwf : s.coresWf = true) : s.outputsApplied.coresWf = true :=
  (State.each_touches (core := id) (fun c _ => State.modPower_touches c _) hwf (List.range 256)).1

theorem State.outputsApplied_core (hwf : s.coresWf = true) (c : CoreId) : (s.outputsApplied.core c).outputView =
    ((s.core c).regs, (s.core c).seq.beat, (s.core c).seq.slots,
      if s.loopOpen (c / 16) then (s.core c).power.loops else (s.core c).power.next) := by
  obtain ⟨t, htwf, hcore, hturn⟩ := State.each_turn (core := id)
    (f := fun c u => u.modPower c (CorePower.applyOutputs (s.loopOpen (c / 16)) s.now)) (fun c _ => State.modPower_touches c _) hwf
    (by simpa using List.nodup_range) (List.mem_range.2 c.isLt)
  have happly := hturn.trans (State.core_modCore_self c.val _ htwf)
  rw [id] at happly hcore
  rw [State.outputsApplied, happly, hcore, ← CorePower.applyOutputs_loops _ s.now]
  rfl

/-- A ceiling whose condition ended in an earlier beat is lifted (R346). -/
def RegionLoop.uncap (now : Nat) (x : RegionLoop) : RegionLoop :=
  match x.capEnd with
  | some e => if e + 64 < now then { x with capped := [], capEnd := none } else x
  | none => x

def State.ceilingsLifted (t : State) (now : Nat) : State := State.each (List.range 16) (fun r u => u.modLoop r (RegionLoop.uncap now)) t

theorem State.ceilingsLifted_eq (t : State) (now : Nat) : ∃ ls, t.ceilingsLifted now = t.setLoops ls :=
  State.each_sets (set := State.setLoops) (get := State.loops) (fun _ => rfl) (fun _ _ _ => rfl) (fun _ _ => ⟨_, rfl⟩) _ t

theorem execLoopApply_rehold (hbeat : s.now % 2000 = 64) (hfirst : s.power.applied ≠ s.now + 1) :
    ∃ v, exec .loopApply s = .next ((s.outputsApplied.ceilingsLifted s.now).setPower v).rehold ∧ v.applied = s.now + 1 :=
  ⟨_, congrArg Host.Outcome.next (if_neg (by simp [hbeat, hfirst])), rfl⟩

/-- The outputs are applied; the ceilings that are lifted and the holds that are decided again after it leave them as they are. -/
theorem execLoopApply_due (hwf : s.coresWf = true) (hbeat : s.now % 2000 = 64) (hfirst : s.power.applied ≠ s.now + 1) :
    ∃ t, exec .loopApply s = .next t ∧ t.power.applied = s.now + 1 ∧ t.mem = s.mem ∧ t.regs = s.regs ∧ t.faults = s.faults ∧
      ∀ c : CoreId, (t.core c).outputView = ((s.core c).regs, (s.core c).seq.beat, (s.core c).seq.slots,
        if s.loopOpen (c / 16) then (s.core c).power.loops else (s.core c).power.next) := by
  have hwf' := State.outputsApplied_coresWf hwf
  have hcore := State.outputsApplied_core hwf
  obtain ⟨v, hexec, happlied⟩ := execLoopApply_rehold hbeat hfirst
  obtain ⟨ls, hloops⟩ := s.outputsApplied.ceilingsLifted_eq s.now
  obtain ⟨cs, hcores⟩ := s.outputsApplied_eq
  rw [hloops, hcores] at hexec
  rw [hcores] at hcore hwf'
  have hsame := State.rehold_sameOutputs (s := ((s.setCores cs).setLoops ls).setPower v) hwf'
  obtain ⟨hpower, hmem, hregs, hfaults⟩ := hsame.frame
  exact ⟨_, hexec, (congrArg PowerManager.applied hpower).trans happlied, hmem, hregs, hfaults, fun c => (hsame.view c).trans (hcore c)⟩

end Apply

/-! ## Open loops, preparations, canaries -/

section Event
variable {s : State}

theorem execLoopOpenExpired_due {r : RegionId} {b : Nat} (hopen : (s.loop r).openSince = some b) (hdue : b + 2000000 ≤ s.now) :
    let v := s.regN (lpeReg r 0)
    exec (.loopOpenExpired r) s = .next (
      ((s.putReg (lpeReg r 0) (setFld (setFld v 31 1 0) 8 8 (satInc (fld v 8 8) 0xFF))).modLoop r fun x =>
        { x with openSince := none }).raiseRegion 317 r none) := by
  refine congrArg Host.Outcome.next ?_
  simp only [hopen, if_pos hdue]

/-- A ring that is not slow, or that of a core known to have aged, reports nothing new (R370). -/
theorem agesNow_eq_false {rosc : BitVec 8} {aged : Bool} (h : 95 ≤ rosc.toNat ∨ aged = true) :
    (decide (rosc.toNat < 95) && !aged) = false := by
  rcases h with hfast | rfl
  · simp [Nat.not_lt.2 hfast]
  · simp

section Margin
variable {c : CoreId} (hbeat : s.now % 200000000 = 781250 * c.val) (hon : s.powered c = true) {rosc : BitVec 8}
  (hfresh : 95 ≤ rosc.toNat ∨ (s.core c).power.aged = true)
include hbeat hon hfresh

theorem execMarginTrim_pass (below : Bool) :
    let run := if below then (s.core c).power.passRun + 1 else 0
    let dn := fld (s.regN (lpeReg (c.val / 16) 0x14)) 16 8
    exec (.marginTrim c true below rosc) s = .next (s.modPower c fun q =>
      { q with rosc := rosc.toNat, aged := q.aged || decide (rosc.toNat < 95),
               vf := if dn ≤ run && below then q.vf - 1 else q.vf, passRun := if dn ≤ run then 0 else run }) := by
  have hold := agesNow_eq_false hfresh
  refine congrArg Host.Outcome.next ?_
  rw [if_neg (by simp [hbeat, hon])]
  simp [hold]

theorem execMarginTrim_fail (below : Bool) (hroom : (s.core c).power.vf < s.floorTop c) :
    let t := s.modPower c fun q =>
      { q with rosc := rosc.toNat, aged := q.aged || decide (rosc.toNat < 95), vf := min (s.floorTop c) (q.vf + 1), passRun := 0 }
    exec (.marginTrim c false below rosc) s = .next (t.raiseCore 318 c (t.coreJob c)) := by
  have hold := agesNow_eq_false hfresh
  refine congrArg Host.Outcome.next ?_
  rw [if_neg (by simp [hbeat, hon])]
  simp [hold, Nat.not_le.2 hroom]

end Margin

end Event

/-- Settles O44: the sample, the application beat, then each loop event under its condition (source 317 at the region: log entry 43). -/
theorem loopsSampleAndApply : Obligations.LoopsSampleAndApply := by
  unfold Obligations.LoopsSampleAndApply
  refine ⟨fun s => ⟨execLoopSample_due, fun hwf hbeat hfirst => ?applied⟩,
    fun s => ⟨fun r b => execLoopOpenExpired_due, fun c p => ?hints, fun c below rosc hbeat hon => ?margin⟩⟩
  case applied =>
    obtain ⟨t, hexec, happlied, hmem, hregs, hfaults, hview⟩ := execLoopApply_due hwf hbeat hfirst
    simp only [Core.outputView, Prod.mk.injEq] at hview
    exact ⟨t, hexec, happlied, hmem, hregs, hfaults, hview⟩
  case hints => exact ⟨fun hdue => congrArg _ (if_pos hdue), fun hgone => congrArg _ (if_pos hgone)⟩
  case margin =>
    exact fun hfresh => ⟨execMarginTrim_pass hbeat hon hfresh below, execMarginTrim_fail hbeat hon hfresh below⟩

end Sys2Proof.Machine
end

section
/-! PROOF. Ties close (R304, R305), transits end (R301, R302), the inrush arbiter grants or forces a power-up (R311, R312), and ramps end
or time out (R313, R347, R365). -/

open Sys2Proof

namespace Sys2Proof.Machine

/-! ## Ties -/

section Tie
variable {s : State} {c d : CoreId} (htying : (s.core c).power.tying = some d)
include htying

/-- A carrier that no longer qualifies is replaced by a new search (log entry 40). -/
theorem execTieClose_replaced (h : s.pstate d ≠ .on ∨ (s.vr d).state ≠ .run) : exec (.tieClose c) s = .next (
    (s.modPower c fun q => { q with tying := none }).searchCarrier c (!(s.core c).power.fell && s.railNear c 100000)) := by
  have hgone : (!(decide (s.pstate d = .on) && decide ((s.vr d).state = .run))) = true := by
    simpa [Decidable.imp_iff_not_or] using h
  refine congrArg Host.Outcome.next ?_
  simp only [htying, hgone, if_true]

variable (hon : s.pstate d = .on) (hrun : (s.vr d).state = .run)
include hon hrun

/-- A rail that fell is joined as it is, and the joined rail soft-starts (R305). -/
theorem execTieClose_fell (hfell : (s.core c).power.fell = true) (hramp : (s.core c).power.state = .ramping) :
    exec (.tieClose c) s = .next ((s.joinRails c d).softStart d (s.setUV d) false).rehold := by
  refine congrArg Host.Outcome.next ?_
  simp only [htying, hon, hrun, hfell, hramp, decide_true, Bool.and_self, Bool.not_true, Bool.false_eq_true, if_false, if_true]

theorem execTieClose_near (hfell : (s.core c).power.fell = false) (hlive : (s.core c).power.state = .on)
    (hnear : natDist (s.vr c).sensed (s.vr d).sensed ≤ 10000) (hact : (s.joinRails c d).requestsAct = false) :
    exec (.tieClose c) s = .next (s.joinRails c d).rehold := by
  refine congrArg Host.Outcome.next ?_
  simp only [htying, hon, hrun, hfell, hlive, hnear, hact, decide_true, Bool.and_self, Bool.not_true, Bool.false_eq_true, if_false, if_true]

end Tie

/-! ## Transits -/

/-- Core `c` has reached the goal of its transit (R301). -/
def State.transited (s : State) (c : Nat) : State :=
  let u := (s.vrOff c).modPower c fun q => { q with state := q.goal, brownOut := false }
  if (s.core c).power.goal = .off then u.loseStore c else u

theorem execRetainComplete_transit {s : State} {c : CoreId} (h : (s.core c).power.state = .transit) :
    let t := s.transited c
    let q := t.applyRequest c t.upOpen
    exec (.retainComplete c) s =
      .next (if t.requestsAct then (if q.2 then q.1.pendUp (c.val / 16) [c.val % 16] else q.1) else t) :=
  congrArg Host.Outcome.next (if_pos h)

/-! ## The inrush arbiter -/

/-- A pending power-up of region `q` goes before that of region `r` (R311): it can be granted, and has waited longer. -/
def State.goesBefore (s : State) (r q : Nat) : Bool :=
  match (s.loop q).pendingUp, (s.loop r).pendingUp with
  | some (b, _), some (a, _) => s.grantable q && (decide (b < a) || (decide (b = a) && decide (q < r)))
  | _, _ => false

section Inrush
variable {s : State} {r : RegionId} (hservice : s.serviceOn r = true ∨ s.boot.step = .powerUp)
include hservice

theorem execPowerUpGrant_first (hfirst : (regionNeighbours r).any (s.goesBefore r) = false) (hgrant : s.grantable r = true) :
    exec (.powerUpGrant r) s = .next (s.grant r) := by
  refine congrArg Host.Outcome.next (if_pos ?_)
  show (s.grantable r && !(regionNeighbours r).any (s.goesBefore r) && (s.serviceOn r || decide (s.boot.step = .powerUp))) = true
  simpa [hfirst, hgrant] using hservice

theorem execInrushForce_due {b : Nat} {m : BitVec 16} (hpending : (s.loop r).pendingUp = some (b, m))
    (hidle : (s.loop r).ramping = none) (hdue : b + 400000 ≤ s.now) :
    let t := (s.grant r).modLoop r fun x => { x with capped := r.val :: (regionNeighbours r).filter s.atPeak, capEnd := none }
    exec (.inrushForce r) s = .next (t.putReg 0x4010C8 (satInc (t.regN 0x4010C8) 0xFFFFFFFF)).rehold := by
  have hopen : (decide (b + 400000 ≤ s.now) && (s.serviceOn r || decide (s.boot.step = .powerUp))) = true := by
    simpa [hdue] using hservice
  refine congrArg Host.Outcome.next ?_
  simp only [hpending, hidle, hopen, if_true]

end Inrush

/-! ## Ramps -/

/-- A core of a power-up, 100 µs after its grant (R313, R337). -/
theorem execRampTimeout_due {s : State} {c : CoreId} {b : Nat} {m : BitVec 16} (hv : c.val < 272)
    (hloop : (s.loop (c.val / 16)).ramping = some (b, m)) (hramp : s.pstate c = .ramping) (hin : bitOf m.toNat (c.val % 16) = true)
    (hdue : b + 200000 ≤ s.now) :
    exec (.rampTimeout ⟨c.val, hv⟩) s = .next (if s.railNear c 10000 then s else s.failVr c false) := by
  refine congrArg Host.Outcome.next ?_
  simp only [vrRegion, c.isLt, if_true, hloop, hramp, hin, hdue, decide_true, Bool.and_self, Bool.true_and]
  cases s.railNear c 10000 <;> rfl

theorem State.feeder_own {s : State} {c : Nat} (hown : (s.core c).power.partner = none) : s.feeder c = c := by
  rw [State.feeder, hown]
  split
  next h => cases h
  next => rfl

/-- Power state `p` of a core whose ramp has ended in `st`: the sluice starts afresh (R347). -/
def CorePower.rampedTo (st : PowerState) (p : CorePower) : CorePower := { p with state := st, acc := 0, adv := 0, brownOut := false }

/-- The ramp of core `c` ends while no request acts. -/
def State.goLive (s : State) (c : Nat) : State :=
  if s.pstate c = .ramping then (s.modPower c (CorePower.rampedTo (s.rampedState c))).forget c else s

theorem State.goLive_frame (s : State) (c : Nat) :
    (s.goLive c).mem = s.mem ∧ (s.goLive c).regs = s.regs ∧ (s.goLive c).requestsAct = s.requestsAct := by
  unfold State.goLive
  split <;> exact ⟨rfl, rfl, rfl⟩

theorem State.goLive_touches {s : State} (c : Nat) (hwf : s.coresWf = true) : TouchesCore c s (s.goLive c) := by
  unfold State.goLive
  split
  · exact (State.modPower_touches c _ hwf).congr rfl
  · exact .refl c hwf

theorem State.goLive_power {s : State} {c : Nat} (hwf : s.coresWf = true) (hramp : s.pstate c = .ramping)
    (hown : (s.core c).power.partner = none) : ((s.goLive c).core c).power = (s.core c).power.rampedTo .on := by
  have hstate : s.rampedState c = .on := by rw [State.rampedState, hown]
  rw [State.goLive, if_pos hramp, hstate]
  exact congrArg Core.power (State.core_modCore_self c (fun x => { x with power := x.power.rampedTo .on }) hwf)

theorem State.endRamp_quiet {s : State} (hact : s.requestsAct = false) (c : Nat) : s.endRamp c = s.goLive c := by
  have hact' : ((s.modPower c (CorePower.rampedTo (s.rampedState c))).forget c).requestsAct = false := hact
  unfold State.endRamp State.goLive
  split
  · exact if_neg (ne_true_of_eq_false hact')
  · rfl

theorem State.endRamps_quiet : ∀ (l : List Nat) {s : State}, s.requestsAct = false →
    State.each l (fun c u => u.endRamp c) s = State.each l (fun c u => u.goLive c) s
  | [], _, _ => rfl
  | c :: l, s, hact =>
    (congrArg (State.each l fun c u => u.endRamp c) (State.endRamp_quiet hact c)).trans
      (State.endRamps_quiet l ((s.goLive_frame c).2.2.trans hact))

theorem State.ite_modBoot (s : State) (p : Prop) [Decidable p] (f : Boot → Boot) :
    (if p then s.modBoot f else s) = s.modBoot fun b => if p then f b else b := by
  split <;> rfl

/-- What ends with the last power-up is a matter of the boot state alone. -/
theorem State.afterUps_eq (s : State) : ∃ b, s.afterUps = s.setBoot b := by
  unfold State.afterUps
  split
  · exact ⟨s.boot, rfl⟩
  · simp only [State.ite_modBoot]
    exact ⟨_, rfl⟩

/-- Cores of region `r` that ramp to ON with the power-up of the cores in `m`. -/
def State.riseCores (s : State) (r : Nat) (m : BitVec 16) : List Nat :=
  ((bitsOf 16 m.toNat).map fun j => 16 * r + j).filter fun c => s.pstate c = .ramping && (s.core c).power.goal = .on

theorem mem_bitsOf {n v j : Nat} : j ∈ bitsOf n v ↔ j < n ∧ bitOf v j = true := by simp [bitsOf]

theorem State.mem_riseCores {s : State} {r c : Nat} {m : BitVec 16} : c ∈ s.riseCores r m ↔
    (∃ j, (j < 16 ∧ bitOf m.toNat j = true) ∧ 16 * r + j = c) ∧ s.pstate c = .ramping ∧ (s.core c).power.goal = .on := by
  simp [State.riseCores, mem_bitsOf]

theorem State.riseCores_nodup (s : State) (r : Nat) (m : BitVec 16) : (s.riseCores r m).Nodup :=
  ((List.nodup_range.filter _).map fun i j (h : 16 * r + i = 16 * r + j) => by omega).filter _

section RampEnd
variable {s : State} {r : RegionId} {b : Nat} {m : BitVec 16}

theorem execRampEnd_untied (hbeat : s.now % 2000 = 0) (hramp : (s.loop r).ramping = some (b, m))
    (hown : ∀ c ∈ coresOf r, (s.core c).power.partner = none ∧ (s.core c).power.goal ≠ .tied)
    (hup : ∀ c ∈ s.riseCores r m, s.rampedUp c = true)
    (hservice : (s.vr (256 + r)).state = .softStart → s.railNear (256 + r) 10000 = true) :
    exec (.rampEnd r) s = .next (((State.each (s.riseCores r m) (fun c u => u.endRamp c) s).modLoop r fun x =>
      x.stopRamp (State.each (s.riseCores r m) (fun c u => u.endRamp c) s).now).afterUps) := by
  refine congrArg Host.Outcome.next ((if_neg (by simp [hbeat])).trans ?_)
  have hlate : ((coresOf r).filter fun c => decide ((s.core c).power.state = .ramping) && decide ((s.core c).power.goal = .tied) &&
      (s.core c).power.tying.isNone && s.rampedUp c) = [] :=
    List.filter_eq_nil_iff.2 fun c hc => by simp [(hown c hc).2]
  have hpairs : (((bitsOf 16 m.toNat).map fun j => 16 * r.val + j).filterMap fun c => (s.core c).power.partner.map (·.val)) = [] :=
    List.filterMap_eq_nil_iff.2 fun c hc => by
      obtain ⟨j, hj, rfl⟩ := List.mem_map.1 hc
      rw [(hown _ (List.mem_map_of_mem (List.mem_range.2 (mem_bitsOf.1 hj).1))).1]
      rfl
  have hall : (s.riseCores r m).all s.rampedUp = true := List.all_eq_true.2 hup
  have hready : (!(s.riseCores r m).all s.rampedUp || (decide ((s.vr (256 + r.val)).state = .softStart) && !s.railNear (256 + r.val) 10000))
      = false := by
    simpa [hall] using hservice
  have hmine : (((bitsOf 16 m.toNat).map fun j => 16 * r.val + j).filter fun c => decide (s.pstate c = .ramping) &&
      decide ((s.core c).power.goal = .on)) = s.riseCores r m := rfl
  have hnone : State.each ([] : List Nat) (fun c u => u.endRamp c) s = s := rfl
  simp only [hlate, hnone, hramp, hpairs, List.append_nil, hmine, hready, Bool.false_eq_true, if_false]

/-- Where no request acts, the cores of the power-up are live and the registers and memory are as they were. -/
theorem execRampEnd_live (hwf : s.coresWf = true) (hbeat : s.now % 2000 = 0) (hramp : (s.loop r).ramping = some (b, m))
    (hact : s.requestsAct = false) (hown : ∀ c ∈ coresOf r, (s.core c).power.partner = none ∧ (s.core c).power.goal ≠ .tied)
    (hup : ∀ c ∈ s.riseCores r m, s.rampedUp c = true)
    (hservice : (s.vr (256 + r)).state = .softStart → s.railNear (256 + r) 10000 = true) :
    ∃ t, exec (.rampEnd r) s = .next t ∧ t.mem = s.mem ∧ t.regs = s.regs ∧
      ∀ c ∈ s.riseCores r m, (t.core c).power = (s.core c).power.rampedTo .on := by
  have hexec := execRampEnd_untied hbeat hramp hown hup hservice
  rw [State.endRamps_quiet _ hact] at hexec
  obtain ⟨boot, hboot⟩ := State.afterUps_eq _
  rw [hboot] at hexec
  refine ⟨_, hexec, State.each_field State.mem (fun c t => (t.goLive_frame c).1) _ s,
    State.each_field State.regs (fun c t => (t.goLive_frame c).2.1) _ s, fun c hc => ?_⟩
  obtain ⟨⟨j, ⟨hj, -⟩, rfl⟩, hstate, -⟩ := State.mem_riseCores.1 hc
  obtain ⟨t, htwf, hcore, hturn⟩ := State.each_turn (core := id) (fun c _ => State.goLive_touches c) hwf
    (by simpa using s.riseCores_nodup r m) hc
  rw [id] at hcore hturn
  have hown' := (hown (16 * r.val + j) (List.mem_map_of_mem (List.mem_range.2 hj))).1
  rw [State.pstate, ← hcore] at hstate
  rw [← hcore] at hown' ⊢
  exact (congrArg Core.power hturn).trans (State.goLive_power htwf hstate hown')

end RampEnd

/-- Settles O47: each event under its condition (the new search for a carrier and the joined ramp of a rail that fell: log entry 40). -/
theorem powerStatesMove : Obligations.PowerStatesMove := by
  unfold Obligations.PowerStatesMove
  refine ⟨fun s c r => ⟨fun d htying => ⟨fun hon hrun => ⟨execTieClose_fell htying hon hrun, execTieClose_near htying hon hrun⟩,
      execTieClose_replaced htying⟩, fun htransit => ?transit,
      fun hfirst hgrant hservice => execPowerUpGrant_first hservice hfirst hgrant,
      fun b m hpending hidle hdue hservice => execInrushForce_due hservice hpending hidle hdue, rfl,
      fun b m hloop hramp hin hdue => ?timeout⟩,
    fun s r b m hwf hbeat hloop hact hcores hservice => ?rampEnd⟩
  case transit =>
    have hexec := execRetainComplete_transit htransit
    exact ⟨fun hact => hexec.trans (congrArg _ (if_neg (ne_true_of_eq_false hact))),
      fun hact hdown => hexec.trans (congrArg _ ((if_pos hact).trans (if_neg (ne_true_of_eq_false hdown)))),
      fun hact hup => hexec.trans (congrArg _ ((if_pos hact).trans (if_pos hup)))⟩
  case timeout =>
    have hexec := execRampTimeout_due (by omega) hloop hramp hin hdue
    exact ⟨fun hfar => hexec.trans (congrArg _ (if_neg (ne_true_of_eq_false hfar))), fun hnear => hexec.trans (congrArg _ (if_pos hnear))⟩
  case rampEnd =>
    have hown : ∀ c ∈ coresOf r, (s.core c).power.partner = none ∧ (s.core c).power.goal ≠ .tied := fun c hc =>
      ⟨(hcores c hc).1, (hcores c hc).2.1⟩
    have hup : ∀ c ∈ s.riseCores r m, s.rampedUp c = true := fun c hc => by
      obtain ⟨⟨j, ⟨hj, hin⟩, rfl⟩, hstate, -⟩ := State.mem_riseCores.1 hc
      obtain ⟨hpartner, -, hzero, hnear⟩ := hcores (16 * r.val + j) (List.mem_map_of_mem (List.mem_range.2 hj))
      have hmask : bitOf m.toNat ((16 * r.val + j) % 16) = true := by rwa [Nat.mul_add_mod, Nat.mod_eq_of_lt hj]
      simp [State.rampedUp, State.feeder_own hpartner, hnear hmask hstate, hzero]
    obtain ⟨t, hexec, hmem, hregs, hlive⟩ := execRampEnd_live hwf hbeat hloop hact hown hup hservice
    refine ⟨t, hexec, hmem, hregs, fun j hj hin hstate hgoal => ?_⟩
    rw [hlive _ (State.mem_riseCores.2 ⟨⟨j, ⟨hj, hin⟩, rfl⟩, hstate, hgoal⟩)]
    exact ⟨rfl, rfl, rfl⟩

end Sys2Proof.Machine
end

section
/-! PROOF. Writes of the loop, cap, floor and power request registers (R298, R352 to R354, R357, R359), and of the telemetry, energy slot,
sensor and coolant registers (R379, R382, R388, R389, R394, R401). -/

open Sys2Proof

namespace Sys2Proof.Machine

/-! ## Which rule a register meets -/

section Rules
variable {s : State} {q : Request} {p : Path} {o v : Nat}

/-- A write that its register's rule takes, or refuses and leaves the state as it is. -/
theorem State.pathWrite_try {w : Option State} (hp : s.pathAdmits p o = true) (hv : v < 2 ^ 32)
    (hw : s.writeReg (asks p) o v = s.tryWrite w) : s.pathWrite p o v = w.getD s := by
  cases w with
  | none => exact State.pathWrite_rule hp hv hw (.inr (.inl rfl))
  | some t => exact State.pathWrite_rule hp hv hw (.inl rfl)

/-- What hosts may not write because the image loads it (R475), the side-band writes by the register's own rule. -/
theorem writeReg_barred_side (h : hostBarred o = true) : s.writeReg (asks .side) o v = s.tryWrite (s.writeConfig o v false) := by
  have hload : (imageLoads o && !decide (o = 0x300088)) = true := by
    simp only [hostBarred, Bool.and_eq_true] at h
    simp only [h, Bool.and_self]
  have hside : (!isSide (asks .side).path && hostBarred o) = false := rfl
  rw [State.writeReg, hside, if_neg Bool.false_ne_true, if_pos hload]

theorem writeConfig_loop (r : RegionId) : s.writeConfig (lpeReg r 0) v false = some (s.writeLpeCtrl r v) := by
  obtain ⟨hdiv, hmod, hlo, hhi⟩ := regionBase_split r.isLt (x := 0x40000) (by decide)
  rw [show lpeReg r 0 = regionBase r + 0x40000 from rfl, State.writeConfig, if_pos ⟨hlo, hhi⟩, hdiv, hmod]
  rfl

theorem writeConfig_cap (w : Fin 3) : s.writeConfig (capReg w) v false = s.writeCap w v := by
  have hlo : 0x402000 ≤ capReg w := by unfold capReg; omega
  have hhi : capReg w < 0x40200C := by unfold capReg; omega
  have hdiv : (capReg w - 0x402000) / 4 = w.val := by unfold capReg; omega
  generalize capReg w = o at *
  simp [State.writeConfig, hlo, hhi, hdiv, show ¬ 0x800000 ≤ o by omega, show ¬ o < 0x401180 by omega, show ¬ o = 0x4010C0 by omega,
    show ¬ o = 0x4010D0 by omega, show ¬ o = 0x401180 by omega, show ¬ o = 0x400F08 by omega]

theorem writeConfig_floor (p : PartId) : s.writeConfig (floorReg p) v false = s.writeFloor p v := by
  have hlo : 0x402020 ≤ floorReg p := by unfold floorReg; omega
  have hhi : floorReg p < 0x402040 := by unfold floorReg; omega
  have hdiv : (floorReg p - 0x402020) / 4 = p.val := by unfold floorReg; omega
  generalize floorReg p = o at *
  simp [State.writeConfig, hlo, hhi, hdiv, show ¬ 0x800000 ≤ o by omega, show ¬ o < 0x401180 by omega, show ¬ o = 0x4010C0 by omega,
    show ¬ o = 0x4010D0 by omega, show ¬ o = 0x401180 by omega, show ¬ o = 0x400F08 by omega, show ¬ o < 0x40200C by omega]

/-- A register of a region's block that no section of the image loads. -/
theorem writeReg_region {r x : Nat} (hr : r < 16) (hx : x < 0x100000) (hmask : regionMask x = none) :
    s.writeReg q (regionBase r + x) v = s.writeRegion q r x v := by
  obtain ⟨hdiv, hmod, hlo, hhi⟩ := regionBase_split hr hx
  have himage : imageMask (regionBase r + x) = none := by simp [imageMask, hmod, hlo, hhi, hmask]
  obtain ⟨hload, hbar⟩ := imageLoads_of_imageMask himage
  have hout : ∀ n, n ≤ 0x800000 → ¬ regionBase r + x < n := fun n hn => by omega
  simp only [State.writeReg, hbar, hload, hout, hdiv, hmod, hhi, Bool.and_false, Bool.false_and, Bool.false_eq_true, if_false,
    Nat.reduceLeDiff, if_true]

/-- A register of the power manager or the thermal unit that no section of the image loads. -/
theorem writeReg_power (hlo : 0x400000 ≤ o) (hhi : o < 0x800000) (hmask : imageMask o = none) :
    s.writeReg q o v = s.writePwr q o v := by
  obtain ⟨hload, hbar⟩ := imageLoads_of_imageMask hmask
  have hout : ∀ n, n ≤ 0x400000 → ¬ o < n := fun n hn => by omega
  simp only [State.writeReg, hbar, hload, hout, hhi, Bool.and_false, Bool.false_and, Bool.false_eq_true, if_false, Nat.reduceLeDiff, if_true]

theorem writeReg_coreReq (r : RegionId) : s.writeReg q (0x401000 + 4 * r.val) v = s.tryWrite (s.writeCoreReq r v) := by
  have hr := r.isLt
  have hdiv : (0x401000 + 4 * r.val - 0x400000 - 0x1000) / 4 = r.val := by omega
  rw [writeReg_power (by omega) (by omega) ((by decide : ∀ r : RegionId, imageMask (0x401000 + 4 * r.val) = none) r), State.writePwr,
    if_neg (by omega), if_neg (by omega), if_pos (by omega), hdiv]

/-- Past the telemetry, the image loads one register of a region's block. -/
theorem regionMask_pastTelemetry {x : Nat} (hlo : 0x61000 ≤ x) (hne : x ≠ 0xE0000) : regionMask x = none := by
  simp [regionMask, hne, show ¬ x < 0x1000 by omega, show ¬ x = 0x1000 by omega, show ¬ x = 0x20020 by omega,
    show ¬ x < 0x20020 by omega, show ¬ x < 0x41000 by omega, show ¬ x < 0x61000 by omega]

/-- Sensors of a region's cores and of its service unit. -/
theorem writeReg_regionSensor {r x n : Nat} (hr : r < 16) (hx : x < 0x108) (hcore : x < 0x100 → 64 * r + x / 4 = n)
    (hunit : 0x100 ≤ x → 1024 + 2 * r + (x - 0x100) / 4 = n) : s.writeReg q (regionBase r + (0x80000 + x)) v =
      (if bitOf (s.clears (regionBase r + (0x80000 + x)) v) 31 then s.clearSuspect n else s, .ok) := by
  have hnum : (if 0x80000 + x < 0x80100 then 64 * r + (0x80000 + x - 0x80000) / 4
      else 1024 + 2 * r + (0x80000 + x - 0x80100) / 4) = n := by split <;> omega
  rw [writeReg_region hr (by omega) (regionMask_pastTelemetry (by omega) (by omega)), State.writeRegion, if_neg (by omega),
    if_neg (by omega), if_neg (by omega), if_pos (by omega)]
  simp only [hnum]

/-- Always-on sensors. -/
theorem writeReg_aonSensor {k : Nat} (hk : k < 4) : s.writeReg q (0x404010 + 4 * k) v =
    (if bitOf (s.clears (0x404010 + 4 * k) v) 31 then s.clearSuspect (1056 + k) else s, .ok) := by
  have hdiv : (0x404010 + 4 * k - 0x400000 - 0x4010) / 4 = k := by omega
  rw [writeReg_power (by omega) (by omega) ((by decide : ∀ k < 4, imageMask (0x404010 + 4 * k) = none) k hk), State.writePwr,
    if_neg (by omega), if_neg (by omega), if_neg (by omega), if_neg (by omega), if_pos (by omega), hdiv]

theorem writeReg_sensor (n : SensorId) : s.writeReg q (sensorReg n) v =
    (if bitOf (s.clears (sensorReg n) v) 31 then s.clearSuspect n else s, .ok) := by
  have hn := n.isLt
  unfold sensorReg
  split
  case isTrue hcore => rw [Nat.add_assoc, writeReg_regionSensor (n := n) (by omega) (by omega) (by omega) (by omega)]
  case isFalse hcore =>
    split
    case isTrue hunit =>
      rw [Nat.add_assoc, show 0x80100 + 4 * (n.val % 2) = 0x80000 + (0x100 + 4 * (n.val % 2)) by omega,
        writeReg_regionSensor (n := n) (by omega) (by omega) (by omega) (by omega)]
    case isFalse hunit => rw [writeReg_aonSensor (by omega), Nat.add_sub_of_le (by omega)]

theorem writeReg_spot {r : RegionId} : s.writeReg q (tlmReg r 0xC0) v = s.tryWrite (s.writeSpot r v) := by
  rw [show tlmReg r 0xC0 = regionBase r + 0x600C0 from rfl, writeReg_region r.isLt (by decide) rfl]
  rfl

theorem writeReg_snap {r : RegionId} :
    s.writeReg q (tlmReg r 0xD0) v = (s.writeSnap r (if isSide q.path then 1 else 0) v, .ok) := by
  rw [show tlmReg r 0xD0 = regionBase r + 0x600D0 from rfl, writeReg_region r.isLt (by decide) rfl]
  rfl

theorem writeReg_cool : s.writeReg q coolReg v = s.tryWrite (s.writeCool v) := by
  rw [writeReg_power (by decide) (by decide) rfl]
  rfl

end Rules

/-! ## Loops, caps, floors and requests -/

section Loop
variable {s : State} {r : RegionId}

/-- LPE_CTRL as a write of `v` that sets OPEN to `b` leaves it (R352 to R354): ALPHA changes only while the loop is open. -/
theorem execLoopWrite {v : Nat} {b : Bool} (hv : v < 2 ^ 32) (hp : s.pathAdmits .side (lpeReg r 0) = true) :
    let old := s.regN (lpeReg r 0)
    s.pathWrite .side (lpeReg r 0) (setFld v 31 1 (b2n b)) =
      (s.putReg (lpeReg r 0) (at' 29 3 (4 * b2n b + fld v 29 2) + at' 8 8 (fld old 8 8) +
        if bitOf old 31 then clampTo 1 8 (fld v 0 4) else fld old 0 4)).modLoop r fun x =>
          { x with openSince := if b then (if bitOf old 31 then x.openSince else some s.now) else none } := by
  have hfields : fld (setFld v 31 1 (b2n b)) 0 4 = fld v 0 4 ∧ fld (setFld v 31 1 (b2n b)) 29 3 = 4 * b2n b + fld v 29 2 ∧
      bitOf (setFld v 31 1 (b2n b)) 31 = b := by
    cases b <;> simp only [setFld, fld, bitOf, b2n, decide_eq_true_eq, decide_eq_false_iff_not, Bool.false_eq_true, if_false, if_true] <;>
      omega
  obtain ⟨halpha, htop, hopen⟩ := hfields
  refine (State.pathWrite_try hp (setFld_top_lt hv) ((writeReg_barred_side (hostBarred_rows r 0 0).1).trans
    (congrArg _ (writeConfig_loop r)))).trans ?_
  simp only [Option.getD_some, State.writeLpeCtrl, halpha, htop, hopen]

theorem execCapWrite_rule {w : Fin 3} {v : BitVec 32} {x : Option State} (hp : s.pathAdmits .side (capReg w) = true)
    (hx : s.writeCap w v.toNat = x) : exec (.capWrite .side w v) s = .next (x.getD s) :=
  congrArg Host.Outcome.next (State.pathWrite_try hp v.isLt ((writeReg_barred_side (hostBarred_rows 0 w 0).2.1).trans
    (congrArg _ ((writeConfig_cap w).trans hx))))

/-- The floors that a write of `f` to that of partition `p` would leave. -/
def State.floorsWith (s : State) (p f : Nat) : List Nat := (List.range 8).map fun k => if k = p then f else s.floorOf k

theorem State.writeFloor_eq (s : State) (p v : Nat) : s.writeFloor p v =
    if fld v 0 11 ≤ 1400 ∧ capsKeep ((List.range 3).map s.capOf) (s.floorsWith p (fld v 0 11)) = true then
      some (State.each (List.range 3) (fun w t => t.restartWindow w) (s.putReg (floorReg p) (fld v 0 11)))
    else none :=
  if_congr (Bool.and_eq_true_iff.trans (and_congr_left' decide_eq_true_iff)) rfl rfl

theorem execFloorWrite_rule {p : PartId} {v : BitVec 32} {x : Option State} (hp : s.pathAdmits .side (floorReg p) = true)
    (hx : s.writeFloor p v.toNat = x) : exec (.floorWrite .side p v) s = .next (x.getD s) :=
  congrArg Host.Outcome.next (State.pathWrite_try hp v.isLt ((writeReg_barred_side (hostBarred_rows 0 0 p).2.2).trans
    (congrArg _ ((writeConfig_floor p).trans hx))))

/-- A core of region `r` that runs a schedule on its rail would be asked down by the requests `w` (R298). -/
def State.asksDownBound (s : State) (r w : Nat) : Bool :=
  (coresOf r).any fun c => s.railOn c && (s.core c).seq.bound && decide (fld w (2 * (c % 16)) 2 ≠ 2)

theorem State.writeCoreReq_bound {v : Nat} (h : s.asksDownBound r (reqWord v) = true) : s.writeCoreReq r v = none := if_pos h

theorem State.writeCoreReq_free {v : Nat} (h : s.asksDownBound r (reqWord v) = false) :
    let t := s.putReg (0x401000 + 4 * r.val) (reqWord v)
    s.writeCoreReq r v = some (if t.requestsAct then t.actOnRequest r t.upOpen else t) := if_neg (ne_true_of_eq_false h)

theorem execCorePowerRequest_rule {p : Path} {v : BitVec 32} {x : Option State}
    (hp : s.pathAdmits p (0x401000 + 4 * r.val) = true) (hx : s.writeCoreReq r v.toNat = x) :
    exec (.corePowerRequest p r v) s = .next (x.getD s) :=
  congrArg Host.Outcome.next (State.pathWrite_try hp v.isLt ((writeReg_coreReq r).trans (congrArg _ hx)))

end Loop

/-! ## Telemetry, energy slots, sensors and coolant -/

section Telemetry
variable {s : State} {p : Path} {r : RegionId}

/-- The input and the converter, in the fields of TLM_SPOT. -/
theorem fld_spot (i : BitVec 6) (k : Fin 8) :
    fld (i.toNat * 256 + k.val) 8 6 = i.toNat ∧ fld (i.toNat * 256 + k.val) 0 3 = k.val := by
  have hi := i.isLt
  simp only [fld]
  omega

/-- A write of TLM_SPOT while the converter converts is counted, and does nothing else (R379). -/
theorem State.writeSpot_converting {i : BitVec 6} {k : Fin 8} (hinput : i.toNat < 39) (hconv : s.converting r k = true) :
    s.writeSpot r (i.toNat * 256 + k.val) = some (s.putReg (tlmReg r 0xC4) (satInc (s.regN (tlmReg r 0xC4)) 0xFFFFFFFF)) := by
  obtain ⟨hfield, hconverter⟩ := fld_spot i k
  simp only [State.writeSpot, hfield, hconverter, Nat.not_le.2 hinput, hconv, if_false, if_true]

theorem State.writeSpot_free {i : BitVec 6} {k : Fin 8} (hinput : i.toNat < 39) (hconv : s.converting r k = false)
    (hnext : ∀ q, s.slotNow r k = some q → s.now < q.1) : s.writeSpot r (i.toNat * 256 + k.val) =
      some (s.modTlm r fun x => { x with spots := x.spots ++ [(k.val, i.toNat, s.now)] }) := by
  obtain ⟨hfield, hconverter⟩ := fld_spot i k
  simp only [State.writeSpot, hfield, hconverter, Nat.not_le.2 hinput, hconv, Bool.false_eq_true, if_false]
  cases hslot : s.slotNow r k with
  | none => rfl
  | some q => simp only [if_neg (Nat.not_le.2 (hnext q hslot))]

theorem execTlmSpot_rule {i : BitVec 6} {k : Fin 8} {x : Option State} (hp : s.pathAdmits p (tlmReg r 0xC0) = true)
    (hx : s.writeSpot r (i.toNat * 256 + k.val) = x) : exec (.tlmSpot p r i k) s = .next (x.getD s) := by
  have hi := i.isLt
  exact congrArg Host.Outcome.next (State.pathWrite_try hp (by omega) (writeReg_spot.trans (congrArg _ hx)))

theorem execTlmSnap_path (hp : s.pathAdmits p (tlmReg r 0xD0) = true) (mm : Bool) :
    exec (.tlmSnap p r mm) s = .next (s.writeSnap r (if isSide p then 1 else 0) (1 + 2 * b2n mm)) :=
  congrArg Host.Outcome.next (State.pathWrite_rule hp (by cases mm <;> decide) writeReg_snap (.inl rfl))

/-- An energy slot is cleared by the side-band, or by a tag that owns it (R388). -/
theorem execJobEnergyClear_owned {k : Fin 32} (hp : s.pathAdmits p 0x403200 = true)
    (howns : ∀ t, p = .host t → s.ownsSlot t k = true) : exec (.jobEnergyClear p k) s = .next (s.clearSlot k) := by
  have hk : fld k.val 0 5 = k.val := by simp [fld]
  refine congrArg Host.Outcome.next (State.pathWrite_rule hp (by omega) ?_ (.inl rfl))
  rw [writeReg_power (by decide) (by decide) rfl]
  cases p with
  | side => simp [State.writePwr, hk, asks]
  | host t => simp [State.writePwr, hk, asks, howns t rfl]

theorem execSensorSuspectClear_suspect {n : SensorId} (hp : s.pathAdmits p (sensorReg n) = true)
    (hbit : bitOf (s.clears (sensorReg n) (2 ^ 31)) 31 = true) (hsuspect : (s.sensor n).suspect = true)
    (hcut : (s.sensor n).cut = false) : exec (.sensorSuspectClear p n) s =
      .next (s.modSensor n fun x => { x with suspect := false, fresh := false, dev := 0 }) := by
  refine congrArg Host.Outcome.next (State.pathWrite_rule hp (by decide) (writeReg_sensor n) (.inl rfl) |>.trans ?_)
  rw [if_pos hbit, State.clearSuspect, if_pos (by simp [hsuspect, hcut])]

theorem execResume_recovered (hp : s.pathAdmits p coolReg = true) (hstate : s.blockState = 7) (hok : s.boot.recoverOk = true)
    (hcool : s.boot.coolant = true) :
    let t := s.modBoot fun b => { b with coolant := false, resuming := true }
    exec (.resume p) s = .next ((t.setPower { t.power with cool := some t.now }).actOnRequests.afterUps) := by
  refine congrArg Host.Outcome.next ((State.pathWrite_try hp (by decide) writeReg_cool).trans ?_)
  have hbit : bitOf (2 ^ 31) 31 = true := by decide
  simp only [State.writeCool, hbit, hstate, hok, hcool, decide_true, Bool.and_self, Bool.not_true, Bool.false_eq_true, if_false, if_true,
    Option.getD_some]

end Telemetry

/-- Settles O38: register by register, what its rule makes of the row's value (ALPHA by R353, refusals of caps and floors by R357, the
kept addition of an energy slot by R389). -/
theorem powerAndTelemetryWrites : Obligations.PowerAndTelemetryWrites := by
  unfold Obligations.PowerAndTelemetryWrites
  refine ⟨fun s r v => ⟨fun hp => ⟨congrArg _ (execLoopWrite (b := true) v.isLt hp), ?close⟩, fun w hp => ?cap, fun p hp => ?floor,
      fun p hp => ?request⟩,
    fun s p r => ⟨fun i k hp hi => ?spot, fun mm hp => execTlmSnap_path hp mm, fun k => execJobEnergyClear_owned,
      fun n => execSensorSuspectClear_suspect, execResume_recovered⟩⟩
  case close =>
    have hclose := execLoopWrite (b := false) v.isLt hp
    rw [show 4 * b2n false = 0 from rfl, Nat.zero_add] at hclose
    exact congrArg _ hclose
  case cap => exact ⟨fun hfits => execCapWrite_rule hp (if_pos hfits),
      fun hbreaks => execCapWrite_rule hp (if_neg (ne_true_of_eq_false hbreaks))⟩
  case floor =>
    have hrule := s.writeFloor_eq p v.toNat
    refine ⟨fun hfits htop => ?_, fun hbreaks => ?_⟩
    · rw [execFloorWrite_rule hp (hrule.trans (if_pos ⟨htop, hfits⟩)), Option.getD_some]
    · refine execFloorWrite_rule hp (hrule.trans (if_neg fun h => ?_))
      exact hbreaks.elim (ne_true_of_eq_false · h.2) (Nat.not_lt.2 h.1)
  case request =>
    refine ⟨fun hfree hact => ?_, fun hfree hact => ?_, fun hbound => execCorePowerRequest_rule hp (State.writeCoreReq_bound hbound)⟩
    · rw [execCorePowerRequest_rule hp (State.writeCoreReq_free hfree), Option.getD_some, if_pos hact]
    · rw [execCorePowerRequest_rule hp (State.writeCoreReq_free hfree), Option.getD_some, if_neg (ne_true_of_eq_false hact)]
  case spot =>
    exact ⟨fun hconv => execTlmSpot_rule hp (State.writeSpot_converting hi hconv),
      fun hfree hnext => execTlmSpot_rule hp (State.writeSpot_free hi hfree hnext)⟩

end Sys2Proof.Machine
end

section
/-! PROOF. Allowances and loop outputs (R345, R350). -/

open Sys2Proof

namespace Sys2Proof.Machine

/-- The law of R350: at most the raw value, which it takes at once where that is no rise, and else a rise of at most `rise` units of 4. -/
theorem riseTo_bounds (raw prev rise : Nat) :
    riseTo raw prev rise ≤ raw ∧ (raw ≤ prev → riseTo raw prev rise = raw) ∧
      (rise ≠ 0 → riseTo raw prev rise ≤ max prev (prev + 4 * rise)) ∧ (rise = 0 → riseTo raw prev rise = raw) := by
  unfold riseTo
  split <;> omega

/-- Looking through the sources, the least value so far gives way to a lesser one alone, so the earliest of equals stays. -/
theorem foldl_least (m : Nat × Nat) (l : List (Nat × Nat)) :
    let r := l.foldl (fun m x => if x.2 < m.2 then x else m) m
    (∀ x ∈ l, r.2 ≤ x.2) ∧ r.2 ≤ m.2 ∧
      (r = m ∨ r.2 < m.2 ∧ ∃ before after, l = before ++ r :: after ∧ (∀ y ∈ before, r.2 < y.2) ∧ ∀ y ∈ after, r.2 ≤ y.2) := by
  induction l generalizing m with
  | nil => simp
  | cons x t ih =>
    dsimp only [List.foldl_cons]
    obtain ⟨hrest, hle, hcase⟩ := ih (if x.2 < m.2 then x else m)
    generalize hr : t.foldl (fun m x => if x.2 < m.2 then x else m) (if x.2 < m.2 then x else m) = r at *
    by_cases hx : x.2 < m.2
    · rw [if_pos hx] at hle hcase
      refine ⟨List.forall_mem_cons.2 ⟨hle, hrest⟩, by omega, .inr ⟨by omega, ?_⟩⟩
      rcases hcase with rfl | ⟨hlt, before, after, hl, hbefore, hafter⟩
      · exact ⟨[], t, rfl, fun _ h => absurd h List.not_mem_nil, hrest⟩
      · exact ⟨x :: before, after, congrArg (x :: ·) hl, List.forall_mem_cons.2 ⟨hlt, hbefore⟩, hafter⟩
    · rw [if_neg hx] at hle hcase
      refine ⟨List.forall_mem_cons.2 ⟨by omega, hrest⟩, hle, hcase.imp_right fun h => ?_⟩
      obtain ⟨hlt, before, after, hl, hbefore, hafter⟩ := h
      exact ⟨hlt, x :: before, after, congrArg (x :: ·) hl, List.forall_mem_cons.2 ⟨by omega, hbefore⟩, hafter⟩

/-- Settles O43: the allowance by the fold over the sources, each output by the law of R350. -/
theorem allowancesAndOutputs : Obligations.AllowancesAndOutputs := by
  unfold Obligations.AllowancesAndOutputs
  refine ⟨fun s c => ?allowance, fun s c caps => ?outputs⟩
  case allowance =>
    obtain ⟨hleast, -, hcase⟩ := foldl_least (0, 1024) (s.sources c)
    refine ⟨hleast, hcase.imp (congrArg Prod.snd) fun h => ?_⟩
    obtain ⟨-, before, after, hl, hbefore, hafter⟩ := h
    exact ⟨before, _, after, hl, rfl, hbefore, hafter⟩
  case outputs =>
    exact ⟨riseTo_bounds .., riseTo_bounds .., riseTo_bounds .., riseTo_bounds .., riseTo_bounds .., riseTo_bounds .., riseTo_bounds ..⟩

end Sys2Proof.Machine
end

section
/-! PROOF. Writes of the fault collector, the event queues and deep idle: the wake of a block in IDLE that SAFE outranks (R24, R444,
R446). -/

open Sys2Proof

namespace Sys2Proof.Machine

/-- A block whose sequence stands in IDLE and which SAFE outranks (R24, R446): STATE reads SAFE, and no wake has begun. -/
def idleInSafe : State :=
  { State.reset with
    boot := { State.reset.boot with base := .idle, step := .done, safe := true }
    pins := { State.reset.pins with stbyOk := true } }

/-- WAKE acts where STATE reads IDLE; here it reads SAFE. -/
theorem execIdleWake_inSafe : exec (.idleWake .side) idleInSafe = .next idleInSafe :=
  pathWrite_taken (by decide) (by decide) rfl

/-- Refutes O39: the state of the sequence is IDLE but SAFE outranks it, so a WAKE leaves the block as it is and begins no wake. -/
theorem not_faultAndEventWrites : ¬ Obligations.FaultAndEventWrites := by
  unfold Obligations.FaultAndEventWrites
  rintro ⟨-, hevents⟩
  obtain ⟨-, -, -, hidle⟩ := hevents idleInSafe .side 0 0
  obtain ⟨-, -, hwake⟩ := hidle (by decide)
  have hsame : idleInSafe = idleInSafe.wakeCause 5 0 true :=
    Host.Outcome.next.inj (execIdleWake_inSafe.symm.trans (hwake rfl))
  have hwaking : idleInSafe.boot.waking = (idleInSafe.wakeCause 5 0 true).boot.waking := congrArg (·.boot.waking) hsame
  exact absurd hwaking (by decide)

end Sys2Proof.Machine
end

section
/-! PROOF. Flash commands and fuse programming end (R480 to R482). -/

open Sys2Proof

namespace Sys2Proof.Machine

section Flash
variable {s : State}

theorem Nvm.completeCommand_erasing {n : Nvm} (h : n.job = .erasing) : n.completeCommand =
    { n with flash := memWrite n.flash (4096 * n.erased) (List.replicate 4096 0xFF), erased := n.erased + 1,
             known := max n.known (4096 * n.erased + 4096), job := .idle } := by
  simp only [Nvm.completeCommand, h]

theorem Nvm.completeCommand_programming {n : Nvm} (h : n.job = .programming) :
    let page := n.buffer.take 256
    n.completeCommand = { n with flash := memWrite n.flash n.programmed
                                   (((memRead n.flash n.programmed page.length).zip page).map fun b => b.1 &&& b.2),
                                 programmed := n.programmed + page.length, buffer := n.buffer.drop 256, job := .idle } := by
  simp only [Nvm.completeCommand, h]

theorem execFlashOperationDone_erasing (h : s.nvm.job = .erasing) (ok : Bool) : exec (.flashOperationDone ok) s =
    .next ((s.modNvm fun m =>
      { m with flash := memWrite m.flash (4096 * m.erased) (List.replicate 4096 0xFF), erased := m.erased + 1,
               known := max m.known (4096 * m.erased + 4096), job := .idle }).flashNext) := by
  simp only [exec, execFlashOperationDone, h, State.modNvm, Nvm.completeCommand_erasing h]

theorem execFlashOperationDone_programming (h : s.nvm.job = .programming) :
    let page := s.nvm.buffer.take 256
    exec (.flashOperationDone true) s = .next ((s.modNvm fun m =>
        { m with flash := memWrite m.flash m.programmed
                   (((memRead m.flash m.programmed page.length).zip page).map fun b => b.1 &&& b.2),
                 programmed := m.programmed + page.length, buffer := m.buffer.drop 256, job := .idle }).flashNext) ∧
      exec (.flashOperationDone false) s = .next s.flashFailed := by
  simp only [exec, execFlashOperationDone, h, State.modNvm, Nvm.completeCommand_programming h, if_true, Bool.false_eq_true, if_false,
    and_self]

theorem execFlashOperationDone_verifying (h : s.nvm.job = .verifying) (ok : Bool) :
    let c := s.checkImage s.readImage
    exec (.flashOperationDone ok) s =
      .next (((s.endUpdate (if c = 0 then 2 else 3)).drawn).modNvm fun m => { m with updCheck := c }) := by
  simp only [exec, execFlashOperationDone, h]

theorem execFlashTimeout_late (hjob : s.nvm.job = .erasing ∨ s.nvm.job = .programming) (hlate : s.nvm.jobAt + 200000000 ≤ s.now) :
    exec .flashTimeout s = .next s.flashFailed :=
  congrArg Host.Outcome.next (if_pos (by simpa [hlate] using hjob))

end Flash

theorem fuseBits_and (w d e : Nat) : fuseBits w (d &&& e) = fuseBits w d &&& fuseBits w e := by
  refine BitVec.eq_of_getLsbD_eq fun i hi => ?_
  simp only [fuseBits, BitVec.getLsbD_and, BitVec.getLsbD_ofNat, hi, fld, pow_zero, Nat.div_one, Nat.testBit_mul_two_pow,
    Nat.testBit_mod_two_pow, Nat.testBit_and, decide_true, Bool.true_and]
  cases decide (32 * w ≤ i) <;> cases decide (i - 32 * w < 32) <;> simp

/-- A part of the bits of FUSE_PDATA names no other bit of the key hash. -/
theorem fuseBits_and_subset (w d free : Nat) : fuseBits w (d &&& free) &&& ~~~fuseBits w d = 0 := by
  rw [fuseBits_and, BitVec.and_comm, ← BitVec.and_assoc, BitVec.not_and_self]
  exact BitVec.zero_and

section Fuse
variable {s : State} (hbusy : s.nvm.fuseStatus = 1)
include hbusy

theorem execFuseProgramDone_word (hword : s.nvm.fuseWord ≠ 12) : exec (.fuseProgramDone true) s =
    .next (s.modNvm fun m => { m with keyHash := m.keyHash ||| fuseBits s.nvm.fuseWord s.nvm.fuseData.toNat, fuseStatus := 2 }) := by
  simp [exec, execFuseProgramDone, State.modNvm, State.setNvm, hbusy, hword]

theorem execFuseProgramDone_lock (hword : s.nvm.fuseWord = 12) : exec (.fuseProgramDone true) s =
    .next (s.modNvm fun m => { m with lock := true, fuseStatus := 2 }) := by
  simp [exec, execFuseProgramDone, State.modNvm, State.setNvm, hbusy, hword]

/-- Where the read-back disagrees, the bits that were set are a free part of those of FUSE_PDATA (log entry 47). -/
theorem execFuseProgramDone_wordFails (hword : s.nvm.fuseWord ≠ 12) : exec (.fuseProgramDone false) s =
    .next ((s.drawn).modNvm fun m =>
      { m with keyHash := m.keyHash ||| fuseBits s.nvm.fuseWord (s.nvm.fuseData.toNat &&& Config.freeNat s.draws), fuseStatus := 5 }) := by
  simp [exec, execFuseProgramDone, State.modNvm, State.setNvm, State.drawn, State.setDraws, hbusy, hword]

theorem execFuseProgramDone_lockFails (hword : s.nvm.fuseWord = 12) : exec (.fuseProgramDone false) s =
    .next ((s.drawn).modNvm fun m => { m with lock := m.lock || bitOf (Config.freeNat s.draws) 0, fuseStatus := 5 }) := by
  simp [exec, execFuseProgramDone, State.modNvm, State.setNvm, State.drawn, State.setDraws, hbusy, hword]

end Fuse

/-- Settles O56: the flash command or the fuse word in progress decides; which bits a fuse word sets whose read-back disagrees is the
model's free choice (log entry 47). -/
theorem flashAndFusesEnd : Obligations.FlashAndFusesEnd := by
  unfold Obligations.FlashAndFusesEnd
  refine fun s => ⟨execFlashOperationDone_erasing, execFlashOperationDone_programming, execFlashOperationDone_verifying,
    fun hjob hlate => ⟨execFlashTimeout_late hjob hlate, rfl⟩, fun hbusy => ⟨execFuseProgramDone_word hbusy,
      execFuseProgramDone_lock hbusy, fun hword => ⟨_, fuseBits_and_subset .., execFuseProgramDone_wordFails hbusy hword⟩,
      fun hword => ⟨_, execFuseProgramDone_lockFails hbusy hword⟩⟩⟩

end Sys2Proof.Machine
end

section
/-! PROOF. Answers to outbound transactions and the number that await theirs (R452, R455). -/

open Sys2Proof

namespace Sys2Proof.Machine

theorem Outbound.isOpen_of_unsent {o : Outbound} (h : o.sentAt.isSome = false) : o.isOpen = false := by
  simp [Outbound.isOpen, h]

theorem length_filter_open_cons (o : Outbound) (l : List Outbound) :
    ((o :: l).filter Outbound.isOpen).length = b2n o.isOpen + (l.filter Outbound.isOpen).length := by
  cases h : o.isOpen <;> simp [h, b2n, Nat.add_comm]

/-- Sending with `n` places free leaves at most `n` more open transactions. -/
theorem hostPumpGo_open (now : Nat) : ∀ (l : List Outbound) (n : Nat) (used : List Nat) (next : Nat),
    ((hostPumpGo now l n used next).1.filter Outbound.isOpen).length ≤ (l.filter Outbound.isOpen).length + n
  | [], _, _, _ => by simp [hostPumpGo]
  | x :: t, 0, _, _ => by simp [hostPumpGo]
  | x :: t, n + 1, used, next => by
    rw [hostPumpGo]
    split
    next hsent =>
      have ih := hostPumpGo_open now t (n + 1) used next
      simp only [length_filter_open_cons]
      omega
    next hsent =>
      have ih := hostPumpGo_open now t n (freeTid used 1024 next :: used) ((freeTid used 1024 next + 1) % 1024)
      have hone : ∀ o : Outbound, b2n o.isOpen ≤ 1 := fun o => by cases o.isOpen <;> simp [b2n]
      simp only [length_filter_open_cons]
      have := hone { x with tid := freeTid used 1024 next, sentAt := some now }
      omega

/-- Waiting transactions are sent while fewer than 1,024 await their responses (R455). -/
theorem State.pumpHost_open {s : State} (h : (s.host.outbound.filter Outbound.isOpen).length ≤ 1024) :
    (s.pumpHost.host.outbound.filter Outbound.isOpen).length ≤ 1024 := by
  have hgo := hostPumpGo_open s.now s.host.outbound (1024 - ((s.host.outbound.filter Outbound.isOpen).map (·.tid)).length)
    ((s.host.outbound.filter Outbound.isOpen).map (·.tid)) s.host.nextTid
  rw [List.length_map] at hgo
  simp only [State.pumpHost, State.setHost_host, List.length_map]
  omega

section Answer
variable {s : State} {tid : BitVec 10}

theorem execHostTimeout_due {o : Outbound} {b : Nat} (hwait : s.outWaiting tid.toNat = some o) (hsent : o.sentAt = some b)
    (hdue : b + 2000 * fld (s.regN 0x102000) 0 16 ≤ s.now) :
    exec (.hostTimeout tid) s = .next ((s.outAnswer o none).addField hostErr 0 8 1) := by
  simp only [exec, execHostTimeout, hwait, hsent, Option.getD_some, hdue, if_true, State.countOut]

variable (hopen : s.hostOpen = true)
include hopen

theorem execCpl_awaited {o : Outbound} {data : List Byte} (hwait : s.outWaiting tid.toNat = some o) (hread : o.read = true)
    (hlen : data.length = o.len) : exec (.cpl tid data) s = .next (s.outAnswer o (some data)) := by
  simp [exec, execCpl, hopen, hwait, hread, hlen]

theorem execWrsp_awaited {o : Outbound} (hwait : s.outWaiting tid.toNat = some o) (hwrite : o.read = false) :
    exec (.wrsp tid) s = .next (s.outAnswer o (some [])) := by
  simp [exec, execWrsp, hopen, hwait, hwrite]

theorem execErr_awaited {o : Outbound} (hwait : s.outWaiting tid.toNat = some o) (cause : BitVec 8) :
    exec (.err tid cause) s = .next ((s.outAnswer o none).addField hostErr 0 8 1) := by
  simp [exec, execErr, hopen, hwait, State.countOut]

/-- An answer that no transaction awaits is late, whether its TID was sent or not (log entry 52). -/
theorem exec_answer_unmatched (hnone : s.outWaiting tid.toNat = none) :
    (∀ data, exec (.cpl tid data) s = .next (s.addField hostErr 0 8 1)) ∧ exec (.wrsp tid) s = .next (s.addField hostErr 0 8 1) ∧
      ∀ cause, exec (.err tid cause) s = .next (s.addField hostErr 0 8 1) := by
  simp [exec, execCpl, execWrsp, execErr, hopen, hnone, State.countOut]

end Answer

/-- Settles O30: the bound by induction over the waiting transactions, the answers by the transaction of their TID (late ones as log
entry 52 has them). -/
theorem outboundAnswersAct : Obligations.OutboundAnswersAct := by
  unfold Obligations.OutboundAnswersAct
  refine ⟨fun s => State.pumpHost_open, fun s tid hopen => ⟨fun o hwait => ⟨fun hread data => execCpl_awaited hopen hwait hread,
    execWrsp_awaited hopen hwait, execErr_awaited hopen hwait, fun b => execHostTimeout_due hwait⟩, exec_answer_unmatched hopen⟩⟩

end Sys2Proof.Machine
end

section
/-! PROOF. Fault reports, counting windows, promotion and the pin (R408 to R417). -/

open Sys2Proof

namespace Sys2Proof.Machine

/-! ## Reports -/

section Report
variable {s : State} (hlock : s.locked = true)
include hlock

theorem execFaultEvent_report {k : Fin 512} {loc : Option (Fin 272)} (hkind : kindSource k = true)
    (hplace : placeOk k (loc.map Fin.val) = true) (job : Option (PartId × Fin 16)) (tag : Option PartId) :
    exec (.faultEvent k loc job tag) s =
      .next (s.raise { src := k, locs := (loc.map Fin.val).toList, job := job, tag := tag.map Fin.val }) :=
  congrArg Host.Outcome.next (if_pos (by simp [hlock, hkind, hplace]))

theorem execBrokenWire_event {k : Fin 512} {loc : Option (Fin 272)} (hkind : kindSource k = true)
    (hplace : placeOk k (loc.map Fin.val) = true)
    (hnew : s.faults.broken.any (fun e => e = (k.val, loc.map Fin.val)) = false) : exec (.brokenWire k loc none) s =
      .next ((s.modFaults fun f => { f with broken := f.broken ++ [(k.val, loc.map Fin.val)] }).breakWire k (loc.map Fin.val)) := by
  simp only [exec, execBrokenWire, hlock, hkind, hplace, hnew, Bool.not_true, Bool.not_false, Bool.and_self, Bool.false_eq_true,
    if_false, if_true]

theorem execBrokenWire_sensor {k : Fin 512} {loc : Option (Fin 272)} {n : SensorId} (hnew : (s.sensor n).cut = false) :
    exec (.brokenWire k loc (some (.sensor n))) s = .next (
      ((s.suspectSensor n).modSensor n fun x => { x with suspect := true, cut := true }).raise
        { src := 273, locs := sensorLocs n, job := none, tag := none }) := by
  simp only [exec, execBrokenWire, hlock, hnew, Bool.not_true, Bool.false_eq_true, if_false]

theorem execBrokenWire_channel {k : Fin 512} {loc : Option (Fin 272)} {r : RegionId} {ch : Fin 40}
    (hnew : (s.tlmChan r ch).cut = false) :
    let t := s.modTlm r fun x =>
      { x with chans := tabSet chanDefault x.chans ch { tabGet chanDefault x.chans ch with cut := true, stale := 17, peak := 65536 } }
    exec (.brokenWire k loc (some (.channel r ch))) s =
      .next (((t.persistOn 323 (some (256 + r.val))).raiseRegion 323 r none).raiseRegion 273 r none) := by
  simp only [exec, execBrokenWire, hlock, hnew, Bool.not_true, Bool.false_eq_true, if_false]

end Report

/-- Copies that differ enter GRAVE, whatever the class table makes of source 272 (R415). -/
theorem State.selfFail_grave (s : State) : s.selfFail.boot.grave = true := by
  unfold State.selfFail
  dsimp only
  split
  next hgrave => exact hgrave
  next => exact (State.each_keeps _ _ _ (.refl _) fun c t => State.raiseCore_keeps t 281 c none).boot.grave rfl

/-! ## Windows and the pin -/

theorem execFaultWindowClose_due {s : State} {k : Fin 512} {b : Nat} (hopen : (s.source k).closes = some b) (hdue : b ≤ s.now) :
    exec (.faultWindowClose k) s = .next (s.modCopies fun f => f.put k { f.src k with count := 0, closes := none }) := by
  simp only [exec, execFaultWindowClose, hopen, hdue, decide_true, Bool.true_or, if_true]

theorem execErrPulseEnd_due {s : State} (hpulse : s.faults.pulse = true) (hdue : s.faults.pulseEnd ≤ s.now) :
    let t := s.modFaults fun f => { f with pulse := false }
    exec .errPulseEnd s = .next
      (if s.faults.one.hold then (t.modCopies fun f => { f with held := true }).mark pinReg 0x80000000 else t) :=
  congrArg Host.Outcome.next (if_pos (by simp [hpulse, hdue]))

/-! ## Counting in one window (R412, R413) -/

/-- The source `y` is `x` after `k` events in the window that closes at `c`, the last of them in beat `l`. -/
structure Source.Counted (x y : Source) (k c l : Nat) : Prop where
  sticky   : y.sticky = true
  count    : y.count = min k 255
  promoted : y.promoted = decide (x.n ≤ k)
  closes   : y.closes = some c
  last     : y.last = some l
  rule     : y.n = x.n ∧ y.w = x.w ∧ y.cleared = x.cleared

section Window
variable {x y : Source} {k c l : Nat} (hw : x.w ≠ 0)
include hw

/-- The first event opens the window. -/
theorem Source.Counted.first (hclosed : x.closes = none) (hbase : x.promoted = false) (hnone : x.last = none) (hn : 1 ≤ x.n) {b : Nat}
    (hclear : x.cleared ≠ some b) : Counted x (x.hit b) 1 (b + windowBeats x.w) b := by
  have hone : decide (1 = x.n) = decide (x.n ≤ 1) := decide_eq_decide.2 (by omega)
  constructor <;> simp [Source.hit, hclosed, hbase, hnone, hw, hclear, hone]

/-- One more event, in a later beat of the window. -/
theorem Source.Counted.hit (h : Counted x y k c l) (hn : x.n ≤ 255) {b : Nat} (hlater : l < b) (hopen : b < c)
    (hclear : x.cleared ≠ some b) : Counted x (y.hit b) (k + 1) c b := by
  obtain ⟨hsticky, hcount, hpromoted, hcloses, hlast, hrn, hrw, hrc⟩ := h
  have hstep : (decide (x.n ≤ k) || decide (min k 255 + 1 = x.n)) = decide (x.n ≤ k + 1) := by
    rw [← Bool.decide_or, decide_eq_decide]
    omega
  have hne : ¬ l = b := by omega
  constructor <;> simp [Source.hit, hcount, hpromoted, hcloses, hlast, hrn, hrw, hrc, hne, hw, hopen, hclear, hstep]
  omega

/-- Every later event of the window counts. -/
theorem Source.Counted.hits (hn : x.n ≤ 255) : ∀ {beats : List Nat} {y : Source} {k l : Nat}, Counted x y k c l →
    (l :: beats).Pairwise (· < ·) → (∀ b ∈ beats, x.cleared ≠ some b) → (∀ b ∈ beats, b < c) →
    ∃ m ∈ l :: beats, Counted x (beats.foldl Source.hit y) (k + beats.length) c m
  | [], y, k, l, h, _, _, _ => ⟨l, List.mem_cons_self, h⟩
  | b :: bs, y, k, l, h, hrise, hclear, hopen => by
    obtain ⟨hlater, hrest⟩ := List.pairwise_cons.1 hrise
    obtain ⟨hclearB, hclearRest⟩ := List.forall_mem_cons.1 hclear
    obtain ⟨hopenB, hopenRest⟩ := List.forall_mem_cons.1 hopen
    obtain ⟨m, hm, hcounted⟩ :=
      Source.Counted.hits hn (h.hit hw hn (hlater b List.mem_cons_self) hopenB hclearB) hrest hclearRest hopenRest
    refine ⟨m, List.mem_cons_of_mem l hm, ?_⟩
    rwa [List.length_cons, Nat.add_comm bs.length, ← Nat.add_assoc]

end Window

/-- A clear in a beat without an event ends the window and the promotion. -/
theorem Source.clear_quiet {y : Source} {l now : Nat} (hlast : y.last = some l) (hlater : l < now) (hclass : y.eff ≠ 4) :
    y.clear now = { y with sticky := false, promoted := false, count := 0, closes := none, cleared := some now } := by
  rw [Source.clear, if_neg hclass, if_neg (by simp [hlast, Nat.ne_of_lt hlater])]

/-- Settles O50: the reports and ends by their commands' rules, GRAVE by what every event keeps, the count by induction over the beats. -/
theorem faultReportsAct : Obligations.FaultReportsAct := by
  unfold Obligations.FaultReportsAct
  refine ⟨fun s k loc hlock hkind hplace => ⟨execFaultEvent_report hlock hkind hplace, execBrokenWire_event hlock hkind hplace,
      fun n => execBrokenWire_sensor hlock, fun r ch => execBrokenWire_channel hlock⟩,
    fun s hlock => ⟨s.selfFail, congrArg Host.Outcome.next (if_pos hlock), s.selfFail_grave⟩,
    fun s k b => execFaultWindowClose_due, fun s hpulse hdue => ⟨fun hfree => ?release, fun hhold => ?hold⟩,
    fun x beats hclosed hbase hnone hw hlo hhi hne hrise hclear hopen => ?window⟩
  case release => exact (execErrPulseEnd_due hpulse hdue).trans (congrArg _ (if_neg (ne_true_of_eq_false hfree)))
  case hold => exact (execErrPulseEnd_due hpulse hdue).trans (congrArg _ (if_pos hhold))
  case window =>
    obtain ⟨b, bs, rfl⟩ := List.exists_cons_of_ne_nil hne
    obtain ⟨hclearB, hclearRest⟩ := List.forall_mem_cons.1 hclear
    obtain ⟨m, hm, hcounted⟩ := (Source.Counted.first hw hclosed hbase hnone hlo hclearB).hits hw hhi hrise hclearRest
      (List.forall_mem_cons.1 hopen).2
    rw [Nat.add_comm 1, ← List.length_cons] at hcounted
    exact ⟨hcounted.sticky, hcounted.count, hcounted.promoted,
      fun now hlater hclass => Source.clear_quiet hcounted.last (hlater m hm) hclass⟩

end Sys2Proof.Machine
end

section
/-! PROOF. Event queues: arrivals, records, messages, and the entry to IDLE (R425 to R442). -/

open Sys2Proof

namespace Sys2Proof.Machine

section Pending
variable {q : Pending} (now cls : Nat)

theorem Pending.arrive_first (h : q.pend = false) : (q.arrive now cls).pend = true ∧ (q.arrive now cls).count = 1 ∧
    (q.arrive now cls).cls = cls ∧ (q.arrive now cls).stamp = BitVec.ofNat 48 now := by
  simp [Pending.arrive, h]

theorem Pending.arrive_merges (h : q.pend = true) (hlast : q.last = none) : (q.arrive now cls).pend = true ∧
    (q.arrive now cls).count = min (q.count + 1) 255 ∧ (q.arrive now cls).cls = max q.cls cls ∧
      (q.arrive now cls).stamp = q.stamp := by
  simp [Pending.arrive, Pending.touch, h, hlast, satInc_eq_min]

end Pending

section Record
variable {s : State} {p : PartId}

theorem execEventArrival_taken {k : Fin 512} {cls : BitVec 3} (hstby : s.pins.stbyOk = true)
    (hmay : s.mayArrive p k cls.toNat = true) : exec (.eventArrival p k cls) s = .next (s.arrive p k cls.toNat) :=
  congrArg Host.Outcome.next (if_pos (by simp [hstby, hmay]))

section Select
variable {k : Nat} {ks : List Nat} (hon : s.recorderOn p = true) (hfree : ∀ b, (s.evq p).lastSel = some b → b + 4 ≤ s.now)
  (hpending : s.selectable p = k :: ks)
include hon hfree hpending

/-- The lowest pending source is taken, or the ring found full (R429, R433). -/
theorem execRecordSelect_lowest : exec (.recordSelect p) s = .next (
    if s.hasRoom p then s.modEvq p fun y =>
      { y with recs := y.recs ++ [{ src := k, index := y.nextIdx, selected := s.now, withdrawn := none, written := false,
                                    complete := false, addr := 0, bytes := [], tid := none, took := (0, 0, 0, 0) }],
               nextIdx := y.nextIdx + 1, lastSel := some s.now, fullSent := false }
    else if (s.evq p).fullSent then s
    else (s.modEvq p fun y => { y with fullSent := true }).raise { src := 330, locs := [], job := none, tag := some p.val }) := by
  simp only [exec, execRecordSelect, hon, hpending, Bool.not_true, Bool.false_or]
  cases hlast : (s.evq p).lastSel with
  | none => rfl
  | some b => simp [hfree b hlast]

end Select

section Write
variable {r : EventRec} (hrec : (s.evq p).recs.find? (fun r => !r.written) = some r) (hdue : r.selected + 4 ≤ s.now)
include hrec hdue

/-- A ring outside the host window, or a closed port: the write is the block's own. -/
theorem execRecordWrite_memory (hmem : s.locate p (s.ringAddr p + 16 * (r.index.toNat % s.ringSize p)) ≠ .host ∨ s.hostOpen = false) :
    let k := recordTake ((s.evq p).pendOf r.src) r s.now
    exec (.recordWrite p) s = .next (s.modEvq p fun y => (y.putPend r.src k.2).modRec r.index fun z =>
      { z with written := true, addr := s.ringAddr p + 16 * (r.index.toNat % s.ringSize p),
               bytes := recordBytes p r.index.toNat (s.ringSize p) k.1, tid := none, took := k.1 }) := by
  have hhost : (decide (s.locate p (s.ringAddr p + 16 * (r.index.toNat % s.ringSize p)) = .host) && s.hostOpen) = false := by
    rcases hmem with h | h <;> simp [h]
  simp only [exec, execRecordWrite, hrec, Nat.not_lt.2 hdue, hhost, if_false, Bool.false_eq_true]

/-- A ring in the host window: the write is an outbound transaction. -/
theorem execRecordWrite_host (hmem : s.locate p (s.ringAddr p + 16 * (r.index.toNat % s.ringSize p)) = .host)
    (hopen : s.hostOpen = true) :
    let k := recordTake ((s.evq p).pendOf r.src) r s.now
    let a := s.ringAddr p + 16 * (r.index.toNat % s.ringSize p)
    let bs := recordBytes p r.index.toNat (s.ringSize p) k.1
    let t := s.sendOutbound p a 16 (some bs) (.event p r.index)
    exec (.recordWrite p) s = .next (t.modEvq p fun y => (y.putPend r.src k.2).modRec r.index fun z =>
      { z with written := true, addr := a, bytes := bs, tid := t.host.outbound.getLast?.map (·.id), took := k.1 }) := by
  simp only [exec, execRecordWrite, hrec, Nat.not_lt.2 hdue, hmem, hopen, if_false, if_true, decide_true, Bool.and_self]

end Write

/-- The oldest record whose write has ended is the one that completes. -/
theorem execRecordComplete_oldest {r : EventRec}
    (hrec : (s.evq p).recs.find? (fun r => r.written && !r.complete && !(s.recordReply r = some none)) = some r) (ok : Bool) :
    exec (.recordComplete p ok) s = .next (s.completeRecord p r ok) := by
  simp only [exec, execRecordComplete, hrec]

section Own
variable {r : EventRec} (htid : r.tid = none) (hserved : s.waitsFor (s.locateAll p r.addr 16) = false)
include htid hserved

theorem State.completeRecord_fails : s.completeRecord p r false = s.failRecord p r.index := by
  simp only [State.completeRecord, State.recordReply, htid, hserved, Bool.false_and, Bool.false_eq_true, if_false, if_true]

theorem State.completeRecord_written {t : State} (hmem : allMem (s.locateAll p r.addr 16) = true) (hgrave : s.boot.grave = false)
    (hwrite : s.writePieces none (some p.val) (s.locateAll p r.addr 16) r.bytes = (t, false)) :
    s.completeRecord p r true = t.modEvq p fun y => (y.modRec r.index fun z => { z with complete := true }).advance t.now := by
  simp only [State.completeRecord, State.recordReply, htid, hserved, hmem, hgrave, hwrite, Bool.not_false, Bool.and_self,
    Bool.false_eq_true, if_false, if_true]

end Own

/-- A record in the host window completes as its transaction was answered. -/
theorem State.completeRecord_answered {r : EventRec} {tid : Nat} {good : Bool} (htid : r.tid = some tid)
    (hreply : s.recordReply r = some (some good)) : s.completeRecord p r good =
      if good then (s.dropOutbound tid).modEvq p fun y =>
        (y.modRec r.index fun z => { z with complete := true }).advance (s.dropOutbound tid).now
      else (s.dropOutbound tid).failRecord p r.index := by
  simp only [State.completeRecord, hreply, htid, if_true, Option.getD_some]

end Record

section Message
variable {s : State} {p : PartId} (hdue : s.messageDue p = true)
include hdue

theorem execMessageSend_sent (hopen : s.hostOpen = true) (hfirst : s.locate p (s.addrReg (evqBase p + 0x18)) = .host)
    (hlast : s.locate p (s.addrReg (evqBase p + 0x18) + 3) = .host) : exec (.messageSend p) s =
      .next ((s.modEvq p fun y => { y with armed := false }).sendOutbound p (s.addrReg (evqBase p + 0x18)) 4
        (some (leBytes 4 (s.regN (evqBase p + 0x20)))) (.message p)) := by
  simp only [exec, execMessageSend, hdue, hopen, hfirst, hlast, decide_true, Bool.and_self, Bool.not_true, Bool.false_eq_true, if_false,
    if_true]

/-- A message that cannot be sent sets MSG_ERR (R440). -/
theorem execMessageSend_unsent (hshut : s.hostOpen = false ∨ s.locate p (s.addrReg (evqBase p + 0x18)) ≠ .host ∨
    s.locate p (s.addrReg (evqBase p + 0x18) + 3) ≠ .host) :
    exec (.messageSend p) s = .next ((s.modEvq p fun y => { y with armed := false }).messageError p) := by
  have hno : (s.hostOpen && decide (s.locate p (s.addrReg (evqBase p + 0x18)) = .host) &&
      decide (s.locate p (s.addrReg (evqBase p + 0x18) + 3) = .host)) = false := by
    rcases hshut with h | h | h <;> simp [h]
  simp only [exec, execMessageSend, hdue, hno, Bool.not_true, Bool.false_eq_true, if_false]

end Message

theorem execIdleReached_down {s : State} (henter : s.boot.entering = true) (hdown : s.allDown = true) (hready : s.boot.base = .ready) :
    exec .idleReached s = .next (s.modBoot fun b => { b with base := .idle, entering := false }) := by
  simp only [exec, execIdleReached, henter, hdown, State.modBoot, hready, Bool.and_self, if_true]

/-- Settles O51: command by command, the case of its test that the statement names (what counts as room is log entry 45). -/
theorem eventQueuesAct : Obligations.EventQueuesAct := by
  unfold Obligations.EventQueuesAct
  refine fun s p => ⟨fun k cls => execEventArrival_taken, fun q now cls => ⟨Pending.arrive_first now cls, Pending.arrive_merges now cls⟩,
    fun k ks hon hfree hpending => ?select, fun r hrec hdue => ⟨execRecordWrite_memory hrec hdue, execRecordWrite_host hrec hdue⟩,
    fun r hrec => ⟨fun htid hserved => ?own, fun tid htid => ?answered⟩,
    fun hdue => ⟨execMessageSend_sent hdue, execMessageSend_unsent hdue⟩, execIdleReached_down⟩
  case select =>
    have hlowest := execRecordSelect_lowest hon hfree hpending
    refine ⟨fun hroom => hlowest.trans (congrArg _ (if_pos hroom)), fun hfull hnew => hlowest.trans (congrArg _ ?_)⟩
    rw [if_neg (ne_true_of_eq_false hfull), if_neg (ne_true_of_eq_false hnew)]
  case own =>
    exact ⟨(execRecordComplete_oldest hrec false).trans (congrArg _ (State.completeRecord_fails htid hserved)),
      fun t hmem hgrave hwrite => (execRecordComplete_oldest hrec true).trans
        (congrArg _ (State.completeRecord_written htid hserved hmem hgrave hwrite))⟩
  case answered =>
    exact ⟨fun hreply => (execRecordComplete_oldest hrec true).trans (congrArg _ (State.completeRecord_answered htid hreply)),
      fun hreply => (execRecordComplete_oldest hrec false).trans (congrArg _ (State.completeRecord_answered htid hreply))⟩

end Sys2Proof.Machine
end

section
/-! PROOF. Regulators: the PWM period, lost phases, balancing, shedding and undershoot (R316 to R332). -/

open Sys2Proof

namespace Sys2Proof.Machine

/-! ## The period boundary -/

section Period
variable {s : State} {v : VrId}

/-- The state at a boundary once the period that ends has been judged, its cores held where it was limited (R326). -/
def State.judged (s : State) (v : VrId) (inp : PwmInput) : State :=
  let u := s.modVr v fun y => y.judge inp
  if (u.vr v).clamp then u.clampHold (clampCores v) else u

theorem execPwmPeriod_due {inp : PwmInput} (hbeat : s.now % 16 = 0) (hnew : (s.vr v).periodAt ≠ s.now + 1) :
    let t := (s.observe v inp).startDue v
    exec (.pwmPeriod v inp) s = .next (if (t.vr v).running then t.nextPeriod v inp else t) :=
  congrArg Host.Outcome.next (if_neg (by simp [hbeat, hnew]))

/-- Without a phase lost in the period that ends nothing is disabled. -/
theorem State.disableLost_none (hlost : ∀ p < 8, bitOf (s.vr v).lost.toNat p = false) : s.disableLost v = s := by
  have hnone : bitsOf 8 (s.vr v).lost.toNat = [] :=
    List.filter_eq_nil_iff.2 fun p hp => ne_true_of_eq_false (hlost p (List.mem_range.1 hp))
  simp only [State.disableLost, hnone, List.filter_nil, List.isEmpty_nil, if_true]

/-- A period without a disabled phase, of a service regulator or of a core's past its soft start. -/
theorem State.nextPeriod_undisabled {inp : PwmInput} (hrun : ((s.judged v inp).vr v).running = true)
    (hlost : ∀ p < 8, bitOf ((s.judged v inp).vr v).lost.toNat p = false)
    (hstate : 256 ≤ v.val ∨ ((s.judged v inp).vr v).state = .run) :
    let h := s.judged v inp
    s.nextPeriod v inp = h.modVr v fun y =>
      (if h.hintStands v || h.overShed v || !h.shedEn v then y.addBack h.now else y).period h.now (h.aimUV v)
        (fld (h.vrCtrl v) 8 5) (bitOf (h.vrCtrl v) 2) (bitOf (h.vrCtrl v) 3) inp := by
  have hkept := State.disableLost_none hlost
  simp only [State.judged] at hkept hrun hstate ⊢
  simp only [State.nextPeriod, hkept, hrun, Bool.not_true, Bool.false_eq_true, if_false]
  refine if_neg fun hrisen => ?_
  simp only [Bool.and_eq_true, decide_eq_true_eq] at hrisen
  obtain ⟨⟨hcore, hsoft⟩, -⟩ := hrisen
  rcases hstate with hservice | hrunning
  · omega
  · exact absurd (hrunning.symm.trans hsoft) (by decide)

end Period

/-! ## Phases -/

section Phases
variable {s : State} {v : VrId}

/-- A lost phase is noted, and goes at the next boundary (R325, R332). -/
theorem execPhaseDisable_lost {ph : Fin 8} (hrun : (s.vr v).running = true) (hon : bitOf (s.vr v).enabled.toNat ph = true)
    (hlost : 4 ≤ runOf (s.vr v).lxsRun ph ∨ 16 ≤ runOf (s.vr v).senseRun ph ∨
      ((s.vr v).state = .softStart ∧ 16 ≤ (s.vr v).starts ∧ bitOf (s.vr v).followed.toNat ph = false)) :
    exec (.phaseDisable v ph) s = .next (s.modVr v fun y => { y with lost := y.lost ||| phaseBit ph }) :=
  congrArg Host.Outcome.next (if_pos (by simpa [hrun, hon, and_assoc, or_assoc] using hlost))

theorem execAddBack_asked (hrun : (s.vr v).running = true)
    (hask : s.overShed v = true ∨ s.hintStands v = true ∨ s.shedEn v = false) :
    exec (.addBack v) s = .next (s.modVr v fun y => y.addBack s.now) :=
  congrArg Host.Outcome.next (if_pos (by simpa [hrun, or_assoc] using hask))

variable (hstate : (s.vr v).state = .run)
include hstate

theorem execPhaseBalance_due (mA : List Int) (hbal : bitOf (s.vrCtrl v) 3 = true)
    (hdue : (s.vr v).lastBal = 0 ∨ (s.vr v).lastBal + 256 ≤ s.now) :
    let x := s.vr v
    let step := fun (t : Tab Int) (p : Nat) =>
      if bitOf x.suspect.toNat p then t
      else
        let n := tabGet trimDefault t p + trimStep x.switching mA p
        tabSet trimDefault t p (if n < -7 then -7 else if 7 < n then 7 else n)
    exec (.phaseBalance v mA) s =
      .next (s.modVr v fun y => { y with trim := x.switching.foldl step y.trim, lastBal := s.now }) :=
  congrArg Host.Outcome.next (if_pos (by simpa [hstate, hbal] using hdue))

theorem execPhaseSuspect_far {ph : Fin 8} (hon : ph.val ∈ (s.vr v).switching) (hnew : bitOf (s.vr v).suspect.toNat ph = false)
    (hfar : 64 ≤ runOf (s.vr v).devRun ph) : exec (.phaseSuspect v ph) s =
      .next ((s.modVr v fun y => { y with suspect := y.suspect ||| phaseBit ph }).raiseVr 309 v) :=
  congrArg Host.Outcome.next (if_pos (by simp [hstate, hon, hnew, hfar]))

theorem execShedStep_due {mean : Nat} (hen : s.shedEn v = true) (hall : (s.vr v).enabled = 0xFF) (hlevel : 1 < (s.vr v).level)
    (hfree : (s.vr v).suspended = none) (hdue : (s.vr v).lastStep + 20000 ≤ s.now) (hhint : s.hintStands v = false)
    (hlow : mean < (s.vr v).level / 2 * fld (s.regN (vrBase v + 4)) 0 8 * 100) : exec (.shedStep v mean) s =
      .next (s.modVr v fun y =>
        { y with level := y.level / 2, leaving := y.level, busyTo := s.now + 256, lastStep := s.now }) :=
  congrArg Host.Outcome.next (if_pos (by simp [hstate, hen, hall, hlevel, hfree, hdue, hhint, hlow]))

end Phases

/-- An undershoot fires every enabled phase (R330, R331). -/
theorem execUndershootTrip_fires {s : State} {inp : Trip} (hstate : (s.vr inp.vr).state = .run)
    (hnew : (s.vr inp.vr).tripped = false) (hsense : sensorsIn inp.sensors (s.excludedOf inp.vr) ≠ [])
    (hlow : Int.ofNat (leastOf (sensorsIn inp.sensors (s.excludedOf inp.vr))) <
      (s.vr inp.vr).target - Int.ofNat (20000 + 5000 * fld (s.vrCtrl inp.vr) 16 4)) :
    let x := s.vr inp.vr
    let ps := bitsOf 8 x.enabled.toNat
    exec (.undershootTrip inp) s = .next (s.modVr inp.vr fun y =>
      { y with level := 8, leaving := 8, busyTo := s.now, lastStep := s.now, tripped := true
               tripLim := decide (0 < ps.length) && decide (ps.length ≤ 2 * (ps.filter fun p => (firing x inp p).2).length)
               fired := ps.foldl (fun t p => tabSet (fun _ => 0) t p (firing x inp p).1) []
               suspended := some (s.now + 200000), undershoots := satInc y.undershoots 0xFFFFFF }) := by
  refine congrArg Host.Outcome.next (if_pos ?_)
  have hsense' : (sensorsIn inp.sensors (s.excludedOf inp.vr)).isEmpty = false := List.isEmpty_eq_false_iff.2 hsense
  rw [hstate, hnew, hsense', State.undershootUV, decide_eq_true hlow]
  rfl

theorem execShedSuspendEnd_due {s : State} {v : VrId} {b : Nat} (hsuspended : (s.vr v).suspended = some b) (hdue : b ≤ s.now) :
    exec (.shedSuspendEnd v) s = .next (s.modVr v fun y => { y with suspended := none }) := by
  simp only [exec, execShedSuspendEnd, hsuspended, hdue, if_true]

/-- Settles O45: the boundary by its parts, each other event by its command's test (shed phases return by R329; the pulses and the
currents between boundaries are the model's, log entry 40). -/
theorem regulatorsRun : Obligations.RegulatorsRun := by
  unfold Obligations.RegulatorsRun
  refine fun s v => ⟨fun inp hbeat hnew => ⟨fun hoff => ?off, fun hrun hstill hlost hstate => ?forms, fun hrun => ?next⟩,
    fun hrun => ⟨fun ph => execPhaseDisable_lost hrun, execAddBack_asked hrun⟩,
    fun hstate => ⟨fun mA => execPhaseBalance_due hstate mA, fun ph => execPhaseSuspect_far hstate,
      fun mean => execShedStep_due hstate, fun inp hvr hnew => ?trip⟩, fun b => execShedSuspendEnd_due⟩
  case off => exact (execPwmPeriod_due hbeat hnew).trans (congrArg _ (if_neg (ne_true_of_eq_false hoff)))
  case next => exact (execPwmPeriod_due hbeat hnew).trans (congrArg _ (if_pos hrun))
  case forms =>
    exact (execPwmPeriod_due hbeat hnew).trans (congrArg _ ((if_pos hrun).trans (State.nextPeriod_undisabled hstill hlost hstate)))
  case trip =>
    subst hvr
    exact execUndershootTrip_fires hstate hnew

end Sys2Proof.Machine
end

section
/-! PROOF. Host transactions: reads and writes of registers and memory, and malformed ones (R452 to R454). -/

open Sys2Proof

namespace Sys2Proof.Machine

section Take
variable {s : State} {h : HeldTx}

/-- A transaction that the block takes now meets its register, or the place of its address, and nothing else. -/
theorem State.hostTake_taken (htakes : s.hostTakes h = true) :
    (∀ o, regOf h.addr = some o → s.hostTake h = s.takeRegister h) ∧
      ∀ t, regOf h.addr = none → s.takeAddress h = .done t → s.hostTake h = t := by
  simp only [State.hostTakes, Bool.and_eq_true, Bool.not_eq_true'] at htakes
  obtain ⟨⟨⟨-, hopen⟩, hquiet⟩, hfirst⟩ := htakes
  have hidle : (decide (s.boot.base = .idle) && decide (s.blockState = 8) && !quietRead h) = false := by
    rcases Bool.or_eq_true_iff.1 hquiet with h | h
    · simp [h]
    · simp [State.blockState_of_awake h]
  have harrive : s.hostTake h = s.hostArrive h := by
    rcases Bool.or_eq_true_iff.1 hquiet with h | h <;> simp [State.hostTake, State.wokenBy, h]
  rw [harrive, State.hostArrive, if_neg (ne_true_of_eq_false hopen), if_neg (ne_true_of_eq_false hidle),
    if_neg (ne_true_of_eq_false hfirst)]
  refine ⟨fun o ho => ?_, fun t hreg hdone => ?_⟩
  · rw [ho]
  · rw [hreg, hdone]

theorem regOf_some {a o : Nat} (h : regOf a = some o) : a - windowBase = o := by
  unfold regOf at h
  split at h
  · exact Option.some.inj h
  · cases h

end Take

section Inbound
variable {s : State} {hdr : HostHeader}

theorem State.hostReady_of_hostTakes {h : HeldTx} (htakes : s.hostTakes h = true) : s.hostReady = true := by
  simp only [State.hostTakes, Bool.and_eq_true] at htakes
  obtain ⟨⟨⟨hready, -⟩, -⟩, -⟩ := htakes
  exact hready

theorem execHostRd_taken (htakes : s.hostTakes (hostTx hdr true []) = true) (hshape : headerMalformed hdr 1 = false) :
    exec (.hostRd hdr) s = .next (s.hostTake (hostTx hdr true [])) := by
  have hgood : ((headerMalformed hdr 1 || (!true && decide (([] : List Byte).length ≠ hdr.len.toNat))) &&
      !s.hostShut (hostTx hdr true [])) = false := by
    rw [hshape]; rfl
  exact congrArg Host.Outcome.next ((if_neg (by simp [State.hostReady_of_hostTakes htakes])).trans (if_neg (ne_true_of_eq_false hgood)))

theorem execHostWr_taken {data : List Byte} (htakes : s.hostTakes (hostTx hdr false data) = true)
    (hshape : headerMalformed hdr 2 = false) (hlen : data.length = hdr.len.toNat) :
    exec (.hostWr hdr data) s = .next (s.hostTake (hostTx hdr false data)) := by
  have hgood : ((headerMalformed hdr 2 || (!false && decide (data.length ≠ hdr.len.toNat))) &&
      !s.hostShut (hostTx hdr false data)) = false := by
    rw [hshape, decide_eq_false (not_not.2 hlen)]; rfl
  exact congrArg Host.Outcome.next ((if_neg (by simp [State.hostReady_of_hostTakes htakes])).trans (if_neg (ne_true_of_eq_false hgood)))

/-- A malformed read is answered at once (R452). -/
theorem execHostRd_malformed (hready : s.hostReady = true) (hopen : s.hostShut (hostTx hdr true []) = false)
    (hshape : headerMalformed hdr 1 = true) (hawake : s.awake = true) : exec (.hostRd hdr) s =
      .next ((s.addField hostErr 8 8 1).send (.err (hdr.tag.toNat % 8) (hdr.tid.toNat % 1024) 2)) := by
  have hbad : ((headerMalformed hdr 1 || (!true && decide (([] : List Byte).length ≠ hdr.len.toNat))) &&
      !s.hostShut (hostTx hdr true [])) = true := by
    rw [hshape, hopen]; rfl
  refine congrArg Host.Outcome.next ((if_neg (by simp [hready])).trans ((if_pos hbad).trans ?_))
  rw [State.wokenBy, if_pos hawake]
  rfl

end Inbound

/-! ## Registers -/

section Register
variable {s : State} {h : HeldTx} {o : Nat} (hreg : regOf h.addr = some o) (hshape : s.regShape o 4 = true) (hlen : h.len = 4)
include hreg hshape hlen

theorem State.takeRegister_read (hread : h.read = true) (hadmits : s.admits (reqTag h.req) o false = true)
    (hbank : bankRefused h.req.path o = false) :
    s.takeRegister h = (s.readReg h.req.path o).2.answerRead h.req (leBytes 4 (s.readReg h.req.path o).1) := by
  simp only [State.takeRegister, regOf_some hreg, hshape, hlen, hread, hadmits, hbank, Bool.not_true, Bool.false_eq_true, if_false, if_true,
    Nat.reduceEqDiff]

variable (hwrite : h.read = false)
include hwrite

theorem State.takeRegister_notAdmitted (hadmits : s.admits (reqTag h.req) o true = false) :
    s.takeRegister h = s.hostRefuse h.req 4 := by
  simp only [State.takeRegister, regOf_some hreg, hshape, hlen, hwrite, hadmits, Bool.not_true, Bool.not_false, Bool.false_eq_true,
    if_false, if_true]

theorem State.takeRegister_write {t : State} (hadmits : s.admits (reqTag h.req) o true = true)
    (hrule : s.writeReg h.req o (bytesLe h.data) = (t, .ok)) : s.takeRegister h = t.answer h.req .ok := by
  simp only [State.takeRegister, regOf_some hreg, hshape, hlen, hwrite, hadmits, hrule, Bool.not_true, Bool.not_false, Bool.false_eq_true,
    if_false, Nat.reduceEqDiff]

end Register

/-! ## Memory -/

section Memory
variable {s t : State} {h : HeldTx} {x : Nat} (hplace : s.locateAll (reqTag h.req) h.addr h.len = [(.mem x, h.len)])
  (htier : h.addr < 0x80000000000) (howned : s.keeperOwned h.addr h.len = false)
include hplace htier howned

theorem State.takeAddress_read {bs : List Byte} (hread : h.read = true) (hserved : s.readWaits [(.mem x, h.len)] = false)
    (hbytes : s.readPieces none (some (reqTag h.req)) [(.mem x, h.len)] = (bs, false, t)) :
    s.takeAddress h = .done (t.answerRead h.req bs) := by
  simp only [State.takeAddress, if_neg (show ¬ (0x80000000000 ≤ h.addr ∧ h.addr < 0x100000000000) by omega), hplace,
    List.head?_cons, Option.map_some, Option.getD_some, State.takeMemory, howned, hread, hserved, hbytes, Bool.not_true, Bool.false_and,
    Bool.false_eq_true, if_false, if_true]

theorem State.takeAddress_write (hwrite : h.read = false) (hserved : s.waitsFor [(.mem x, h.len)] = false)
    (hschedule : s.hitsSchedule x h.len = false)
    (hbytes : s.writePieces none (some (reqTag h.req)) [(.mem x, h.len)] h.data = (t, false)) :
    s.takeAddress h = .done (t.answer h.req .ok) := by
  simp only [State.takeAddress, if_neg (show ¬ (0x80000000000 ≤ h.addr ∧ h.addr < 0x100000000000) by omega), hplace,
    List.head?_cons, Option.map_some, Option.getD_some, State.takeMemory, howned, hwrite, hserved, hbytes, List.any_cons, List.any_nil,
    hschedule, Bool.or_false, Bool.and_false, Bool.false_eq_true, if_false]

end Memory

/-- Settles O29: the transaction is taken, meets its register or its memory, and is answered; a malformed one is answered at once. -/
theorem hostTransactionsAct : Obligations.HostTransactionsAct := by
  unfold Obligations.HostTransactionsAct
  intro s hdr data
  refine ⟨fun htakes hshape => ?read, fun htakes hshape hlen => ?write, fun hready hopen hbad hawake =>
    execHostRd_malformed hready hopen hbad hawake⟩
  case read =>
    obtain ⟨hregister, hmemory⟩ := State.hostTake_taken htakes
    refine ⟨fun o hreg hword hfour hadmits hbank => ?_, fun x bs t hreg hplace howned hserved htier hbytes => ?_⟩
    · rw [execHostRd_taken htakes hshape, hregister o hreg,
        State.takeRegister_read (h := hostTx hdr true []) hreg hword (congrArg BitVec.toNat hfour) rfl hadmits hbank]
      rfl
    · rw [execHostRd_taken htakes hshape, hmemory _ hreg
        (State.takeAddress_read (h := hostTx hdr true []) hplace htier howned rfl hserved hbytes)]
      rfl
  case write =>
    obtain ⟨hregister, hmemory⟩ := State.hostTake_taken htakes
    have htaken := execHostWr_taken htakes hshape hlen
    refine ⟨fun o t hreg hword hfour => ⟨fun hadmits => ?_, fun hadmits hrule => ?_⟩,
      fun x t hreg hplace howned hserved hschedule htier hbytes => ?_⟩
    · rw [htaken, hregister o hreg,
        State.takeRegister_notAdmitted (h := hostTx hdr false data) hreg hword (congrArg BitVec.toNat hfour) rfl hadmits]
      rfl
    · rw [htaken, hregister o hreg,
        State.takeRegister_write (h := hostTx hdr false data) hreg hword (congrArg BitVec.toNat hfour) rfl hadmits hrule]
      rfl
    · rw [htaken, hmemory _ hreg (State.takeAddress_write (h := hostTx hdr false data) hplace htier howned rfl hserved hschedule hbytes)]
      rfl

end Sys2Proof.Machine
end

section
/-! PROOF. Launches, stops and commits by register writes (R457, R458, R464, R465). -/

open Sys2Proof

namespace Sys2Proof.Machine

/-! ## Which rule a register of a partition meets -/

section Rules
variable {s : State} {q : Request} {v : Nat} (p : PartId)

/-- A register of the partitions that no section of the image loads. -/
theorem writeReg_part {o : Nat} (hlo : 0x100000 ≤ o) (hhi : o < 0x200000) (hmask : imageMask o = none) :
    s.writeReg q o v = s.writePart q o v := by
  obtain ⟨hload, hbar⟩ := imageLoads_of_imageMask hmask
  simp only [State.writeReg, hbar, hload, Nat.not_lt.2 hlo, hhi, Bool.and_false, Bool.false_and, Bool.false_eq_true, if_false, if_true]

/-- A live register of partition `p`: its partition and its offset, and no section of the image loads it. -/
theorem partBase_split {x : Nat} (hx : x < 0x100) : (partBase p + x - 0x100000) / 0x100 = p.val ∧ (partBase p + x) % 0x100 = x ∧
    0x100000 ≤ partBase p + x ∧ partBase p + x < 0x100800 ∧ imageMask (partBase p + x) = none := by
  have hp := p.isLt
  have hrange : (partBase p + x - 0x100000) / 0x100 = p.val ∧ (partBase p + x) % 0x100 = x ∧ 0x100000 ≤ partBase p + x ∧
      partBase p + x < 0x100800 := by
    unfold partBase; omega
  obtain ⟨hdiv, hmod, hlo, hhi⟩ := hrange
  refine ⟨hdiv, hmod, hlo, hhi, ?_⟩
  generalize partBase p + x = o at *
  have hout : ∀ n, 0x100800 ≤ n → ¬ n ≤ o ∧ ¬ o = n := fun n hn => by omega
  simp [imageMask, hout]

theorem writeReg_launchGo : s.writeReg q (launchGo p) v = if bitOf v 0 then s.startLaunch q p else (s, .ok) := by
  obtain ⟨hdiv, hmod, hlo, hhi, hmask⟩ := partBase_split p (x := 0x58) (by decide)
  rw [show launchGo p = partBase p + 0x58 from rfl, writeReg_part hlo (by omega) hmask, State.writePart, if_pos hhi, hdiv, hmod]
  rfl

theorem writeReg_partStop : s.writeReg q (partBase p + 0x5C) v = (s.partStop p (v % 65536), .ok) := by
  obtain ⟨hdiv, hmod, hlo, hhi, hmask⟩ := partBase_split p (x := 0x5C) (by decide)
  rw [writeReg_part hlo (by omega) hmask, State.writePart, if_pos hhi, hdiv, hmod]
  rfl

theorem writeReg_commit (hfree : s.commit.busy = false) (hgo : bitOf v 31 = true) :
    s.writeReg q 0x101000 v = s.tryWrite (s.writeCommit (bitOf v 30)) := by
  rw [writeReg_part (by decide) (by decide) rfl, State.writePart, if_neg (by decide), if_pos rfl,
    if_neg (ne_true_of_eq_false hfree), if_pos hgo]

end Rules

/-! ## Launches -/

section Launch
variable {s u t : State} {q : PartId} {hdr bs : List Byte}
  (hidle : (List.range 16).any (fun j => (s.job q j).state = .loading) = false)
  (hserved : s.readWaits (s.locateAll q (s.launchAddr q) 32) = false) (hhdr : s.readRecord q (s.launchAddr q) 32 = (some hdr, u))
  (hlo : 1 ≤ fld (recordWord hdr 0) 11 9) (hhi : fld (recordWord hdr 0) 11 9 ≤ 256)
  (hservedAll : s.readWaits (s.locateAll q (s.launchAddr q + 32) (8 * fld (recordWord hdr 0) 11 9)) = false)
  (hentries : u.readRecord q (s.launchAddr q + 32) (8 * fld (recordWord hdr 0) 11 9) = (some bs, t))
  (hcause : t.launchCause q hdr ((List.range (bs.length / 8)).map (recordWord bs)) = 0)
include hidle hserved hhdr hlo hhi hservedAll hentries hcause

/-- A record that reads and keeps every rule: its job is LOADING, and the write's answer waits (R457). -/
theorem State.startLaunch_accepted (req : Request) :
    let w := recordWord hdr 0
    let ws := (List.range (bs.length / 8)).map (recordWord bs)
    s.startLaunch req q = ((t.modJob q (fld w 0 4) fun _ =>
      { Job.initial with state := .loading, cores := ws.map launchEntry,
                         slot := if bitOf w 4 then some (fld w 5 5) else none, slotClr := bitOf w 10 }).hold
      { req := req, read := false, addr := 0x40080000000 + launchGo q, len := 4, data := [], why := .launch q }, .later) := by
  have hsize : ¬ (fld (recordWord hdr 0) 11 9 = 0 ∨ 256 < fld (recordWord hdr 0) 11 9) := by omega
  simp only [State.startLaunch, hidle, hserved, hhdr, hservedAll, hsize, hentries, hcause, ne_eq, not_true_eq_false, Bool.false_eq_true,
    if_false]

end Launch

/-! ## Commits -/

theorem State.writeCommit_free {s : State} (hfree : s.commit.busy = false) (scrub : Bool) :
    (s.commitCause = none → s.writeCommit scrub = some (s.beginCommit scrub)) ∧
      ∀ c i, s.commitCause = some (c, i) → s.writeCommit scrub = some (s.setCommit { s.commit with cause := c, part := i }) := by
  simp only [State.writeCommit, hfree, Bool.false_eq_true, if_false]
  exact ⟨fun h => by rw [h], fun c i h => by rw [h]⟩

theorem execPartitionCommit_rule {s t : State} {scrub : Bool} (hp : s.pathAdmits .side 0x101000 = true) (hfree : s.commit.busy = false)
    (hw : s.writeCommit scrub = some t) : exec (.partitionCommit .side scrub) s = .next t := by
  have hbits : bitOf (2 ^ 31 + 2 ^ 30 * b2n scrub) 31 = true ∧ bitOf (2 ^ 31 + 2 ^ 30 * b2n scrub) 30 = scrub := by
    cases scrub <;> decide
  obtain ⟨hgo, hscrub⟩ := hbits
  refine pathWrite_taken hp (by cases scrub <;> decide) ?_
  rw [writeReg_commit hfree hgo, hscrub, State.tryWrite_some hw]

/-- Settles O40: each register's rule, with the case of it that the statement names. -/
theorem partitionWrites : Obligations.PartitionWrites := by
  unfold Obligations.PartitionWrites
  refine fun s p q => ⟨fun hdr bs u t hp hidle hserved hhdr => ?launch, fun mask hp => ?stop, fun scrub hp hfree => ?commit⟩
  case launch =>
    intro w n hlo hhi hservedAll hentries ws hcause
    exact congrArg Host.Outcome.next (State.pathWrite_rule hp (by decide) ((writeReg_launchGo q).trans
      (State.startLaunch_accepted hidle hserved hhdr hlo hhi hservedAll hentries hcause (asks p))) (.inr (.inr rfl)))
  case stop =>
    have hmask := mask.isLt
    refine congrArg Host.Outcome.next (State.pathWrite_rule hp (by omega) ?_ (.inl rfl))
    rw [writeReg_partStop, Nat.mod_eq_of_lt hmask]
  case commit =>
    obtain ⟨hbegin, hbreaks⟩ := State.writeCommit_free hfree scrub
    exact ⟨fun h => execPartitionCommit_rule hp hfree (hbegin h), fun c i h => execPartitionCommit_rule hp hfree (hbreaks c i h)⟩

end Sys2Proof.Machine
end
